-- ==== Sys2Proof/Word.lean ====
section
/-! DEFINITION. The word types of the GSM-9120: bytes, 16-, 32- and 64-bit words (R14, R15). -/

namespace Sys2Proof

/-- One byte of the store or of a record. -/
abbrev Byte := BitVec 8

/-- A 16-bit field: a status code, an identifier. -/
abbrev W16 := BitVec 16

/-- A 32-bit field: a sequence number, an FP32 pattern, a generation. -/
abbrev W32 := BitVec 32

/-- A 64-bit register, result word or atomic operand. -/
abbrev W64 := BitVec 64

end Sys2Proof
end

