-- ==== Sys2Proof/Syntax.lean ====
section
/-! DEFINITION. The commands of the GSM-9120: one constructor of `Instr` for each row of spec/opcode_table.json.
The table gives the rows no operand fields; each constructor carries what the row's rule says the step acts on.
Operands that answer for the device's surroundings (a test's result, the data of a fetch, a local time) are inputs:
the log entries 3 and 4 of notes/assumptions name them. -/

namespace Sys2Proof

/-- A submission slot: slot `slot` of context `ctx` (R65). -/
structure SlotRef where
  ctx : Nat
  slot : Nat
deriving DecidableEq, Repr

/-- A CXL.mem write that reaches the command aperture: port, host identity, aperture offset, byte enables and the
64 bytes of the line (R65, R66, R76). -/
structure LineWrite where
  port : Nat
  host : Nat
  offset : Nat
  enables : BitVec 64
  data : List Byte
deriving DecidableEq, Repr

/-- Where a register access comes from: a CXL.io access on a port by a host identity, or the Docent bus (R31). -/
inductive Src where
  | bar (port host : Nat)
  | docent
deriving DecidableEq, Repr

/-- A register write at a BAR0 byte offset, of 4 or 8 bytes (R491, R492). -/
structure RegWrite where
  src : Src
  offset : Nat
  size : Nat
  value : W64
deriving DecidableEq, Repr

/-- A register read at a BAR0 byte offset, of 4 or 8 bytes (R491). -/
structure RegRead where
  src : Src
  offset : Nat
  size : Nat
deriving DecidableEq, Repr

/-- A CXL.mem access by a host identity on a port at a device physical address (R286). -/
structure MemAccess where
  port : Nat
  host : Nat
  dpa : Nat
deriving DecidableEq, Repr

/-- A LEDGER message of R166 and R167, received by this device: byte 17 to 23 and the domain and context of R363. -/
structure LedgerMsg where
  domain : Nat
  front : Nat
  ctx : Nat
  epoch : W32
  source : Nat
  dest : Nat
  sender : Nat
deriving DecidableEq, Repr

/-- A 32-byte message header of R363 with its payload, received on link `link`. -/
structure FabMsg where
  link : Nat
  dst : Nat
  src : Nat
  domain : Nat
  ctx : Nat
  tag : Nat
  flags : W16
  address : W64
  arg : W64
  payload : List Byte
deriving DecidableEq, Repr

/-- A MEMBER message of R364: sender, bitmap, master epoch and, for JOIN, the 32-byte payload's fields. -/
structure MemberMsg where
  link : Nat
  srcFid : Nat
  sender : Nat
  bitmap : W16
  epoch : W16
  serial : W64
  fwVersion : W64
  variant : Nat
deriving DecidableEq, Repr

/-- A training control message (TS1, TS2) of R368. -/
structure TrainMsg where
  link : Nat
  lanes : Nat
  fid : Nat
  partner : Nat
  member : Bool
  far : Bool
deriving DecidableEq, Repr

/-- A firmware chunk of R436 as it arrives from the member at FID `sender`. -/
structure FwChunk where
  sender : Nat
  tag : W32
  index : W32
  count : Nat
  data : List Byte
  check : W64
deriving DecidableEq, Repr

/-- A kind of egress point (R49, R314). -/
inductive PointKind where
  | cxl
  | zherek
  | onfi
deriving DecidableEq, Repr

/-- An egress point: its kind and number. -/
structure Point where
  kind : PointKind
  index : Nat
deriving DecidableEq, Repr

/-- Which fault area: a domain's, or the device's (R411). -/
inductive FaultArea where
  | domain (d : Nat)
  | device
deriving DecidableEq, Repr

/-- A unit whose lanes are qualified (R435). -/
inductive LaneUnit where
  | cxl (port : Nat)
  | zherek (link : Nat)
deriving DecidableEq, Repr

/-- The answer of a holder to a BISnp (R339, R340). -/
inductive BiAnswer where
  | rspI
  | rspS
  | rspE
deriving DecidableEq, Repr

/-- What the screens of phase 4 found working, as physical unit masks, beside the fuse map (R430, R431).
`pes` gives, for each physical gallery, the mask of failed physical PEs. -/
structure ScreenResult where
  failedPes : List Nat
  failedGalleries : Nat
  failedStacks : Nat
  failedPorts : Nat
  failedLinks : Nat
  failedChannels : Nat
deriving DecidableEq, Repr

/-- What Conservator bring-up found (R265, R270, R442): channels unusable, usable capacity, wear, reserve and dies. -/
structure ConservatorResult where
  unusable : Nat
  usableGiB : Nat
  wearPct : Nat
  reservePct : Nat
  dies : List Nat
deriving DecidableEq, Repr

/-- How the owned-word read of a fault slot ended (R414, R415). -/
inductive OwnedRead where
  | clear
  | owned
  | failed
deriving DecidableEq, Repr

/-- The commands, one constructor per row of spec/opcode_table.json, in the table's order. -/
inductive Instr where
  | submissionLine (w : LineWrite)
  | slotRead (port host offset : Nat)
  | xlateMissServed (r : SlotRef)
  | stepRetire (r : SlotRef) (place : Nat) (fails : List Nat)
  | fill (r : SlotRef)
  | copy (r : SlotRef)
  | compare (r : SlotRef)
  | reduce (r : SlotRef)
  | atomic (r : SlotRef)
  | atomicBatch (r : SlotRef)
  | fence (r : SlotRef)
  | fenceFull (r : SlotRef)
  | release (r : SlotRef)
  | acquire (r : SlotRef) (fails : Bool)
  | acquirePoll (r : SlotRef) (fails : Bool)
  | acquireWaitLimit (r : SlotRef) (t : Nat)
  | abort (r : SlotRef)
  | mapAllocate (r : SlotRef)
  | mapAlias (r : SlotRef)
  | mapSeal (r : SlotRef)
  | mapExpose (r : SlotRef)
  | mapVitrine (r : SlotRef)
  | unmapRange (r : SlotRef)
  | unmapWithdraw (r : SlotRef)
  | loanOpen (r : SlotRef)
  | loanRenew (r : SlotRef)
  | loanClose (r : SlotRef)
  | loanTransfer (r : SlotRef)
  | loanExpiry (t : Nat)
  | append (r : SlotRef)
  | seal (r : SlotRef)
  | fork (r : SlotRef)
  | dropWhole (r : SlotRef)
  | dropTruncate (r : SlotRef)
  | migrateToMember (r : SlotRef)
  | migrateToFlash (r : SlotRef)
  | migrateToDram (r : SlotRef)
  | fetchBlocks (r : SlotRef)
  | selectAttend (r : SlotRef)
  | offer (m : LedgerMsg) (t : Nat)
  | accept (m : LedgerMsg)
  | commit (m : LedgerMsg)
  | abandon (m : LedgerMsg)
  | commitAck (m : LedgerMsg)
  | notOwner (m : LedgerMsg) (r : SlotRef)
  | query (m : LedgerMsg)
  | answer (m : LedgerMsg)
  | offerTimeout (m : LedgerMsg) (t : Nat)
  | ledgerAudit (t : Nat)
  | orphanTimeout (r : SlotRef) (t : Nat)
  | gather (r : SlotRef)
  | scatterUpdate (r : SlotRef)
  | create (r : SlotRef)
  | publishDescriptor (r : SlotRef)
  | publishStaged (r : SlotRef)
  | waitReclaim (r : SlotRef)
  | waitReclaimLimit (r : SlotRef) (t : Nat)
  | tableDelete (r : SlotRef)
  | rehang (r : SlotRef)
  | search (r : SlotRef)
  | insert (r : SlotRef)
  | deleteItems (r : SlotRef)
  | deleteIndex (r : SlotRef)
  | compactLists (r : SlotRef)
  | compactSeal (r : SlotRef)
  | compactFull (r : SlotRef)
  | stream (r : SlotRef)
  | streamBuildShadow (r : SlotRef)
  | streamDeadline (r : SlotRef) (layer t : Nat)
  | streamWaitBound (r : SlotRef) (layer t : Nat)
  | bulkGet (r : SlotRef)
  | bulkPut (r : SlotRef)
  | publish (r : SlotRef)
  | invalidate (r : SlotRef)
  | scanCheckRunning (r : SlotRef)
  | scanCheckBlocked (r : SlotRef)
  | scanCheckVerify (r : SlotRef)
  | checkSave (r : SlotRef)
  | checkLoad (r : SlotRef)
  | ctxOpen (w : RegWrite)
  | ctxClose (w : RegWrite)
  | ctxRehome (w : RegWrite)
  | imgGo (w : RegWrite)
  | imageFetchDone (ok : Bool) (image : List Byte)
  | quiesceDrained (t : Nat)
  | drainLimitExpiry (t : Nat)
  | galleryWipeDone (gallery : Nat)
  | cmdReset (w : RegWrite)
  | cmdResetDone
  | exportSet (w : RegWrite)
  | exportClear (w : RegWrite)
  | exportClearDrained (domain : Nat)
  | tierCtrlWrite (w : RegWrite)
  | mediaGovWrite (w : RegWrite)
  | telemSelWrite (w : RegWrite)
  | gateArm (w : RegWrite)
  | gateDisarm (w : RegWrite)
  | gateTakeover (p : Point) (t : Nat)
  | gateEntryBoundary (p : Point) (t : Nat)
  | shaperGranule (p : Point) (t : Nat)
  | telemSample (t : Nat)
  | endorse (w : RegWrite)
  | rollbackCommit (w : RegWrite)
  | fwStageGo (w : RegWrite) (ok : Bool) (image : List Byte)
  | fw (c : FwChunk)
  | fwRepairTimer (t : Nat)
  | collCfgWrite (w : RegWrite)
  | faultEnable (w : RegWrite)
  | linkRetrain (w : RegWrite)
  | linkDisable (w : RegWrite)
  | counterReadClear (a : RegRead)
  | registerWrite (w : RegWrite)
  | sleep (w : RegWrite)
  | wake (w : RegWrite)
  | offReady (w : RegWrite)
  | offReadyForce (w : RegWrite)
  | gateWest (w : RegWrite)
  | ungateWest (w : RegWrite)
  | ungateDone
  | sleepDrainDone
  | sleepParkDone
  | wakeTimer (t : Nat)
  | wakeExitDone
  | linkQuiet (w : RegWrite)
  | onfiChannelOff (w : RegWrite)
  | onfiOffDrained (channel : Nat)
  | onfiChannelOn (w : RegWrite)
  | galleryRetain (gallery t : Nat)
  | paceUpdate (t pacePs tj powerW : Nat)
  | thermalTrip (tj : Nat)
  | railFault (alwaysOn : Bool)
  | resetNAssert
  | resetNRelease (geoId role : Nat)
  | perstNAssert (port : Nat)
  | perstNRelease (port : Nat)
  | cxlPortTrained (port width : Nat)
  | romBootDone (passingPairs : Nat) (flash : List (Nat × List Byte))
  | screensDone (res : ScreenResult)
  | bootImageLoad (t : Nat)
  | dramIncrementJoined (pass : Bool)
  | galleryTestDone (gallery failedPes : Nat)
  | laneQualified (u : LaneUnit) (farEnd : Bool) (lanes : Nat)
  | conservatorReady (res : ConservatorResult) (t : Nat)
  | pairHalt (pair : Nat)
  | tierCheck (domain t : Nat)
  | flashReadDone (granule : Nat) (ok : Bool) (fails : List Nat) (t : Nat)
  | flashProgramDone (granule : Nat) (programOk verified : Bool)
  | flashEraseDone (channel block : Nat) (ok : Bool)
  | governorRelease
  | flashPatrol (channel block : Nat) (marginal : Bool) (t : Nat)
  | patrolRead (sector : Nat) (ok : Bool)
  | rereadDone (sector : Nat) (ok : Bool)
  | refetchDone (sector : Nat) (ok : Bool)
  | rebuildDone (sector : Nat) (ok : Bool)
  | recomputeDone (sector : Nat) (ok : Bool)
  | unitRebuilt (unit : Nat)
  | faultOwnedReadDone (area : FaultArea) (r : OwnedRead)
  | hdmRead (a : MemAccess) (fails : List Nat)
  | hdmWrite (a : MemAccess) (enables : BitVec 64) (data : List Byte) (fails : List Nat)
  | addDynamicCapacityResponse (port host dpa len : Nat)
  | releaseDynamicCapacity (port host dpa : Nat)
  | getDynamicCapacityExtentList (port host : Nat)
  | onaidReport (port : Nat) (nonce : List Byte)
  | identityCertificate (port : Nat)
  | memrdSnpcur (a : MemAccess) (fails : List Nat)
  | memrdSnpdata (a : MemAccess) (fails : List Nat)
  | memrdSnpinv (a : MemAccess) (fails : List Nat)
  | meminvSnpinv (a : MemAccess)
  | vitrineMemwr (a : MemAccess) (enables : BitVec 64) (data : List Byte) (metaS : Bool) (fails : List Nat)
  | memclnevct (a : MemAccess)
  | birsp (host line : Nat) (ans : BiAnswer)
  | biconflict (port host line : Nat)
  | biTimeout (host line t : Nat)
  | ts1 (m : TrainMsg)
  | ts2 (m : TrainMsg)
  | config (link depth width : Nat) (credits : List Nat)
  | nak (link seq : Nat)
  | align (link : Nat)
  | retrain (link : Nat)
  | down (link : Nat)
  | frameDiscard (link seq : Nat)
  | replayTimeout (link t : Nat)
  | linkDown (link : Nat)
  | linkTrainTimeout (link t : Nat)
  | rd (m : FabMsg) (fails : List Nat)
  | wr (m : FabMsg) (fails : List Nat)
  | atom (m : FabMsg) (fails : List Nat)
  | pub (m : FabMsg) (fails : List Nat)
  | inv (m : FabMsg)
  | step (m : FabMsg)
  | rdData (m : FabMsg)
  | wrAck (m : FabMsg)
  | atomRsp (m : FabMsg)
  | pubRsp (m : FabMsg)
  | invAck (m : FabMsg)
  | stepRsp (m : FabMsg)
  | hold (m : FabMsg) (t : Nat)
  | holdTimer (t : Nat)
  | fabTimeout (tag t : Nat)
  | repl (m : FabMsg)
  | hb (sender : Nat) (epoch : W16) (t : Nat)
  | hbTimer (t : Nat)
  | hbTimeout (member t : Nat)
  | masterHbTimeout (t : Nat)
  | isolationTimeout (t : Nat)
  | join (m : MemberMsg)
  | formed (m : MemberMsg)
  | formedAck (m : MemberMsg)
  | formWindowExpiry (t : Nat)
  | masterChange (m : MemberMsg)
  | memberLost (m : MemberMsg)
  | fenced (m : MemberMsg)
  | deputy (m : MemberMsg)
  | mirrorCopyDone
  | event (m : FabMsg)
  | credit (link : Nat) (returns : List Nat)
  | liveInEdge (t : Nat)
  | liveInQuiet (t : Nat)
  | docentRead (frame : List Byte)
  | docentWrite (frame : List Byte)
  | docentResponseAbandon
  | cxlPortDown (port : Nat)
  | l1Entry (port : Nat)
  | l1Exit (port : Nat)
  | masterLinksDown (t : Nat)
  | engineTestDone (failedMovers failedScanners : Nat)
  | gateWestDone
  | entryCommitDone
  | onfiChannelTrained (channel rate : Nat)
  | powerUp
  | fwSlotWriteDone (ok : Bool)
  | eventRetrieval (port host : Nat)
deriving DecidableEq, Repr

end Sys2Proof
end

