-- ==== Sys2Proof/Decode.lean ====
section
/-! DEFINITION. The word a row of spec/opcode_table.json spells: the table gives no row any bits, so no word spells a
command (log 12). -/

namespace Sys2Proof

/-- The command a table word spells: none, since no row of the table has bits. -/
def decodeTableWord (_nbits _w : Nat) : Option Instr :=
  none

end Sys2Proof
end

