-- ==== Sys2Proof/Config.lean ====
section
/-! DEFINITION. What an implementation fixes, and the free values: opaque constants without a body, so that no proof
can rest on a value the spec leaves open. Each is named in a log entry of notes/assumptions. -/

namespace Sys2Proof

/-- Free choice of a natural number, drawn with the model's counter (log 5): a context number, a loan index, a PE. -/
opaque Config.freeNat : Nat → Nat

/-- Free choice of a truth value, drawn with the model's counter (log 5): whether a PE read meets a stale line. -/
opaque Config.freeBool : Nat → Bool

/-- Free contents, of which this model has no bytes (log 11, log 104): a draw and a place. -/
opaque Config.freeByte : Nat → Nat → Byte

/-- Free FP32 pattern offered for a result the spec bounds but does not state (log 7). -/
opaque Config.freeF32 : List Nat → W32

/-- The order in which a reducing verb adds its terms (R142, log 6): for a command's key and the number of terms
left, the position of the next term to combine. -/
opaque Config.sumPick : List Nat → Nat → Nat

/-- Where the fixed tree of R187 parts a number of terms (log 6): the level and that number. -/
opaque Config.treeSplit : Nat → Nat → Nat

/-- The INT8 code of a component that R133 states none for: its scale and its value (log 111). -/
opaque Config.freeCode : W32 → W32 → Byte

/-- The FP32 pattern of a scale below 2^-149: minus its exponent (log 112). -/
opaque Config.freeScale : Nat → W32

/-- A free store address offered for a new allocation (R291 names none, log 8). -/
opaque Config.freePlacement : Nat → Nat

/-- ML-DSA-87 verification of a signature over a digest by a public key (FIPS 204, named by R51; log 9). -/
opaque Config.mlDsaVerify : List Byte → List Byte → List Byte → Bool

/-- The device identity key's ML-DSA-87 signature over a digest (R445, R446; log 9). -/
opaque Config.mlDsaSign : List Byte → List Byte

/-- The device identity public key, 2,592 bytes (R445, R446; log 9). -/
opaque Config.identityKey : List Byte

/-- The vendor root's signature in the identity certificate (R445; log 9). -/
opaque Config.certificateSignature : List Byte

/-- The die of a channel's block, chip enable in bits [2:0] and LUN in bits [4:3]: which one the spec leaves to the media (R269, R413,
log 42). -/
opaque Config.dieOf : Nat → Nat → Nat

/-- What the media of a channel are (R269, R270, log 42): the number of its blocks, the cycles a block is rated for, and the entries of
its dies' read-retry table. -/
opaque Config.blocksOf : Nat → Nat
opaque Config.ratedCycles : Nat → Nat
opaque Config.retryEntries : Nat → Nat

end Sys2Proof
end

