-- ==== Sys2Proof/Machine/State.lean ====
section
/-! DEFINITION. The state of one GSM-9120 as plain data: `State` is the queue of waiting commands and the device
`Dev`; `State.reset` is the machine with RESET_N asserted after power-up (log 2). -/

namespace Sys2Proof.Machine

/-! ### Commands, slots and contexts (chapter 03) -/

/-- The status codes of R95, by name. -/
inductive Status where
  | ok | okDegraded | okShort | slotBusy | tornSubmit | noVerb | badOperand | staleSequence | xlateFault
  | staleXlate | accessDenied | aborted | priorFailed | dataLost | poisoned | targetDead | orphanTimeout
  | conflict | versionGone | deadlineMissed | capacity
deriving DecidableEq, Repr

/-- A completion record (R86). -/
structure Record where
  seq : W32
  status : Status
  replayed : Bool
  degraded : Bool
  steps : Nat
  w0 : W64
  w1 : W64
  w2 : W64
deriving DecidableEq, Repr

/-- The four slot states (R73). -/
inductive SlotState where
  | free | waiting | running | done
deriving DecidableEq, Repr

/-- The wait reasons of the read-back line (R74). `none` in a WAITING slot is "held by its context's order" (R116). -/
inductive WaitReason where
  | none | tag | miss | imageLoad | duplicate | cmdReset | turn
deriving DecidableEq, Repr

/-- A range of store addresses. -/
structure Span where
  sa : Nat
  len : Nat
deriving DecidableEq, Repr

/-- The rights of an extent (R287). -/
inductive Rights where
  | writable | readOnly | sealed | vitrine
deriving DecidableEq, Repr

/-- Where an extent's store lies (R25): over the channels of both wings, or on those of one wing. -/
inductive Placement where
  | spread
  | wing (west : Bool)
deriving DecidableEq, Repr

/-- An extent (R287): a CVA range of one domain on an SA range. -/
structure Extent where
  domain : Nat
  cva : Nat
  len : Nat
  sa : Nat
  rights : Rights
  gen : W32
  loan : W32
  placement : Placement
deriving DecidableEq, Repr

/-- Bytes a step writes to the store at an SA when it retires (R110). -/
structure MemWrite where
  sa : Nat
  bytes : List Byte
deriving DecidableEq, Repr

/-- Bytes a step posts to host memory on the home port (HOST_OUT, R176). -/
structure HostWrite where
  addr : Nat
  bytes : List Byte
deriving DecidableEq, Repr

/-- A running check value (R391): polynomial code, register before xorout, bytes covered. Polynomial 0 is empty. -/
structure RunningValue where
  poly : Nat
  reg : W64
  count : Nat
deriving DecidableEq, Repr

/-- One layer of a session (R147, R154): appended length, and the finished blocks by identifier, in order. -/
structure Layer where
  n : Nat
  blocks : List Nat
deriving DecidableEq, Repr

/-- Where a frame or granule lies (R254). -/
inductive Residency where
  | dram | both | flash
deriving DecidableEq, Repr

/-- A KV block: its frame (R149) and its summary record (R151), whose bytes lie in the store at `frameSa` and `summarySa`; a
summary's first 64 bytes are the other fields. `refs` is the 24-bit reference count. A block homed on another member stands for one
reference to it (R163). -/
structure Block where
  id : Nat
  domain : Nat
  layer : Nat
  first : Nat
  heads : Nat
  dim : Nat
  sealed : Bool
  format : Nat
  refs : Nat
  pinned : Bool
  recomputed : Bool
  frameSa : Nat
  summarySa : Nat
  freeing : Bool
deriving DecidableEq, Repr

/-- The state of a session (R147); NONE is the absence of a session. -/
inductive SessionState where
  | active | moving | lost (first : Nat)
deriving DecidableEq, Repr

/-- A session: geometry of R146, layers, ownership as this member knows it (R166), and where its store lies (R173): `stateSa` is that
of intake, block tables and codebook on the owner, `logSa` that of the provenance log on the front member. `moved` names the blocks
that an image of it holds, and whether they are SEALED there (R163). `rebuilding` says that its contents are still being decoded here (R169). -/
structure Session where
  state : SessionState
  layerCount : Nat
  heads : Nat
  dim : Nat
  group : Nat
  hotFormat : Nat
  limit : Nat
  layers : List Layer
  lostLen : Nat
  owner : Nat
  epoch : W32
  claimed : Bool
  target : Nat
  offered : W32
  stateSa : Nat
  logSa : Nat
  moved : Option (List (Nat × Bool))
  rebuilding : Bool
deriving DecidableEq, Repr

/-- The three states of a table version (R203). -/
inductive VersionState where
  | current | staged | draining
deriving DecidableEq, Repr

/-- A width class of a rehanged version (R207): format, where its rows lie in the store, and how many. -/
structure WidthClass where
  format : Nat
  sa : Nat
  rows : Nat
deriving DecidableEq, Repr

/-- A version of an embedding table (R203 to R207). Kind 1 training, 2 plain serving, 3 rehanged. Its bound count is the
number of running commands bound to it. -/
structure Version where
  number : W32
  state : VersionState
  kind : Nat
  rows : Nat
  dim : Nat
  format : Nat
  rowsCva : Nat
  stride : Nat
  popCva : Nat
  stateCva : Nat
  stateKind : Nat
  source : W32
  classes : List WidthClass
  remapSa : Nat
deriving DecidableEq, Repr

/-- A binding of another member's command to a version of a table homed here (R208, R210): the member's FID, and the version. -/
structure Binding where
  fid : Nat
  version : W32
deriving DecidableEq, Repr

/-- A table of a domain's catalogue (R203), at the member it was created on (R210). A table homed on another member has an entry here
that names its home, with the versions whose store lies in this member. -/
structure Table where
  domain : Nat
  id : Nat
  nextVersion : W32
  versions : List Version
  deleting : Bool
  home : Nat
  bindings : List Binding
deriving DecidableEq, Repr

/-- An index entry (R230) with its check, and its tombstone bit. -/
structure Entry where
  item : W64
  attr : W64
  locator : Nat
  codes : List Nat
  check : W32
  tomb : Bool
deriving DecidableEq, Repr

/-- A list of an index (R230, R245): its chunks and entries, its body generation, the retained body, the searches that hold that, the
segment set its locators refer to, and the COMPACT that holds its lock (R241). -/
structure IList where
  chunks : List Nat
  entries : List Entry
  gen : Nat
  retained : Option (List Nat × List Entry)
  holders : List SlotRef
  set : Nat
  lock : Option SlotRef
deriving DecidableEq, Repr

/-- A full-vector record (R231): identifier, attribute, stored bytes with their scale. -/
structure VecRecord where
  item : W64
  attr : W64
  bytes : List Byte
deriving DecidableEq, Repr

/-- A segment of full vectors (R231) of one segment set (R249), and the searches that hold it once it is replaced. -/
structure Segment where
  set : Nat
  number : Nat
  sa : Nat
  sealed : Bool
  replaced : Bool
  records : List VecRecord
  holders : List SlotRef
deriving DecidableEq, Repr

/-- An identifier map entry (R232): the list, its slot in the current body and in the retained body. -/
structure MapEntry where
  item : W64
  list : Nat
  slot : Nat
  retainedSlot : Option Nat
deriving DecidableEq, Repr

/-- A vector index (R228). `metaSa` is where its heads, map, centroids and codebook lie (R232); `unknown` once a DELETE
INDEX has run (R248). -/
structure Index where
  domain : Nat
  id : Nat
  dim : Nat
  metric : Nat
  codeFormat : Nat
  subspaces : Nat
  vecFormat : Nat
  flashOk : Bool
  capacity : Nat
  metaSa : Nat
  centroids : List (List W16)
  codebook : List (List (List W16))
  lists : List IList
  segments : List Segment
  map : List MapEntry
  set : Nat
  unknown : Bool
deriving DecidableEq, Repr

/-- One row's application of a SCATTER_UPDATE (R220, R222). `phase` follows the lock of a row that lies on another member: 0 not asked,
1 asked, 2 held, 3 written, 4 done. -/
structure RowUpdate where
  row : Nat
  phase : Nat
deriving DecidableEq, Repr

/-- One index of a GATHER's bag, and its weight: none where its sector is poisoned. -/
structure GatherTerm where
  row : Option Nat
  weight : Option W32
deriving DecidableEq, Repr

/-- A piece of a bag inside a step (R223): the bag, the piece's terms in index order, whether it begins and ends the bag, how many
indices the bag has, and whether an offset of the bag is poisoned. -/
structure BagPiece where
  bag : Nat
  terms : List GatherTerm
  first : Bool
  last : Bool
  size : Nat
  bad : Bool
deriving DecidableEq, Repr

/-- The partial result of a bag split across steps (R213): its sum so far, whether a term was poisoned, and which elements had a NaN
among their terms. -/
structure Pool where
  sum : List W32
  bad : Bool
  nan : List Bool
deriving DecidableEq, Repr

/-- A change to state other than memory that a step makes when it retires. -/
inductive Effect where
  /-- append rows of an APPEND from one on to the intake, and to the log (R154, R155) -/
  | appendRows (lo n : Nat)
  /-- encode one head of a block from the intake (R149, R150) -/
  | encodeHead (id h : Nat)
  /-- summarize 16 keys of one head of a block; with the last of them its mean key and norm bounds (R152) -/
  | summarize (id h q : Nat)
  /-- a block whose frame and summary are complete enters the table of a layer (R154) -/
  | enter (ctx l id : Nat)
  /-- give a context a session, or take it away (R146, R158, R161) -/
  | openSession (ctx : Nat) (s : Session)
  | closeSession (ctx : Nat)
  /-- mark a block SEALED (R156) -/
  | sealBlock (id : Nat)
  /-- demote one head of a block into the frame of another (R157) -/
  | demoteHead (id nid h : Nat)
  /-- the demoted frame and its summary replace those of a block (R157) -/
  | demoted (id nid : Nat)
  /-- enter blocks in a session's tables, by layer, and raise their reference counts (R158) -/
  | share (ctx : Nat) (xs : List (Nat × Nat))
  /-- a layer's appended length rises to a position, with its tail in the intake (R158) -/
  | extend (ctx l n : Nat)
  /-- take blocks out of a session's tables, by layer, and lower their reference counts (R161) -/
  | release (ctx : Nat) (xs : List (Nat × Nat))
  /-- decode the tokens below a position of the block that straddles it into the intake, and release the block (R161) -/
  | straddle (ctx l p : Nat)
  /-- every layer longer than a position is cut to it (R161) -/
  | truncate (ctx p : Nat)
  /-- write bytes of a FETCH_BLOCKS's output from one on (R162) -/
  | fetchOut (lo n : Nat)
  /-- write bytes of its log entries at an offset of the destination (R162) -/
  | fetchLog (off lo n : Nat)
  /-- a granule's or frame's residency is requested to change (R163) -/
  | toFlash (id : Nat)
  | toDram (id : Nat)
  /-- read and pool the rows of pieces of a GATHER's bags, and count their indices (R213, R214) -/
  | gather (ps : List BagPiece)
  /-- combine the gradients of entries of a SCATTER_UPDATE from one on (R221): each entry's row -/
  | combine (rows : List (Nat × Nat))
  /-- a ranking step of a REHANG reads counts of rows from one on; the last one ranks them (R217) -/
  | rank (lo n : Nat) (last : Bool)
  /-- a step of a REHANG encodes the rows of slots of a class from one on (R217) -/
  | encodeRows (cls lo n : Nat)
  /-- apply one row of a SCATTER_UPDATE (R222) -/
  | row (u : RowUpdate)
  /-- a REHANG's version enters the catalogue, and the plinth where asked (R216) -/
  | version (domain id : Nat) (v : Version) (publish : Bool) (expected : W32) (bytes pruned : Nat)
  /-- an index enters its domain with its centroids and codebook (R228) -/
  | index (x : Index)
  /-- a tables step of a SEARCH reads queries from one on (R235) -/
  | queries (lo n : Nat)
  /-- a scan step of a SEARCH reads slots of a list for some of its queries (R236, R242) -/
  | scan (domain id : Nat) (queries : List Nat) (list lo n : Nat)
  /-- insert vectors of an INSERT from one on (R247) -/
  | insertItems (domain id lo n : Nat)
  /-- delete identifiers of a DELETE ITEMS from one on (R244) -/
  | deleteItems (domain id lo n : Nat)
  /-- a COMPACT takes the lock of a list that it rewrites (R241, R245) -/
  | lockList (domain id n : Nat)
  /-- rewrite one list (R245), under FULL with its records in the new segment set (R249) -/
  | rewrite (domain id n : Nat) (full : Bool)
  /-- seal the open segment (R249); under FULL a new segment set begins -/
  | sealSegment (domain id : Nat) (full : Bool)
  /-- the last step of a SCAN_CHECK in RUNNING mode sets its running value (R393) -/
  | scanRunning
  /-- check blocks of a SCAN_CHECK from one on, in BLOCKED or VERIFY mode (R393) -/
  | scanBlocks (lo n : Nat)
  /-- a record is loaded into a running value (R394) -/
  | checkLoad
  /-- count in a domain page's counter (R419) -/
  | count (domain offset amount : Nat)
  /-- a fault record of a class in the domain's area (R413): class, host, details -/
  | fault (domain cls host d0 d1 d2 : Nat)
  /-- copy bytes, poison by sector (R100) -/
  | copy (src dst len : Nat)
  /-- an atomic read-modify-write at its home; its fetched value goes to word 0 (R106) -/
  | atomic (sa width op : Nat) (operand compare : W64) (fetch : Bool)
  /-- entries of an ATOMIC_BATCH from one on, each translated as it is applied (R107, R295) -/
  | entries (lo n : Nat)
  /-- compare bytes of the two ranges of a COMPARE from an offset on (R101) -/
  | compare (lo n : Nat)
  /-- combine elements of a REDUCE from one on and write them, or combine all of them under SCALAR (R102) -/
  | reduce (lo n : Nat)
  | reduceAll
  /-- move bytes of a layer of STREAM to an SA, or to host memory; `shadow` marks the copy of its shadow (R278, R280) -/
  | streamMove (layer : Nat) (src : Span) (dst : Nat) (host shadow : Bool)
  /-- encode bytes of a layer's source from one on into its shadow (R277, R282) -/
  | shadowPart (layer lo n : Nat)
  /-- write the status words of layers of STREAM as they stand; a layer still PENDING is FULL or FULL_LATE (R278);
  `copied` where a shadow's copy is complete (R280) -/
  | streamStatus (layers : List Nat) (copied : Bool)
  /-- compare-and-publish of a 16-byte record at its home (R377) -/
  | publish (sa : Nat) (expected new : W64)
  /-- write local bytes into an export of another collection's node (R374, R376) -/
  | exportWrite (fid export_ offset : Nat) (src : List Span)
  /-- write what an RD of an export of another collection's node brought, from a CVA on (R374, R376) -/
  | exportRead (fid export_ offset len cva : Nat)
  /-- copy bytes to or from a staging area of a forwarded command; poison goes with them and raises nothing (R166, log 11) -/
  | stage (src dst len : Nat)
  /-- post bytes of a staging area to host memory (R176) -/
  | stageHost (src : Span) (addr : Nat)
  /-- a forwarded command goes to the session's owner (R166) -/
  | forward
  /-- the provenance entries of the first tokens of a forwarded APPEND are written to the log here (R155) -/
  | appendLog (n : Nat)
  /-- the session's copy at the target is complete: it is frozen and offered to the Ledger (R163, R166); `moved` names the blocks whose
  frames were copied and where they lie there -/
  | offer (ctx target : Nat) (moved : List (Nat × Nat))
  /-- a child of a FORK that was forwarded to its parent's owner goes to its own member (R158, R166) -/
  | handOver
  /-- a stage of a SELECT_ATTEND ends and the next one's steps follow (R196) -/
  | attendStage (stage : Nat)
deriving DecidableEq, Repr

/-- What runs a step (R97, R103 and the step tables of the verbs): the front end or the Curator, an atomic unit, a mover, a
scanner, one PE, or a whole gallery. The first three serve any number of steps at once (R108). -/
inductive EngineKind where
  | front | atomic | mover | scanner | pe | gallery
deriving DecidableEq, Repr

/-- One step of a running command (R84): what runs it, whether it may retire before the steps ahead of it, whether it is work that belongs
to another step and is not counted as one (R164, R196), what it reads, the
granules whose flash copy it waits for (R163), and what it does when it retires (`outs` are the spans that its effects write); `w0` to `w2` add to the record's result
words. The last fields are its execution: its number once issued, the engine it occupies, whether a repair has parked it
(R400), the granules that it reads from flash and that have not come, and those that have (R257). -/
structure Step where
  kind : EngineKind
  free : Bool
  extra : Bool
  reads : List Span
  writes : List MemWrite
  poisons : List Nat
  outs : List Span
  host : List HostWrite
  effects : List Effect
  raises : Option Status
  flash : List Nat
  w0 : Nat
  w1 : Nat
  w2 : Nat
  num : Nat
  engine : Option Nat
  parked : Bool
  cold : List Nat
  warm : List Nat
deriving DecidableEq, Repr

/-- A step that does nothing: the base that plans extend. -/
def Step.nop : Step :=
  { kind := .front, free := false, extra := false, reads := [], writes := [], poisons := [], outs := [], host := [], effects := [], raises := none, flash := [],
    w0 := 0, w1 := 0, w2 := 0, num := 0, engine := none, parked := false, cold := [], warm := [] }

/-- The states of a streamed layer (R279). -/
inductive LayerState where
  | pending | full | fullLate | shadow | missed | abandoned
deriving DecidableEq, Repr

/-- A layer of a running STREAM (R275, R278, R279): bytes, shadow and its size, deadline in µs, state, flags, the time its
state was set in ns, and the bytes written for it. -/
structure StreamLayer where
  bytes : Nat
  shadow : Nat
  shadowBytes : Nat
  deadline : Nat
  state : LayerState
  failed : Bool
  copied : Bool
  time : Nat
  written : Nat
deriving DecidableEq, Repr

/-- A remote access of a command in flight on the fabric (R369): tag, home, SA, length, whether it is a write, when it
was last heard of; for an atomic one above its entry's index and the SA that takes its fetched value (R107); for a read one marks
that it looks for a lost sector (R402); the bytes that it carries, which a rebuild needs again (R380, R409). -/
structure RemoteAccess where
  tag : Nat
  home : Nat
  sa : Nat
  len : Nat
  isWrite : Bool
  since : Nat
  index : Nat
  fetch : Option Nat
  bytes : List Byte
deriving DecidableEq, Repr

/-- A SEARCH's snapshot of a list (R242): its number, body generation, segment set and length. -/
structure ListSnap where
  list : Nat
  gen : Nat
  set : Nat
  len : Nat
deriving DecidableEq, Repr

/-- A running SEARCH (R235 to R244): the stage its steps are in, the key of its sums (R142), its queries, for each query the ranking of the lists and
the pairs of the old and the new p of its rounds (R238), the snapshots of the lists probed so far, the slots that a scan step found tombstoned
as (query, list, slot), and whether its output stage has come. -/
structure SearchRun where
  stage : Nat
  key : List Nat
  queries : List (List W32)
  orders : List (List Nat)
  rounds : List (List (Nat × Nat))
  snaps : List ListSnap
  dead : List (Nat × Nat × Nat)
  done : Bool
deriving DecidableEq, Repr

/-- What a SELECT_ATTEND has found for one KV head: the candidates kept and chosen, and those skipped because only flash holds them
(R182, R195). -/
structure AttendHead where
  head : Nat
  kept : List Nat
  chosen : List Nat
  flash : List Nat
deriving DecidableEq, Repr

/-- A running SELECT_ATTEND: the key of its sums (R142) and its heads. -/
structure AttendRun where
  key : List Nat
  heads : List AttendHead
deriving DecidableEq, Repr

/-- A command held in a slot: the line and descriptor as read at decode, the captured extents (R293), and its
execution. `plan` holds the steps not yet retired, the first `issued` of them issued.
`fetched` holds the bytes that came for its remote reads, and `spoiled` the sectors that their homes answered as poisoned.
`order` is its place in the device's order of acceptance; `resume` says that a partial load held it (R58); `work` the DRAM
that its domain's quota lends it until it ends (R216, R221); `guest` names, for a command that another member forwarded to this one (R166), that member's FID and the tag
of its message; `version` is the table version it is bound to (R208), `pool` a GATHER's bag that is split across steps (R213), `grads` the
gradients that a SCATTER_UPDATE has combined by row (R221), `counts` the counts that a REHANG has read (R217); `staged` is, at the front member, the owner that runs the command and the SA of its staging area there (log 11). -/
structure Cmd where
  port : Nat
  host : Nat
  line : List Byte
  desc : List Byte
  order : Nat
  caps : List Extent
  tagged : Bool
  started : Bool
  plan : List Step
  issued : Nat
  retired : Nat
  raised : List Status
  cut : Option Status
  lost : Option (W64 × W64 × W64)
  degraded : Bool
  w0 : W64
  w1 : W64
  w2 : W64
  remote : List RemoteAccess
  fetched : List (Nat × List Byte)
  spoiled : List Nat
  table : Option (Nat × W32)
  version : Option Version
  pool : Option Pool
  grads : List (Nat × Option (List W32))
  counts : List (Option Nat)
  waits : List SlotRef
  freeing : List Span
  work : Nat
  t0 : Nat
  orphan : Option Nat
  layers : List StreamLayer
  search : Option SearchRun
  attend : Option AttendRun
  guest : Option (Nat × Nat)
  staged : Option (Nat × Nat)
  committed : Bool
  duplicateOf : Option W32
  resume : Bool
deriving DecidableEq, Repr

/-- A submission slot and its read-back fields (R73, R74). -/
structure Slot where
  state : SlotState
  reason : WaitReason
  status : Option Status
  seq : W32
  compl : W64
  steps : Nat
  verb : Nat
  prio : Nat
  held : Bool
  cmd : Option Cmd
deriving DecidableEq, Repr

/-- A sequence number of the replay window, with its retained record once the command is DONE (R79). -/
structure WinEntry where
  seq : W32
  record : Option Record
deriving DecidableEq, Repr

/-- An open context (R69), or, with a number of 65,536 × (1 + the front member) + its number there, a session that this member owns and
another one fronts (R166): `high` is H of R79, `fails` the acceptance orders of its commands that ended in a failure
status, `lastClose` the order of the last epoch-closing verb (R120). -/
structure Context where
  num : Nat
  domain : Nat
  usable : Nat
  homePort : Nat
  msixEn : Bool
  vector : Nat
  high : W32
  window : List WinEntry
  slots : List Slot
  fails : List Nat
  lastClose : Nat
  running : List RunningValue
  runningAlloc : Bool
  session : Option Session
deriving DecidableEq, Repr

/-! ### The structure image (chapter 02) -/

/-- A DOMAINS record (R43). -/
structure DomainRec where
  domain : Nat
  management : Bool
  wingLocal : Bool
  homeWest : Bool
  vitrineOk : Bool
  tagPool : Nat
  classMask : Nat
  ctxCeiling : Nat
  galCeiling : Nat
  moverWeight : Nat
  scannerWeight : Nat
  xcEast : Nat
  xcWest : Nat
  portMask : Nat
  linkMask : Nat
  faultSlots : Nat
  onfiMask : Nat
  dramQuota : Nat
  flashQuota : Nat
deriving DecidableEq, Repr

/-- A GALLERIES record (R44); domain 0xFFFF is unassigned. -/
structure GalleryRec where
  gallery : Nat
  early : Bool
  domain : Nat
deriving DecidableEq, Repr

/-- A PIPELINES record (R45). -/
structure PipelineRec where
  domain : Nat
  number : Nat
  galleries : Nat
  movers : Nat
  scanners : Nat
deriving DecidableEq, Repr

/-- A ROUTES record (R46). -/
structure RouteRec where
  domain : Nat
  cls : Nat
  pipeline : Nat
deriving DecidableEq, Repr

/-- A HOST_GRANTS record (R47). -/
structure GrantRec where
  host : Nat
  domain : Nat
  rights : Nat
deriving DecidableEq, Repr

/-- A VITRINE record (R48); `loan` is policy 0x01, else poison. -/
structure VitrineRec where
  region : Nat
  domain : Nat
  loan : Bool
  base : Nat
  len : Nat
deriving DecidableEq, Repr

/-- A SHAPER record (R49): rate in 0.1 GB/s, burst in KiB. -/
structure ShaperRec where
  domain : Nat
  point : Point
  rate : Nat
  burst : Nat
deriving DecidableEq, Repr

/-- A CODING record (R50). -/
structure CodingRec where
  lo : Nat
  hi : Nat
  k : Nat
  m : Nat
deriving DecidableEq, Repr

/-- An image's header fields (R40) and records (R42 to R50). -/
structure Image where
  partialLoad : Bool
  domain : Nat
  serial : W64
  baseSerial : W64
  rollback : Nat
  variantMask : Nat
  digest : List Byte
  domains : List DomainRec
  galleries : List GalleryRec
  pipelines : List PipelineRec
  routes : List RouteRec
  grants : List GrantRec
  vitrine : List VitrineRec
  shaper : List ShaperRec
  coding : List CodingRec
deriving DecidableEq, Repr

/-- A partial image in force for a domain (R39): its serial and digest. -/
structure PartialInForce where
  domain : Nat
  serial : W64
  digest : List Byte
deriving DecidableEq, Repr

/-- The phases of an image load (R55 STATE). -/
inductive LoadPhase where
  | idle | fetching | verifying | quiescing | wiping | committing
deriving DecidableEq, Repr

/-- The image load in progress (R56, R58): phase, the bytes to fetch, their offset in the boot flash where that is the source, the image to commit, when the drain limit passes,
galleries still wiping, held register writes; `abandoned` once a reset has cut a load short (R54, R63). -/
structure ImageLoad where
  phase : LoadPhase
  length : Nat
  spi : Option Nat
  next : Option Image
  drainEnd : Nat
  wiping : List Nat
  held : List RegWrite
  abandoned : Bool
deriving DecidableEq, Repr

/-- No load in progress. -/
def ImageLoad.idle : ImageLoad :=
  { phase := .idle, length := 0, spi := none, next := none, drainEnd := 0, wiping := [], held := [], abandoned := false }

/-! ### Translation, windows and loans (chapter 11) -/

/-- A window of a host view onto a CVA range (R286, R291). -/
structure Window where
  host : Nat
  dpa : Nat
  domain : Nat
  cva : Nat
  len : Nat
  region : Nat
  loan : W32
  accepted : Bool
deriving DecidableEq, Repr

/-- A Dynamic Capacity event in a host view's log (R303). -/
structure DcEvent where
  host : Nat
  add : Bool
  forced : Bool
  dpa : Nat
  len : Nat
  domain : Nat
  loan : W32
  answered : Bool
  retrieved : Bool
deriving DecidableEq, Repr

/-- A loan (R305): index, handle generation, holder, expiry (none: no expiry), gone once its deaccession begins. -/
structure Loan where
  index : Nat
  gen : W16
  domain : Nat
  holder : Nat
  expiry : Option Nat
  gone : Bool
deriving DecidableEq, Repr

/-- An entry of a wing's extent cache: a whole extent (R294). -/
structure XcEntry where
  domain : Nat
  cva : Nat
deriving DecidableEq, Repr

/-! ### Tiers and media (chapter 10) -/

/-- The state codes of the condition report (R444). -/
inductive UnitState where
  | disabled | joined | pending | failed | retired | unusable
deriving DecidableEq, Repr

/-- A sealed granule's residency (R254), its channel and block, its last read, and whether the drop
of its DRAM copy waits for the steps that read it (R259). -/
structure Granule where
  number : Nat
  domain : Nat
  residency : Residency
  channel : Nat
  block : Nat
  lastRead : Nat
  dropping : Bool
deriving DecidableEq, Repr

/-- The kinds of media operation (R266, R273). -/
inductive MediaOpKind where
  | read | program | erase
deriving DecidableEq, Repr

/-- A host access held where it arrived, with its translation (R296): its domain and the SA. -/
structure HostWait where
  a : MemAccess
  domain : Nat
  sa : Nat
deriving DecidableEq, Repr

/-- A media operation queued or in flight on a channel (R266, R273): `cmds` the commands that asked for it, of which the domain's reads
of one granule share one operation (R257); `onMedia` once issued; `suspended` and the count of suspensions; `discard` when its result is
void (R260, R267); `hosts` the host reads that wait for the fill (R258), `fabs` the fabric's requests by source and tag. -/
structure MediaOp where
  kind : MediaOpKind
  granule : Nat
  channel : Nat
  domain : Nat
  block : Nat
  cmds : List SlotRef
  onMedia : Bool
  held : Bool
  suspended : Bool
  suspends : Nat
  discard : Bool
  hosts : List HostWait
  fabs : List (Nat × Nat)
deriving DecidableEq, Repr

/-- A flash block the Conservator tracks (R270); `erased` while nothing has been programmed in it since its last erase. -/
structure FlashBlock where
  channel : Nat
  number : Nat
  erased : Bool
  cycles : Nat
  reads : Nat
  lastPatrol : Nat
  retired : Bool
deriving DecidableEq, Repr

/-- An ONFI channel: its state in the condition report, power and media (R444, R449, R452). -/
structure OnfiChannel where
  index : Nat
  unit : UnitState
  usable : Bool
  rate : Nat
  dies : Nat
  off : Bool
  draining : Bool
  mpe : Bool
deriving DecidableEq, Repr

/-! ### Shared engines (R26) -/

/-- The arbiter of one mover or scanner (R26): the domain served last and the steps each domain has had of its weight in the
present round. -/
structure Arbiter where
  kind : EngineKind
  index : Nat
  last : Nat
  used : List (Nat × Nat)
deriving DecidableEq, Repr

/-- A vector of a port's MSI-X function whose mask bit is set, with its pending bit (R89). -/
structure MaskedVector where
  port : Nat
  vector : Nat
  pending : Bool
deriving DecidableEq, Repr

/-- A fault record (R412, R414), with the settings fixed at its fault (`vector` where MSIX_EN is set). -/
structure FaultRecord where
  area : FaultArea
  cls : Nat
  status : Option Status
  domain : Nat
  ctx : Nat
  time : Nat
  seq : W32
  host : Nat
  d0 : Nat
  d1 : Nat
  d2 : Nat
  recSeq : W32
  base : Nat
  port : Nat
  enabled : Bool
  vector : Option Nat
deriving DecidableEq, Repr

/-! ### Egress, gates and telemetry (chapter 12) -/

/-- What leaves the device. -/
inductive OutMsg where
  /-- the first of a completion record's two posted writes (R87): bytes 8 to 31, its result words -/
  | recordWords (port addr : Nat) (r : Record)
  /-- the second: bytes 0 to 7, with the verb code of its command; `own` marks the record of the command that took the slot -/
  | record (port addr verb : Nat) (own : Bool) (r : Record)
  /-- posted data of a HOST_OUT verb, or bytes 8 to 63 of a fault record (R176, R414) -/
  | write (port addr : Nat) (bytes : List Byte)
  /-- the second posted write of a fault record: its owned word, with its sequence and OWNED set (R412, R414) -/
  | ownedWord (port addr : Nat) (f : FaultRecord)
  /-- an MSI-X message (R89) -/
  | msix (port vector : Nat)
  /-- a CXL.mem read answer: none is poison (R302) -/
  | memData (port host dpa : Nat) (data : Option (List Byte))
  /-- a CXL.mem completion: 0 Cmp, 1 Cmp-S, 2 Cmp-E, 3 BIConflictAck (R336, R338) -/
  | ndr (port host dpa code : Nat)
  /-- a back-invalidation snoop: 0 Cur, 1 Data, 2 Inv (R336) -/
  | bisnp (host line kind : Nat)
  /-- a CXL.io register read's data; none is Unsupported Request (R494) -/
  | regData (port : Nat) (value : Option W64)
  /-- a mailbox answer or DOE object (R303, R445) -/
  | mailbox (port : Nat) (bytes : List Byte)
  /-- the event interrupt of R303 on a port -/
  | eventIrq (port : Nat)
  /-- the read-back line of a slot (R74) -/
  | slotLine (port : Nat) (line : List Byte)
  /-- the owned-word read of a fault slot (R414) -/
  | ownedRead (port addr : Nat)
  /-- an image or firmware fetch from host memory (R55, R438) -/
  | fetch (port addr len : Nat)
  /-- a fabric message: type, destination and source FID, domain, context, tag, flags, address, argument, payload (R363) -/
  | fabric (type dst src domain ctx tag : Nat) (flags : W16) (address arg : W64) (payload : List Byte)
  /-- a link control message by its byte 0 (R368) -/
  | control (link code arg : Nat)
  /-- a Docent response frame (R483) -/
  | docent (frame : List Byte)
  /-- a firmware chunk to the local receivers or members (R437) -/
  | firmware (index : W32) (data : List Byte)
deriving DecidableEq, Repr

/-- A granule of egress traffic with the message that its last byte completes (R314). `lane` true is posted writes. -/
structure EgGranule where
  lane : Bool
  bytes : Nat
  cmd : Option SlotRef
  enq : Nat
  msg : Option OutMsg
deriving DecidableEq, Repr

/-- One set of a queue's telemetry statistics (R324). Counts stop at 2^63 - 1, which sets the overflow bit. -/
structure Telemetry where
  maxBytes : Nat
  maxNs : Nat
  count : Nat
  sum : Nat
  bins : List Nat
deriving DecidableEq, Repr

/-- A shaper queue (R315 to R317): domain 256 is the system queue. `reserve` in 0.1 GB/s, as a SHAPER record has it;
`applied`, the reservation in force, in kB/s; `burst` the cap in bytes; `credit` in millionths of a byte; `upd` the time
up to which the credit counts. -/
structure Queue where
  domain : Nat
  reserve : Nat
  applied : Nat
  burst : Nat
  credit : Int
  upd : Nat
  mem : List EgGranule
  posted : List EgGranule
  lastPosted : Bool
  globalStats : Telemetry
  domainStats : Telemetry
deriving DecidableEq, Repr

/-- An egress point (R314, R318, R321): `rate` in MB/s; the queues served last in each tier; gate list position, the end
of the running entry and the gate groups that entry started with. -/
structure EgPoint where
  point : Point
  rate : Nat
  scaled : Bool
  queues : List Queue
  last1 : Nat
  last2 : Nat
  activeList : Nat
  activeLen : Nat
  entry : Nat
  entryEnd : Nat
  groups : List Nat
deriving DecidableEq, Repr

/-! ### The vitrine (chapter 13) -/

/-- Directory states with holders recorded (R332, R333). -/
inductive DirState where
  | shared | modified
deriving DecidableEq, Repr

/-- A directory entry (R333): the line number (SA / 64), its domain, holders or BROAD, and when it was granted; `kept` is
the policy (true: loan) of a region that an image has since removed (R347). -/
structure DirEntry where
  line : Nat
  domain : Nat
  west : Bool
  state : DirState
  holders : List Nat
  broad : Bool
  granted : Nat
  kept : Option Bool
deriving DecidableEq, Repr

/-- What an order-point transaction does once its BISnp are answered (R335 to R337). `withdraw` names the hosts whose
windows onto the line went (R346), each with the DPA by which it reached the line. -/
inductive VitReq where
  | snpCur (port host dpa : Nat)
  | snpData (port host dpa : Nat)
  | snpInv (port host dpa : Nat) (withData : Bool)
  | write (port host dpa : Nat) (enables : BitVec 64) (data : List Byte)
  | evict
  | withdraw (paths : List (Nat × Nat))
  | engine (r : SlotRef) (writes : Bool)
  | fabric (src tag : Nat) (writes : Bool)
  | clean (port host dpa : Nat)
  | dropped
deriving DecidableEq, Repr

/-- The active transaction of a line, or one queued behind it (R335): snoops awaited, and since when. -/
structure VitTxn where
  line : Nat
  domain : Nat
  req : VitReq
  active : Bool
  awaiting : List Nat
  since : Nat
deriving DecidableEq, Repr

/-! ### Collections and links (chapter 14) -/

/-- The states of a Zherek link (R382, R452). -/
inductive LinkState where
  | down | training | up | quiet
deriving DecidableEq, Repr

/-- A frame kept for replay (R366): its SEQ, the messages it carries, and how often it was resent. -/
structure ReplayFrame where
  seq : Nat
  msgs : List OutMsg
  resent : Nat
deriving DecidableEq, Repr

/-- A Zherek link (R361 to R368, R382), with its entry in the condition report (R444). -/
structure Link where
  index : Nat
  unit : UnitState
  source : Nat
  nearLanes : Nat
  farLanes : Nat
  state : LinkState
  offered : Nat
  peerLanes : Nat
  ts1 : Nat
  ts2 : Nat
  width : Nat
  lanes : Nat
  peerFid : Nat
  peerMember : Bool
  far : Bool
  disabled : Bool
  txSeq : Nat
  ackSeq : Nat
  rxSeq : Nat
  awaitSeq : Option Nat
  replay : List ReplayFrame
  headerCredits : List Nat
  dataCredits : List Nat
  retrainStart : Nat
  lastDecode : Nat
deriving DecidableEq, Repr

/-- The collection states of COLL_STATUS (R381). -/
inductive CollState where
  | standalone | forming | formed | isolated | failed | formFailed
deriving DecidableEq, Repr

/-- A JOIN heard during formation (R351). -/
structure JoinHeard where
  geo : Nat
  serial : W64
  fwVersion : W64
  variant : Nat
deriving DecidableEq, Repr

/-- A Ledger entry (R166): session, owner, highest committed epoch and the source of its offer, pending offer, COMMIT_ACKs still
missing. -/
structure LedgerEntry where
  domain : Nat
  front : Nat
  ctx : Nat
  owner : Nat
  epoch : W32
  source : Nat
  lastOffered : W32
  offer : Option (W32 × Nat × Nat × Nat)
  unacked : List Nat
  reported : Bool
deriving DecidableEq, Repr

/-- Store that another member may write here for a session (R163, R166, log 11): what a forwarded command reads and writes, or, where
`moves`, the copy of a session that is being moved here, which the domain's quota carries; `accepted` once it was verified. -/
structure Landing where
  member : Nat
  domain : Nat
  front : Nat
  ctx : Nat
  sa : Nat
  len : Nat
  moves : Bool
  accepted : Bool
deriving DecidableEq, Repr

/-- The collection as this member knows it (R349 to R360). -/
structure Collection where
  geoId : Nat
  role : Nat
  state : CollState
  members : W16
  lost : W16
  rejoining : W16
  master : Nat
  deputy : Nat
  deputyValid : Bool
  epoch : W16
  joins : List JoinHeard
  acks : List Nat
  rounds : Nat
  formStart : Nat
  lastHb : List (Nat × Nat)
  ledger : List LedgerEntry
  mirrorCopying : Bool
  planK : Nat
  planM : Nat
  rebuiltUnits : List Nat
  rebuildTotal : Nat
  rebuildTarget : Nat
deriving DecidableEq, Repr

/-- An export of a domain (R374). -/
structure ExportEntry where
  domain : Nat
  number : Nat
  cva : Nat
  len : Nat
  rights : Nat
  peerGroup : Nat
  peerDomain : Nat
  anyDomain : Bool
  clearing : Bool
deriving DecidableEq, Repr

/-- A request in service or answered here (R367, R371), or a host's access forwarded to `home` (source
0x1_0000): when it came, when a HOLD
went out, the parity acknowledgements or remote data it awaits by tag and member (R408), its answer once given, the request itself
(type and message) while it waits for a line, a repair, a lock or data (R222, R335, R399, R374), and the data that has come for it by
tag; for a host's access the SA and the bytes that it writes there. -/
structure FabService where
  src : Nat
  tag : Nat
  home : Nat
  since : Nat
  lastHold : Nat
  domain : Nat
  exportNo : Option Nat
  await : List (Nat × Nat)
  answer : Option OutMsg
  req : Option (Nat × FabMsg)
  got : List (Nat × List Byte)
deriving DecidableEq, Repr

/-- The lock of a row homed here that another member's command holds (R220, R222): its FID, the store address of the row's
header, and the bytes of the row. -/
structure RowLock where
  fid : Nat
  sa : Nat
  len : Nat
deriving DecidableEq, Repr

/-- A line of a PE read cache or a fabric cache: owner (the physical PE, 34 to a gallery, or the wing), domain, line address,
bytes. -/
structure CacheLine where
  owner : Nat
  domain : Nat
  addr : Nat
  bytes : List Byte
deriving DecidableEq, Repr

/-! ### Errors and recovery (chapter 15) -/

/-- What waits for a sector's repair (R399, R403): an issued step, a command that reads its descriptor or its flag, a host's
access, a request of the fabric by source and tag, or nothing but the patrol. -/
inductive RepairWaiter where
  | step (r : SlotRef) (num : Nat)
  | command (r : SlotRef)
  | hostRead (h : HostWait)
  | hostWrite (h : HostWait) (enables : BitVec 64) (data : List Byte)
  | request (src tag : Nat)
  | patrol
deriving DecidableEq, Repr

/-- A repair in progress at a sector's home (R397, R399): the rung, and the re-reads left on rung 1. -/
structure Repair where
  sector : Nat
  rung : Nat
  tries : Nat
  waiters : List RepairWaiter
deriving DecidableEq, Repr

/-- What a fault area holds beside its registers (R412, R414, R415). -/
structure FaultAreaState where
  area : FaultArea
  waiting : List FaultRecord
  afterLoss : Bool
  slots : Nat
deriving DecidableEq, Repr

/-! ### Accession, power, pins (chapters 16 to 18) -/

/-- The accession states of R424. -/
inductive AccState where
  | booting | availablePartial | availableFull | refused
deriving DecidableEq, Repr

/-- Power of a gallery (R449). -/
inductive GalPower where
  | on | retain | off
deriving DecidableEq, Repr

/-- A 32-byte word of a gallery's memories with its stored check (R385): the scratchpad of a physical PE by its number, or the gallery
store, number 34; `addr` is its local byte address. Words not listed are zeros. -/
structure LocalWord where
  unit : Nat
  addr : Nat
  bytes : List Byte
  check : W32
deriving DecidableEq, Repr

/-- A physical gallery (R19, R432, R444). `failed` is the mask of failed physical PEs; `niMap` is its NI's mapping table: the
physical PE of each of its 32 logical ones; `remapped` says that it changed after the gallery's own first test (R142); `words` are what
its scratchpads and its store hold (R61, R385, R451). -/
structure Gallery where
  physical : Nat
  logical : Option Nat
  state : UnitState
  failed : Nat
  niMap : List Nat
  remapped : Bool
  words : List LocalWord
  source : Nat
  fast : Bool
  power : GalPower
  lastStep : Nat
deriving DecidableEq, Repr

/-- A gallery without power: its scratchpads and store hold nothing. -/
def Gallery.turnOff (g : Gallery) : Gallery := { g with power := .off, words := [] }

/-- A physical DRAM stack. -/
structure Stack where
  physical : Nat
  logical : Option Nat
  state : UnitState
  source : Nat
  repairs : Nat
deriving DecidableEq, Repr

/-- The states of a CXL port's link (R449, R477). -/
inductive PortLink where
  | down | l0 | l1
deriving DecidableEq, Repr

/-- A CXL port: PERST_N, training, lanes (R435, R444). -/
structure Port where
  index : Nat
  state : UnitState
  perstReleased : Bool
  link : PortLink
  width : Nat
  nearLanes : Nat
  farLanes : Nat
  source : Nat
deriving DecidableEq, Repr

/-- Fuses: what manufacture and the one-time commits fix (R430, R428, R429, R64). Units are masks by physical number; the
lists hold masks of PEs by gallery, of DRAM channels by stack, of lanes by port and by link. -/
structure Fuses where
  marked : Nat
  serial : W64
  stepping : Nat
  badPes : List Nat
  badGalleries : Nat
  badStacks : Nat
  badPorts : Nat
  badLinks : Nat
  badChannels : Nat
  badMovers : Nat
  badScanners : Nat
  badCores : Nat
  badDram : List Nat
  badCxlLanes : List Nat
  badZkLanes : List Nat
  rollback : Nat
  vendorHash : List Byte
  ownerHash : Option (List Byte)
  managers : List Nat
deriving DecidableEq, Repr

/-- A Curator pair: working, retained while the wing is gated, and the roles (home pair numbers) it holds (R22, R453). -/
structure Pair where
  index : Nat
  works : Bool
  roles : List Nat
deriving DecidableEq, Repr

/-- The firmware in force and in staging (R427, R436 to R438, R448): `phase` is STATE of FW_STATUS; the image tag, its chunk
count, the chunks held, the repair rounds begun; whether this member is the source, and else the source's FID. -/
structure Firmware where
  version : W64
  rollback : Nat
  digest : List Byte
  runningSlot : Nat
  preferred : Nat
  phase : Nat
  tag : W32
  count : Nat
  chunks : List (Nat × List Byte)
  rounds : Nat
  source : Bool
  src : Nat
deriving DecidableEq, Repr

/-- A privileged unit with a pass record (R443): a physical gallery, a CXL port, a Curator pair. -/
inductive PassUnit where
  | gallery (physical : Nat)
  | port (index : Nat)
  | pair (index : Nat)
deriving DecidableEq, Repr

/-- A pass record (R443): the local time and firmware digest of the unit's last full pass, and whether a fault has been
recorded against the unit since. -/
structure PassRecord where
  unit : PassUnit
  time : Nat
  digest : List Byte
  faulted : Bool
deriving DecidableEq, Repr

/-- Accession (R422 to R444). `passRecords` says that the records pass their check. -/
structure Accession where
  state : AccState
  powered : Bool
  resetLow : Bool
  warm : Bool
  passRecords : Bool
  passes : List PassRecord
  phase : Nat
  refusal : Nat
  reported : Nat
  degraded : Bool
  imageAbsent : Bool
  geoConflict : Bool
  formFailed : Bool
  excluded : Bool
  dramStopped : Bool
  increments : Nat
  enginesTested : Bool
  conservator : Bool
  failedMovers : Nat
  failedScanners : Nat
  bootResult : Nat
  releaseTime : Nat
  partialTime : Nat
  fullTime : Nat
  accessions : Nat
  lateGalleries : List (Nat × Nat)
  lateStacks : Nat
deriving DecidableEq, Repr

/-- The device power states and phases of entry (R454, R457). -/
inductive DevicePower where
  | active | sleep | offReady
deriving DecidableEq, Repr

/-- The phases of ENTRY_PHASE (R466). -/
inductive EntryPhase where
  | none | drain | park | commit
deriving DecidableEq, Repr

/-- The states of the west wing (R466). -/
inductive WestState where
  | on | gating | gated | ungating
deriving DecidableEq, Repr

/-- Power management (R449 to R465). `waiting` holds the traffic that woke the device, served after the exit (R461). -/
structure Power where
  waiting : List Instr
  device : DevicePower
  phase : EntryPhase
  request : Nat
  heldWake : Option Nat
  exiting : Bool
  west : WestState
  tripped : Bool
  railFault : Bool
  throttled : Bool
  pacePs : Nat
  tjC : Nat
  vddMv : Nat
  vid : Nat
  wakeTime : Nat
  throttleStart : Nat
deriving DecidableEq, Repr

/-- The sideband pins the controller drives or samples (R476 to R479, R490), and the instruction register of the TAP (R488), which
no row of the table moves. -/
structure Pins where
  liveOut : Bool
  liveIn : Bool
  liveInQuiet : Bool
  liveInEdge : Nat
  vrGood : Bool
  tripN : Bool
  tapIr : BitVec 8
deriving DecidableEq, Repr

/-- The Docent interface (R421, R481 to R486): the read latch, the write latch and the response in flight. -/
structure Docent where
  address : Nat
  readLatch : Option (Nat × W32)
  writeLatch : Option (Nat × W32)
  responding : Bool
deriving DecidableEq, Repr

/-! ### The device and the machine -/

/-- The device. `draws` is the MODEL'S OWN counter, read and advanced by each free value (log 5); `order` is the
number of the next acceptance; `repaired` lists the sectors that rungs 2 to 4 served, part of the repair history of R142; `carried` the ports over
which each host identity has come since they trained (R343): port and identity; `missTurn` the domain whose miss the Curator
served last, for each wing's ingress (R26); `full` the full image that the image in force rests on (R39); `parityChecks` the stored checks of the parity store's sectors, by number (R385); `nextStep` numbers the next step issued (R26); `masked` the masked vectors of the MSI-X functions (R89); `rowLocks` the rows that other members' commands have locked (R222); `leaving` store given up, with its domain, that is free once nothing that began before touches it
(R160); `readWaits` the host reads that
wait at the Registrar for room at their port (R302, R316);
`out` lists what left the device, oldest first. -/
structure Dev where
  now : Nat
  draws : Nat
  order : Nat
  regs : List (Nat × W64)
  fuses : Fuses
  acc : Accession
  fw : Firmware
  pairs : List Pair
  galleries : List Gallery
  stackUnits : List Stack
  ports : List Port
  image : Option Image
  full : Option Image
  partials : List PartialInForce
  load : ImageLoad
  ctxs : List Context
  resetActive : Bool
  mem : List Host.Cell
  parity : List Host.Cell
  poison : List Nat
  parityChecks : List (Nat × W32)
  repairs : List Repair
  repaired : List Nat
  extents : List Extent
  nextGen : List (Nat × W32)
  windows : List Window
  dcEvents : List DcEvent
  loans : List Loan
  xcEast : List XcEntry
  xcWest : List XcEntry
  missTurn : Nat × Nat
  arbiters : List Arbiter
  masked : List MaskedVector
  blocks : List Block
  nextBlock : Nat
  tables : List Table
  indexes : List Index
  granules : List Granule
  media : List MediaOp
  flash : List FlashBlock
  channels : List OnfiChannel
  lastChannel : List (Nat × Nat)
  peCache : List CacheLine
  fabCache : List CacheLine
  points : List EgPoint
  directory : List DirEntry
  vitTxns : List VitTxn
  links : List Link
  coll : Collection
  landings : List Landing
  leaving : List (Nat × Span)
  rowLocks : List RowLock
  exports : List ExportEntry
  serving : List FabService
  carried : List (Nat × Nat)
  readWaits : List Instr
  nextTag : Nat
  nextStep : Nat
  faults : List FaultAreaState
  power : Power
  pins : Pins
  docent : Docent
  bootFlash : List Host.Cell
  out : List OutMsg
deriving DecidableEq, Repr

/-- The machine: the commands that wait, first in first out, and the device. -/
structure State where
  pending : List Instr
  dev : Dev
deriving DecidableEq, Repr

/-- Empty telemetry statistics. -/
def Telemetry.zero : Telemetry :=
  { maxBytes := 0, maxNs := 0, count := 0, sum := 0, bins := [0, 0, 0, 0, 0, 0, 0, 0] }

/-- The system queue of a point before it trains (R314, R317). -/
def Queue.system : Queue :=
  { domain := 256, reserve := 0, applied := 0, burst := 0, credit := 0, upd := 0, mem := [], posted := [],
    lastPosted := false, globalStats := Telemetry.zero, domainStats := Telemetry.zero }

/-- An egress point after reset: its system queue alone, no gate list (R326). -/
def EgPoint.reset (p : Point) : EgPoint :=
  { point := p, rate := 0, scaled := false, queues := [Queue.system], last1 := 256, last2 := 256, activeList := 0,
    activeLen := 0, entry := 0, entryEnd := 0, groups := [] }

/-- The egress points of the part (R314): 4 ports, 8 links, 32 channels. -/
def allPoints : List Point :=
  (List.range 4).map (Point.mk .cxl) ++ (List.range 8).map (Point.mk .zherek) ++ (List.range 32).map (Point.mk .onfi)

/-- A link after reset (R382): down, with nothing sent or received. -/
def Link.reset (i : Nat) : Link :=
  { index := i, unit := .pending, source := 0, nearLanes := 0, farLanes := 0, state := .down, offered := 0, peerLanes := 0, ts1 := 0, ts2 := 0, width := 0, lanes := 0, peerFid := 0,
    peerMember := false, far := false, disabled := false, txSeq := 0, ackSeq := 0, rxSeq := 0, awaitSeq := none,
    replay := [], headerCredits := [0, 0, 0, 0], dataCredits := [0, 0, 0, 0], retrainStart := 0, lastDecode := 0 }

/-- A GSM-9120 without manufacture defects, no keys and no fused managers: the fuses the model's reset names (log 2). -/
def Fuses.blank : Fuses :=
  { marked := 1, serial := 0, stepping := 0, badPes := List.replicate 40 0, badGalleries := 0, badStacks := 0,
    badPorts := 0, badLinks := 0, badChannels := 0, badMovers := 0, badScanners := 0, badCores := 0, badDram := [], badCxlLanes := [],
    badZkLanes := [], rollback := 0,
    vendorHash := List.replicate 64 0, ownerHash := none, managers := [] }

/-- Accession before the release of RESET_N (R424, R475). -/
def Accession.reset : Accession :=
  { state := .booting, powered := true, resetLow := true, warm := false, passRecords := false, passes := [], phase := 0,
    refusal := 0, reported := 0, degraded := false, imageAbsent := false, geoConflict := false, formFailed := false,
    excluded := false, dramStopped := false, increments := 0, enginesTested := false, conservator := false,
    failedMovers := 0, failedScanners := 0, bootResult := 0, releaseTime := 0, partialTime := 0, fullTime := 0,
    accessions := 0, lateGalleries := [], lateStacks := 0 }

/-- No firmware runs before the ROM has chosen a slot (R427). -/
def Firmware.reset : Firmware :=
  { version := 0, rollback := 0, digest := List.replicate 64 0, runningSlot := 0, preferred := 0, phase := 0, tag := 0,
    count := 0, chunks := [], rounds := 0, source := false, src := 0 }

/-- A collection of one before the straps are sampled (R349, R381). -/
def Collection.reset : Collection :=
  { geoId := 0, role := 0, state := .standalone, members := 0, lost := 0, rejoining := 0, master := 0, deputy := 0,
    deputyValid := false, epoch := 0, joins := [], acks := [], rounds := 0, formStart := 0, lastHb := [], ledger := [],
    mirrorCopying := false, planK := 0, planM := 0, rebuiltUnits := [], rebuildTotal := 0, rebuildTarget := 0 }

/-- Power management at reset: ACTIVE, VID code 30, 0.750 V (R466, R473, R490). -/
def Power.reset : Power :=
  { waiting := [], device := .active, phase := .none, request := 0, heldWake := none, exiting := false, west := .on, tripped := false,
    railFault := false, throttled := false, pacePs := 0, tjC := 0, vddMv := 0, vid := 30, wakeTime := 0,
    throttleStart := 0 }

/-- The device with RESET_N asserted after power-up: an empty store (R423), every register at its reset value (R496),
every unit still to be tested (R430), no image (R63). -/
def Dev.reset : Dev :=
  { now := 0, draws := 0, order := 0, regs := [], fuses := Fuses.blank, acc := Accession.reset, fw := Firmware.reset,
    pairs := (List.range 4).map fun i => { index := i, works := false, roles := [i] },
    galleries := (List.range 40).map fun i =>
      { physical := i, logical := none, state := .pending, failed := 0, niMap := List.range 32, remapped := false, words := [], source := 0, fast := false, power := .off,
        lastStep := 0 },
    stackUnits := (List.range 8).map fun i => { physical := i, logical := none, state := .pending, source := 0, repairs := 0 },
    ports := (List.range 4).map fun i =>
      { index := i, state := .pending, perstReleased := false, link := .down, width := 0, nearLanes := 0, farLanes := 0,
        source := 0 },
    image := none, full := none, partials := [],
    load := ImageLoad.idle,
    ctxs := [], resetActive := false, mem := [], parity := [], poison := [], parityChecks := [], repairs := [], repaired := [], extents := [], nextGen := [], windows := [],
    dcEvents := [], loans := [], xcEast := [], xcWest := [], missTurn := (256, 256), arbiters := [], masked := [], blocks := [], nextBlock := 0, tables := [], indexes := [],
    granules := [], media := [], flash := [],
    channels := (List.range 32).map fun i =>
      { index := i, unit := .pending, usable := false, rate := 0, dies := 0, off := false, draining := false, mpe := false },
    lastChannel := [], peCache := [], fabCache := [], points := allPoints.map EgPoint.reset, directory := [],
    vitTxns := [], links := (List.range 8).map Link.reset, coll := Collection.reset, landings := [], leaving := [], rowLocks := [], exports := [], serving := [], carried := [], readWaits := [],
    nextTag := 0, nextStep := 0, faults := [], power := Power.reset,
    pins := { liveOut := false, liveIn := false, liveInQuiet := false, liveInEdge := 0, vrGood := true, tripN := false, tapIr := 0x01 },
    docent := { address := 0x40, readLatch := none, writeLatch := none, responding := false },
    bootFlash := [], out := [] }

/-- The machine right after reset: no command waits. -/
def State.reset : State :=
  { pending := [], dev := Dev.reset }

/-- Why a step stops. No command of the table stops: the spec gives each one an effect or the lack of one. -/
inductive Fault where
  /-- Raised by nobody: kept so that the outcome type has a fault (safe). -/
  | noSuchCommand
deriving DecidableEq, Repr

/-- Why a command has no meaning. -/
inductive Refusal where
  /-- Raised by an arm of `exec` that has no meaning yet (safe): the row's mnemonic. -/
  | notModelled (mnemonic : String)
deriving DecidableEq, Repr

end Sys2Proof.Machine
end

