-- ==== Sys2Proof/Machine/Ops.lean ====
section
/-! DEFINITION. Named operations over the device: bytes and fields, the store in canonical form, poison, store
addresses and their homes, extents and translation, free draws, and look-ups of contexts, slots and records. -/

namespace Sys2Proof.Machine

/-! ### Bytes (R14: little-endian) -/

/-- The number a little-endian byte list spells. -/
def leNat : List Byte → Nat
  | [] => 0
  | b :: bs => b.toNat + 256 * leNat bs

/-- `w` little-endian bytes of a number. -/
def natLe : Nat → Nat → List Byte
  | _, 0 => []
  | n, w + 1 => BitVec.ofNat 8 n :: natLe (n / 256) w

/-- The bytes from `off`, `len` of them. -/
def slice (bs : List Byte) (off len : Nat) : List Byte :=
  (bs.drop off).take len

/-- The little-endian field of `len` bytes at `off`. -/
def fieldAt (bs : List Byte) (off len : Nat) : Nat :=
  leNat (slice bs off len)

/-- Whether bytes `lo` up to (not including) `hi` are all zero (R16). -/
def zeros (bs : List Byte) (lo hi : Nat) : Bool :=
  (slice bs lo (hi - lo)).all (· == 0)

/-- Bits [hi:lo] of a number. -/
def bits (n hi lo : Nat) : Nat :=
  n / 2 ^ lo % 2 ^ (hi - lo + 1)

/-- Bit `i` of a number. -/
def bit (n i : Nat) : Bool :=
  n.testBit i

/-- A number rounded up to a multiple. -/
def roundUp (n m : Nat) : Nat :=
  (n + m - 1) / m * m

/-- Quotient rounded up. -/
def ceilDiv (n m : Nat) : Nat :=
  (n + m - 1) / m

/-- A byte list padded with zeros to a multiple. -/
def padTo (bs : List Byte) (m : Nat) : List Byte :=
  bs ++ List.replicate (roundUp bs.length m - bs.length) 0

/-- A list cut into pieces of `n` (fuel bounds the number of pieces). -/
def chunksOf {α : Type} (n : Nat) : Nat → List α → List (List α)
  | 0, _ => []
  | _ + 1, [] => []
  | fuel + 1, x :: xs => (x :: xs).take n :: chunksOf n fuel ((x :: xs).drop n)

/-- A list cut into pieces of `n`. -/
def chunks {α : Type} (n : Nat) (xs : List α) : List (List α) :=
  chunksOf n xs.length xs

/-- Cut pieces of work at `n` units: pairs of a start and a length. -/
def pieces (total n : Nat) : List (Nat × Nat) :=
  (List.range (ceilDiv total n)).map fun i => (i * n, min n (total - i * n))

/-- The element at `i`, or a default. -/
def at! {α : Type} (xs : List α) (i : Nat) (dflt : α) : α :=
  (xs[i]?).getD dflt

/-- Replace the first element that satisfies a test. -/
def replaceFirst {α : Type} (p : α → Bool) (y : α) : List α → List α
  | [] => []
  | x :: xs => if p x then y :: xs else x :: replaceFirst p y xs

/-- Change every element that satisfies a test. -/
def modifyAll {α : Type} (p : α → Bool) (f : α → α) (xs : List α) : List α :=
  xs.map fun x => if p x then f x else x

/-- Insert by a key in rising order, replacing an equal key. -/
def insertBy {α : Type} (key : α → Nat) (y : α) : List α → List α
  | [] => [y]
  | x :: xs => if key y < key x then y :: x :: xs else if key y = key x then y :: xs else x :: insertBy key y xs

/-- Stable insertion by a strict order. -/
def insertOrd {α : Type} (lt : α → α → Bool) (y : α) : List α → List α
  | [] => [y]
  | x :: xs => if lt y x then y :: x :: xs else x :: insertOrd lt y xs

/-- Stable insertion sort: structural, so that the kernel can evaluate it. -/
def sortOrd {α : Type} (lt : α → α → Bool) (xs : List α) : List α :=
  xs.foldl (fun acc x => insertOrd lt x acc) []

/-- Whether a list holds no repeated element. -/
def noRepeat {α : Type} [BEq α] : List α → Bool
  | [] => true
  | x :: xs => !xs.contains x && noRepeat xs

/-- The number of set bits among the lowest `n`. -/
def popCount (mask n : Nat) : Nat :=
  ((List.range n).filter (bit mask)).length

/-- Serial comparison at a width (R79, R420): `s` is newer than `h`; half the range counts as older. -/
def newer {w : Nat} (s h : BitVec w) : Bool :=
  let d := (s - h).toNat
  decide (0 < d) && decide (d < 2 ^ (w - 1))

/-! ### The store: sparse bytes in canonical form -/

/-- The byte at an address; an unlisted address reads 0 (R440, R291: store is written with zeros before it serves). -/
def memGet (m : List Host.Cell) (a : Nat) : Byte :=
  match m with
  | [] => 0
  | (k, v) :: t => if k = a then v else memGet t a

/-- Write one byte, keeping addresses rising and no zero listed. -/
def memSet (m : List Host.Cell) (a : Nat) (b : Byte) : List Host.Cell :=
  match m with
  | [] => if b = 0 then [] else [(a, b)]
  | (k, v) :: t =>
    if a < k then (if b = 0 then (k, v) :: t else (a, b) :: (k, v) :: t)
    else if a = k then (if b = 0 then t else (a, b) :: t)
    else (k, v) :: memSet t a b

/-- Write bytes from an address upward. -/
def memWrite (m : List Host.Cell) (a : Nat) : List Byte → List Host.Cell
  | [] => m
  | b :: bs => memWrite (memSet m a b) (a + 1) bs

/-- Read `n` bytes from an address. -/
def memRead (m : List Host.Cell) (a n : Nat) : List Byte :=
  (List.range n).map fun i => memGet m (a + i)

/-- The canonical form: addresses strictly rising and no byte 0 listed. -/
def Memory.wf : List Host.Cell → Bool
  | [] => true
  | [(_, v)] => v != 0
  | (k, v) :: (k', v') :: t => v != 0 && decide (k < k') && Memory.wf ((k', v') :: t)

/-- Drop every listed byte of a range: the range then reads zeros (R291, R298: zeroing). -/
def memZero (m : List Host.Cell) (a n : Nat) : List Host.Cell :=
  m.filter fun c => c.1 < a || a + n ≤ c.1

/-! ### Free draws (log 5) -/

/-- Free bytes, for contents that this model has no bytes of (log 11). -/
def freeBytes (seed n : Nat) : List Byte := (List.range n).map (Config.freeByte seed)

/-! ### Store addresses and homes (R285, R353) -/

/-- The width g of COLL_CFG's WIDTH field (R381). -/
def widthOf (code : Nat) : Nat :=
  2 ^ (min code 4)

/-- Home member and member-local offset of an SA, for a widen group of `g` (R353). -/
def homeOf (g sa : Nat) : Nat × Nat :=
  let member := bits sa 55 52
  let off := sa % 2 ^ 51
  if bit sa 51 then
    let i := off / 4096
    (member + i % g, i / g * 4096 + off % 4096)
  else (member, off)

/-! ### Extents (R287, R293) -/

/-- The extent of a domain that holds a CVA. -/
def findExtent (es : List Extent) (dom cva : Nat) : Option Extent :=
  es.find? fun e => e.domain == dom && decide (e.cva ≤ cva) && decide (cva < e.cva + e.len)

/-- The extents that cover a CVA range in order, or the first CVA not mapped (R293). -/
def coverFrom (es : List Extent) (dom : Nat) : Nat → Nat → Nat → Except Nat (List Extent)
  | 0, cva, _ => .error cva
  | fuel + 1, cva, len =>
    match findExtent es dom cva with
    | none => .error cva
    | some e =>
      let stop := e.cva + e.len
      if cva + len ≤ stop then .ok [e]
      else
        match coverFrom es dom fuel stop (cva + len - stop) with
        | .ok rest => .ok (e :: rest)
        | .error c => .error c

/-- `coverFrom` with fuel enough for every extent of the list. -/
def cover (es : List Extent) (dom cva len : Nat) : Except Nat (List Extent) :=
  if len = 0 then .ok [] else coverFrom es dom (es.length + 1) cva len

/-- The SA spans of a CVA range through a list of extents; the part that is not mapped has none. -/
def spansOf (es : List Extent) (dom cva len : Nat) : List Span :=
  match cover es dom cva len with
  | .error _ => []
  | .ok xs => xs.map fun e =>
      let lo := max e.cva cva
      let hi := min (e.cva + e.len) (cva + len)
      { sa := e.sa + (lo - e.cva), len := hi - lo }

/-- The SA of one CVA. -/
def saOf (es : List Extent) (dom cva : Nat) : Option Nat :=
  (findExtent es dom cva).map fun e => e.sa + (cva - e.cva)

/-- Two ranges share an address. -/
def overlap (a la b lb : Nat) : Bool :=
  decide (a < b + lb) && decide (b < a + la)

/-- Whether an extent touches a CVA range of its domain. -/
def Extent.touches (e : Extent) (dom cva len : Nat) : Bool :=
  e.domain == dom && overlap e.cva e.len cva len

/-- The code of an extent's rights (R287). -/
def Rights.code : Rights → Nat
  | .writable => 1 | .readOnly => 2 | .sealed => 3 | .vitrine => 4

/-- Whether the rights admit writes (R287). -/
def Rights.writes : Rights → Bool
  | .writable => true | .vitrine => true | _ => false

/-- The sectors a span touches (R111). -/
def sectorsOf (s : Span) : List Nat :=
  if s.len = 0 then [] else
    (List.range ((s.sa + s.len - 1) / 32 - s.sa / 32 + 1)).map (· + s.sa / 32)

/-- The 64 KiB granules a span touches (R254). -/
def granulesOf (s : Span) : List Nat :=
  if s.len = 0 then [] else
    (List.range ((s.sa + s.len - 1) / 65536 - s.sa / 65536 + 1)).map (· + s.sa / 65536)

/-- The part of a span inside a range. -/
def Span.clip (s : Span) (a n : Nat) : Span :=
  let lo := max s.sa a
  { sa := lo, len := min (s.sa + s.len) (a + n) - lo }

/-! ### Poison (R386, R387, R344) -/

/-- Mark a sector poisoned: its bytes become zero (R386). -/
def Dev.poisonSector (d : Dev) (sec : Nat) : Dev :=
  { d with mem := memZero d.mem (sec * 32) 32, poison := insertBy id sec d.poison }

/-- Whether an SA lies in a VITRINE extent, whose poison follows the 64-byte line (R344). -/
def Dev.inVitrine (d : Dev) (sa : Nat) : Bool :=
  d.extents.any fun e => e.rights == .vitrine && decide (e.sa ≤ sa) && decide (sa < e.sa + e.len)

/-- Whether a write of `[a, a+n)` replaces a sector's poison: it covers all 32 bytes, or all 64 in the vitrine. -/
def Dev.clears (d : Dev) (a n sec : Nat) : Bool :=
  if d.inVitrine (sec * 32) then
    decide (a ≤ sec / 2 * 64) && decide (sec / 2 * 64 + 64 ≤ a + n)
  else decide (a ≤ sec * 32) && decide (sec * 32 + 32 ≤ a + n)

/-- A write to this member's store at a local offset: bytes applied, poison of wholly covered sectors replaced. -/
def Dev.write (d : Dev) (a : Nat) (bs : List Byte) : Dev :=
  { d with mem := memWrite d.mem a bs, poison := d.poison.filter fun sec => !(d.clears a bs.length sec) }

/-- Whether a span meets a poisoned sector. -/
def Dev.poisonedIn (d : Dev) (s : Span) : Bool :=
  d.poison.any fun sec => overlap (sec * 32) 32 s.sa s.len

/-- Whether any of the spans meets a poisoned sector. -/
def Dev.poisonedAny (d : Dev) (ss : List Span) : Bool :=
  ss.any d.poisonedIn

/-- A fresh or freed store range: zeros, good checks (R291, R298). -/
def Dev.zeroRange (d : Dev) (a n : Nat) : Dev :=
  { d with mem := memZero d.mem a n, poison := d.poison.filter fun sec => !(overlap (sec * 32) 32 a n) }

/-! ### Look-ups -/

/-- The DOMAINS record in force of a domain. -/
def Dev.domainRec (d : Dev) (dom : Nat) : Option DomainRec :=
  d.image.bind fun i => i.domains.find? (·.domain == dom)

/-- The rights a host identity holds in a domain (R47). -/
def Dev.rightsOf (d : Dev) (host dom : Nat) : Nat :=
  match d.image with
  | none => 0
  | some i =>
    match i.grants.find? fun g => g.host == host && g.domain == dom with
    | none => 0
    | some g => g.rights

/-- Whether the image knows a host identity (R302). -/
def Dev.knows (d : Dev) (host : Nat) : Bool :=
  match d.image with
  | none => false
  | some i => i.grants.any (·.host == host)

/-- Whether a host identity holds right [3] (R47), or is a fused management identity while no image is in force (R64). -/
def Dev.manages (d : Dev) (host : Nat) : Bool :=
  match d.image with
  | none => d.fuses.managers.contains host
  | some i => i.grants.any fun g => g.host == host && bit g.rights 3

/-- An open context. -/
def Dev.ctx? (d : Dev) (c : Nat) : Option Context :=
  d.ctxs.find? (·.num == c)

/-- The number of the context that holds, on the session's owner, what belongs to a context of another front member (R166). -/
def guestNum (front ctx : Nat) : Nat := 65536 * (1 + front) + ctx

/-- Whether a context stands for one that another member fronts: no host knows it. -/
def Context.isGuest (c : Context) : Bool := decide (65536 ≤ c.num)

/-- A free slot of a newly opened context (R69). -/
def Slot.fresh : Slot :=
  { state := .free, reason := .none, status := none, seq := 0, compl := 0, steps := 0, verb := 0, prio := 0,
    held := false, cmd := none }

/-- The slot a reference names. -/
def Dev.slot? (d : Dev) (r : SlotRef) : Option Slot :=
  (d.ctx? r.ctx).bind fun c => c.slots[r.slot]?

/-- The command in a slot. -/
def Dev.cmd? (d : Dev) (r : SlotRef) : Option Cmd :=
  (d.slot? r).bind (·.cmd)

/-- Change a context. -/
def Dev.modCtx (d : Dev) (c : Nat) (f : Context → Context) : Dev :=
  { d with ctxs := modifyAll (·.num == c) f d.ctxs }

/-- Change a slot. -/
def Dev.modSlot (d : Dev) (r : SlotRef) (f : Slot → Slot) : Dev :=
  d.modCtx r.ctx fun c => { c with slots := c.slots.modify r.slot f }

/-- Change the command a slot holds. -/
def Dev.modCmd (d : Dev) (r : SlotRef) (f : Cmd → Cmd) : Dev :=
  d.modSlot r fun s => { s with cmd := s.cmd.map f }

/-- The domain that owns a context; 0xFFFF for none. -/
def Dev.domainOf (d : Dev) (r : SlotRef) : Nat :=
  ((d.ctx? r.ctx).map (·.domain)).getD 0xFFFF

/-- Every slot reference whose slot satisfies a test, in the order of contexts and slots. -/
def Dev.slotsWhere (d : Dev) (p : Context → Slot → Bool) : List SlotRef :=
  d.ctxs.flatMap fun c =>
    (List.range c.slots.length).filterMap fun i =>
      match c.slots[i]? with
      | some s => if p c s then some { ctx := c.num, slot := i } else none
      | none => none

/-- Whether the device runs commands and events: powered, out of reset, not stopped (R465, R472, R475). -/
def Dev.live (d : Dev) : Bool :=
  d.acc.powered && !d.acc.resetLow && !d.power.tripped && !d.power.railFault

/-- Whether a port's link is trained and its PERST_N released (R88). -/
def Dev.portUp (d : Dev) (p : Nat) : Bool :=
  d.ports.any fun q => q.index == p && q.perstReleased && (q.link == .l0 || q.link == .l1)

/-- Whether admission runs: AVAILABLE_PARTIAL or FULL, ACTIVE and not entering a sleep state (R424, R457). -/
def Dev.admits (d : Dev) : Bool :=
  (d.acc.state == .availablePartial || d.acc.state == .availableFull) && d.power.device == .active

/-- Working Curator pairs; a GATED west wing counts as two (R23, R453). -/
def Dev.workingPairs (d : Dev) : Nat :=
  (d.pairs.filter fun p => p.works || (d.power.west != .on && decide (2 ≤ p.index))).length

/-- Time moves forward only (R496, log 4). -/
def Dev.atTime (d : Dev) (t : Nat) : Dev :=
  { d with now := max d.now t }

/-! ### The wrappers of a meaning -/

/-- A meaning that acts whatever the device's state. -/
def always (f : Dev → Dev) (s : State) : Host.Outcome State Fault Refusal :=
  .next { s with dev := f s.dev }

/-- A meaning of a live device: a device without power, in reset or stopped does nothing (R465, R472, R475). -/
def whenLive (f : Dev → Dev) (s : State) : Host.Outcome State Fault Refusal :=
  .next { s with dev := if s.dev.live then f s.dev else s.dev }

/-- The movers that the fuses or a test disable (R430, R431). -/
def Dev.badMovers (d : Dev) : Nat := Nat.lor d.fuses.badMovers d.acc.failedMovers % 2 ^ 32

/-- The scanners that the fuses or a test disable (R430, R431). -/
def Dev.badScanners (d : Dev) : Nat := Nat.lor d.fuses.badScanners d.acc.failedScanners % 2 ^ 8

end Sys2Proof.Machine
end

