-- ==== Sys2Proof/Machine/Float.lean ====
section
/-! DEFINITION. FP32 arithmetic (R135 to R137) on exact dyadic values: decode, compute exactly, round once to nearest,
ties to even. Also sums in the free order of R142. -/

namespace Sys2Proof.Machine

/-- A decoded floating-point value: NaN, an infinity by sign, or (-1)^neg × m × 2^e. -/
inductive Fp where
  | nan
  | inf (neg : Bool)
  | fin (neg : Bool) (m : Nat) (e : Int)
deriving DecidableEq, Repr

/-- A binary format (R130): exponent bits, mantissa bits, bias. -/
structure Fmt where
  eb : Nat
  mb : Nat
  bias : Nat
deriving DecidableEq, Repr

/-- The formats of R130. -/
def fmt32 : Fmt := { eb := 8, mb := 23, bias := 127 }
def fmtBf16 : Fmt := { eb := 8, mb := 7, bias := 127 }
def fmt16 : Fmt := { eb := 5, mb := 10, bias := 15 }
def fmtE4M3 : Fmt := { eb := 4, mb := 3, bias := 7 }
def fmtE5M2 : Fmt := { eb := 5, mb := 2, bias := 15 }
def fmtE2M1 : Fmt := { eb := 2, mb := 1, bias := 1 }

/-- The exponent of the last place of a format's subnormals. -/
def Fmt.emin (f : Fmt) : Int :=
  1 - (f.bias : Int) - (f.mb : Int)

/-- Decode a pattern of a format with IEEE infinities and NaN (R130). -/
def Fmt.decode (f : Fmt) (n : Nat) : Fp :=
  let neg := bit n (f.eb + f.mb)
  let ex := bits n (f.eb + f.mb - 1) f.mb
  let mt := n % 2 ^ f.mb
  if ex = 2 ^ f.eb - 1 then (if mt = 0 then .inf neg else .nan)
  else if ex = 0 then .fin neg mt f.emin
  else .fin neg (mt + 2 ^ f.mb) (f.emin + (ex : Int) - 1)

/-- Decode a pattern of a format without infinities or NaN (E2M1, R130). -/
def Fmt.decodeFinite (f : Fmt) (n : Nat) : Fp :=
  let ex := bits n (f.eb + f.mb - 1) f.mb
  let mt := n % 2 ^ f.mb
  if ex = 0 then .fin (bit n (f.eb + f.mb)) mt f.emin
  else .fin (bit n (f.eb + f.mb)) (mt + 2 ^ f.mb) (f.emin + (ex : Int) - 1)

/-- Decode FP8 E4M3: only 0x7F and 0xFF are NaN (R130). -/
def decodeE4M3 (n : Nat) : Fp :=
  if n % 128 = 0x7F then .nan else fmtE4M3.decodeFinite n

/-- The number of bits of a natural number. -/
def bitLen (n : Nat) : Nat :=
  if n = 0 then 0 else Nat.log2 n + 1

/-- `m × 2^e` rounded to nearest, ties to even, to `p` bits with last place at least `2^emin`. -/
def roundDyadic (p : Nat) (emin : Int) (m : Nat) (e : Int) : Nat × Int :=
  let t := max (e + (bitLen m : Int) - (p : Int)) emin
  if t ≤ e then (m, e)
  else
    let s := (t - e).toNat
    let q := m / 2 ^ s
    let r := m % 2 ^ s
    let half := 2 ^ (s - 1)
    if r > half || (r == half && q % 2 == 1) then (q + 1, t) else (q, t)

/-- Encode a finite value already rounded to the format; `none` where its exponent exceeds the format's. -/
def Fmt.pack (f : Fmt) (neg : Bool) (q : Nat) (t : Int) : Option Nat :=
  let sign := b2sign neg
  if q = 0 then some sign
  else
    let ex : Int := t + (Nat.log2 q : Int)
    if ex > (2 ^ f.eb - 1 : Int) - (f.bias : Int) then none
    else if ex < 1 - (f.bias : Int) then some (sign + q * 2 ^ (t - f.emin).toNat)
    else
      let mant := q * 2 ^ f.mb / 2 ^ Nat.log2 q - 2 ^ f.mb
      some (sign + (ex + (f.bias : Int)).toNat * 2 ^ f.mb + mant)
where
  /-- The sign bit in its place. -/
  b2sign (neg : Bool) : Nat := if neg then 2 ^ (f.eb + f.mb) else 0

/-- Encode to FP32: overflow gives an infinity, NaN the canonical NaN (R137). -/
def Fp.to32 (x : Fp) : W32 :=
  match x with
  | .nan => 0x7FC0_0000
  | .inf neg => if neg then 0xFF80_0000 else 0x7F80_0000
  | .fin neg m e =>
    let (q, t) := roundDyadic 24 fmt32.emin m e
    match fmt32.pack neg q t with
    | some n => if bits n 30 23 = 255 then (if neg then 0xFF80_0000 else 0x7F80_0000) else BitVec.ofNat 32 n
    | none => if neg then 0xFF80_0000 else 0x7F80_0000

/-- The value of an FP32 pattern. -/
def f32 (w : W32) : Fp :=
  fmt32.decode w.toNat

/-- Whether an FP32 pattern is NaN, or infinite. -/
def isNan (w : W32) : Bool := f32 w == .nan
def isInf (w : W32) : Bool := f32 w == .inf true || f32 w == .inf false

/-- A signed integer times a power of two, as a value; an exact zero takes the sign given. -/
def Fp.ofInt (i : Int) (e : Int) (zeroNeg : Bool) : Fp :=
  if i = 0 then .fin zeroNeg 0 e else .fin (decide (i < 0)) i.natAbs e

/-- The signed significand of a finite value. -/
def signed (neg : Bool) (m : Nat) : Int :=
  if neg then -(m : Int) else m

/-- Exact sum of two values (R137: ∞ − ∞ is NaN, an exact zero is +0 unless both are −0). -/
def Fp.add : Fp → Fp → Fp
  | .nan, _ => .nan
  | _, .nan => .nan
  | .inf a, .inf b => if a = b then .inf a else .nan
  | .inf a, .fin _ _ _ => .inf a
  | .fin _ _ _, .inf b => .inf b
  | .fin n₁ m₁ e₁, .fin n₂ m₂ e₂ =>
    let e := min e₁ e₂
    Fp.ofInt (signed n₁ m₁ * 2 ^ (e₁ - e).toNat + signed n₂ m₂ * 2 ^ (e₂ - e).toNat) e (n₁ && n₂)

/-- The opposite value. -/
def Fp.neg : Fp → Fp
  | .nan => .nan
  | .inf a => .inf (!a)
  | .fin n m e => .fin (!n) m e

/-- Exact product of two values (R137: 0 × ∞ is NaN). -/
def Fp.mul : Fp → Fp → Fp
  | .nan, _ => .nan
  | _, .nan => .nan
  | .inf a, .inf b => .inf (a != b)
  | .inf a, .fin n m _ => if m = 0 then .nan else .inf (a != n)
  | .fin n m _, .inf b => if m = 0 then .nan else .inf (n != b)
  | .fin n₁ m₁ e₁, .fin n₂ m₂ e₂ => .fin (n₁ != n₂) (m₁ * m₂) (e₁ + e₂)

/-- FP32 rounded upward (R191): the least FP32 pattern that is not below a value. -/
def Fp.up32 (x : Fp) : W32 :=
  match x with
  | .fin neg m e =>
    let t := max (e + (bitLen m : Int) - 24) fmt32.emin
    if t ≤ e then x.to32
    else
      let s := (t - e).toNat
      let y := (Fp.fin neg (if neg then m / 2 ^ s else ceilDiv m (2 ^ s)) t).to32
      if y = 0xFF80_0000 then 0xFF7F_FFFF else y
  | y => y.to32

/-- FP32 addition, rounded once (R135). -/
def fadd (a b : W32) : W32 := ((f32 a).add (f32 b)).to32

/-- FP32 subtraction. -/
def fsub (a b : W32) : W32 := ((f32 a).add (f32 b).neg).to32

/-- FP32 multiplication, rounded once. -/
def fmul (a b : W32) : W32 := ((f32 a).mul (f32 b)).to32

/-- The opposite of an FP32 pattern; a NaN gives the canonical NaN (R137). -/
def fneg (a : W32) : W32 := (f32 a).neg.to32

/-- The magnitude of an FP32 pattern. -/
def fabs (a : W32) : W32 := a &&& 0x7FFF_FFFF

/-- FP32 division, rounded once: 64 quotient bits beyond the operands' and a sticky bit decide the rounding. -/
def fdiv (a b : W32) : W32 :=
  match f32 a, f32 b with
  | .nan, _ => 0x7FC0_0000
  | _, .nan => 0x7FC0_0000
  | .inf _, .inf _ => 0x7FC0_0000
  | .inf s, .fin n _ _ => (Fp.inf (s != n)).to32
  | .fin n _ _, .inf s => (Fp.fin (n != s) 0 0).to32
  | .fin n₁ m₁ e₁, .fin n₂ m₂ e₂ =>
    if m₂ = 0 then (if m₁ = 0 then 0x7FC0_0000 else (Fp.inf (n₁ != n₂)).to32)
    else
      let q := m₁ * 2 ^ 64 / m₂
      let sticky := if m₁ * 2 ^ 64 % m₂ = 0 then 0 else 1
      (Fp.fin (n₁ != n₂) (2 * q + sticky) (e₁ - e₂ - 65)).to32

/-- The integer square root by bits from the top: `fuel` result bits. -/
def isqrtBits (n : Nat) : Nat → Nat → Nat
  | 0, acc => acc
  | k + 1, acc => if (acc + 2 ^ k) * (acc + 2 ^ k) ≤ n then isqrtBits n k (acc + 2 ^ k) else isqrtBits n k acc

/-- The integer square root. -/
def isqrt (n : Nat) : Nat :=
  isqrtBits n (bitLen n / 2 + 1) 0

/-- FP32 square root, rounded once. -/
def fsqrt (a : W32) : W32 :=
  match f32 a with
  | .nan => 0x7FC0_0000
  | .inf neg => if neg then 0x7FC0_0000 else 0x7F80_0000
  | .fin neg m e =>
    if m = 0 then a
    else if neg then 0x7FC0_0000
    else
      let odd := e % 2 != 0
      let n := (if odd then 2 * m else m) * 2 ^ 64
      let e' := (if odd then e - 1 else e) - 64
      let q := isqrt n
      (Fp.fin false (2 * q + (if q * q = n then 0 else 1)) (e' / 2 - 1)).to32

/-- Whether `a < b` as values; false with a NaN; −0 and +0 are equal. -/
def Fp.lt : Fp → Fp → Bool
  | .nan, _ => false
  | _, .nan => false
  | .inf a, .inf b => a && !b
  | .inf a, .fin _ _ _ => a
  | .fin _ _ _, .inf b => !b
  | .fin n₁ m₁ e₁, .fin n₂ m₂ e₂ =>
    let e := min e₁ e₂
    decide (signed n₁ m₁ * 2 ^ (e₁ - e).toNat < signed n₂ m₂ * 2 ^ (e₂ - e).toNat)

/-- FP32 comparison by value. -/
def flt (a b : W32) : Bool := (f32 a).lt (f32 b)

/-- The order of MIN and MAX: −0 below +0 (R104). -/
def fltz (a b : W32) : Bool :=
  flt a b || (f32 a == .fin true 0 fmt32.emin && f32 b == .fin false 0 fmt32.emin)

/-- MIN and MAX: a NaN operand gives the canonical NaN (R137). -/
def fmin (a b : W32) : W32 := if isNan a || isNan b then 0x7FC0_0000 else if fltz b a then b else a
def fmax (a b : W32) : W32 := if isNan a || isNan b then 0x7FC0_0000 else if fltz a b then b else a

/-- A natural number as FP32. -/
def fofNat (n : Nat) : W32 := (Fp.fin false n 0).to32

/-- FP32 constants. -/
def fzero : W32 := 0
def fone : W32 := 0x3F80_0000
def fnan : W32 := 0x7FC0_0000

/-- A value of `num / den` as FP32, rounded once. -/
def fofRat (num : Int) (den : Nat) : W32 :=
  if den = 0 then fnan
  else
    let n := num.natAbs
    let q := n * 2 ^ 96 / den
    let sticky := if n * 2 ^ 96 % den = 0 then 0 else 1
    (Fp.fin (decide (num < 0)) (2 * q + sticky) (-97)).to32

/-! ### Sums of exact terms (R135, R142) -/

/-- Combine two of the terms at a time, in the free order of the key, until one is left (R135, R142, log 6): each addition is of
exact terms or of sums already rounded, and is rounded once. -/
def sumFuel (key : List Nat) : Nat → List Fp → W32
  | _, [] => 0
  | 0, x :: _ => x.to32
  | _ + 1, [x] => x.to32
  | fuel + 1, x :: y :: ts =>
    let xs := x :: y :: ts
    let i := Config.sumPick key (2 * xs.length) % xs.length
    let rest := xs.eraseIdx i
    let j := Config.sumPick key (2 * xs.length + 1) % rest.length
    sumFuel key fuel (f32 ((at! xs i x).add (at! rest j y)).to32 :: rest.eraseIdx j)

/-- The FP32 sum of exact terms in a free order fixed by the key and the number of terms (R142). -/
def exactSum (key : List Nat) (xs : List Fp) : W32 := sumFuel key xs.length xs

/-- The FP32 sum of FP32 terms, in a free order that the terms themselves may change (R142). -/
def fsum (key : List Nat) (xs : List W32) : W32 := exactSum (key ++ xs.map BitVec.toNat) (xs.map f32)

/-- A product that a sum takes in (R135): exact where neither operand is FP32, rounded once where both are. Where one of them is,
the rule names neither, and which of the two it is, is free (log 6). -/
def product (key : List Nat) (wideA wideB : Bool) (a b : W32) : Fp :=
  let x := (f32 a).mul (f32 b)
  if wideA && wideB || (wideA != wideB && Config.sumPick key 0 % 2 == 1) then f32 x.to32 else x

/-- A dot product (R135, R142): `wide` says which of the two vectors has FP32 elements. -/
def dot (key : List Nat) (wideA wideB : Bool) (a b : List W32) : W32 :=
  exactSum (key ++ (a ++ b).map BitVec.toNat) ((a.zip b).map fun p => product key wideA wideB p.1 p.2)

/-- The squared distance of two vectors: each squared difference is formed with one rounding (R141). -/
def sqDist (key : List Nat) (a b : List W32) : W32 :=
  fsum key ((a.zip b).map fun p => let x := (f32 p.1).add (f32 p.2).neg; (x.mul x).to32)

/-- A sum in a fixed tree by ascending index (R187): the terms are halved at a place that their number alone fixes (log 6). -/
def treeFuel (tag : Nat) : Nat → List W32 → W32
  | _, [] => 0
  | 0, x :: _ => x
  | _ + 1, [x] => x
  | fuel + 1, x :: y :: ts =>
    let n := ts.length + 2
    let i := 1 + Config.treeSplit tag n % (n - 1)
    fadd (treeFuel tag fuel ((x :: y :: ts).take i)) (treeFuel tag fuel ((x :: y :: ts).drop i))

/-- The sum of block partials by ascending index in a fixed tree whose leaves are groups of 256 (R187). -/
def treeSum (xs : List W32) : W32 :=
  let leaves := (chunks 256 xs).map fun ys => treeFuel 0 ys.length ys
  treeFuel 1 leaves.length leaves

end Sys2Proof.Machine
end

