-- ==== Sys2Proof/Machine/Formats.lean ====
section
/-! DEFINITION. The stored number formats (R128 to R133), conversion on output with its counted events (R138, R144),
and MX blocks (R131, R132, R139). -/

namespace Sys2Proof.Machine

/-- Events that NUM_RANGE and NUM_NAN count (R144). -/
structure NumEvents where
  range : Nat
  nan : Nat
deriving DecidableEq, Repr

/-- Sum of events. -/
def NumEvents.plus (a b : NumEvents) : NumEvents :=
  { range := a.range + b.range, nan := a.nan + b.nan }

/-- No events. -/
def NumEvents.none : NumEvents := { range := 0, nan := 0 }

/-- Element width in bits of a format code (R128); 0 for an unknown code. -/
def elemBits (code : Nat) : Nat :=
  match code with
  | 0x01 => 32 | 0x02 => 16 | 0x03 => 16 | 0x04 => 8 | 0x05 => 8 | 0x06 => 8 | 0x07 => 8 | 0x08 => 4 | 0x09 => 8
  | 0x0A => 8 | 0x0B => 4 | _ => 0

/-- Whether a code is an MX format (R128). -/
def isMx (code : Nat) : Bool :=
  code == 0x06 || code == 0x07 || code == 0x08

/-- Bytes of the element region of `n` elements, before padding (R132). -/
def elemBytes (code n : Nat) : Nat :=
  ceilDiv (n * elemBits code) 8

/-- The stored size of a vector of `n` elements (R132 for MX). -/
def storedSize (code n : Nat) : Nat :=
  if isMx code then roundUp (elemBytes code n) 32 + roundUp (n / 32) 32 else elemBytes code n

/-- Decode one scalar pattern of a non-MX format (R130, R133), or the element of an MX block before its scale. -/
def decodeElem (code n : Nat) : Fp :=
  match code with
  | 0x01 => fmt32.decode n
  | 0x02 => fmtBf16.decode n
  | 0x03 => fmt16.decode n
  | 0x04 => decodeE4M3 n
  | 0x05 => fmtE5M2.decode n
  | 0x06 => decodeE4M3 n
  | 0x07 => fmtE5M2.decode n
  | 0x08 => fmtE2M1.decodeFinite n
  | 0x09 => Fp.ofInt (if n < 128 then n else (n : Int) - 256) 0 false
  | _ => .fin false n 0

/-- Element `i` of a packed byte list at a width (4-bit elements low nibble first, R132, R133). -/
def packedElem (bs : List Byte) (width i : Nat) : Nat :=
  if width = 4 then
    let b := (at! bs (i / 2) 0).toNat
    if i % 2 = 0 then b % 16 else b / 16
  else fieldAt bs (i * (width / 8)) (width / 8)

/-- An element scaled by an E8M0 byte, as FP32 (R131). -/
def scaled (s : Nat) (x : Fp) : W32 :=
  if s = 0xFF then fnan
  else
    match x with
    | .fin neg m e => (Fp.fin neg m (e + (s : Int) - 127)).to32
    | y => y.to32

/-- Decode `n` elements of a stored vector to FP32 (R130 to R132). -/
def decodeVec (code n : Nat) (bs : List Byte) : List W32 :=
  let w := elemBits code
  if isMx code then
    let scales := bs.drop (roundUp (elemBytes code n) 32)
    (List.range n).map fun i => scaled (at! scales (i / 32) 0).toNat (decodeElem code (packedElem bs w i))
  else (List.range n).map fun i => (decodeElem code (packedElem bs w i)).to32

/-- Convert an FP32 value to a scalar output format, with the events it makes (R138, R144). FP32 takes the canonical
NaN (R137). -/
def convert (code : Nat) (v : W32) : Nat × NumEvents :=
  match code with
  | 0x01 => ((if isNan v then fnan else v).toNat, .none)
  | 0x02 =>
    match f32 v with
    | .nan => (0x7FC0, .none)
    | .inf neg => (if neg then 0xFF80 else 0x7F80, .none)
    | .fin neg m e =>
      let (q, t) := roundDyadic 8 fmtBf16.emin m e
      match fmtBf16.pack neg q t with
      | some n => if bits n 14 7 = 255 then (if neg then 0xFF80 else 0x7F80, ⟨1, 0⟩) else (n, .none)
      | none => (if neg then 0xFF80 else 0x7F80, ⟨1, 0⟩)
  | 0x04 =>
    match f32 v with
    | .nan => (0x7F, .none)
    | .inf neg => (if neg then 0xFE else 0x7E, ⟨1, 0⟩)
    | .fin neg m e =>
      let (q, t) := roundDyadic 4 fmtE4M3.emin m e
      match fmtE4M3.pack neg q t with
      | some n => if n % 128 = 0x7F then (if neg then 0xFE else 0x7E, ⟨1, 0⟩) else (n, .none)
      | none => (if neg then 0xFE else 0x7E, ⟨1, 0⟩)
  | _ =>
    match f32 v with
    | .nan => (0x7E, .none)
    | .inf neg => (if neg then 0xFC else 0x7C, .none)
    | .fin neg m e =>
      let (q, t) := roundDyadic 3 fmtE5M2.emin m e
      match fmtE5M2.pack neg q t with
      | some n => if bits n 6 2 = 31 then (if neg then 0xFC else 0x7C, ⟨1, 0⟩) else (n, .none)
      | none => (if neg then 0xFC else 0x7C, ⟨1, 0⟩)

/-- Pack patterns of a width into bytes (R132, R133: the lower index in the lower nibble). -/
def packElems (width : Nat) (xs : List Nat) : List Byte :=
  if width = 4 then (chunks 2 xs).map fun p => BitVec.ofNat 8 (at! p 0 0 % 16 + at! p 1 0 % 16 * 16)
  else xs.flatMap fun x => natLe x (width / 8)

/-- emax of an MX element format (R139). -/
def mxEmax (code : Nat) : Int :=
  if code = 0x08 then 2 else if code = 0x06 then 8 else 15

/-- The format of an MX code's elements, and the pattern of its largest finite value. -/
def mxFmt (code : Nat) : Fmt × Nat :=
  if code = 0x08 then (fmtE2M1, 0x7) else if code = 0x06 then (fmtE4M3, 0x7E) else (fmtE5M2, 0x7B)

/-- Encode one quotient as an MX element: rounded, or clamped and counted (R139 steps 4 and 5). -/
def mxElem (code : Nat) (x : Fp) : Nat × NumEvents :=
  let (f, top) := mxFmt code
  let sign (neg : Bool) : Nat := if neg then 2 ^ (f.eb + f.mb) else 0
  match x with
  | .fin neg m e =>
    let (q, t) := roundDyadic (f.mb + 1) f.emin m e
    match f.pack neg q t with
    | some n => if n % 2 ^ (f.eb + f.mb) ≤ top then (n, .none) else (sign neg + top, ⟨1, 0⟩)
    | none => (sign neg + top, ⟨1, 0⟩)
  | _ => (0, .none)

/-- Encode 32 values as one MX block: element patterns, scale byte, events (R139). -/
def mxBlock (code : Nat) (vs : List W32) : List Nat × Nat × NumEvents :=
  if vs.any fun v => isNan v || isInf v then (vs.map fun _ => 0, 0xFF, ⟨0, 1⟩)
  else
    let mags := vs.map fabs
    let big := mags.foldl (fun a b => if flt a b then b else a) 0
    match f32 big with
    | .fin _ m e =>
      if m = 0 then
        let (f, _) := mxFmt code
        (vs.map fun v => if bit v.toNat 31 then 2 ^ (f.eb + f.mb) else 0, 0x00, .none)
      else
        let ex := max (-127) (min 127 (e + (Nat.log2 m : Int) - mxEmax code))
        let out := vs.map fun v =>
          match f32 v with
          | .fin neg m e => mxElem code (.fin neg m (e - ex))
          | _ => (0, .none)
        (out.map Prod.fst, (ex + 127).toNat, out.foldl (fun a p => a.plus p.2) .none)
    | _ => (vs.map fun _ => 0, 0xFF, ⟨0, 1⟩)

/-- Encode FP32 values as a stored vector, with the events (R138, R139, R132). -/
def encodeVec (code : Nat) (vs : List W32) : List Byte × NumEvents :=
  if isMx code then
    let blocks := (chunks 32 vs).map (mxBlock code)
    let elems := padTo (packElems (elemBits code) (blocks.flatMap (·.1))) 32
    let scales := padTo (blocks.map fun b => BitVec.ofNat 8 b.2.1) 32
    (elems ++ scales, blocks.foldl (fun a b => a.plus b.2.2) .none)
  else
    let out := vs.map (convert code)
    (packElems (elemBits code) (out.map Prod.fst), out.foldl (fun a p => a.plus p.2) .none)

/-- Convert FP32 to BF16 (R138). -/
def toBf16 (v : W32) : W16 × NumEvents :=
  let (n, ev) := convert 0x02 v
  (BitVec.ofNat 16 n, ev)

/-- A BF16 pattern as FP32, exactly. -/
def ofBf16 (b : W16) : W32 :=
  (fmtBf16.decode b.toNat).to32

/-- Encode an INT8 component: the value over its power-of-two scale, rounded to nearest even (R133). The rule states no code for a NaN
or an infinity, nor for a quotient beyond the codes' range, which a scale of 1 leaves where the largest magnitude is not finite:
a free code (log 111). -/
def toInt8 (scale v : W32) : Nat :=
  match f32 (fdiv v scale) with
  | .fin neg m e =>
    let (q, t) := roundDyadic (bitLen m + 200) 0 m e
    let i := q * 2 ^ t.toNat
    if 127 < i then (Config.freeCode scale v).toNat else if neg && i != 0 then 256 - i else i
  | _ => (Config.freeCode scale v).toNat

/-! ### Scaled rows and vectors (R150, R206, R231) -/

/-- The scale exponent ⌈log2(a / f)⌉ of R150 for a = m × 2^e and f = 7 × 2^g. -/
def scaleExp (m : Nat) (e g : Int) : Int :=
  let l := Nat.log2 m
  if 4 * m ≤ 7 * 2 ^ l then e + (l : Int) - g - 2 else e + (l : Int) - g - 1

/-- A power of two as FP32; one below 2^-149 has no FP32 pattern, and the spec does not say what stands for it: a free pattern
(log 112). -/
def powerScale (ex : Int) : W32 := if ex < -149 then Config.freeScale ex.natAbs else (Fp.fin false 1 ex).to32

/-- The scale of one head of a block (R150): 1 in BF16, and where the largest magnitude is zero or not finite. -/
def headScale (format : Nat) (vs : List W32) : W32 :=
  if format != 0x04 && format != 0x05 then fone
  else if vs.any fun v => isNan v || isInf v then fone
  else
    match f32 (vs.foldl (fun a v => if flt a (fabs v) then fabs v else a) 0) with
    | .fin _ m e => if m = 0 then fone else powerScale (scaleExp m e (if format = 0x04 then 6 else 13))
    | _ => fone

/-- The scale exponent ⌈log2(a / 127)⌉ of R231 for a = m × 2^e. -/
def scaleExp127 (m : Nat) (e : Int) : Int :=
  let l := Nat.log2 m
  if 64 * m ≤ 127 * 2 ^ l then e + (l : Int) - 6 else e + (l : Int) - 5

/-- The scale of an INT8 vector (R231). -/
def int8Scale (vs : List W32) : W32 :=
  if vs.any fun v => isNan v || isInf v then fone
  else
    match f32 (vs.foldl (fun a v => if flt a (fabs v) then fabs v else a) 0) with
    | .fin _ m e => if m = 0 then fone else powerScale (scaleExp127 m e)
    | _ => fone

/-- A vector stored with its own scale, FP8 or INT8: elements, then the FP32 scale (R206, R231). -/
def encodeScaled (code : Nat) (vs : List W32) : List Byte × NumEvents :=
  let s := if code = 0x09 then int8Scale vs else headScale code vs
  let (bs, ev) :=
    if code = 0x09 then (packElems 8 (vs.map (toInt8 s)), NumEvents.none)
    else encodeVec code (vs.map fun v => fdiv v s)
  (bs ++ natLe s.toNat 4, ev)

/-- Whether a stored row or vector of a format carries its own FP32 scale (R206, R231). -/
def hasScale (code : Nat) : Bool := code == 0x04 || code == 0x05 || code == 0x09

/-- Encode a serving row or a full vector (R206, R217, R231), unpadded. -/
def encodeRow (code : Nat) (vs : List W32) : List Byte × NumEvents :=
  if hasScale code then encodeScaled code vs else encodeVec code vs

/-- Decode a serving row or a full vector of `n` elements to FP32 (R140). -/
def decodeScaled (code n : Nat) (bs : List Byte) : List W32 :=
  if hasScale code then
    let s := BitVec.ofNat 32 (fieldAt bs n 4)
    (decodeVec code n bs).map fun v => fmul v s
  else decodeVec code n bs

/-- The stored size of a row (R206): `kind` 1 is a training row with its header. -/
def rowSize (kind code dim : Nat) : Nat :=
  if kind = 1 then roundUp (16 + dim * (elemBits code / 8)) 32
  else if hasScale code then roundUp (dim + 4) 32
  else storedSize code dim

/-- Decode a row of a version (R206, R213). -/
def decodeStored (kind code dim : Nat) (bs : List Byte) : List W32 :=
  if kind = 1 then decodeVec code dim (bs.drop 16) else decodeScaled code dim bs

end Sys2Proof.Machine
end

