-- ==== Sys2Proof/Machine/Crc.lean ====
section
/-! DEFINITION. The check-value polynomials and the fold (R388, R389). -/

namespace Sys2Proof.Machine

/-- A polynomial of R388. -/
structure CrcPoly where
  width : Nat
  poly : Nat
  init : Nat
  reflected : Bool
  xorout : Nat
deriving DecidableEq, Repr

/-- The polynomial of a code (R388). -/
def crcPoly (code : Nat) : Option CrcPoly :=
  match code with
  | 0x01 => some { width := 32, poly := 0x1EDC6F41, init := 0xFFFFFFFF, reflected := true, xorout := 0xFFFFFFFF }
  | 0x02 => some { width := 64, poly := 0xAD93D23594C93659, init := 0xFFFFFFFFFFFFFFFF, reflected := true,
                   xorout := 0xFFFFFFFFFFFFFFFF }
  | 0x03 => some { width := 16, poly := 0x8BB7, init := 0, reflected := false, xorout := 0 }
  | 0x04 => some { width := 32, poly := 0x04C11DB7, init := 0xFFFFFFFF, reflected := true, xorout := 0xFFFFFFFF }
  | _ => none

/-- The lowest `w` bits in reverse order. -/
def reverseBits : Nat → Nat → Nat
  | 0, _ => 0
  | w + 1, n => n % 2 * 2 ^ w + reverseBits w (n / 2)

/-- `k` shifts of a reflected register. -/
def crcShiftR (rpoly : Nat) : Nat → Nat → Nat
  | 0, reg => reg
  | k + 1, reg => crcShiftR rpoly k (if reg % 2 = 1 then Nat.xor (reg / 2) rpoly else reg / 2)

/-- `k` shifts of a register of width `w` that is not reflected. -/
def crcShiftL (w poly : Nat) : Nat → Nat → Nat
  | 0, reg => reg
  | k + 1, reg =>
    crcShiftL w poly k (if reg / 2 ^ (w - 1) % 2 = 1 then Nat.xor (reg * 2 % 2 ^ w) poly else reg * 2 % 2 ^ w)

/-- The register after one byte. -/
def crcByte (p : CrcPoly) (reg : Nat) (b : Byte) : Nat :=
  if p.reflected then crcShiftR (reverseBits p.width p.poly) 8 (Nat.xor reg b.toNat)
  else crcShiftL p.width p.poly 8 (Nat.xor reg (b.toNat * 2 ^ (p.width - 8)))

/-- The register after bytes in order. -/
def crcBytes (p : CrcPoly) (reg : Nat) (bs : List Byte) : Nat := bs.foldl (crcByte p) reg

/-- The register that holds a seed: reversed where the register is reflected (R388, log 24). -/
def crcStart (p : CrcPoly) (seed : Nat) : Nat := if p.reflected then reverseBits p.width seed else seed

/-- The finished check of a register (R388). -/
def crcFinish (p : CrcPoly) (reg : Nat) : Nat := Nat.xor reg p.xorout

/-- The fold of an address and a sequence into `w` bits (R389). -/
def fold (w address sequence : Nat) : Nat :=
  let v := Nat.xor (address % 2 ^ 64 / 32) (sequence * 0x9E3779B97F4A7C15 % 2 ^ 64)
  (List.range (ceilDiv 64 w)).foldl (fun acc i => Nat.xor acc (v / 2 ^ (i * w) % 2 ^ w)) 0

/-- The seed with an address and a sequence folded in (R389). -/
def foldedSeed (p : CrcPoly) (address sequence : Nat) : Nat := Nat.xor p.init (fold p.width address sequence)

/-- The check of bytes under a polynomial and a seed. -/
def crcOf (p : CrcPoly) (seed : Nat) (bs : List Byte) : Nat := crcFinish p (crcBytes p (crcStart p seed) bs)

/-- CRC-32C of bytes with an address and a sequence folded into its seed (R389). -/
def foldedCheck (address sequence : Nat) (bs : List Byte) : W32 :=
  BitVec.ofNat 32 (match crcPoly 0x01 with
    | some p => crcOf p (foldedSeed p address sequence) bs
    | none => 0)

/-- The sector check of 32 bytes at an SA: CRC-32C, sequence 0 (R384). -/
def sectorCheck (sa : Nat) (bs : List Byte) : Nat := (foldedCheck sa 0 bs).toNat

/-- A word of a gallery's memories with the check that goes with its bytes: its local byte address is folded in (R385). -/
def LocalWord.make (unit addr : Nat) (bs : List Byte) : LocalWord :=
  { unit := unit, addr := addr, bytes := bs, check := foldedCheck addr 0 bs }

/-- Whether a word reads good (R385, R386). -/
def LocalWord.good (w : LocalWord) : Bool := w.check == foldedCheck w.addr 0 w.bytes

/-- The check of 32 bytes of a parity unit with parity index `j`, at a member-local physical offset (R385). -/
def parityCheck (off j : Nat) (bs : List Byte) : W32 := foldedCheck off (0x80000000 + j) bs

/-- The stored check of a poisoned sector (R386). -/
def poisonMark (check : Nat) : Nat := Nat.xor check 0x5C3BA9E1

end Sys2Proof.Machine
end

