-- ==== Sys2Proof/Machine/Lists.lean ====
section
/-! DEFINITION. Where the parts of a vector index lie (R230 to R232), and how the steps of a SEARCH read its lists (R242, R250). -/

namespace Sys2Proof.Machine

/-- Centroids per subspace of a code format (R228). -/
def Index.c (x : Index) : Nat := if x.codeFormat = 0x0A then 256 else 16

/-- The size E of an entry (R230). -/
def Index.entrySize (x : Index) : Nat :=
  roundUp (24 + if x.codeFormat = 0x0A then x.subspaces else ceilDiv x.subspaces 2) 8

/-- The slots S of a chunk (R230). -/
def Index.chunkSlots (x : Index) : Nat := min 1920 (65280 / x.entrySize)

/-- An empty list. -/
def IList.empty : IList := { chunks := [], entries := [], gen := 0, retained := none, holders := [], set := 0, lock := none }

/-- A list of an index. -/
def Index.list (x : Index) (n : Nat) : IList := at! x.lists n IList.empty

/-- Where entry `i` of a body lies. -/
def Index.entrySpan (x : Index) (chunks : List Nat) (i : Nat) : Span :=
  { sa := at! chunks (i / x.chunkSlots) 0 + 256 + i % x.chunkSlots * x.entrySize, len := x.entrySize }

/-- The body of a list that a snapshot reads: its chunks and its entries (R242, R245). A list rewritten since keeps it as
its retained body. -/
def Index.body (x : Index) (s : ListSnap) : List Nat × List Entry :=
  match x.lists[s.list]? with
  | none => ([], [])
  | some l => if l.gen = s.gen then (l.chunks, l.entries.take s.len) else (l.retained.map fun b => (b.1, b.2.take s.len)).getD ([], [])

/-- The snapshot of a list as it stands (R242): its body generation, and its length. -/
def Index.snapOf (x : Index) (n : Nat) : ListSnap :=
  let l := x.list n
  { list := n, gen := l.gen, set := l.set, len := l.entries.length }

/-- The spans of a list's slots `[lo, lo + n)` inside one chunk, after the chunk's header (R230, R250). -/
def Index.scanSpans (x : Index) (chunks : List Nat) (lo n : Nat) : List Span :=
  let c := at! chunks (lo / x.chunkSlots) 0
  [{ sa := c, len := 256 }, { sa := c + 256 + lo % x.chunkSlots * x.entrySize, len := n * x.entrySize }]

/-- The steps that scan a list's snapshot for a group of queries (R242, R250). -/
def Index.scanSteps (x : Index) (snap : ListSnap) (group : List Nat) : List Step :=
  let chunks := (x.body snap).1
  let s := x.chunkSlots
  let per := max 1 (32768 / (max 1 group.length * (ceilDiv x.subspaces 32 + 1)))
  (List.range chunks.length).flatMap fun c =>
    (pieces (min s (snap.len - c * s)) per).map fun p =>
      { Step.nop with kind := .gallery, free := true, reads := x.scanSpans chunks (c * s + p.1) p.2, effects := [.scan x.domain x.id group snap.list (c * s + p.1) p.2] }

/-- What a scan step scans: its index's domain and number, its queries, its list and slots. -/
def Step.scan? (st : Step) : Option (Nat × Nat × List Nat × Nat × Nat × Nat) :=
  st.effects.findSome? fun f => match f with
    | .scan dom id qs list lo n => some (dom, id, qs, list, lo, n)
    | _ => none

/-- The steps of a plan that scan a list become those of its snapshot (R242): a list that has lost every entry since keeps one step
that finds nothing. -/
def Index.rescan (x : Index) (snap : ListSnap) (plan : List Step) : List Step :=
  let mine (st : Step) : Option (List Nat) := st.scan?.bind fun s => if s.2.2.2.1 = snap.list then some s.2.2.1 else none
  (plan.foldl (fun (acc : List Step × List (List Nat)) st =>
    match mine st with
    | none => (acc.1 ++ [st], acc.2)
    | some g =>
      if acc.2.contains g then acc
      else
        let new := x.scanSteps snap g
        (acc.1 ++ (if new.isEmpty then [{ st with reads := [], extra := true, effects := [.scan x.domain x.id g snap.list 0 0] }] else new), acc.2 ++ [g])) ([], [])).1

/-- A scan step starts: the tombstone bits of its slots are read, in the snapshot that the first step of its list took (R242, R244). -/
def Index.startScan (x : Index) (run : SearchRun) (qs : List Nat) (list lo n : Nat) : SearchRun :=
  match run.snaps.find? (·.list == list) with
  | none => run
  | some s =>
    let es := (x.body s).2
    let gone := ((List.range n).map (· + lo)).filter fun i => (es[i]?).any (·.tomb)
    { run with dead := run.dead ++ qs.flatMap fun q => gone.map fun i => (q, list, i) }

end Sys2Proof.Machine
end

