-- ==== Sys2Proof/Machine/Operands.lean ====
section
/-! DEFINITION. The operand forms: for each verb the layout of its operand bytes, the checks that answer BAD_OPERAND
(R16, R284 and the verb's own rules), and the CVA ranges to translate (R293). -/

namespace Sys2Proof.Machine

/-- A CVA range that a command names: whether it is written, and the operand's byte offset (R293). -/
structure Need where
  cva : Nat
  len : Nat
  write : Bool
  off : Nat
deriving DecidableEq, Repr

/-- What decoding a command's operands gives: the ranges, or BAD_OPERAND. -/
abbrev Form := Option (List Need)

/-- The verbs (R97, R145, R202, R227, R274, R375, R390). -/
inductive Verb where
  | fill | copy | compare | reduce | atomic | atomicBatch
  | append | seal | fork | drop | migrate | selectAttend | fetchBlocks
  | gather | scatterUpdate | publishTable | rehang
  | search | insert | delete | compact
  | stream
  | bulkGet | bulkPut | publish | invalidate
  | scanCheck | checkSave | checkLoad
  | fence | fenceFull | release | acquire | abort | map | unmap | loanRenew
deriving DecidableEq, Repr

/-- Verb codes: class in bits [15:8], operation in [7:0] (R70). -/
def Verb.ofCode (n : Nat) : Option Verb :=
  match n with
  | 0x0101 => some .fill | 0x0102 => some .copy | 0x0103 => some .compare | 0x0104 => some .reduce
  | 0x0201 => some .atomic | 0x0202 => some .atomicBatch
  | 0x0301 => some .append | 0x0302 => some .seal | 0x0303 => some .fork | 0x0304 => some .drop
  | 0x0305 => some .migrate | 0x0306 => some .selectAttend | 0x0307 => some .fetchBlocks
  | 0x0401 => some .gather | 0x0402 => some .scatterUpdate | 0x0403 => some .publishTable | 0x0404 => some .rehang
  | 0x0501 => some .search | 0x0502 => some .insert | 0x0503 => some .delete | 0x0504 => some .compact
  | 0x0601 => some .stream
  | 0x0701 => some .bulkGet | 0x0702 => some .bulkPut | 0x0703 => some .publish | 0x0704 => some .invalidate
  | 0x0801 => some .scanCheck | 0x0802 => some .checkSave | 0x0803 => some .checkLoad
  | 0x0F01 => some .fence | 0x0F02 => some .fenceFull | 0x0F03 => some .release | 0x0F04 => some .acquire
  | 0x0F05 => some .abort | 0x0F06 => some .map | 0x0F07 => some .unmap | 0x0F08 => some .loanRenew
  | _ => none

/-- Verbs that take no tag (R82, R289). -/
def Verb.tagless : Verb → Bool
  | .abort => true | .map => true | .unmap => true | .loanRenew => true | _ => false

/-- Verbs served one at a time per domain by the Curator (R289). -/
def Verb.takesTurn : Verb → Bool
  | .map => true | .unmap => true | .loanRenew => true | _ => false

/-- Verbs that hold the later commands of their context (R116, R378). -/
def Verb.holds : Verb → Bool
  | .fence => true | .fenceFull => true | .acquire => true | .invalidate => true | _ => false

/-- Verbs that wait for their covered commands before they are eligible for a tag (R116, R377). -/
def Verb.covers : Verb → Bool
  | .fence => true | .fenceFull => true | .release => true | .publish => true | _ => false

/-! ### Fields of a line (R70, R71) -/

/-- The verb code of a line. -/
def lineVerb (l : List Byte) : Nat := fieldAt l 0 2

/-- Verb flags [7:4] of byte 2, as a number of four bits: bit 0 is flag [4]. -/
def lineFlags (l : List Byte) : Nat := fieldAt l 2 1 / 16

/-- NOTIFY and EXT of byte 2. -/
def lineNotify (l : List Byte) : Bool := bit (fieldAt l 2 1) 1
def lineExt (l : List Byte) : Bool := bit (fieldAt l 2 1) 0

/-- Priority, sequence number and completion address. -/
def linePrio (l : List Byte) : Nat := fieldAt l 3 1 % 4
def lineSeq (l : List Byte) : W32 := BitVec.ofNat 32 (fieldAt l 4 4)
def lineCompl (l : List Byte) : Nat := fieldAt l 8 8

/-- The reserved bits of bytes 2 and 3 are zero (R70, R16). -/
def lineReserved (l : List Byte) : Bool :=
  fieldAt l 2 1 / 4 % 4 == 0 && fieldAt l 3 1 / 4 == 0

/-- The descriptor pointer of a line with EXT: CVA and length (R71). -/
def descPointer (l : List Byte) : Form :=
  let cva := fieldAt l 16 8
  let len := fieldAt l 24 4
  if cva % 64 == 0 && decide (0 < cva ∧ cva < 2 ^ 57) && len % 64 == 0 && decide (64 ≤ len ∧ len ≤ 65536) && zeros l 28 64
  then some [{ cva := cva, len := len, write := false, off := 16 }] else none

/-- A required CVA operand: nonzero, below 2^57, aligned (R284). -/
def cvaOk (cva align : Nat) : Bool :=
  decide (0 < cva ∧ cva < 2 ^ 57) && cva % align == 0

/-- Whether a range stays in the CVA space. -/
def fits (cva len : Nat) : Bool :=
  decide (cva + len ≤ 2 ^ 57)

/-- A form that holds under a condition. -/
def formIf (ok : Bool) (ns : List Need) : Form :=
  if ok && ns.all (fun n => fits n.cva n.len) then some ns else none

/-! ### Classes 0x01 and 0x02 (R99 to R107) -/

/-- FILL (R99). -/
def formFill (l : List Byte) : Form :=
  let dst := fieldAt l 16 8; let len := fieldAt l 24 8; let w := fieldAt l 40 1
  formIf (lineFlags l == 0 && [1, 2, 4, 8].contains w && cvaOk dst (max w 1) && decide (1 ≤ len ∧ len ≤ 2 ^ 40) &&
      len % w == 0 && zeros l (32 + w) 40 && zeros l 41 64)
    [⟨dst, len, true, 16⟩]

/-- COPY (R100). -/
def formCopy (l : List Byte) : Form :=
  let src := fieldAt l 16 8; let dst := fieldAt l 24 8; let len := fieldAt l 32 8
  formIf (lineFlags l == 0 && cvaOk src 1 && cvaOk dst 1 && decide (1 ≤ len ∧ len ≤ 2 ^ 40) && !overlap src len dst len &&
      zeros l 40 64)
    [⟨src, len, false, 16⟩, ⟨dst, len, true, 24⟩]

/-- COMPARE (R101): flag [4] FIRST_ONLY. -/
def formCompare (l : List Byte) : Form :=
  let a := fieldAt l 16 8; let b := fieldAt l 24 8; let len := fieldAt l 32 8
  formIf (decide (lineFlags l ≤ 1) && cvaOk a 1 && cvaOk b 1 && decide (1 ≤ len ∧ len ≤ 2 ^ 40) && zeros l 40 64)
    [⟨a, len, false, 16⟩, ⟨b, len, false, 24⟩]

/-- Input formats REDUCE takes: FP32 to MXFP4 (R102). -/
def reduceIn (f : Nat) : Bool := decide (1 ≤ f ∧ f ≤ 8)

/-- Output formats REDUCE gives (R102). -/
def reduceOut (f : Nat) : Bool := [0x01, 0x02, 0x04, 0x05].contains f

/-- REDUCE (R102): flag [4] SCALAR. -/
def formReduce (l : List Byte) : Form :=
  let src := fieldAt l 16 8; let dst := fieldAt l 24 8; let n := fieldAt l 32 4; let m := fieldAt l 36 4
  let stride := fieldAt l 40 8; let fi := fieldAt l 48 1; let fo := fieldAt l 49 1; let op := fieldAt l 50 1
  let scalar := lineFlags l == 1
  let size := storedSize fi n
  formIf (decide (lineFlags l ≤ 1) && cvaOk src 32 && (if scalar then dst == 0 else cvaOk dst 32) &&
      decide (1 ≤ n ∧ n ≤ 2 ^ 28) && decide (1 ≤ m ∧ m ≤ 65536) && reduceIn fi && (!isMx fi || n % 32 == 0) &&
      reduceOut fo && (!scalar || fo == 1) && decide (1 ≤ op ∧ op ≤ 3) && stride % 32 == 0 && decide (size ≤ stride) &&
      zeros l 51 64)
    (⟨src, (m - 1) * stride + size, false, 16⟩ ::
      if scalar then [] else [⟨dst, elemBytes fo n, true, 24⟩])

/-- Whether an atomic operation admits a width (R105). -/
def atomicOk (op width : Nat) : Bool :=
  if [0x02, 0x0A, 0x0B].contains op then width == 4
  else decide (1 ≤ op ∧ op ≤ 0x0D) && (width == 4 || width == 8)

/-- ATOMIC (R106): flag [4] FETCH. -/
def formAtomic (l : List Byte) : Form :=
  let t := fieldAt l 16 8; let op := fieldAt l 40 1; let w := fieldAt l 41 1
  formIf (decide (lineFlags l ≤ 1) && atomicOk op w && cvaOk t (max w 1) && zeros l (24 + w) 32 &&
      (op == 0x0D || zeros l 32 40) && zeros l 42 64)
    [⟨t, w, true, 16⟩]

/-- ATOMIC_BATCH (R107). -/
def formAtomicBatch (l : List Byte) : Form :=
  let a := fieldAt l 16 8; let n := fieldAt l 24 4; let f := fieldAt l 32 8
  formIf (lineFlags l == 0 && cvaOk a 32 && decide (1 ≤ n ∧ n ≤ 65536) && zeros l 28 32 && (f == 0 || cvaOk f 8) &&
      zeros l 40 64)
    (⟨a, 32 * n, false, 16⟩ :: if f = 0 then [] else [⟨f, 8 * n, true, 32⟩])

/-! ### Class 0x0F (R90, R117 to R121, R290, R297, R306) -/

/-- FENCE and FENCE_FULL: no operands. -/
def formNone (l : List Byte) : Form :=
  formIf (lineFlags l == 0 && zeros l 16 64) []

/-- RELEASE (R119). -/
def formRelease (l : List Byte) : Form :=
  let flag := fieldAt l 16 8; let op := fieldAt l 32 1
  formIf (lineFlags l == 0 && cvaOk flag 8 && (op == 1 || op == 2) && zeros l 33 64) [⟨flag, 8, true, 16⟩]

/-- ACQUIRE (R121). -/
def formAcquire (l : List Byte) : Form :=
  let flag := fieldAt l 16 8; let cond := fieldAt l 32 1; let scope := fieldAt l 33 1
  let rc := fieldAt l 40 8; let rl := fieldAt l 48 8
  formIf (lineFlags l == 0 && decide (cond ≤ 4) && (if cond = 0 then flag == 0 else cvaOk flag 8) &&
      (scope == 1 || scope == 2) && (if scope = 1 then cvaOk rc 1 && decide (1 ≤ rl) else rc == 0 && rl == 0) &&
      zeros l 34 36 && zeros l 56 64)
    ((if cond = 0 then [] else [⟨flag, 8, false, 16⟩]) ++ (if scope = 1 then [⟨rc, rl, false, 40⟩] else []))

/-- ABORT (R90): the checks that need no context. -/
def formAbort (l : List Byte) : Form :=
  let scope := fieldAt l 16 1; let slot := fieldAt l 18 2
  formIf (lineFlags l == 0 && decide (1 ≤ scope ∧ scope ≤ 3) && zeros l 17 18 && (scope == 1 || slot == 0) &&
      decide (slot < 64) && (scope != 3 || zeros l 20 24) && zeros l 24 64) []

/-- MAP (R290): the checks of its own bytes; the rest is the Curator's (R291, R292). -/
def formMap (l : List Byte) : Form :=
  let op := fieldAt l 16 1; let rights := fieldAt l 17 1; let region := fieldAt l 19 1; let loan := fieldAt l 20 4
  let cva := fieldAt l 24 8; let len := fieldAt l 32 8; let src := fieldAt l 40 8; let host := fieldAt l 48 2
  let big := op == 4 || op == 5
  let unit := if big then 0x20_0000 else 0x1_0000
  formIf (lineFlags l == 0 && decide (1 ≤ op ∧ op ≤ 5) && zeros l 18 19 && zeros l 50 64 &&
      (if op = 1 then rights == 1 || rights == 3 else if op = 2 then decide (1 ≤ rights ∧ rights ≤ 3) else rights == 0) &&
      (if op = 4 then decide (region < 8) else op == 5 || region == 0) && (!(op == 3 || op == 4) || loan == 0) &&
      cvaOk cva unit && decide (0x1_0000 ≤ cva) && decide (unit ≤ len) && len % unit == 0 && decide (cva + len ≤ 2 ^ 57) &&
      (if op = 2 then cvaOk src 0x1_0000 && decide (src + len ≤ 2 ^ 57)
       else if big then src % 0x20_0000 == 0 else src == 0) && (op == 4 || host == 0)) []

/-- UNMAP (R297). -/
def formUnmap (l : List Byte) : Form :=
  let mode := fieldAt l 16 1; let host := fieldAt l 20 2; let cva := fieldAt l 24 8; let len := fieldAt l 32 8
  formIf (lineFlags l == 0 && (mode == 1 || mode == 2) && zeros l 17 20 && (mode == 2 || host == 0) && zeros l 22 24 &&
      cvaOk cva 0x1_0000 && decide (0x1_0000 ≤ len) && len % 0x1_0000 == 0 && decide (cva + len ≤ 2 ^ 57) && zeros l 40 64) []

/-- LOAN_RENEW (R306). -/
def formLoan (l : List Byte) : Form :=
  let op := fieldAt l 16 1; let handle := fieldAt l 20 4; let term := fieldAt l 24 8; let holder := fieldAt l 32 2
  formIf (lineFlags l == 0 && decide (1 ≤ op ∧ op ≤ 4) && zeros l 17 20 && (op != 1 || handle == 0) &&
      (if op = 1 ∨ op = 2 then term == 0 || decide (1000 ≤ term ∧ term ≤ 3600000000) else term == 0) &&
      (op == 4 || holder == 0) && zeros l 34 64) []

/-! ### Class 0x07 (R376 to R378) -/

/-- BULK_GET and BULK_PUT (R376). -/
def formBulk (get : Bool) (l : List Byte) : Form :=
  let loc := fieldAt l 16 8; let len := fieldAt l 24 8; let kind := fieldAt l 32 1; let remote := fieldAt l 40 8
  formIf (lineFlags l == 0 && (kind == 1 || kind == 2) && cvaOk loc (if kind = 2 then 256 else 32) &&
      decide (1 ≤ len ∧ len ≤ 2 ^ 40) && (kind == 1 || len % 256 == 0) && zeros l 33 34 && zeros l 37 40 && zeros l 48 64 &&
      (if kind = 1 then zeros l 34 37 && cvaOk remote 1 && !overlap loc len remote len else decide (fieldAt l 36 1 < 64)))
    (⟨loc, len, get, 16⟩ :: if kind = 1 then [⟨remote, len, !get, 40⟩] else [])

/-- PUBLISH (R377). -/
def formPublish (l : List Byte) : Form :=
  formIf (lineFlags l == 0 && cvaOk (fieldAt l 16 8) 16 && zeros l 40 64) [⟨fieldAt l 16 8, 16, true, 16⟩]

/-- INVALIDATE (R378): flag [4] ALL_MEMBERS. Its range is only compared with line addresses, and is translated like
any other operand (R293). -/
def formInvalidate (l : List Byte) : Form :=
  let cva := fieldAt l 16 8; let len := fieldAt l 24 8; let scope := fieldAt l 32 1
  formIf (decide (lineFlags l ≤ 1) && cvaOk cva 1 && decide (1 ≤ len) && decide (1 ≤ scope ∧ scope ≤ 3) && zeros l 33 64)
    [⟨cva, len, false, 16⟩]

/-! ### Class 0x08 (R392, R394) -/

/-- SCAN_CHECK (R392): the checks of its own bytes. -/
def formScanCheck (l : List Byte) : Form :=
  let cva := fieldAt l 16 8; let len := fieldAt l 24 8; let poly := fieldAt l 32 1; let mode := fieldAt l 33 1
  let seed := fieldAt l 34 1; let n := fieldAt l 35 1; let blk := fieldAt l 36 4; let arr := fieldAt l 48 8
  let running := mode == 1
  formIf (lineFlags l == 0 && decide (1 ≤ poly ∧ poly ≤ 4) && decide (1 ≤ mode ∧ mode ≤ 3) &&
      decide (1 ≤ len ∧ len ≤ 2 ^ 40) && cvaOk cva (if running then 1 else 32) &&
      (if running then decide (seed ≤ 2) && decide (n < 8) && blk == 0 && arr == 0
       else decide (seed ≤ 1) && n == 0 && [512, 4096, 65536].contains blk && len % blk == 0 && cvaOk arr 8) &&
      (seed == 1 || (zeros l 40 44 && zeros l 56 64)) && zeros l 44 48)
    (⟨cva, len, false, 16⟩ :: if running then [] else [⟨arr, len / blk * 8, mode == 2, 48⟩])

/-- CHECK_SAVE and CHECK_LOAD (R394). -/
def formCheckRecord (save : Bool) (l : List Byte) : Form :=
  formIf (lineFlags l == 0 && cvaOk (fieldAt l 16 8) 32 && decide (fieldAt l 24 1 < 8) && zeros l 25 64)
    [⟨fieldAt l 16 8, 32, save, 16⟩]

/-! ### Class 0x03 (R146, R153 to R163) -/

/-- The geometry of a session that operand sizes depend on (R146). -/
structure Geom where
  layers : Nat
  heads : Nat
  dim : Nat
  group : Nat
deriving DecidableEq, Repr

/-- APPEND (R153) from its 48 operand bytes (line bytes 16 to 63, or descriptor bytes 0 to 47); `at0` is the byte
offset of the first. -/
def appendNeeds (o : List Byte) (at0 : Nat) (init : Bool) (g : Geom) : Form :=
  let l := fieldAt o 0 2; let f := fieldAt o 2 1; let n := fieldAt o 8 4
  let ks := fieldAt o 16 8; let vs := fieldAt o 24 8; let ids := fieldAt o 32 8
  let size := n * g.heads * g.dim * (elemBits f / 8)
  if n = 0 then
    formIf (init && decide (l < g.layers) && decide (1 ≤ f ∧ f ≤ 3) && zeros o 3 4 && zeros o 12 16 && zeros o 40 48) []
  else
    formIf (decide (l < g.layers) && decide (1 ≤ f ∧ f ≤ 3) && zeros o 3 4 && decide (n ≤ 4096) && zeros o 12 16 &&
        cvaOk ks 32 && cvaOk vs 32 && (if l = 0 then cvaOk ids 1 else ids == 0) && zeros o 40 48)
      ([⟨ks, size, false, at0 + 16⟩, ⟨vs, size, false, at0 + 24⟩] ++
        if l = 0 then [⟨ids, 4 * n, false, at0 + 32⟩] else [])

/-- The geometry an INIT descriptor gives, where it is in range (R146). -/
def initGeom (o : List Byte) : Option Geom :=
  let l := fieldAt o 48 2; let h := fieldAt o 50 2; let dm := fieldAt o 52 2; let g := fieldAt o 54 1
  let hot := fieldAt o 55 1; let t := fieldAt o 56 4
  if decide (1 ≤ l ∧ l ≤ 256) && decide (1 ≤ h ∧ h ≤ 32) && [64, 128, 192, 256].contains dm && decide (1 ≤ g ∧ g ≤ 16) &&
      [0x02, 0x04, 0x05].contains hot && t % 64 == 0 && decide (64 ≤ t ∧ t ≤ 16777216) && zeros o 60 64 &&
      cvaOk (fieldAt o 64 8) 64 && zeros o 72 128 && o.length == 128
  then some { layers := l, heads := h, dim := dm, group := g } else none

/-- APPEND without INIT. -/
def formAppend (l : List Byte) (g : Geom) : Form :=
  if lineFlags l = 0 then appendNeeds (slice l 16 48) 16 false g else none

/-- The descriptor of an APPEND with INIT (R146). -/
def formAppendInit (o : List Byte) : Form :=
  match initGeom o with
  | none => none
  | some g =>
    match appendNeeds o 0 true g with
    | none => none
    | some ns => formIf true (ns ++ [⟨fieldAt o 64 8, 32 * g.dim * g.heads * g.layers, false, 64⟩])

/-- SEAL (R156): flag [4] DEMOTE. -/
def formSeal (l : List Byte) (g : Geom) : Form :=
  let first := fieldAt l 20 2; let n := fieldAt l 22 2
  formIf (decide (lineFlags l ≤ 1) && fieldAt l 16 4 % 64 == 0 && decide (first < g.layers ∧ first + n ≤ g.layers) &&
      zeros l 24 64) []

/-- FORK (R158). -/
def formFork (l : List Byte) : Form :=
  let p := fieldAt l 20 4; let t := fieldAt l 24 4
  formIf (lineFlags l == 0 && zeros l 19 20 && decide (0 < p) && t % 64 == 0 && (t == 0 || decide (p ≤ t ∧ t ≤ 16777216)) &&
      decide (fieldAt l 18 1 < 16) && zeros l 28 64) []

/-- DROP (R161). -/
def formDrop (l : List Byte) : Form :=
  let mode := fieldAt l 16 1
  formIf (lineFlags l == 0 && (mode == 1 || mode == 2) && zeros l 17 20 && (mode == 2 || zeros l 20 24) && zeros l 24 64) []

/-- MIGRATE (R163). -/
def formMigrate (l : List Byte) (g : Geom) : Form :=
  let kind := fieldAt l 16 1; let first := fieldAt l 20 2; let n := fieldAt l 22 2
  formIf (lineFlags l == 0 && decide (1 ≤ kind ∧ kind ≤ 3) && zeros l 18 20 && zeros l 32 64 &&
      (if kind = 1 then decide (fieldAt l 17 1 < 16) && zeros l 20 32
       else zeros l 17 18 && decide (first < g.layers ∧ first + n ≤ g.layers))) []

/-- Bytes a summary record of one block takes (R151). -/
def summarySize (h dm : Nat) : Nat :=
  64 + 64 * ceilDiv h 8 + h * (6 * dm + 32)

/-- FETCH_BLOCKS (R162); the destination length is checked against the size needed when the verb runs. -/
def formFetchBlocks (l : List Byte) (g : Geom) : Form :=
  let parts := fieldAt l 18 1; let n := fieldAt l 24 4; let dst := fieldAt l 32 8; let len := fieldAt l 40 8
  formIf (lineFlags l == 0 && decide (fieldAt l 16 2 < g.layers) && decide (1 ≤ parts ∧ parts ≤ 15) &&
      decide (fieldAt l 19 1 ≤ 2) && decide (1 ≤ n ∧ n ≤ 16384) && zeros l 28 32 && cvaOk dst 64 && decide (1 ≤ len) &&
      zeros l 48 64)
    [⟨dst, len, true, 32⟩]

/-- Whether an FP32 operand is 0.0, or finite and above 0 (R175). -/
def zeroOrPositive (w : Nat) : Bool := w == 0 || decide (0 < w ∧ w < 0x7F80_0000)

/-- The KV heads a SELECT_ATTEND names: the first, and how many (R175). -/
def selectHeads (o : List Byte) (heads : Nat) : Nat × Nat :=
  let h0 := fieldAt o 13 1; let hc := fieldAt o 14 1
  (h0, if hc = 0 then heads - h0 else hc)

/-- The stride of a selection region (R200). -/
def selectStride (flags : Nat) (o : List Byte) : Nat :=
  let w := fieldAt o 16 4
  let e := if bit flags 1 then ceilDiv (fieldAt o 4 4 + fieldAt o 2 1) 64
    else if w != 0 then fieldAt o 10 1 + ceilDiv w 64 + 2
    else fieldAt o 10 1 + fieldAt o 8 2 + fieldAt o 11 1 + 4
  roundUp (64 + 4 * e) 64

/-- SELECT_ATTEND (R175 to R179) from its operand bytes; `at0` is the byte offset of the first and `sel` the selection
address. Flag [4] FLASH_SKIP, [5] EXACT, [6] HOST_OUT. -/
def selectNeeds (flags : Nat) (o : List Byte) (at0 sel : Nat) (g : Geom) : Form :=
  let q := fieldAt o 2 1; let f := fieldAt o 3 1; let topK := fieldAt o 8 2; let sink := fieldAt o 10 1
  let recent := fieldAt o 11 1; let mult := fieldAt o 12 1; let w := fieldAt o 16 4; let scale := fieldAt o 20 4
  let query := fieldAt o 32 8; let out := fieldAt o 40 8
  let (h0, hc) := selectHeads o g.heads
  let rows := q * hc * g.group
  let exact := bit flags 1; let host := bit flags 2
  let outs : List Need := if host then [] else
    [⟨out, rows * (64 + 4 * g.dim), true, at0 + 40⟩] ++ if sel = 0 then [] else [⟨sel, hc * selectStride flags o, true, 48⟩]
  formIf (decide (flags < 8) && decide (fieldAt o 0 2 < g.layers) && decide (1 ≤ q ∧ q ≤ 16) && decide (1 ≤ f ∧ f ≤ 3) &&
      decide (topK ≤ 4096) && decide (sink ≤ 16) && decide (recent ≤ 64) && decide (mult ≤ 16) && decide (h0 < g.heads) &&
      decide (h0 + hc ≤ g.heads) && zeros o 15 16 && zeroOrPositive scale && decide (scale ≤ 0x3F80_0000) &&
      zeroOrPositive (fieldAt o 24 4) && zeros o 28 32 &&
      (w == 0 || (topK == 0 && recent == 0 && mult == 0)) &&
      (!exact || (topK == 0 && sink == 0 && recent == 0 && mult == 0 && w == 0)) &&
      cvaOk query 32 && (if host then out % 64 == 0 else cvaOk out 64) &&
      (sel == 0 || (if host then sel % 4 == 0 else cvaOk sel 4)))
    (⟨query, rows * g.dim * (elemBits f / 8), false, at0 + 32⟩ :: outs)

/-- SELECT_ATTEND by its line, or by its 64-byte descriptor (R177). -/
def formSelect (l desc : List Byte) (g : Geom) : Form :=
  if lineExt l then
    if desc.length == 64 && zeros desc 56 64 then selectNeeds (lineFlags l) desc 0 (fieldAt desc 48 8) g else none
  else selectNeeds (lineFlags l) (slice l 16 48) 16 0 g

/-- Which layers a class 0x03 command touches (R148): whether it writes them, the first, and how many (0: to the last). -/
structure Touch where
  writes : Bool
  first : Nat
  count : Nat
deriving DecidableEq, Repr

/-- The layers a class 0x03 command names; FORK, and APPEND with INIT, make every layer of their own context (log 15). -/
def touchOf (v : Verb) (line desc : List Byte) : Option Touch :=
  match v with
  | .append =>
    if lineFlags line = 1 then some { writes := true, first := 0, count := 0 }
    else some { writes := true, first := if lineExt line then fieldAt desc 0 2 else fieldAt line 16 2, count := 1 }
  | .seal => some { writes := true, first := fieldAt line 20 2, count := fieldAt line 22 2 }
  | .fork => some { writes := true, first := 0, count := 0 }
  | .drop => some { writes := true, first := 0, count := 0 }
  | .migrate => some { writes := true, first := fieldAt line 20 2, count := fieldAt line 22 2 }
  | .selectAttend => some { writes := false, first := if lineExt line then fieldAt desc 0 2 else fieldAt line 16 2, count := 1 }
  | .fetchBlocks => some { writes := false, first := fieldAt line 16 2, count := 1 }
  | _ => none

/-- Two layer ranges meet. -/
def Touch.meets (a b : Touch) : Bool :=
  (a.count == 0 || decide (b.first < a.first + a.count)) && (b.count == 0 || decide (a.first < b.first + b.count))

/-- The running value a class 0x08 command names (R395). -/
def runningOf (v : Verb) (l : List Byte) : Option Nat :=
  match v with
  | .scanCheck => if fieldAt l 33 1 = 1 then some (fieldAt l 35 1) else none
  | .checkSave => some (fieldAt l 24 1)
  | .checkLoad => some (fieldAt l 24 1)
  | _ => none

/-! ### Class 0x04 (R209, R212, R216, R219) -/

/-- GATHER (R212): flag [4] HOST_OUT, [5] COUNT. The output range depends on the bound version and is translated when
the verb runs (log 30). -/
def formGather (l : List Byte) : Form :=
  let pool := fieldAt l 18 1; let b := fieldAt l 20 4; let n := fieldAt l 24 4
  let idx := fieldAt l 32 8; let off := fieldAt l 40 8; let w := fieldAt l 48 8; let out := fieldAt l 56 8
  formIf (decide (lineFlags l < 4) && decide (fieldAt l 16 2 < 64) && decide (pool ≤ 3) && reduceOut (fieldAt l 19 1) &&
      decide (1 ≤ b ∧ b ≤ 65536) && decide (1 ≤ n ∧ n ≤ 1048576) && cvaOk idx 4 &&
      (if pool = 0 then b == n && off == 0 else cvaOk off 1) && (if pool = 3 then cvaOk w 1 else w == 0) &&
      (if bit (lineFlags l) 0 then out % 32 == 0 else cvaOk out 32))
    (⟨idx, 4 * n, false, 32⟩ :: ((if pool = 0 then [] else [⟨off, 4 * (b + 1), false, 40⟩]) ++
      if pool = 3 then [⟨w, 4 * n, false, 48⟩] else []))

/-- A finite FP32 pattern; one above 0; one in [0, 1). -/
def finite32 (w : Nat) : Bool := w / 2 ^ 23 % 256 != 255
def positive32 (w : Nat) : Bool := decide (0 < w ∧ w < 0x7F80_0000)
def unit32 (w : Nat) : Bool := decide (w < 0x3F80_0000) || w == 0x8000_0000

/-- SCATTER_UPDATE (R219); the gradient range depends on the bound version and is translated when the verb runs. -/
def formScatter (l : List Byte) : Form :=
  let opt := fieldAt l 18 1; let n := fieldAt l 20 4
  let lr := fieldAt l 40 4; let eps := fieldAt l 44 4; let b1 := fieldAt l 48 4; let b2 := fieldAt l 52 4; let t := fieldAt l 56 4
  formIf (lineFlags l == 0 && decide (fieldAt l 16 2 < 64) && decide (1 ≤ opt ∧ opt ≤ 5) &&
      decide (1 ≤ fieldAt l 19 1 ∧ fieldAt l 19 1 ≤ 3) && decide (1 ≤ n ∧ n ≤ 65536) && cvaOk (fieldAt l 24 8) 4 &&
      cvaOk (fieldAt l 32 8) 32 && (if opt = 1 then lr == 0 else finite32 lr) && (if 3 ≤ opt then positive32 eps else eps == 0) &&
      (if opt = 5 then unit32 b1 && unit32 b2 && decide (1 ≤ t) else b1 == 0 && b2 == 0 && (opt == 1 || t == 0)) && zeros l 60 64)
    [⟨fieldAt l 24 8, 4 * n, false, 24⟩]

/-- PUBLISH_TABLE (R209). -/
def formPublishTable (l : List Byte) : Form :=
  let mode := fieldAt l 18 1; let dsc := fieldAt l 32 8
  let reads := mode == 1 || mode == 2
  formIf (lineFlags l == 0 && decide (fieldAt l 16 2 < 64) && decide (1 ≤ mode ∧ mode ≤ 5) && zeros l 19 20 &&
      (mode != 1 || zeros l 20 24) && (mode == 3 || mode == 4 || zeros l 24 28) && (mode == 4 || zeros l 28 32) &&
      (if reads then cvaOk dsc 64 else dsc == 0) && zeros l 40 64)
    (if reads then [⟨dsc, 64, false, 32⟩] else [])

/-- Formats of serving rows (R205). -/
def servingFormat (f : Nat) : Bool := [1, 2, 4, 5, 6, 7, 8].contains f

/-- REHANG (R216): flag [4] PUBLISH. The popularity range depends on the source and is translated when the verb runs. -/
def formRehang (l : List Byte) : Form :=
  let pop := fieldAt l 48 8
  formIf (decide (lineFlags l ≤ 1) && decide (fieldAt l 16 2 < 64) && servingFormat (fieldAt l 18 1) &&
      servingFormat (fieldAt l 19 1) && servingFormat (fieldAt l 20 1) && zeros l 21 24 &&
      (lineFlags l == 1 || zeros l 28 32) && decide (fieldAt l 32 4 ≤ 2 ^ 30) && decide (fieldAt l 36 4 ≤ 2 ^ 30) &&
      decide (fieldAt l 40 4 ≤ 2 ^ 30) && zeros l 44 48 && (pop == 0 || cvaOk pop 4) && zeros l 56 64) []

/-! ### Class 0x05 (R228, R233, R246, R248, R249) -/

/-- SEARCH (R233): flag [4] HOST_OUT. What depends on the index is checked when the verb runs. -/
def formSearch (l : List Byte) : Form :=
  let filter := fieldAt l 19 1; let k := fieldAt l 22 2; let np := fieldAt l 24 2; let mp := fieldAt l 26 2; let rr := fieldAt l 28 2
  let mask := fieldAt l 40 8; let val := fieldAt l 48 8; let out := fieldAt l 56 8
  formIf (decide (lineFlags l ≤ 1) && decide (fieldAt l 16 2 < 64) && decide (1 ≤ fieldAt l 18 1 ∧ fieldAt l 18 1 ≤ 3) &&
      decide (filter ≤ 2) && decide (1 ≤ fieldAt l 20 2 ∧ fieldAt l 20 2 ≤ 256) && decide (1 ≤ k ∧ k ≤ 1024) && decide (1 ≤ np) &&
      (mp == 0 || decide (np ≤ mp)) && (rr == 0 || decide (k ≤ rr ∧ rr ≤ 4096)) && zeros l 30 32 && cvaOk (fieldAt l 32 8) 32 &&
      (filter != 0 || mask == 0) && (if filter = 1 then val &&& mask == val else val == 0) &&
      (if lineFlags l = 1 then out % 64 == 0 else cvaOk out 64)) []

/-- The INSERT operands (R246) from line byte 16 or descriptor byte 0; the vectors' range depends on the dimension. -/
def insertNeeds (o : List Byte) (at0 : Nat) (init : Bool) : Form :=
  let n := fieldAt o 4 4; let attrs := fieldAt o 24 8; let lists := fieldAt o 32 8
  let ok := decide (fieldAt o 0 2 < 64) && decide (1 ≤ fieldAt o 2 1 ∧ fieldAt o 2 1 ≤ 3) && zeros o 3 4 && decide (n ≤ 65536) && zeros o 40 48
  if n = 0 then formIf (ok && init) []
  else
    formIf (ok && cvaOk (fieldAt o 8 8) 32 && cvaOk (fieldAt o 16 8) 8 && (attrs == 0 || cvaOk attrs 1) &&
        (lists == 0 || cvaOk lists 1))
      (⟨fieldAt o 16 8, 8 * n, false, at0 + 16⟩ :: ((if attrs = 0 then [] else [⟨attrs, 8 * n, false, at0 + 24⟩]) ++
        if lists = 0 then [] else [⟨lists, 4 * n, false, at0 + 32⟩]))

/-- INSERT without INIT: flag [5] REPLACE. -/
def formInsert (l : List Byte) : Form :=
  if bit (lineFlags l) 0 || decide (4 ≤ lineFlags l) then none else insertNeeds (slice l 16 48) 16 false

/-- Centroids per subspace of a code format (R228). -/
def codeCount (f : Nat) : Nat := if f = 0x0A then 256 else 16

/-- The descriptor of an INSERT with INIT (R228). -/
def formInsertInit (o : List Byte) : Form :=
  let dm := fieldAt o 48 2; let cf := fieldAt o 51 1; let m := fieldAt o 52 2; let nl := fieldAt o 56 4
  if !(o.length == 128 && dm % 32 == 0 && decide (32 ≤ dm ∧ dm ≤ 2048) && decide (1 ≤ fieldAt o 50 1 ∧ fieldAt o 50 1 ≤ 3) &&
      (cf == 0x0A || cf == 0x0B) && m % 8 == 0 && decide (8 ≤ m ∧ m ≤ 256) && dm % m == 0 &&
      [1, 2, 4, 9].contains (fieldAt o 54 1) && decide (fieldAt o 55 1 ≤ 1) && decide (1 ≤ nl ∧ nl ≤ 65536) &&
      decide (1 ≤ fieldAt o 60 4) && cvaOk (fieldAt o 64 8) 32 && cvaOk (fieldAt o 72 8) 32 && zeros o 80 128) then none
  else
    match insertNeeds o 0 true with
    | none => none
    | some ns => formIf true (ns ++ [⟨fieldAt o 64 8, 2 * nl * dm, false, 64⟩, ⟨fieldAt o 72 8, 2 * codeCount cf * dm, false, 72⟩])

/-- DELETE (R248). -/
def formDelete (l : List Byte) : Form :=
  let mode := fieldAt l 18 1; let n := fieldAt l 20 4; let ids := fieldAt l 24 8
  formIf (lineFlags l == 0 && decide (fieldAt l 16 2 < 64) && (mode == 1 || mode == 2) && zeros l 19 20 && zeros l 32 64 &&
      (if mode = 1 then decide (1 ≤ n ∧ n ≤ 65536) && cvaOk ids 1 else n == 0 && ids == 0))
    (if mode = 1 then [⟨ids, 8 * n, false, 24⟩] else [])

/-- COMPACT (R249). -/
def formCompact (l : List Byte) : Form :=
  let mode := fieldAt l 18 1
  formIf (lineFlags l == 0 && decide (fieldAt l 16 2 < 64) && decide (1 ≤ mode ∧ mode ≤ 3) && zeros l 19 20 &&
      (mode == 1 || zeros l 20 28) && zeros l 28 64) []

/-! ### Class 0x06 (R275, R276) -/

/-- A layer entry of a STREAM descriptor: source, destination, shadow, bytes, deadline. -/
def streamEntry (o : List Byte) (i : Nat) : Nat × Nat × Nat × Nat × Nat :=
  let b := 64 + 32 * i
  (fieldAt o b 8, fieldAt o (b + 8) 8, fieldAt o (b + 16) 8, fieldAt o (b + 24) 4 * 64, fieldAt o (b + 28) 4)

/-- The size of a layer's shadow (R276). -/
def shadowSize (fmt bytes : Nat) : Nat := storedSize 0x08 (bytes * 8 / max 1 (elemBits fmt))

/-- STREAM (R275, R276) from its descriptor: flag [4] HOST_OUT, [5] BUILD_SHADOW. -/
def formStream (l o : List Byte) : Form :=
  let host := bit (lineFlags l) 0; let build := bit (lineFlags l) 1
  let n := fieldAt o 0 2; let policy := fieldAt o 2 1; let fmt := fieldAt o 3 1; let wait := fieldAt o 4 4; let arr := fieldAt o 8 8
  let es := (List.range n).map (streamEntry o)
  let entryOk (e : Nat × Nat × Nat × Nat × Nat) : Bool :=
    let (src, dst, sh, len, dl) := e
    cvaOk src 64 && decide (64 ≤ len) && (len * 8 / max 1 (elemBits fmt)) % 32 == 0 &&
      (if build then dst == 0 && dl == 0 else if host then dst % 64 == 0 else cvaOk dst 64) &&
      (if sh = 0 then !build else cvaOk sh 32) && (!host || decide (shadowSize fmt len ≤ len))
  let rising := ((es.zip (es.drop 1)).all fun p => decide (p.1.2.2.2.2 ≤ p.2.2.2.2.2))
  formIf (lineExt l && decide (lineFlags l < 4) && decide (1 ≤ n ∧ n ≤ 2046) && o.length == 64 + 32 * n && (build || decide (policy ≤ 3)) &&
      reduceOut fmt && (if policy = 1 then decide (1 ≤ wait ∧ wait ≤ 10000000) else wait == 0) && decide (fieldAt o 16 1 ≤ 16) &&
      zeros o 17 64 && (if host then arr % 16 == 0 else cvaOk arr 16) && es.all entryOk && rising)
    ((if host || build then [] else [⟨arr, 16 * n, true, 8⟩]) ++ (List.range n).flatMap fun i =>
      let (src, dst, sh, len, _) := streamEntry o i
      let b := 64 + 32 * i
      (⟨src, len, false, b⟩ : Need) :: ((if host || build then [] else [⟨dst, len, true, b + 8⟩]) ++
        if sh = 0 then [] else [⟨sh, shadowSize fmt len, true, b + 16⟩]))

/-! ### The form of any line -/

/-- Whether a line's verb lays out an extended descriptor under its flags (R71): APPEND and INSERT with INIT,
SELECT_ATTEND, STREAM. -/
def allowsExt (v : Verb) (l : List Byte) : Bool :=
  match v with
  | .append => lineFlags l == 1
  | .insert => bit (lineFlags l) 0
  | .selectAttend => true
  | .stream => true
  | _ => false

/-- The reserved verb flags of a line with EXT are zero (R96 check 7, R176, R246, R275): known from the line alone, ahead of its
descriptor. -/
def extFlagsOk (v : Verb) (l : List Byte) : Bool :=
  match v with
  | .insert => decide (lineFlags l < 4)
  | .selectAttend => decide (lineFlags l < 8)
  | .stream => decide (lineFlags l < 4)
  | _ => true

/-- The ranges a command names, or none for BAD_OPERAND: check 7 of R96 over the line, and over the descriptor where the
line has one (R71). `g` is the geometry of the context's session, for class 0x03. -/
def formOf (g : Option Geom) (v : Verb) (l desc : List Byte) : Form :=
  match v with
  | .fill => formFill l
  | .copy => formCopy l
  | .compare => formCompare l
  | .reduce => formReduce l
  | .atomic => formAtomic l
  | .atomicBatch => formAtomicBatch l
  | .append =>
    if lineFlags l = 1 then (if lineExt l && g.isNone then formAppendInit desc else none) else g.bind (formAppend l)
  | .seal => g.bind (formSeal l)
  | .fork => formFork l
  | .drop => formDrop l
  | .migrate => g.bind (formMigrate l)
  | .fetchBlocks => g.bind (formFetchBlocks l)
  | .selectAttend => g.bind (formSelect l desc)
  | .gather => formGather l
  | .scatterUpdate => formScatter l
  | .publishTable => formPublishTable l
  | .rehang => formRehang l
  | .search => formSearch l
  | .insert => if lineExt l then (if decide (lineFlags l < 4) then formInsertInit desc else none) else formInsert l
  | .delete => formDelete l
  | .compact => formCompact l
  | .stream => formStream l desc
  | .bulkGet => formBulk true l
  | .bulkPut => formBulk false l
  | .publish => formPublish l
  | .invalidate => formInvalidate l
  | .scanCheck => formScanCheck l
  | .checkSave => formCheckRecord true l
  | .checkLoad => formCheckRecord false l
  | .fence => formNone l
  | .fenceFull => formNone l
  | .release => formRelease l
  | .acquire => formAcquire l
  | .abort => formAbort l
  | .map => formMap l
  | .unmap => formUnmap l
  | .loanRenew => formLoan l

end Sys2Proof.Machine
end

