-- ==== Sys2Proof/Machine/Flags.lean ====
section
/-! DEFINITION. Status codes and their precedence (R95, R96), the codes of slot states and wait reasons (R73, R74),
the bytes of a completion record and of a read-back line (R86, R74), and saturating counts (R419). -/

namespace Sys2Proof.Machine

/-- The code of a status (R95). -/
def Status.code : Status → Nat
  | .ok => 0x0000 | .okDegraded => 0x0001 | .okShort => 0x0002 | .slotBusy => 0x0010 | .tornSubmit => 0x0011
  | .noVerb => 0x0012 | .badOperand => 0x0013 | .staleSequence => 0x0014 | .xlateFault => 0x0020
  | .staleXlate => 0x0021 | .accessDenied => 0x0022 | .aborted => 0x0030 | .priorFailed => 0x0031
  | .dataLost => 0x0040 | .poisoned => 0x0041 | .targetDead => 0x0042 | .orphanTimeout => 0x0043
  | .conflict => 0x0050 | .versionGone => 0x0051 | .deadlineMissed => 0x0060 | .capacity => 0x0070

/-- The statuses of R95. -/
def Status.all : List Status :=
  [.ok, .okDegraded, .okShort, .slotBusy, .tornSubmit, .noVerb, .badOperand, .staleSequence, .xlateFault, .staleXlate,
   .accessDenied, .aborted, .priorFailed, .dataLost, .poisoned, .targetDead, .orphanTimeout, .conflict, .versionGone,
   .deadlineMissed, .capacity]

/-- The status of a code, where R95 lists it. -/
def Status.ofCode (n : Nat) : Option Status :=
  Status.all.find? fun s => s.code == n

/-- A failure status: any but OK, OK_DEGRADED and OK_SHORT (R116). -/
def Status.isFailure : Status → Bool
  | .ok => false | .okDegraded => false | .okShort => false | _ => true

/-- The status of a command at its end (R96): DATA_LOST, then what cut it short, then the first failure raised, then
the first reduced result, then OK. -/
def finalStatus (lost : Bool) (cut : Option Status) (raised : List Status) : Status :=
  if lost || raised.contains .dataLost then .dataLost
  else
    match cut with
    | some c => c
    | none =>
      match raised.find? Status.isFailure with
      | some f => f
      | none =>
        match raised.find? fun s => s == .okDegraded || s == .okShort with
        | some r => r
        | none => .ok

/-- The code of a slot state (R73). -/
def SlotState.code : SlotState → Nat
  | .free => 0 | .waiting => 1 | .running => 2 | .done => 3

/-- The code of a wait reason (R74). -/
def WaitReason.code : WaitReason → Nat
  | .none => 0 | .tag => 1 | .miss => 2 | .imageLoad => 3 | .duplicate => 4 | .cmdReset => 5 | .turn => 6

/-- Bit value. -/
def b2n (b : Bool) : Nat :=
  if b then 1 else 0

/-- Bytes 4 to 7 of a record: status, REPLAYED, DEGRADED, steps saturating at 0x3FFF (R86). -/
def Record.flagsWord (r : Record) : Nat :=
  b2n r.replayed * 2 ^ 15 + b2n r.degraded * 2 ^ 14 + min r.steps 0x3FFF

/-- The 32 bytes of a completion record (R86). -/
def Record.bytes (r : Record) : List Byte :=
  natLe r.seq.toNat 4 ++ natLe r.status.code 2 ++ natLe r.flagsWord 2 ++ natLe r.w0.toNat 8 ++ natLe r.w1.toNat 8 ++
    natLe r.w2.toNat 8

/-- The 64-byte read-back line of a slot (R74). The status field is 0 unless the slot is DONE. -/
def Slot.line (s : Slot) : List Byte :=
  let status := if s.state == .done then (s.status.map Status.code).getD 0 else 0
  natLe s.state.code 1 ++ natLe s.reason.code 1 ++ natLe status 2 ++ natLe s.seq.toNat 4 ++ natLe s.compl.toNat 8 ++
    natLe s.steps 8 ++ natLe s.verb 2 ++ natLe s.prio 1 ++ natLe (b2n s.held) 1 ++ List.replicate 36 0

/-- The greatest COUNT of a statistics counter (R419). -/
def countMax : Nat :=
  2 ^ 63 - 1

/-- A counter register after `n` more events: COUNT saturates at all ones and OVERFLOW, bit 63, is set (R419). -/
def bumpCounter (v : W64) (n : Nat) : W64 :=
  let c := min (v.toNat % 2 ^ 63 + n) countMax
  let ovf := v.toNat / 2 ^ 63 == 1 || c == countMax
  BitVec.ofNat 64 (b2n ovf * 2 ^ 63 + c)

/-- Whether a bump makes the counter saturate, which raises one event (R419). -/
def bumpSaturates (v : W64) (n : Nat) : Bool :=
  v.toNat % 2 ^ 63 != countMax && decide (countMax ≤ v.toNat % 2 ^ 63 + n)

end Sys2Proof.Machine
end

