-- ==== Sys2Proof/Machine/Regs.lean ====
section
/-! DEFINITION. The register file: which BAR0 offsets name a register, its reset value and the access type of each
bit (R15, the field maps of the chapters, chapter 19), and the stored part of each register. Fields that report
state held elsewhere are computed in Machine/Views.lean. -/

namespace Sys2Proof.Machine

/-- A register's reset value and its RW, W1C, RC and WO bits; every other bit is RO or reserved (R15, R16). -/
structure RegDesc where
  reset : Nat
  rw : Nat
  w1c : Nat
  rc : Nat
  wo : Nat
deriving DecidableEq, Repr

/-- The bits [hi:lo] as a mask. -/
def mask (hi lo : Nat) : Nat :=
  2 ^ (hi + 1) - 2 ^ lo

/-- A register of RO bits alone. -/
def RegDesc.ro (reset : Nat := 0) : RegDesc :=
  { reset := reset, rw := 0, w1c := 0, rc := 0, wo := 0 }

/-- A statistics counter: [63] OVERFLOW W1C, [62:0] COUNT RC (R419). -/
def RegDesc.counter : RegDesc :=
  { reset := 0, rw := 0, w1c := mask 63 63, rc := mask 62 0, wo := 0 }

/-- A register with RW bits, W1C bits and WO bits. -/
def RegDesc.mk3 (reset rw w1c wo : Nat) : RegDesc :=
  { reset := reset, rw := rw, w1c := w1c, rc := 0, wo := wo }

/-- The twelve snapshot registers of R327 from an offset. -/
def telemDescs (base : Nat) : List (Nat × RegDesc) :=
  (List.range 12).map fun i => (base + 8 * i, RegDesc.ro)

/-- The fault registers of R417 and R418 from an offset; `dev` has SLOTS RW. -/
def faultDescs (base : Nat) (dev : Bool) : List (Nat × RegDesc) :=
  [(base, .mk3 0 (mask 63 6) 0 0),
   (base + 0x8, .mk3 (if dev then 0x100 * 2 ^ 32 else 0)
      (mask 31 21 + mask 20 20 + mask 19 18 + mask 0 0 + (if dev then mask 44 32 else 0)) 0 0),
   (base + 0x10, .mk3 0 0 (mask 63 62) 0)] ++
  ((List.range 10).map fun i => (base + 0x20 + 8 * i, RegDesc.counter)) ++
  ((List.range 6).map fun i => (base + 0xA0 + 8 * i, RegDesc.ro))

/-- The device-global block (chapter 19's table): offset and descriptor. -/
def globalDescs : List (Nat × RegDesc) :=
  [(0x0000, .ro), (0x0008, .ro), (0x0010, .ro), (0x0018, .mk3 0 0 (mask 0 0) 0),
   (0x1000, .ro), (0x1008, .mk3 0x0018_0000_0000 (mask 47 32) (mask 63 63) (mask 1 0)),
   (0x1010, .mk3 0 (mask 39 16) 0 (mask 0 0)), (0x1018, .mk3 0 (mask 63 0) 0 0), (0x1020, .mk3 0 0 (mask 1 0) 0),
   (0x2000, .mk3 0x0A00 (mask 39 16 + mask 15 8 + mask 7 4) 0 (mask 0 0)), (0x2008, .mk3 0 (mask 63 0) 0 0),
   (0x2010, .mk3 (0xFFFF * 2 ^ 32) 0 (mask 5 5 + mask 0 0) 0), (0x2018, .ro),
   (0x3000, .mk3 0 0 0 (mask 0 0)), (0x3008, .mk3 0 0 (mask 0 0) 0),
   (0x4000, .mk3 (0x28 * 2 ^ 24 + 0x7D0 * 2 ^ 12 + 0x1C2) (mask 31 0) (mask 63 63) 0),
   (0x4008, .mk3 0x012C_015E_012C_000A (mask 63 0) 0 0), (0x4010, .counter),
   (0x4018, .mk3 0x00A8_0064_3C00 (mask 47 8) 0 0), (0x4020, .ro)] ++
  ((List.range 16).map fun i => (0x5000 + 8 * i, .mk3 0 0x7777_7777_7777_7777 0 0)) ++
  [(0x5080, .mk3 0x3E8 (mask 31 0) 0 0), (0x5088, .mk3 0 (mask 41 32 + mask 15 0) 0 (mask 63 63))] ++
  telemDescs 0x5100 ++
  [(0x6000, .mk3 0x64 (mask 31 0) (mask 63 63) 0),
   (0x7000, .mk3 (0x07D0 * 2 ^ 32 + 0x100) (mask 47 20 + mask 12 4) 0 0), (0x7008, .mk3 0 0 (mask 63 63) 0), (0x7010, .ro),
   (0x7018, .mk3 0x3E8 (mask 31 0) 0 0)] ++
  ((List.range 64).map fun i => (0x7100 + 8 * i, .mk3 0 (mask 63 63 + mask 43 32 + mask 15 0) 0 0)) ++
  faultDescs 0x8000 true ++
  [(0x8100, .mk3 (0x18 * 2 ^ 32 + 0x20) (mask 47 32 + mask 7 4) (mask 63 63) 0), (0x8108, .ro), (0x8110, .ro)] ++
  ((List.range 512).map fun i => (0x9000 + 8 * i, RegDesc.ro)) ++
  [(0xA000, .mk3 (2 ^ 32 + 0x2EE * 2 ^ 16) (mask 32 32 + mask 25 16 + mask 9 8) (mask 63 63) (mask 3 0)), (0xA008, .ro),
   (0xA010, .mk3 0 (mask 11 0) 0 0), (0xA018, .counter), (0xA020, .ro), (0xA028, .counter), (0xA030, .ro),
   (0xA038, .ro), (0xA040, .mk3 0 (mask 39 0) 0 0), (0xA048, .counter),
   (0xB000, .ro), (0xB008, .counter)]

/-- A domain page (chapter 19's table): page offset and descriptor. -/
def pageDescs : List (Nat × RegDesc) :=
  [(0x000, .mk3 0 0 (mask 1 1) 0), (0x008, .ro),
   (0x040, .mk3 (0x40 * 2 ^ 10) (mask 63 18 + mask 16 10) 0 0), (0x048, .mk3 0 0 0 (mask 31 16 + mask 3 0)),
   (0x050, .mk3 0 0 (mask 1 0) 0), (0x058, .ro), (0x060, .counter), (0x068, .counter),
   (0x080, .ro), (0x088, .ro), (0x090, .counter), (0x0A0, .counter), (0x0A8, .counter), (0x0C0, .counter),
   (0x0C8, .counter), (0x0E0, .counter), (0x0E8, .counter),
   (0x100, .mk3 (0x0258 * 2 ^ 32 + 0x5A * 2 ^ 24 + 0x50 * 2 ^ 16 + 2) (mask 47 16 + mask 1 0) 0 0),
   (0x108, .mk3 0 0 (mask 63 63) 0), (0x110, .counter), (0x120, .counter), (0x128, .ro), (0x130, .counter), (0x138, .ro),
   (0x140, .mk3 0 (mask 41 32) 0 (mask 63 63))] ++ telemDescs 0x148 ++
  [(0x1C0, .ro), (0x1C8, .counter), (0x1D0, .counter), (0x1D8, .counter),
   (0x200, .mk3 0 (mask 56 0) 0 0), (0x208, .mk3 0 (mask 39 0) 0 0),
   (0x210, .mk3 0 (mask 63 52 + mask 47 39 + mask 15 8) 0 (mask 3 0)), (0x218, .mk3 0 0 (mask 1 0) 0),
   (0x240, .mk3 (0x64 * 2 ^ 16) (mask 31 16 + mask 0 0) 0 0)] ++ faultDescs 0x300 false ++
  ((List.range 5).map fun i => (0x3D0 + 8 * i, RegDesc.counter))

/-- The shaper registers of a unit block (R326). -/
def shaperDescs : List (Nat × RegDesc) :=
  [(0x400, .ro), (0x408, .mk3 0 (mask 12 8 + mask 0 0) (mask 63 63 + mask 1 1) 0), (0x410, .mk3 0 (mask 63 0) 0 0)] ++
  ((List.range 32).map fun i => (0x480 + 8 * i, .mk3 0 (mask 39 0) 0 0))

/-- The block of a CXL port (chapter 19). -/
def portDescs : List (Nat × RegDesc) :=
  [(0x000, .mk3 0 0 (mask 1 1) 0), (0x200, .counter), (0x208, .counter), (0x210, .counter)] ++ shaperDescs

/-- The block of a Zherek link (R382). -/
def linkDescs : List (Nat × RegDesc) :=
  [(0x000, .mk3 0 0 (mask 1 1) 0), (0x600, .mk3 0 (mask 2 2 + mask 0 0) 0 (mask 1 1)), (0x608, .mk3 0 0 (mask 0 0) 0),
   (0x610, .counter), (0x618, .counter), (0x620, .counter), (0x628, .counter), (0x630, .counter)] ++ shaperDescs

/-- The block of an ONFI channel. -/
def onfiDescs : List (Nat × RegDesc) :=
  (0x000, .mk3 0 0 (mask 1 1) 0) :: shaperDescs

/-- The block of a stack or a gallery. -/
def plainUnitDescs : List (Nat × RegDesc) :=
  [(0x000, .mk3 0 0 (mask 1 1) 0)]

/-- The blocks of BAR0 (R29, chapter 19). -/
inductive Block29 where
  | global
  | page (d : Nat)
  | port (p : Nat)
  | link (l : Nat)
  | onfi (c : Nat)
  | stack (s : Nat)
  | gallery (g : Nat)
  | reserved
deriving DecidableEq, Repr

/-- The block a BAR0 offset lies in. -/
def blockOf (off : Nat) : Block29 :=
  if off < 0x0010_0000 then .global
  else if off < 0x0030_0000 then .page (off / 0x2000 - 0x80)
  else if off < 0x0030_4000 then .port (off / 0x1000 - 0x300)
  else if off < 0x0030_C000 then .link (off / 0x1000 - 0x304)
  else if off < 0x0032_C000 then .onfi (off / 0x1000 - 0x30C)
  else if off < 0x0033_4000 then .stack (off / 0x1000 - 0x32C)
  else if off < 0x0035_C000 then .gallery (off / 0x1000 - 0x334)
  else .reserved

/-- The first offset of a block. -/
def Block29.base : Block29 → Nat
  | .global => 0
  | .page d => 0x0010_0000 + d * 0x2000
  | .port p => 0x0030_0000 + p * 0x1000
  | .link l => 0x0030_4000 + l * 0x1000
  | .onfi c => 0x0030_C000 + c * 0x1000
  | .stack s => 0x0032_C000 + s * 0x1000
  | .gallery g => 0x0033_4000 + g * 0x1000
  | .reserved => 0x0035_C000

/-- The descriptors of a block, by relative offset. -/
def Block29.descs : Block29 → List (Nat × RegDesc)
  | .global => globalDescs
  | .page _ => pageDescs
  | .port _ => portDescs
  | .link _ => linkDescs
  | .onfi _ => onfiDescs
  | .stack _ => plainUnitDescs
  | .gallery _ => plainUnitDescs
  | .reserved => []

/-- The descriptor of the register at an 8-byte aligned BAR0 offset; none where the offset names no register (R493). -/
def descOf (off : Nat) : Option RegDesc :=
  let b := blockOf off
  (b.descs.find? fun e => e.1 == off - b.base).map (·.2)

/-- The TDP of a reported variant in watts, PWR_CAP's reset value (R496, R7). -/
def tdpOf (variant : Nat) : Nat :=
  if variant = 2 then 0x352 else if variant = 3 then 0x258 else 0x41A

/-- The reset value of a register (R496). -/
def resetValue (d : Dev) (off : Nat) : W64 :=
  if off = 0xA010 then BitVec.ofNat 64 (tdpOf d.acc.reported)
  else
    match descOf off with
    | some r => BitVec.ofNat 64 r.reset
    | none => 0

/-- The stored value of a register: the reset value where nothing is listed. -/
def Dev.reg (d : Dev) (off : Nat) : W64 :=
  match d.regs.find? (·.1 == off) with
  | some e => e.2
  | none => resetValue d off

/-- Store a register's value. -/
def Dev.setReg (d : Dev) (off : Nat) (v : W64) : Dev :=
  { d with regs := insertBy (·.1) (off, v) d.regs }

/-- A field of a stored register. -/
def Dev.field (d : Dev) (off hi lo : Nat) : Nat :=
  bits (d.reg off).toNat hi lo

/-- A value with one of its fields replaced. -/
def putField (v : W64) (hi lo x : Nat) : W64 :=
  (v &&& ~~~(BitVec.ofNat 64 (mask hi lo))) ||| BitVec.ofNat 64 (x * 2 ^ lo % 2 ^ (hi + 1))

/-- Set a field of a stored register. -/
def Dev.setField (d : Dev) (off hi lo x : Nat) : Dev :=
  d.setReg off (putField (d.reg off) hi lo x)

/-- The BAR0 offset of a register of a domain page. -/
def pageOff (dom off : Nat) : Nat :=
  0x0010_0000 + dom * 0x2000 + off

end Sys2Proof.Machine

namespace Sys2Proof

open Sys2Proof.Machine

/-- The BAR0 base of an egress point's unit block. -/
def Point.base (p : Point) : Nat :=
  match p.kind with
  | .cxl => (Block29.port p.index).base
  | .zherek => (Block29.link p.index).base
  | .onfi => (Block29.onfi p.index).base

/-- The bits a write of `size` bytes at `off` reaches in its 64-bit register (R492). -/
def laneMask (off size : Nat) : W64 :=
  if size = 8 then BitVec.ofNat 64 (mask 63 0)
  else if off % 8 = 4 then BitVec.ofNat 64 (mask 63 32)
  else BitVec.ofNat 64 (mask 31 0)

/-- The 64-bit value a write presents: a 4-byte write places its value in its half (R492). -/
def RegWrite.wide (w : RegWrite) : W64 :=
  if w.size = 8 then w.value
  else if w.offset % 8 = 4 then (w.value &&& BitVec.ofNat 64 (mask 31 0)) <<< 32
  else w.value &&& BitVec.ofNat 64 (mask 31 0)

/-- The 8-byte aligned offset of the register a write names. -/
def RegWrite.reg (w : RegWrite) : Nat :=
  w.offset / 8 * 8

/-- Bit `i` of what a write presents in the half it reaches: WO and W1C bits elsewhere act as 0 (R492). -/
def RegWrite.sets (w : RegWrite) (i : Nat) : Bool :=
  (w.wide &&& laneMask w.offset w.size).toNat.testBit i

/-- Field [hi:lo] of what a write presents in the half it reaches (R492). -/
def RegWrite.fieldOf (w : RegWrite) (hi lo : Nat) : Nat :=
  bits (w.wide &&& laneMask w.offset w.size).toNat hi lo

end Sys2Proof

namespace Sys2Proof.Machine

/-- A register's stored value after a write, bit by bit by access type (R15, R492). -/
def written (r : RegDesc) (old : W64) (w : RegWrite) : W64 :=
  let lane := laneMask w.offset w.size
  let rw := BitVec.ofNat 64 r.rw &&& lane
  let clr := BitVec.ofNat 64 r.w1c &&& lane &&& w.wide
  ((old &&& ~~~rw) ||| (w.wide &&& rw)) &&& ~~~clr

end Sys2Proof.Machine
end

