-- ==== Sys2Proof/Machine/Report.lean ====
section
/-! DEFINITION. What leaves the device and how it is reported: egress queues (R314, R315), fault records and their
areas (R411 to R415), statistics counters with their saturation events (R419). -/

namespace Sys2Proof.Machine

/-! ### Egress (chapter 12) -/

/-- The granule G of a point, in bytes (R314). -/
def granuleOf : PointKind → Nat
  | .onfi => 65536
  | _ => 256

/-- Bytes cut into granules, the last carrying the message (R314). -/
def granulesFor (g bytes : Nat) (lane : Bool) (r : Option SlotRef) (t : Nat) (m : Option OutMsg) : List EgGranule :=
  let n := ceilDiv bytes g
  if n ≤ 1 then [{ lane := lane, bytes := bytes, cmd := r, enq := t, msg := m }]
  else
    List.replicate (n - 1) { lane := lane, bytes := g, cmd := r, enq := t, msg := none } ++
      [{ lane := lane, bytes := bytes - (n - 1) * g, cmd := r, enq := t, msg := m }]

/-- Append granules to a queue, posted writes and memory responses in their lanes (R315). -/
def Queue.push (q : Queue) (gs : List EgGranule) : Queue :=
  { q with posted := q.posted ++ gs.filter (·.lane), mem := q.mem ++ gs.filter (!·.lane) }

/-- Work enters the queue of a domain at a point; a domain without a queue there uses the system queue (log 14). -/
def Dev.enqueue (d : Dev) (p : Point) (dom : Nat) (gs : List EgGranule) : Dev :=
  { d with points := d.points.map fun e =>
      if e.point = p then
        let q := if e.queues.any (·.domain == dom) then dom else 256
        { e with queues := modifyAll (·.domain == q) (fun x => x.push gs) e.queues }
      else e }

/-- The first granule of a domain's queue at a point leaves the queue (one lane at a link or channel: R315). -/
def Dev.popQueue (d : Dev) (p : Point) (dom : Nat) : Dev :=
  { d with points := d.points.map fun e =>
      if e.point = p then
        let q := if e.queues.any (·.domain == dom) then dom else 256
        { e with queues := modifyAll (·.domain == q) (fun x => { x with posted := x.posted.tail }) e.queues }
      else e }

/-- A message of `bytes` data bytes leaves toward a host on a port, through the shaper (R314). -/
def Dev.toPort (d : Dev) (port dom : Nat) (lane : Bool) (bytes : Nat) (r : Option SlotRef) (m : OutMsg) : Dev :=
  let p : Point := { kind := .cxl, index := port }
  d.enqueue p dom (granulesFor (granuleOf p.kind) bytes lane r d.now (some m))

/-- Whether a domain's queue at a port has no room for a line of data (R316): 128 KiB, both lanes counted. -/
def Dev.portFull (d : Dev) (port dom : Nat) : Bool :=
  d.points.any fun e => e.point == { kind := .cxl, index := port } &&
    (let q := if e.queues.any (·.domain == dom) then dom else 256
     e.queues.any fun x => x.domain == q &&
      decide (128 * 1024 < ((x.posted ++ x.mem).map (·.bytes)).foldl (· + ·) 0 + 64))

/-- A host read whose response finds no room waits at the Registrar (R302, R316). -/
def Dev.waitRoom (d : Dev) (i : Instr) : Dev := { d with readWaits := d.readWaits ++ [i] }

/-- A message without data leaves at once (R314). -/
def Dev.emit (d : Dev) (m : OutMsg) : Dev :=
  { d with out := d.out ++ [m] }

/-! ### Fault records (R411 to R415) -/

/-- The BAR0 offset of an area's fault registers (R417, R418). -/
def areaBase : FaultArea → Nat
  | .domain dm => pageOff dm 0x300
  | .device => 0x8000

/-- What an area holds beside its registers. -/
def Dev.areaState (d : Dev) (a : FaultArea) : FaultAreaState :=
  (d.faults.find? (·.area == a)).getD { area := a, waiting := [], afterLoss := false, slots := 0 }

/-- Change what an area holds. -/
def Dev.setArea (d : Dev) (x : FaultAreaState) : Dev :=
  { d with faults := x :: d.faults.filter (·.area != x.area) }

/-- The slot count of an area (R411, R417). -/
def Dev.areaSlots (d : Dev) (a : FaultArea) : Nat :=
  match a with
  | .domain dm => ((d.domainRec dm).map (·.faultSlots)).getD 0
  | .device => let n := (d.areaState a).slots; if n = 0 then 0x100 else n

/-- Bytes 8 to 63 of a fault record (R412); bit 0 of the flags is AFTER_LOSS. -/
def FaultRecord.tail (f : FaultRecord) (afterLoss : Bool) (geo : Nat) : List Byte :=
  natLe f.cls 1 ++ natLe (b2n afterLoss) 1 ++ natLe ((f.status.map Status.code).getD 0) 2 ++ natLe f.domain 2 ++
    natLe f.ctx 2 ++ natLe f.time 8 ++ natLe f.seq.toNat 4 ++ natLe f.host 2 ++ natLe geo 1 ++ [0] ++
    natLe f.d0 8 ++ natLe f.d1 8 ++ natLe f.d2 8 ++ List.replicate 8 0

/-- Copy bytes 8 to 31 of a lost record into three registers, with VALID in bit 15 (R415, R417). -/
def Dev.copyLost (d : Dev) (off : Nat) (bytes : List Byte) : Dev :=
  let r0 := BitVec.ofNat 64 (fieldAt bytes 0 8) ||| BitVec.ofNat 64 (2 ^ 15)
  ((d.setReg off r0).setReg (off + 8) (BitVec.ofNat 64 (fieldAt bytes 8 8))).setReg (off + 16)
    (BitVec.ofNat 64 (fieldAt bytes 16 8))

/-- A record counted lost (R415): its class counter, OVERFLOW, LATEST and FIRST, AFTER_LOSS for the next record. -/
def Dev.lose (d : Dev) (f : FaultRecord) : Dev :=
  let b := areaBase f.area
  let c := b + 0x18 + 8 * f.cls
  let bytes := f.tail (d.areaState f.area).afterLoss d.coll.geoId
  let d := d.setReg c (bumpCounter (d.reg c) 1)
  let d := d.setField (b + 0x10) 63 63 1
  let d := d.copyLost (b + 0xB8) bytes
  let d := if d.field (b + 0xA0) 15 15 = 1 then d else d.copyLost (b + 0xA0) bytes
  d.setArea { d.areaState f.area with afterLoss := true }

/-- The owned-word read of the slot NEXT of an area goes out (R414). -/
def Dev.askOwned (d : Dev) (f : FaultRecord) : Dev :=
  d.emit (.ownedRead f.port (f.base + 64 * d.field (areaBase f.area + 0x10) 43 32))

/-- A fault occurs: its record takes the area's next sequence number and its settings, and awaits its owned-word read,
or is counted lost (R412, R414, R415). -/
def Dev.faultRecord (d : Dev) (a : FaultArea) (cls : Nat) (st : Option Status) (dom ctx : Nat) (seq : W32)
    (host d0 d1 d2 : Nat) : Dev :=
  let b := areaBase a
  let n := d.field (b + 0x10) 31 0
  let ctl := b + 8
  let f : FaultRecord :=
    { area := a, cls := cls, status := st, domain := dom, ctx := ctx, time := d.now, seq := seq, host := host, d0 := d0,
      d1 := d1, d2 := d2, recSeq := BitVec.ofNat 32 n, base := d.field b 63 6 * 64, port := d.field ctl 19 18,
      enabled := d.field ctl 0 0 == 1, vector := if d.field ctl 20 20 = 1 then some (d.field ctl 31 21) else none }
  let d := d.setField (b + 0x10) 31 0 ((n + 1) % 2 ^ 32)
  let s := d.areaState a
  if !f.enabled || decide (64 ≤ s.waiting.length) || (s.waiting.isEmpty && !d.portUp f.port) then d.lose f
  else
    let d := d.setArea { s with waiting := s.waiting ++ [f] }
    if s.waiting.isEmpty then d.askOwned f else d

/-- The area of a domain's page for a counter in it, else the device's (R419). -/
def counterArea (off : Nat) : FaultArea :=
  match blockOf off with
  | .page dm => .domain dm
  | _ => .device

/-- The EVENT record of a counter that saturates (R413, R419). -/
def Dev.saturated (d : Dev) (off : Nat) : Dev :=
  let dom := match counterArea off with
    | .domain dm => dm
    | .device => 0xFFFF
  d.faultRecord (counterArea off) 0x07 none dom 0xFFFF 0 0xFFFF off 1 0

/-- Count `n` events in a statistics counter; saturation raises one event (R419). -/
def Dev.count (d : Dev) (off n : Nat) : Dev :=
  let v := d.reg off
  let d' := d.setReg off (bumpCounter v n)
  if bumpSaturates v n then d'.saturated off else d'

/-- A fault: the record, and the event of its lost counter where that saturates (R415, R419). -/
def Dev.fault (d : Dev) (a : FaultArea) (cls : Nat) (st : Option Status) (dom ctx : Nat) (seq : W32)
    (host d0 d1 d2 : Nat) : Dev :=
  let c := areaBase a + 0x18 + 8 * cls
  let before := (d.reg c).toNat % 2 ^ 63
  let d' := d.faultRecord a cls st dom ctx seq host d0 d1 d2
  if before != countMax && (d'.reg c).toNat % 2 ^ 63 == countMax then d'.saturated c else d'

/-- A record counted lost after its fault, with the event of its lost counter where that saturates (R415, R419). -/
def Dev.loseLate (d : Dev) (f : FaultRecord) : Dev :=
  let c := areaBase f.area + 0x18 + 8 * f.cls
  let d' := d.lose f
  if (d.reg c).toNat % 2 ^ 63 != countMax && (d'.reg c).toNat % 2 ^ 63 == countMax then d'.saturated c else d'

/-- A record whose writes fail leaves its slot to the area's next record (R414, R415). -/
def Dev.freeSlot (d : Dev) (f : FaultRecord) (addr : Nat) : Dev :=
  let b := areaBase f.area
  let slot := (addr - f.base) / 64
  if d.field (b + 0x10) 43 32 = (slot + 1) % max 1 (d.areaSlots f.area) then d.setField (b + 0x10) 43 32 slot else d

/-- Fault records whose writes were still queued when their port went down: counted lost in their order (R415). -/
def Dev.losePosted (d : Dev) (fs : List (Nat × FaultRecord)) : Dev :=
  fs.foldl (fun d x => d.loseLate x.2) (fs.reverse.foldl (fun d x => d.freeSlot x.2 x.1) d)

/-- Count in a domain page's counter. -/
def Dev.countPage (d : Dev) (dom off n : Nat) : Dev :=
  if n = 0 then d else d.count (pageOff dom off) n

end Sys2Proof.Machine
end

