-- ==== Sys2Proof/Machine/Ready.lean ====
section
/-! DEFINITION. When the device is ready: the conditions of AVAILABLE_FULL (R23, R442), the pass records (R443), and
failures that set DEGRADED (R433). -/

namespace Sys2Proof.Machine

/-- Whether collection formation has ended (R442). -/
def Dev.formationOver (d : Dev) : Bool :=
  d.coll.role == 0 ||
    match d.coll.state with
    | .standalone => false
    | .forming => false
    | _ => true

/-- The conditions of AVAILABLE_FULL (R442): no enabled unit still awaits its test. -/
def Dev.fullHolds (d : Dev) : Bool :=
  d.galleries.all (·.state != .pending) && d.stackUnits.all (·.state != .pending) && d.ports.all (·.state != .pending) &&
    d.links.all (·.unit != .pending) && d.channels.all (·.unit != .pending) && d.acc.enginesTested &&
    (d.acc.increments == 128 || d.acc.dramStopped) && d.acc.conservator && d.formationOver && decide (2 ≤ d.workingPairs)

/-- AVAILABLE_FULL once every condition holds (R442), and withdrawn with fewer than two working pairs (R23). -/
def Dev.checkFull (d : Dev) : Dev :=
  match d.acc.state with
  | .availablePartial =>
    if d.fullHolds then
      { d with acc := { d.acc with state := .availableFull, fullTime := if d.acc.fullTime = 0 then d.now - d.acc.releaseTime else d.acc.fullTime } }
    else d
  | .availableFull => if d.workingPairs < 2 then { d with acc := { d.acc with state := .availablePartial } } else d
  | _ => d

/-- A unit passes a full test: its record is written (R443). -/
def Dev.notePass (d : Dev) (u : PassUnit) : Dev :=
  let r : PassRecord := { unit := u, time := d.now, digest := d.fw.digest, faulted := false }
  { d with acc := { d.acc with passes := d.acc.passes.filter (fun (x : PassRecord) => x.unit != u) ++ [r] } }

/-- A fault is recorded against a unit (R443). -/
def Dev.noteFault (d : Dev) (u : PassUnit) : Dev :=
  { d with acc := { d.acc with passes := modifyAll (fun (x : PassRecord) => x.unit == u) (fun x => { x with faulted := true }) d.acc.passes } }

/-- Whether a unit skips its tests (R443): on warm accession, with a record within VALIDITY_H hours(L), no fault since, and
the digest of the firmware that runs. -/
def Dev.fastPath (d : Dev) (u : PassUnit) (digest : List Byte) : Bool :=
  let hours := d.field 0x1008 47 32
  d.acc.warm && d.acc.passRecords && hours != 0 && d.acc.passes.any fun r =>
    r.unit == u && !r.faulted && r.digest == digest && decide (d.now ≤ 3600000000000 * hours + r.time)

/-- DEGRADED is set (R431, R433). -/
def Dev.degrade (d : Dev) : Dev := { d with acc := { d.acc with degraded := true } }

end Sys2Proof.Machine
end

