-- ==== Sys2Proof/Machine/Wake.lean ====
section
/-! DEFINITION. Waking from a sleep state and aborting an entry (R457 to R461), which any arriving traffic does. -/

namespace Sys2Proof.Machine

/-- The codes of the phases of entry (R466). -/
def EntryPhase.code : EntryPhase → Nat
  | .none => 0 | .drain => 1 | .park => 2 | .commit => 3

/-- An entry in DRAIN or PARK is undone: counted, and its request, the wake source and the phase noted (R458). -/
def Dev.abortEntry (d : Dev) (src : Nat) : Dev :=
  let v := d.power.request * 2 ^ 32 + src * 2 ^ 24 + d.power.phase.code * 2 ^ 16
  let d := (d.count 0xA028 1).setReg 0xA030 (BitVec.ofNat 64 v)
  { d with power := { d.power with phase := .none, request := 0 } }

/-- A wake from a source of R459: the device, and whether it serves the wake's traffic now. An ACTIVE device needs none;
in DRAIN and PARK the entry is undone; in COMMIT the wake is held; SLEEP begins its exit; OFF_READY stays (R454). -/
def Dev.wakeBy (d : Dev) (src : Nat) : Dev × Bool :=
  match d.power.device, d.power.phase with
  | .active, .none => (d, true)
  | .active, .commit => ({ d with power := { d.power with heldWake := some (d.power.heldWake.getD src) } }, false)
  | .active, _ => (d.abortEntry src, true)
  | .sleep, _ => ({ d with power := { d.power with exiting := true } }, false)
  | .offReady, _ => (d, false)

/-- Traffic waits for the exit (R461); a device in OFF_READY, or entering it for good, keeps none. -/
def Dev.keepFor (d : Dev) (i : Instr) : Dev :=
  if d.power.device == .offReady then d
  else { d with power := { d.power with waiting := d.power.waiting ++ [i] } }

/-- Traffic on a CXL port first brings it to L0 (R452). -/
def Dev.toL0 (d : Dev) (port : Nat) : Dev :=
  { d with ports := modifyAll (fun p => p.index == port && p.link == .l1) (fun p => { p with link := .l0 }) d.ports }

/-- The port and host identity of a CXL.mem or mailbox command. -/
def senderOf (i : Instr) : Option (Nat × Nat) :=
  match i with
  | .submissionLine w => some (w.port, w.host)
  | .slotRead p h _ => some (p, h)
  | .hdmRead a _ => some (a.port, a.host)
  | .hdmWrite a _ _ _ => some (a.port, a.host)
  | .memrdSnpcur a _ => some (a.port, a.host)
  | .memrdSnpdata a _ => some (a.port, a.host)
  | .memrdSnpinv a _ => some (a.port, a.host)
  | .meminvSnpinv a => some (a.port, a.host)
  | .vitrineMemwr a _ _ _ _ => some (a.port, a.host)
  | .memclnevct a => some (a.port, a.host)
  | _ => none

/-- A port is noted as one that carries a host identity. -/
def Dev.carries (d : Dev) (i : Instr) : Dev :=
  match senderOf i with
  | some x => if d.carried.contains x then d else { d with carried := d.carried ++ [x] }
  | none => d

/-- A command that comes over a CXL port: the port leaves L1, a sleeping device wakes, and the command is served now or
after the exit (R452, R459, R461). -/
def onTraffic (i : Instr) (port : Nat) (f : Dev → Dev) (d : Dev) : Dev :=
  if !d.portUp port then f d
  else
    let (d, now) := ((d.toL0 port).carries i).wakeBy 1
    if now then f d else d.keepFor i

/-- A register access: over a port, or over the Docent bus where WAKE_ON_MATCH is set (R459, R466). -/
def onSrc (i : Instr) (src : Src) (f : Dev → Dev) (d : Dev) : Dev :=
  match src with
  | .bar port _ => onTraffic i port f d
  | .docent =>
    if d.power.device == .active && d.power.phase == .none then f d
    else if d.field 0xA000 32 32 = 1 then
      let (d, now) := d.wakeBy 3
      if now then f d else d.keepFor i
    else d

end Sys2Proof.Machine
end

