-- ==== Sys2Proof/Machine/Engine.lean ====
section
/-! DEFINITION. The life of a command: acceptance checks, decoding and translation, eligibility and tags, steps and
their boundaries, completion records (chapter 03, with R110, R116, R123, R148, R289, R293, R299, R395). -/

namespace Sys2Proof.Machine

/-! ### Reading a held command -/

/-- The verb of a command. -/
def cmdVerb (k : Cmd) : Option Verb := Verb.ofCode (lineVerb k.line)

/-- The operand bytes of a line or descriptor from line offset 16: a line's own, or the descriptor where EXT is set. -/
def cmdOps (k : Cmd) : List Byte :=
  if lineExt k.line then k.desc else slice k.line 16 48

/-- The fused priority of a command (R70). -/
def cmdPrio (k : Cmd) : Nat := linePrio k.line

/-- The commands a context holds, with their slots. -/
def Context.held (c : Context) : List (Nat × Slot × Cmd) :=
  (List.range c.slots.length).filterMap fun i =>
    match c.slots[i]? with
    | some s => s.cmd.map fun k => (i, s, k)
    | none => none

/-! ### Members, homes and links -/

/-- The width of the widen groups (R354, COLL_CFG [7:5]). -/
def Dev.groupWidth (d : Dev) : Nat := widthOf (d.field 0x7000 7 5)

/-- The home member of an SA (R353). -/
def Dev.homeOf (d : Dev) (sa : Nat) : Nat := (Machine.homeOf d.groupWidth sa).1

/-- Whether this device has formed a collection: it stays a member when ISOLATED or FAILED (R360). -/
def Dev.joined (d : Dev) : Bool := d.coll.state == .formed || d.coll.state == .isolated || d.coll.state == .failed

/-- Whether an SA is homed on this member; outside a collection every SA is (R285, R353). -/
def Dev.isLocal (d : Dev) (sa : Nat) : Bool := !d.joined || d.homeOf sa == d.coll.geoId

/-- Whether a physical stack lies in the west wing (R18). -/
def westStack (physical : Nat) : Bool := decide (4 ≤ physical)

/-- The enabled DRAM channels of a placement: 32 to a stack, numbered by physical stack (R7, R18, R25). -/
def Dev.channelsIn (d : Dev) (p : Placement) : List Nat :=
  let mine (x : Stack) : Bool := x.logical.isSome && match p with
    | .spread => true
    | .wing w => westStack x.physical == w
  (d.stackUnits.filter mine).flatMap fun x => (List.range 32).map (x.physical * 32 + ·)

/-- Where a domain's new extents lie (R25, R43): spread, or in its home wing. -/
def Dev.placementOf (d : Dev) (dom : Nat) : Placement :=
  match d.domainRec dom with
  | some x => if x.wingLocal then .wing x.homeWest else .spread
  | none => .spread

/-- The placement of an SA: that of the extent that maps it (R25); store without an extent is spread (log 10). -/
def Dev.placementAt (d : Dev) (sa : Nat) : Placement :=
  ((d.extents.find? fun e => decide (e.sa ≤ sa) && decide (sa < e.sa + e.len)).map (·.placement)).getD .spread

/-- The home channel of an SA: an interleave of 1 KiB over the channels of its placement (R25, log 10). -/
def Dev.channelOf (d : Dev) (sa : Nat) : Nat :=
  let cs := d.channelsIn (d.placementAt sa)
  at! cs (sa / 1024 % cs.length) 0

/-- Whether a step may use another member: not while ISOLATED or FAILED (R360), nor a lost one without coding (R380). -/
def Dev.reaches (d : Dev) (home : Nat) : Bool :=
  d.coll.state == .formed && (d.coll.planK != 0 || !d.coll.lost.getLsbD home)

/-- Whether a member answers what only it can: one that is lost does not, coded or not. -/
def Dev.answers (d : Dev) (home : Nat) : Bool := d.coll.state == .formed && !d.coll.lost.getLsbD home

/-- The FID of a member of this collection (R349). -/
def Dev.fidOf (d : Dev) (geo : Nat) : Nat := d.field 0x7000 31 20 * 16 + geo

/-- The links that are up, by number. -/
def Dev.upLinks (d : Dev) : List Nat := (d.links.filter (·.state == .up)).map (·.index)

/-- The links that may carry messages for a FID: for another group the FAR links where there is one up, for the own group
the others (R367, R373, log 32). -/
def Dev.linksToward (d : Dev) (fid : Nat) : List Nat :=
  let up := d.links.filter (·.state == .up)
  let far := (up.filter (·.far)).map (·.index)
  if fid / 16 == d.field 0x7000 31 20 || far.isEmpty then (up.filter fun l => !l.far).map (·.index) else far

/-- The link for a destination: its FID mod the number of links that are up (R367). -/
def Dev.linkFor (d : Dev) (fid : Nat) : Option Nat :=
  let ls := d.linksToward fid
  ls[fid % ls.length]?

/-- The class of a message by its type and payload length (R364): 0 REQ, 1 RSP, 2 BULK, 3 MGMT. -/
def classOf (type bytes : Nat) : Nat :=
  if 0x80 ≤ type then 1 else if 0x10 ≤ type then 3 else if 256 < bytes then 2 else 0

/-- The class, header and slots that a message spends (R365): an RD of more than 256 bytes is BULK. -/
def OutMsg.spends : OutMsg → Nat × Nat × Nat
  | .fabric type _ _ _ _ _ _ _ arg payload =>
    (classOf type (if type = 0x01 then bits arg.toNat 16 0 else payload.length), 1, ceilDiv payload.length 256)
  | _ => (0, 0, 0)

/-- Spend credits of a class at a link, never below none. -/
def Link.spend (l : Link) (cls headers slots : Nat) : Link :=
  { l with headerCredits := l.headerCredits.modify cls (· - headers), dataCredits := l.dataCredits.modify cls (· - slots) }

/-- A frame with messages leaves on a link (R362, R366): it takes the next SEQ and is kept for replay. -/
def Link.frame (l : Link) (ms : List OutMsg) : Link :=
  let seq := (l.txSeq + 1) % 512
  { l with txSeq := seq, replay := l.replay ++ [{ seq := seq, msgs := ms, resent := 0 }] }

/-- A message without shaped data leaves at once in a frame of its own (R314, R365). -/
def Dev.sendNow (d : Dev) (link : Nat) (m : OutMsg) : Dev :=
  let (cls, h, n) := m.spends
  ({ d with links := modifyAll (·.index == link) (fun l => (l.spend cls h n).frame [m]) d.links }).emit m

/-- A frame that arrives carries an ACK (R362); the rows name none, so how many of the frames kept for replay it
acknowledges is free (log 40). -/
def Dev.ackSome (d : Dev) (link : Nat) : Dev :=
  match d.links.find? (·.index == link) with
  | none => d
  | some l =>
    if l.replay.isEmpty then { d with links := modifyAll (·.index == link) (fun l => { l with lastDecode := d.now }) d.links }
    else
      let n := Config.freeNat d.draws % (l.replay.length + 1)
      let ack := ((l.replay.take n).getLast?.map (·.seq)).getD l.ackSeq
      { d with
        draws := d.draws + 1
        links := modifyAll (·.index == link) (fun l => { l with replay := l.replay.drop n, ackSeq := ack, lastDecode := d.now }) d.links }

/-- A link of the device. -/
def Dev.link? (d : Dev) (l : Nat) : Option Link := d.links.find? (·.index == l)

/-- Change a link. -/
def Dev.modLink (d : Dev) (l : Nat) (f : Link → Link) : Dev := { d with links := modifyAll (·.index == l) f d.links }

/-- The offset of a register of a link's unit block. -/
def linkOff (l off : Nat) : Nat := (Block29.link l).base + off

/-- A link starts its training: it sends TS1, and FAR takes effect (R368, R382). -/
def Dev.train (d : Dev) (l : Nat) : Dev :=
  match d.link? l with
  | none => d
  | some x =>
    (d.modLink l fun x => { x with state := .training, ts1 := 0, ts2 := 0, retrainStart := d.now, far := d.field (linkOff l 0x600) 2 2 == 1 }).emit
      (.control l 1 x.offered)

/-- A retrain: counted, and the replay buffer is kept (R368, R382). -/
def Dev.retrainLink (d : Dev) (l : Nat) : Dev := (d.count (linkOff l 0x628) 1).train l

/-- The link a message takes: one that is up, or a QUIET one, which then starts a retrain (R367, R452). -/
def Dev.route (d : Dev) (fid : Nat) : Option Nat × Dev :=
  match d.linkFor fid with
  | some l => (some l, d)
  | none =>
    let qs := (d.links.filter (·.state == .quiet)).map (·.index)
    match qs[fid % qs.length]? with
    | some l => (some l, (d.setReg 0xA040 (d.reg 0xA040 &&& ~~~(BitVec.ofNat 64 (2 ^ (32 + l))))).retrainLink l)
    | none => (none, d)

/-- The physical unit of a member that a data offset falls in (R406). -/
def Dev.unitOf (d : Dev) (o : Nat) : Nat := o / 4096 / max 1 d.coll.planK * (d.coll.planK + d.coll.planM) + o / 4096 % max 1 d.coll.planK

/-- Whether a lost member has rejoined in its place and rebuilds its units (R352, R410). -/
def Dev.rebuilds (d : Dev) (member : Nat) : Bool := d.coll.rejoining.getLsbD member && d.coll.rebuildTarget == member

/-- Whether a member serves a physical unit of its own (R409, R410): it is not lost, or it rejoins and has rebuilt the unit. -/
def Dev.servesUnit (d : Dev) (member unit : Nat) : Bool := !d.coll.lost.getLsbD member || (d.rebuilds member && d.coll.rebuiltUnits.contains unit)

/-- The physical units of its home that a store range lies in. -/
def Dev.unitsAt (d : Dev) (sa len : Nat) : List Nat :=
  let o := (Machine.homeOf d.groupWidth sa).2
  (List.range (ceilDiv (o + max 1 len) 4096 - o / 4096)).map fun i => d.unitOf ((o / 4096 + i) * 4096)

/-- Whether a message of this member's goes to another member: one that is lost is sent nothing but MEMBER messages (R356), and one that
rebuilds its units is sent no request for a unit that it does not serve yet (R410). -/
def Dev.heeds (d : Dev) (member type : Nat) (address arg : W64) (len : Nat) : Bool :=
  let a := address.toNat
  if !d.coll.lost.getLsbD member || type = 0x14 then true
  else if !d.rebuilds member then false
  else if type = 0x02 && arg != 0 && !arg.getLsbD 63 then d.servesUnit member (a / 4096)
  else if type = 0x01 then (d.unitsAt a (bits arg.toNat 16 0)).all (d.servesUnit member)
  else if type = 0x02 || type = 0x03 || type = 0x04 then (d.unitsAt a len).all (d.servesUnit member)
  else true

/-- A fabric message enters the queue of its domain at the link's egress point (R314, R367); with no link it goes nowhere. -/
def Dev.sendFabFrom (d : Dev) (src type dst dom ctx tag : Nat) (flags : W16) (address arg : W64) (payload : List Byte)
    (r : Option SlotRef) : Dev :=
  match d.route dst with
  | (none, _) => d
  | (some l, d) =>
    if dst / 16 == d.field 0x7000 31 20 && !d.heeds (dst % 16) type address arg (if type = 0x02 then payload.length else 1) then d
    else
    let p : Point := { kind := .zherek, index := l }
    d.enqueue p (if dom = 0xFFFF then 256 else dom)
      (granulesFor 256 payload.length true r d.now (some (.fabric type dst src dom ctx tag flags address arg payload)))

/-- A fabric message of this member's own. -/
def Dev.sendFab (d : Dev) (type dst dom ctx tag : Nat) (flags : W16) (address arg : W64) (payload : List Byte)
    (r : Option SlotRef) : Dev :=
  d.sendFabFrom (d.fidOf d.coll.geoId) type dst dom ctx tag flags address arg payload r

/-! ### The store as steps see it -/

/-- Whether a command's loads are PE reads, which may use the fabric cache (R370). -/
def Cmd.onPes (k : Cmd) : Bool :=
  match cmdVerb k with
  | some .reduce => true
  | some .gather => true
  | some .rehang => true
  | some .selectAttend => true
  | some .stream => bit (lineFlags k.line) 1
  | _ => false

/-- The wing whose fabric cache a command's PEs use: that of its pipeline's first gallery (log 22). -/
def Dev.wingOf (d : Dev) (dom code : Nat) : Nat :=
  let g := (d.image.bind fun i => (i.routes.find? fun x => x.domain == dom && x.cls == code / 256).bind fun rt =>
    i.pipelines.find? fun p => p.domain == dom && p.number == rt.pipeline).bind fun p => (List.range 40).find? (bit p.galleries)
  if d.galleries.any fun x => x.logical == g && g.isSome && decide (20 ≤ x.physical) then 1 else 0

/-- A PE read of a remote span that hits the fabric cache: every 256-byte line of it is there for the domain (R370). -/
def Dev.fabHit (d : Dev) (k : Cmd) (s : Span) : Option (List Byte) :=
  if !k.onPes || d.fabCache.isEmpty || s.len = 0 then none
  else
    let dom := (k.caps.head?.map (·.domain)).getD 0xFFFF
    let wing := d.wingOf dom (lineVerb k.line)
    let first := s.sa / 256
    let lines := (List.range ((s.sa + s.len - 1) / 256 - first + 1)).map fun i =>
      d.fabCache.find? fun l => l.owner == wing && l.domain == dom && l.addr == (first + i) * 256
    if lines.all Option.isSome then
      some (slice (lines.flatMap fun l => (l.map (·.bytes)).getD []) (s.sa - first * 256) s.len)
    else none

/-- The lines of the fabric cache that PE reads of a command hit become the last to be replaced (R370). -/
def Dev.fabTouch (d : Dev) (k : Cmd) (ss : List Span) : Dev :=
  let hit := ss.filter fun s => !d.isLocal s.sa && (d.fabHit k s).isSome
  if hit.isEmpty then d
  else
    let dom := (k.caps.head?.map (·.domain)).getD 0xFFFF
    let wing := d.wingOf dom (lineVerb k.line)
    let used (l : CacheLine) : Bool := l.owner == wing && l.domain == dom && hit.any fun s => overlap l.addr 256 s.sa s.len
    { d with fabCache := d.fabCache.filter (!used ·) ++ d.fabCache.filter used }

/-- The bytes of a range put together from pieces that came (fuel bounds the pieces); none where one is missing. -/
def assemble (fs : List (Nat × List Byte)) : Nat → Nat → Nat → Option (List Byte)
  | 0, _, n => if n = 0 then some [] else none
  | fuel + 1, a, n =>
    if n = 0 then some []
    else
      match fs.find? fun f => decide (f.1 ≤ a) && decide (a < f.1 + f.2.length) with
      | none => none
      | some f =>
        let b := slice f.2 (a - f.1) n
        (assemble fs fuel (a + b.length) (n - b.length)).map (b ++ ·)

/-- The bytes of a remote span that RD_DATA brought for a command (R369). -/
def Cmd.brought (k : Cmd) (s : Span) : Option (List Byte) := assemble k.fetched (k.fetched.length + 1) s.sa s.len

/-- Bytes of a span: from this member's store, from what RD_DATA brought for the command (R369), or for a PE read from
the fabric cache (R370). -/
def Dev.loadSpan (d : Dev) (k : Cmd) (s : Span) : List Byte :=
  if d.isLocal s.sa then memRead d.mem s.sa s.len
  else
    match k.brought s with
    | some b => b
    | none => (d.fabHit k s).getD (List.replicate s.len 0)

/-- Whether a span that a command reads holds poison: here, or as its home answered (R387). -/
def Dev.badSpan (d : Dev) (k : Cmd) (s : Span) : Bool :=
  if d.isLocal s.sa then d.poisonedIn s else k.spoiled.any fun sec => overlap (sec * 32) 32 s.sa s.len

/-- Whether any of the spans holds poison. -/
def Dev.badSpans (d : Dev) (k : Cmd) (ss : List Span) : Bool := ss.any (d.badSpan k)

/-- Bytes of several spans in order. -/
def Dev.loadAll (d : Dev) (k : Cmd) (ss : List Span) : List Byte := ss.flatMap (d.loadSpan k)

/-- Spans cut at 64 KiB, the most one RD carries (R369). -/
def cutSpans (ss : List Span) : List Span :=
  ss.flatMap fun s => (List.range (ceilDiv s.len 65536)).map fun i =>
    { sa := s.sa + 65536 * i, len := min 65536 (s.len - 65536 * i) }

/-- Spans cut where a 4 KiB granule of a WIDE SA changes home and at 64 KiB (R353, R369). -/
def cutHomes (ss : List Span) : List Span :=
  cutSpans (ss.flatMap fun s =>
    if bit s.sa 51 then
      (List.range ((s.sa + s.len - 1) / 4096 - s.sa / 4096 + 1)).map fun i =>
        let lo := max s.sa ((s.sa / 4096 + i) * 4096)
        let hi := min (s.sa + s.len) ((s.sa / 4096 + i + 1) * 4096)
        { sa := lo, len := hi - lo }
    else [s])

/-- The SA spans of an operand range through a command's captures (R293). -/
def Cmd.spans (k : Cmd) (dom cva len : Nat) : List Span := cutHomes (spansOf k.caps dom cva len)

/-- The SA spans of a CVA range through the extents in force (R295). -/
def Dev.liveSpans (d : Dev) (dom cva len : Nat) : List Span := cutHomes (spansOf d.extents dom cva len)

/-- A fresh fabric tag (R363). -/
def Dev.freshTag (d : Dev) : Nat × Dev :=
  (d.nextTag % 65536, { d with nextTag := d.nextTag + 1 })

/-- Send an RD for a remote span on behalf of a command (R364, R369). -/
def Dev.askRemote (d : Dev) (r : SlotRef) (s : Span) : Dev :=
  let (tag, d) := d.freshTag
  let home := d.homeOf s.sa
  let d := d.modCmd r fun k =>
    { k with remote := k.remote ++ [{ tag := tag, home := home, sa := s.sa, len := s.len, isWrite := false, since := d.now, index := 0, fetch := none, bytes := [] }] }
  d.sendFab 0x01 (d.fidOf home) (d.domainOf r) r.ctx tag 0 (BitVec.ofNat 64 s.sa) (BitVec.ofNat 64 s.len) [] (some r)

/-- The remote spans of a list whose data has not come yet. -/
def Dev.missing (d : Dev) (k : Cmd) (ss : List Span) : List Span :=
  ss.filter fun s => !d.isLocal s.sa && (k.brought s).isNone && (d.fabHit k s).isNone

/-- Ask for the remote spans that have not come and that no RD is out for (R369). -/
def Dev.askMissing (d : Dev) (r : SlotRef) (k : Cmd) (ss : List Span) : Dev :=
  ((d.missing k ss).filter fun s => d.reaches (d.homeOf s.sa) && !(k.remote.any fun a => !a.isWrite && overlap a.sa a.len s.sa s.len)).foldl
    (fun d s => d.askRemote r s) d

/-! ### Records (R86 to R89) -/

/-- The BAR0 offset of a register of a CXL port's block. -/
def portOff (p off : Nat) : Nat := 0x0030_0000 + p * 0x1000 + off

/-- The aperture offset of a slot (R65). -/
def apertureOf (ctx slot : Nat) : Nat := ctx * 0x1000 + slot * 0x40

/-- A SUBMIT fault record (R413): status, the slot's aperture offset, the completion address, the verb code. -/
def Dev.submitFault (d : Dev) (c : Context) (slot : Nat) (line : List Byte) (st : Status) : Dev :=
  d.fault (.domain c.domain) 0x02 (some st) c.domain c.num (lineSeq line) 0xFFFF (apertureOf c.num slot)
    (lineCompl line) (lineVerb line)

/-- An MSI-X message of a port falls due (R89): it leaves, or its pending bit is set while its vector is masked. -/
def Dev.raiseVector (d : Dev) (port dom vector : Nat) (r : Option SlotRef) : Dev :=
  let mine (m : MaskedVector) : Bool := m.port == port && m.vector == vector
  if d.masked.any mine then { d with masked := modifyAll mine (fun m => { m with pending := true }) d.masked }
  else d.toPort port dom true 4 r (.msix port vector)

/-- The record's two posted writes on the home port, then the MSI-X message (R87, R89). `own` says that it is the record of
the command that took the slot, and not that of a refused line. -/
def Dev.postRecord (d : Dev) (c : Context) (addr verb : Nat) (notify own : Bool) (rc : Record) (r : SlotRef) : Dev :=
  let d := d.toPort c.homePort c.domain true 24 (some r) (.recordWords c.homePort addr rc)
  let d := d.toPort c.homePort c.domain true 8 (some r) (.record c.homePort addr verb own rc)
  if c.msixEn && notify then d.raiseVector c.homePort c.domain c.vector (some r) else d

/-- Whether a completion address is valid (R70, R78). -/
def complOk (addr : Nat) : Bool := addr != 0 && addr % 32 == 0

/-- A refused line that takes no slot: its record, or a SUBMIT fault record (R88, R96). -/
def Dev.refuseLine (d : Dev) (c : Context) (slot : Nat) (line : List Byte) (st : Status) : Dev :=
  if complOk (lineCompl line) && d.portUp c.homePort then
    d.postRecord c (lineCompl line) (lineVerb line) (lineNotify line) false
      { seq := lineSeq line, status := st, replayed := false, degraded := false, steps := 0, w0 := 0, w1 := 0, w2 := 0 } { ctx := c.num, slot := slot }
  else d.submitFault c slot line st

/-- Whether a completion closes its context's epoch (R120, R377). -/
def closesEpoch (v : Option Verb) (st : Status) : Bool :=
  match v with
  | some .release => st == .ok || st == .priorFailed
  | some .publish => st == .ok || st == .conflict || st == .priorFailed
  | _ => false

/-- A command no longer holds list bodies, list locks or segments of an index (R241, R245, R249). -/
def Dev.dropHolds (d : Dev) (r : SlotRef) : Dev :=
  { d with indexes := d.indexes.map fun x =>
      { x with lists := x.lists.map fun l => { l with holders := l.holders.filter (· != r), lock := if l.lock == some r then none else l.lock }
               segments := x.segments.map fun g => { g with holders := g.holders.filter (· != r) } } }

/-- Post the record of a slot's command, or hold it and write a SUBMIT fault record where the home port is down (R88). -/
def Dev.deliver (d : Dev) (r : SlotRef) (c : Context) (line : List Byte) (rc : Record) : Dev :=
  if d.portUp c.homePort then d.postRecord c (lineCompl line) (lineVerb line) (lineNotify line) true rc r
  else (d.modSlot r fun s => { s with held := true }).submitFault c r.slot line rc.status

/-- A copy of a retained record, with REPLAYED set, completes a duplicate's slot (R79). -/
def Dev.finishDup (d : Dev) (r : SlotRef) (rc : Record) : Dev :=
  match d.ctx? r.ctx, d.cmd? r with
  | some c, some k =>
    let d := d.modSlot r fun s =>
      { s with state := .done, reason := .none, status := some rc.status, steps := rc.steps, held := false, cmd := none }
    d.deliver r c k.line { rc with replayed := true }
  | _, _ => d

/-- Whether a granule is part of a completion record or its message. -/
def EgGranule.ofRecord (g : EgGranule) : Bool :=
  match g.msg with
  | some (.recordWords _ _ _) => true
  | some (.record _ _ _ _ _) => true
  | some (.msix _ _) => true
  | _ => false

/-- The tag of a queued fabric message. -/
def EgGranule.fabTag (g : EgGranule) : Option Nat :=
  match g.msg with
  | some (.fabric _ _ _ _ _ tag _ _ _ _) => some tag
  | _ => none

/-- Granules of aborted commands leave every egress queue (R92, R320), except their records; the commands wait no more for an answer
to a message that never left. -/
def Dev.purge (d : Dev) (rs : List SlotRef) : Dev :=
  let drop (g : EgGranule) : Bool := g.cmd.any rs.contains && !g.ofRecord
  let gone := d.points.flatMap fun e => e.queues.flatMap fun q => ((q.mem ++ q.posted).filter drop).filterMap EgGranule.fabTag
  let d := { d with points := d.points.map fun e =>
      { e with queues := e.queues.map fun q => { q with mem := q.mem.filter (!drop ·), posted := q.posted.filter (!drop ·) } } }
  if gone.isEmpty then d
  else rs.foldl (fun d r => d.modCmd r fun k => { k with remote := k.remote.filter fun a => !gone.contains a.tag }) d

/-- The kinds of STEP message, as this model's firmware has them (R364 leaves the payload to the firmware release, log 11). -/
inductive StepKind where
  | run | stage | unstage | move | refs | cut | log | lock | unlock | table | bind | unbind | enter | free | count
deriving DecidableEq, Repr

/-- The number of a kind, in byte 0 of the payload. -/
def StepKind.code : StepKind → Nat
  | .run => 0 | .stage => 1 | .unstage => 2 | .move => 3 | .refs => 4 | .cut => 5 | .log => 6 | .lock => 7 | .unlock => 8 | .table => 9
  | .bind => 10 | .unbind => 11 | .enter => 12 | .free => 13 | .count => 14

/-- The kind with a number. -/
def StepKind.ofCode (n : Nat) : Option StepKind :=
  [StepKind.run, .stage, .unstage, .move, .refs, .cut, .log, .lock, .unlock, .table, .bind, .unbind, .enter, .free, .count].find? fun k => k.code == n

/-- A STEP message leaves that nothing waits for: its answer finds no access. -/
def Dev.tellStep (d : Dev) (kind : StepKind) (home dom ctx : Nat) (args : List Nat) : Dev :=
  let (tag, d) := d.freshTag
  d.sendFab 0x06 (d.fidOf home) dom ctx tag 0 0 0 (natLe kind.code 8 ++ args.flatMap fun a => natLe a 8) none

/-- 8-byte arguments. -/
def stepArgs (xs : List Nat) : List Byte := xs.flatMap fun a => natLe a 8

/-- A STEP message of a command, whose answer it awaits (R364, log 11): the access keeps the kind. TARGET_DEAD is raised where the
member cannot be reached (R360, R380). -/
def Dev.askStep (d : Dev) (r : SlotRef) (kind : StepKind) (home ctx : Nat) (payload : List Byte) : Dev :=
  if !d.answers home then d.modCmd r fun k => { k with raised := k.raised ++ [.targetDead] }
  else
    let (tag, d) := d.freshTag
    let d := d.modCmd r fun k =>
      { k with remote := k.remote ++ [{ tag := tag, home := home, sa := 0, len := 0, isWrite := true, since := d.now, index := kind.code, fetch := none, bytes := natLe kind.code 8 ++ payload }] }
    d.sendFab 0x06 (d.fidOf home) (d.domainOf r) ctx tag 0 0 0 (natLe kind.code 8 ++ payload) (some r)

/-- A context of another front member goes once it holds neither a session nor a command. -/
def Dev.dropGuest (d : Dev) (num : Nat) : Dev :=
  { d with ctxs := d.ctxs.filter fun c => !(c.num == num && c.isGuest && c.session.isNone && c.held.isEmpty) }

/-- A FORK that was made here for another member's context ends (R158, R160): its references went on with the child, or, where it
failed, are given up; the child's own store lies at that member. -/
def Dev.endChild (d : Dev) (c : Context) (k : Cmd) (st : Status) : Dev :=
  match c.session with
  | none => d
  | some s =>
    if cmdVerb k != some .fork then d
    else
      let mine (b : Block) : Bool := s.layers.any fun l => l.blocks.contains b.id
      let d := d.modCtx c.num fun c => { c with session := none }
      if !st.isFailure then { d with blocks := d.blocks.filter fun b => !(mine b && !d.isLocal b.frameSa) }
      else
        let drop (b : Block) : Block :=
          if !d.isLocal b.frameSa then { b with freeing := true } else if b.pinned then b else { b with refs := b.refs - 1, freeing := b.refs == 1 }
        { d with blocks := d.blocks.map fun b => if mine b then drop b else b }

/-- A forwarded command ends on the session's owner (R166): its words go back to the front member, with the appended length of the
layer that an APPEND names, and the answer is kept (R367). -/
def Dev.answerStep (d : Dev) (r : SlotRef) (k : Cmd) (fid tag : Nat) (st : Status) (w0 w1 w2 : W64) : Dev :=
  let top := ((d.ctx? r.ctx).bind (·.session)).elim 0 fun s => (s.layers[fieldAt (cmdOps k) 0 2]?).elim 0 (·.n)
  let words := [w0.toNat, w1.toNat, w2.toNat, k.retired, b2n k.degraded, top].flatMap fun x => natLe x 8
  let dom := d.domainOf r
  let x : OutMsg := .fabric 0x86 fid (d.fidOf d.coll.geoId) dom (r.ctx % 65536) tag (BitVec.ofNat 16 st.code) 0 0 words
  let now := d.now
  let keep (y : FabService) : FabService := if y.src == fid && y.tag == tag then { y with answer := some x, await := [], since := now } else y
  let d := { d with serving := d.serving.map keep }
  (d.modSlot r fun _ => Slot.fresh).sendFab 0x86 fid dom (r.ctx % 65536) tag (BitVec.ofNat 16 st.code) 0 0 words none

/-- A command's binding to its table's version ends (R208): the home of the table is told where that is another member. -/
def Dev.unbind (d : Dev) (r : SlotRef) (k : Cmd) : Dev :=
  match k.table with
  | none => d
  | some (id, v) =>
    let dom := d.domainOf r
    let d := d.modCmd r fun k => { k with table := none }
    match d.tables.find? fun t => t.domain == dom && t.id == id with
    | some t => if t.home == d.coll.geoId || !d.joined then d else d.tellStep .unbind t.home dom r.ctx [id, v.toNat]
    | none => d

/-- A command ends (R73, R79, R86): its slot goes DONE, its record is retained and delivered, its tag is free; its
duplicates in flight get their copies; the store of a version that a REHANG did not finish is freed. A reset of command
state counts the commands it cut short (R94). -/
def Dev.finish (d : Dev) (r : SlotRef) (st : Status) (w0 w1 w2 : W64) : Dev :=
  match d.ctx? r.ctx, d.cmd? r with
  | some c, some k =>
    if let some (fid, tag) := k.guest then
      (((k.freeing.foldl (fun d s => d.zeroRange s.sa s.len) d).endChild c k st).answerStep r k fid tag st w0 w1 w2).dropGuest r.ctx
    else
    let rc : Record :=
      { seq := lineSeq k.line, status := st, replayed := false, degraded := k.degraded, steps := k.retired, w0 := w0,
        w1 := w1, w2 := w2 }
    let dup := k.duplicateOf.isSome
    let d := d.unbind r k
    let d := if st == .aborted then d.purge [r] else d
    let d := d.modCtx r.ctx fun c =>
      { c with
        window := if dup then c.window else modifyAll (fun e => e.seq == rc.seq) (fun e => { e with record := some rc }) c.window
        fails := if st.isFailure && !dup then c.fails ++ [k.order] else c.fails
        lastClose := if closesEpoch (cmdVerb k) st then k.order else c.lastClose }
    let d := d.modSlot r fun s =>
      { s with state := .done, reason := .none, status := some st, steps := k.retired, held := false, cmd := none }
    let d := if cmdVerb k == some .rehang || lineVerb k.line / 256 == 3 then k.freeing.foldl (fun d s => d.zeroRange s.sa s.len) d else d
    let d := k.staged.elim d fun x => d.tellStep .unstage x.1 c.domain r.ctx [x.2]
    let d := if d.resetActive && k.tagged && st == .aborted then
        d.setField 0x3008 63 32 ((d.field 0x3008 63 32 + 1) % 2 ^ 32)
      else d
    let dups := if dup then [] else c.held.filterMap fun e =>
      if e.2.2.duplicateOf == some rc.seq then some ({ ctx := r.ctx, slot := e.1 } : SlotRef) else none
    dups.foldl (fun d x => d.finishDup x rc) ((d.dropHolds r).deliver r c k.line rc)
  | _, _ => d

/-- A command ends without result words. -/
def Dev.finish0 (d : Dev) (r : SlotRef) (st : Status) : Dev := d.finish r st 0 0 0

/-- A command of an ordering verb ends; with a failure status other than PRIOR_FAILED each command it holds completes
with PRIOR_FAILED without running (R123, R378). -/
def Dev.finishHolder (d : Dev) (r : SlotRef) (st : Status) (w0 : W64) : Dev :=
  match d.ctx? r.ctx, d.cmd? r with
  | some c, some k =>
    let d := d.finish r st w0 0 0
    if st.isFailure && st != .priorFailed then
      let held := c.held.filter fun e =>
        e.2.1.state == .waiting && decide (k.order < e.2.2.order) &&
          !(((cmdVerb e.2.2).map Verb.tagless).getD false) && e.2.2.duplicateOf.isNone
      (sortOrd (fun a b => decide (a.2.2.order < b.2.2.order)) held).foldl
        (fun d e => d.finish0 { ctx := r.ctx, slot := e.1 } .priorFailed) d
    else d
  | _, _ => d

/-- A command ends: an ordering verb that holds others fails them where it fails. -/
def Dev.complete (d : Dev) (r : SlotRef) (st : Status) (w0 w1 w2 : W64) : Dev :=
  match d.cmd? r with
  | none => d
  | some k =>
    if ((cmdVerb k).map Verb.holds).getD false then d.finishHolder r st w0 else d.finish r st w0 w1 w2

/-- Run `f` once every remote span of a command's reads is here; until then the RDs go out and the command stays as it
is (R369). A home that cannot be reached ends the command with TARGET_DEAD (R360, R380). -/
def Dev.withRemote (d : Dev) (r : SlotRef) (k : Cmd) (ss : List Span) (f : Dev → Dev) : Dev :=
  let miss := d.missing k ss
  if miss.isEmpty then f d
  else if miss.any fun s => !d.reaches (d.homeOf s.sa) then d.complete r .targetDead 0 0 0
  else d.askMissing r k ss

/-! ### Extent caches and translation (R26, R293, R294) -/

/-- Whether a port lies in the west wing (R18). -/
def westPort (p : Nat) : Bool := decide (2 ≤ p)

/-- A wing's extent cache. -/
def Dev.xc (d : Dev) (west : Bool) : List XcEntry := if west then d.xcWest else d.xcEast

/-- Replace a wing's extent cache. -/
def Dev.setXc (d : Dev) (west : Bool) (xs : List XcEntry) : Dev :=
  if west then { d with xcWest := xs } else { d with xcEast := xs }

/-- The entries reserved for a domain in a wing (R43). -/
def Dev.xcReserve (d : Dev) (west : Bool) (dom : Nat) : Nat :=
  match d.domainRec dom with
  | some x => if west then x.xcWest else x.xcEast
  | none => 0

/-- An entry used or filled: most recent first; a full cache evicts the least recently used entry that no domain's
reserve protects (R26). -/
def Dev.xcTouch (d : Dev) (west : Bool) (e : XcEntry) : Dev :=
  let xs := e :: (d.xc west).filter (· != e)
  if xs.length ≤ 4096 then d.setXc west xs
  else
    let exceeds (x : XcEntry) : Bool :=
      decide (d.xcReserve west x.domain < (xs.filter (·.domain == x.domain)).length)
    match xs.reverse.find? fun x => exceeds x && x != e with
    | some v => d.setXc west (xs.filter (· != v))
    | none => d.setXc west (xs.take 4096)

/-- The geometry of the session a class 0x03 command works on: the context's session, else the one that an INIT or a
FORK waiting in the same context will make (R146, R158, log 15). -/
def Dev.geomOf (d : Dev) (c : Context) (before : Nat) : Option Geom :=
  let of (s : Session) : Geom := { layers := s.layerCount, heads := s.heads, dim := s.dim, group := s.group }
  match c.session with
  | some s => some (of s)
  | none =>
    c.held.findSome? fun e =>
      let k := e.2.2
      if decide (k.order < before) then
        match cmdVerb k with
        | some .append => initGeom k.desc
        | some .fork => ((d.ctx? (fieldAt k.line 16 2)).bind (·.session)).map of
        | _ => none
      else none

/-- The ranges a command's decoding is at: the descriptor pointer until the descriptor is read, then its form (R71). -/
def Dev.needsOf (d : Dev) (c : Context) (k : Cmd) : Form :=
  match cmdVerb k with
  | none => none
  | some v =>
    if lineExt k.line && k.desc.isEmpty then descPointer k.line
    else formOf (d.geomOf c k.order) v k.line k.desc

/-- The outcome of translating ranges (R293). -/
inductive Xlate where
  | miss (cva : Nat)
  | bad (cva : Nat)
  | fault (st : Status) (cva off : Nat)
  | ok (caps : List Extent)
deriving DecidableEq, Repr

/-- Add to captures the extents of a range that are not there yet. -/
def addCaps (caps es : List Extent) : List Extent :=
  es.foldl (fun acc e => if acc.contains e then acc else acc ++ [e]) caps

/-- Translate ranges against the extents (R293): XLATE_FAULT first, then the limit of 256 extents, then rights. -/
def translate (es : List Extent) (dom : Nat) (caps : List Extent) (ns : List Need) : Xlate :=
  match ns.findSome? fun n => match cover es dom n.cva n.len with
      | .error c => some (c, n.off)
      | .ok _ => none with
  | some (c, off) => .fault .xlateFault c off
  | none =>
    let all := ns.foldl (fun acc n => match cover es dom n.cva n.len with
      | .ok xs => addCaps acc xs
      | .error _ => acc) caps
    match all[256]? with
    | some e => .bad e.cva
    | none =>
      match ns.findSome? fun n =>
        if n.write then
          match cover es dom n.cva n.len with
          | .ok xs => (xs.find? fun e => !e.rights.writes).map fun e => (max e.cva n.cva, n.off)
          | .error _ => none
        else none with
      | some (c, off) => .fault .accessDenied c off
      | none => .ok all

/-- The first CVA of the ranges whose extent is not in the wing's cache, and that range. -/
def Dev.xcMiss (d : Dev) (west : Bool) (dom : Nat) (ns : List Need) : Bool :=
  ns.any fun n =>
    match cover d.extents dom n.cva n.len with
    | .error _ => true
    | .ok xs => xs.any fun e => !((d.xc west).contains { domain := dom, cva := e.cva })

/-- The extents of the ranges enter or refresh the wing's cache. -/
def Dev.xcFill (d : Dev) (west : Bool) (dom : Nat) (ns : List Need) : Dev :=
  ns.foldl (fun d n =>
    match cover d.extents dom n.cva n.len with
    | .error _ => d
    | .ok xs => xs.foldl (fun d e => d.xcTouch west { domain := dom, cva := e.cva }) d) d

/-- Set the captures of a command. -/
def Dev.setCaps (d : Dev) (r : SlotRef) (caps : List Extent) : Dev := d.modCmd r fun k => { k with caps := caps }

/-- Translate a command's ranges and capture them, or complete it (R293). `f` goes on when they are captured. -/
def Dev.capture (d : Dev) (r : SlotRef) (c : Context) (k : Cmd) (ns : List Need) (f : Dev → Dev) : Dev :=
  match translate d.extents c.domain k.caps ns with
  | .ok caps => f (d.setCaps r caps)
  | .fault st cva off => d.complete r st (BitVec.ofNat 64 cva) (BitVec.ofNat 64 off) 0
  | .bad cva => d.complete r .badOperand (BitVec.ofNat 64 cva) 0 0
  | .miss _ => d

/-- Decode the ranges of a command whose extents are all cached or served: capture them, or wait as a miss (R294).
The Curator serves a miss (`served`) against its tree. -/
def Dev.decodeRanges (d : Dev) (r : SlotRef) (served : Bool) (f : Dev → Dev) : Dev :=
  match d.ctx? r.ctx, d.cmd? r with
  | some c, some k =>
    match d.needsOf c k with
    | none => d.complete r .badOperand 0 0 0
    | some ns =>
      if !served && d.xcMiss (westPort k.port) c.domain ns then d.modSlot r fun s => { s with reason := .miss }
      else
        let d := d.xcFill (westPort k.port) c.domain ns
        (d.modSlot r fun s => { s with reason := .none }).capture r c k ns f
  | _, _ => d

/-- The spans of a command's descriptor. -/
def Dev.descSpans (d : Dev) (r : SlotRef) (k : Cmd) : List Span := k.spans (d.domainOf r) (fieldAt k.line 16 8) (fieldAt k.line 24 4)

/-- Whether an earlier FENCE_FULL of the context holds a command: until that completes, no read of it is issued (R118). -/
def heldByFenceFull (c : Context) (k : Cmd) : Bool :=
  c.held.any fun e => decide (e.2.2.order < k.order) && e.2.2.duplicateOf.isNone && cmdVerb e.2.2 == some .fenceFull

/-- The descriptor's bytes, once its range is captured, no repair holds its sectors and no FENCE_FULL holds the command (R71, R118);
a poisoned descriptor completes the command with POISONED (log 16). -/
def Dev.readDescriptor (d : Dev) (r : SlotRef) (f : Dev → Dev) : Dev :=
  match d.ctx? r.ctx, d.cmd? r with
  | some c, some k =>
    let ss := d.descSpans r k
    if heldByFenceFull c k || ss.any (fun s => d.isLocal s.sa && d.repairs.any fun x => overlap (x.sector * 32) 32 s.sa s.len) then d
    else
      d.withRemote r k ss fun d =>
        if d.badSpans k ss then d.complete r .poisoned 0 0 0
        else f (d.modCmd r fun k => { k with desc := d.loadAll k ss, fetched := [] })
  | _, _ => d

/-- Decode and translate a command (R71, R96 checks 7 to 10): the line, then its descriptor. -/
def Dev.decode (d : Dev) (r : SlotRef) (served : Bool) : Dev :=
  match d.cmd? r with
  | none => d
  | some k =>
    if lineExt k.line && k.desc.isEmpty then
      d.decodeRanges r served fun d => d.readDescriptor r fun d => d.decodeRanges r false fun d => d
    else d.decodeRanges r served fun d => d

/-- The next command whose descriptor can be read now: its pointer is translated and what kept it is over (R118, R399). -/
def Dev.nextDescriptor (d : Dev) : Option SlotRef :=
  d.ctxs.findSome? fun c => c.held.findSome? fun e =>
    let k := e.2.2
    let r : SlotRef := { ctx := c.num, slot := e.1 }
    let ss := d.descSpans r k
    if e.2.1.state == .waiting && e.2.1.reason == .none && lineExt k.line && k.desc.isEmpty && !k.caps.isEmpty && k.remote.isEmpty &&
        k.duplicateOf.isNone && !heldByFenceFull c k &&
        !(ss.any fun s => d.isLocal s.sa && d.repairs.any fun x => overlap (x.sector * 32) 32 s.sa s.len)
    then some r else none

/-! ### Eligibility (R82, R83, R116, R148, R289, R395) -/

/-- Whether an earlier command of the context holds this one (R116, R378). MAP, UNMAP, LOAN_RENEW and ABORT are not
held (R289). -/
def heldByOrder (c : Context) (k : Cmd) : Bool :=
  c.held.any fun e =>
    decide (e.2.2.order < k.order) && e.2.2.duplicateOf.isNone && ((cmdVerb e.2.2).map Verb.holds).getD false

/-- Whether every command an ordering verb covers is RUNNING or DONE (R116). -/
def coversReady (c : Context) (k : Cmd) : Bool :=
  c.held.all fun e => decide (k.order ≤ e.2.2.order) || e.2.1.state == .running

/-- Whether an earlier class 0x03 command of the context keeps this one (R148). -/
def heldByLayer (c : Context) (k : Cmd) (v : Verb) : Bool :=
  match touchOf v k.line k.desc with
  | none => false
  | some t =>
    c.held.any fun e =>
      decide (e.2.2.order < k.order) && e.2.2.duplicateOf.isNone &&
        match (cmdVerb e.2.2).bind fun v => touchOf v e.2.2.line e.2.2.desc with
        | some u => (t.writes || u.writes) && t.meets u
        | none => false

/-- Whether an earlier class 0x08 command on the same running value keeps this one (R395). -/
def heldByRunning (c : Context) (k : Cmd) (v : Verb) : Bool :=
  match runningOf v k.line with
  | none => false
  | some n =>
    c.held.any fun e =>
      decide (e.2.2.order < k.order) && e.2.2.duplicateOf.isNone &&
        ((cmdVerb e.2.2).bind fun v => runningOf v e.2.2.line) == some n

/-- Whether a command waits for another of its context. -/
def keptByContext (c : Context) (k : Cmd) (v : Verb) : Bool :=
  heldByOrder c k || (v.covers && !coversReady c k) || heldByLayer c k v || heldByRunning c k v

/-- Whether an earlier MAP, UNMAP or LOAN_RENEW of the domain has its turn (R289). -/
def Dev.turnBusy (d : Dev) (dom order : Nat) : Bool :=
  d.ctxs.any fun c => c.domain == dom && c.held.any fun e =>
    decide (e.2.2.order < order) && e.2.2.duplicateOf.isNone && ((cmdVerb e.2.2).map Verb.takesTurn).getD false

/-- Tags a domain holds (R82). -/
def Dev.tagsInUse (d : Dev) (dom : Nat) : Nat :=
  ((d.ctxs.filter (·.domain == dom)).flatMap fun c => c.held.filter (·.2.2.tagged)).length

/-- The domain under a partial load from quiesce to commit (R58). -/
def Dev.loadingDomain (d : Dev) : Option Nat :=
  if d.load.phase == .quiescing || d.load.phase == .wiping || d.load.phase == .committing then
    d.load.next.bind fun i => if i.partialLoad then some i.domain else none
  else none

/-- The pipeline that the image routes a domain's verb class to (R46). -/
def Dev.pipelineOf (d : Dev) (dom code : Nat) : Option PipelineRec :=
  d.image.bind fun i =>
    (i.routes.find? fun x => x.domain == dom && x.cls == code / 256).bind fun rt =>
      i.pipelines.find? fun p => p.domain == dom && p.number == rt.pipeline

/-- The logical galleries of a command's pipeline. -/
def Dev.galleriesFor (d : Dev) (dom code : Nat) : List Nat :=
  match d.pipelineOf dom code with
  | some p => (List.range 40).filter (bit p.galleries)
  | none => []

/-- The galleries that a pipeline still has: one that is retired leaves it (R433). -/
def Dev.galleriesLeft (d : Dev) (dom code : Nat) : List Nat :=
  (d.galleriesFor dom code).filter fun g => !(d.galleries.any fun x => x.logical == some g && x.state == .retired)

/-- The galleries that a SEARCH uses, in the order of their positions (R234): P of the pipeline's, from one that its context gives. -/
def Dev.searchGalleries (d : Dev) (dom code ctx : Nat) : List Nat :=
  let gs := d.galleriesLeft dom code
  let p := min 8 gs.length
  (List.range p).map fun i => at! gs ((p * ctx % gs.length + i) % gs.length) 0

/-- A pipeline serves commands once every gallery it names has joined or been retired (R441). -/
def Dev.pipelineReady (d : Dev) (dom code : Nat) : Bool :=
  (d.galleriesFor dom code).all fun g =>
    !(d.galleries.any fun x => x.logical == some g && x.state == .pending)

/-- A pipeline with no gallery left serves no command (R433). -/
def Dev.pipelineDead (d : Dev) (dom code : Nat) : Bool :=
  let gs := d.galleriesFor dom code
  !gs.isEmpty && gs.all fun g => d.galleries.any fun x => x.logical == some g && x.state == .retired

/-- Why a WAITING command waits (R74). -/
def Dev.waitReason (d : Dev) (c : Context) (s : Slot) : WaitReason :=
  match s.cmd with
  | none => .none
  | some k =>
    if s.state != .waiting then .none
    else if s.reason == .duplicate then .duplicate
    else if d.resetActive then .cmdReset
    else if s.reason == .miss then .miss
    else if lineExt k.line && k.desc.isEmpty then .none
    else
      match cmdVerb k with
      | none => .none
      | some v =>
        if v.takesTurn then .turn
        else if d.loadingDomain == some c.domain || !d.pipelineReady c.domain (lineVerb k.line) then .imageLoad
        else if keptByContext c k v then .none
        else .tag

/-- Whether a WAITING command may start now: its operands translated, its descriptor's too (R71, R82), not kept, its turn or a free tag, admission open (R83, R58,
R94, R457). -/
def Dev.eligible (d : Dev) (c : Context) (s : Slot) : Bool :=
  match s.cmd with
  | none => false
  | some k =>
    s.state == .waiting && s.reason == .none && k.duplicateOf.isNone && !d.resetActive && d.admits &&
      d.power.phase == .none && !(lineExt k.line && k.desc.isEmpty) &&
      match cmdVerb k with
      | none => false
      | some v =>
        if v.takesTurn then !d.turnBusy c.domain k.order
        else d.loadingDomain != some c.domain && d.pipelineReady c.domain (lineVerb k.line) && !keptByContext c k v &&
          (k.guest.isSome || decide (d.tagsInUse c.domain < ((d.domainRec c.domain).map (·.tagPool)).getD 0))

/-- Whether a captured extent is still in force (R84, R299). -/
def Dev.inForce (d : Dev) (e : Extent) : Bool :=
  d.extents.any fun x => x.domain == e.domain && x.cva == e.cva && x.len == e.len && x.gen == e.gen

/-- Whether every capture of a command is in force; a forwarded command works on its staging area (R166). -/
def Dev.current (d : Dev) (k : Cmd) : Bool := k.guest.isSome || k.caps.all d.inForce

/-- The verb class of a verb code is in the domain's mask (R43, R95). -/
def Dev.classOk (d : Dev) (dom code : Nat) : Bool :=
  match d.domainRec dom with
  | some x => bit x.classMask (code / 256)
  | none => false

/-- The index a class 0x05 command names (R228). -/
def indexOf (k : Cmd) : Option Nat :=
  match cmdVerb k with
  | some .search => some (fieldAt (cmdOps k) 0 2)
  | some .insert => some (fieldAt (cmdOps k) 0 2)
  | some .delete => some (fieldAt (cmdOps k) 0 2)
  | some .compact => some (fieldAt (cmdOps k) 0 2)
  | _ => none

/-- Bind to a version of a table homed here (R208): the CURRENT one, or the one named. Without a CURRENT version the command is
BAD_OPERAND (log 30). -/
def Dev.bindVersion (d : Dev) (dom id named : Nat) : Except Status Version :=
  let vs := (d.tables.filter fun t => t.domain == dom && t.id == id).flatMap (·.versions)
  if named = 0 then
    match vs.find? (·.state == .current) with
    | some v => .ok v
    | none => .error .badOperand
  else
    match vs.find? fun v => v.number.toNat == named with
    | some v => .ok v
    | none => .error .versionGone

/-- The table, and the version named, of a command that binds to one (R208). -/
def bindingOf (k : Cmd) : Option (Nat × Nat) :=
  match cmdVerb k with
  | some .gather => some (fieldAt k.line 16 2, fieldAt k.line 28 4)
  | some .scatterUpdate => some (fieldAt k.line 16 2, 0)
  | some .rehang => some (fieldAt k.line 16 2, fieldAt k.line 24 4)
  | _ => none

/-- The home of a table (R210): this member, where it knows of none. -/
def Dev.tableHome (d : Dev) (dom id : Nat) : Nat :=
  if !d.joined then d.coll.geoId else ((d.tables.find? fun t => t.domain == dom && t.id == id).map (·.home)).getD d.coll.geoId

/-- What a command binds to as it takes its tag: a version (R208), for a table homed elsewhere only once its home has answered (R210);
or an index that must exist, or for a creation must not (R228). -/
def Dev.bindTo (d : Dev) (dom : Nat) (k : Cmd) : Except Status (Option (Nat × Version)) :=
  match bindingOf k with
  | some (id, named) =>
    if d.tableHome dom id != d.coll.geoId then .ok none else (d.bindVersion dom id named).map fun v => some (id, v)
  | none =>
    match indexOf k with
    | none => .ok none
    | some id =>
      let known := d.indexes.any fun x => x.domain == dom && x.id == id && !x.unknown
      let taken := d.indexes.any fun x => x.domain == dom && x.id == id
      if (if cmdVerb k == some .insert && lineExt k.line then taken else !known) then .error .badOperand else .ok none

/-- A WAITING command starts: NO_VERB under a new mask (R58), STALE_XLATE under a withdrawn translation (R32), TARGET_DEAD
where its pipeline has no gallery left (R433), else it is RUNNING, with a tag unless its verb takes none. -/
def Dev.start (d : Dev) (r : SlotRef) : Dev :=
  match d.ctx? r.ctx, d.cmd? r with
  | some c, some k =>
    if !d.classOk c.domain (lineVerb k.line) then d.complete r .noVerb 0 0 0
    else if !d.current k then d.complete r .staleXlate 0 0 0
    else if !((cmdVerb k).map Verb.tagless).getD false && d.pipelineDead c.domain (lineVerb k.line) then d.complete r .targetDead 0 0 0
    else
      match d.bindTo c.domain k with
      | .error st => d.complete r st 0 0 0
      | .ok b =>
        let tagged := k.guest.isNone && !(((cmdVerb k).map Verb.tagless).getD false)
        let d := (d.modSlot r fun s => { s with state := .running, reason := .none }).modCmd r fun k =>
          { k with tagged := tagged, t0 := d.now, table := b.map fun x => (x.1, x.2.number), version := b.map Prod.snd }
        match bindingOf k with
        | some (id, named) =>
          if b.isSome then d
          else if !d.answers (d.tableHome c.domain id) then d.complete r .targetDead 0 0 0
          else d.askStep r .bind (d.tableHome c.domain id) r.ctx (stepArgs [id, named])
        | none => d
  | _, _ => d

/-- The next command to start: first those that a partial load held, in order of acceptance (R58), then within a domain
the highest priority, then the earliest accepted (R72, R83). -/
def Dev.nextStart (d : Dev) : Option SlotRef :=
  let cands := d.ctxs.flatMap fun c => c.held.filterMap fun e =>
    if d.eligible c e.2.1 then some (e.2.2, ({ ctx := c.num, slot := e.1 } : SlotRef)) else none
  let before (a b : Cmd × SlotRef) : Bool :=
    if a.1.resume != b.1.resume then a.1.resume
    else if a.1.resume then decide (a.1.order < b.1.order)
    else decide (cmdPrio b.1 < cmdPrio a.1) || (cmdPrio a.1 == cmdPrio b.1 && decide (a.1.order < b.1.order))
  (sortOrd before cands).head?.map Prod.snd

/-- The next in-flight duplicate whose original has its record (R79). -/
def Dev.nextDup (d : Dev) : Option (SlotRef × Record) :=
  d.ctxs.findSome? fun c => c.held.findSome? fun e =>
    match e.2.2.duplicateOf with
    | none => none
    | some q =>
      match (c.window.find? (·.seq == q)).bind (·.record) with
      | some rc => some ({ ctx := c.num, slot := e.1 }, rc)
      | none => none

/-! ### Reclaiming (R160, R211, R298) -/

/-- Whether a running command's remaining steps touch a span. -/
def Dev.readBySteps (d : Dev) (s : Span) : Bool :=
  d.ctxs.any fun c => c.held.any fun e => e.2.2.plan.any fun st => (st.reads ++ st.outs).any fun x => overlap x.sa x.len s.sa s.len

/-- Bytes of the K region of a frame (R149); the V region has the same size. -/
def regionSize (format heads dim : Nat) : Nat :=
  if format = 0x08 then 34 * heads * dim else 64 * heads * dim * (elemBits format / 8)

/-- Bytes of a block's frame (R149). -/
def frameSize (format heads dim : Nat) : Nat := roundUp (2 * regionSize format heads dim) 4096

/-- The frame of a block as a span: the size of R149. -/
def Block.frame (b : Block) : Span := { sa := b.frameSa, len := frameSize b.format b.heads b.dim }

/-- The summary record of a block as a span (R151). -/
def Block.summary (b : Block) : Span := { sa := b.summarySa, len := summarySize b.heads b.dim }

/-- A block by its identifier. -/
def Dev.block? (d : Dev) (id : Nat) : Option Block := d.blocks.find? (·.id == id)

/-- Bytes of one layer's intake, of the block tables and of the codebook of a session (R154, R173, R146). -/
def Session.intakeBytes (s : Session) : Nat := 512 * s.heads * s.dim
def Session.tableBytes (s : Session) : Nat := 8 * s.layerCount * (s.limit / 64)
def Session.codebookBytes (s : Session) : Nat := 32 * s.dim * s.heads * s.layerCount

/-- Bytes of a session's own store on its owner, and of its log on its front member (R155, R173). -/
def Session.stateBytes (s : Session) : Nat := s.intakeBytes * s.layerCount + s.tableBytes + s.codebookBytes
def Session.logBytes (s : Session) : Nat := 8 * s.limit

/-- The store that a session holds on this member, beside its blocks; store address 0 is reserved (R81) and stands for none. -/
def Session.spans (s : Session) : List Span :=
  (if s.stateSa = 0 then [] else [{ sa := s.stateSa, len := s.stateBytes }]) ++ if s.logSa = 0 then [] else [{ sa := s.logSa, len := s.logBytes }]

/-- An operation for a granule on a channel. -/
def MediaOp.make (kind : MediaOpKind) (g ch dom blk : Nat) (rs : List SlotRef) : MediaOp :=
  { kind := kind, granule := g, channel := ch, domain := dom, block := blk, cmds := rs, onMedia := false, held := false, suspended := false, suspends := 0, discard := false, hosts := [], fabs := [] }

/-- Whether a block holds the flash copy of a granule. -/
def Dev.blockInUse (d : Dev) (ch blk : Nat) : Bool :=
  d.granules.any fun g => g.channel == ch && g.block == blk && g.residency != .dram

/-- Flash copies of a range are invalidated (R260): their records go, a program of them on the media loses its result, and what already
waits for a read of them still gets it. A block that this leaves empty is erased, unless it is retired (R270). -/
def Dev.invalidateFlash (d : Dev) (s : Span) : Dev :=
  let gs := granulesOf s
  let mine (m : MediaOp) : Bool := m.kind != .erase && gs.contains m.granule
  let gone := d.granules.filter fun g => gs.contains g.number && g.residency != .dram
  let d : Dev := { d with
    granules := d.granules.filter fun g => !gs.contains g.number
    media := (d.media.filter fun (m : MediaOp) => !(mine m && m.kind == .program && !m.onMedia)).map fun (m : MediaOp) => if mine m then { m with discard := true } else m }
  let blocks := ((gone.map fun g => (g.channel, g.block)).eraseDups).filter fun (b : Nat × Nat) => !d.blockInUse b.1 b.2 &&
    !(d.flash.any fun x => x.channel == b.1 && x.number == b.2 && x.retired) && !(d.media.any fun (m : MediaOp) => m.kind == .erase && m.channel == b.1 && m.block == b.2)
  { d with media := d.media ++ blocks.map fun b => MediaOp.make .erase 0 b.1 256 b.2 [] }

/-- The argument of a STEP of kind `refs`: by how much, and whose summary. -/
def refArgs (up : Bool) (b : Block) : List Nat := [b2n up, b.summarySa]

/-- A range of store is freed: it is zeroed, its flash copies go, and no PE keeps a line of it (R160, R260, R298). -/
def Dev.wipeSpan (d : Dev) (s : Span) : Dev :=
  (({ d with peCache := d.peCache.filter fun l => !overlap l.addr 64 s.sa s.len }).zeroRange s.sa s.len).invalidateFlash s

/-- Free the parts of spans that no extent maps any more (R298 step 5). A vitrine region's store stays the region's. -/
def Dev.freeSpans (d : Dev) (ss : List Span) : Dev :=
  let pieces := ss.flatMap fun s => (granulesOf s).map fun g => s.clip (g * 65536) 65536
  let kept (s : Span) : Bool := (d.extents.any fun e => overlap e.sa e.len s.sa s.len) ||
    d.image.any fun i => i.vitrine.any fun v => overlap v.base v.len s.sa s.len
  (pieces.filter fun s => !kept s).foldl Dev.wipeSpan d

/-- A domain gives store up: it is free, and its quota credited, once nothing that began before touches it (R160, R308). -/
def Dev.leave (d : Dev) (dom : Nat) (ss : List Span) : Dev := { d with leaving := d.leaving ++ ss.map fun s => (dom, s) }

/-- Host accesses in flight: those a repair or a flash fill holds (R258, R399, R403). -/
def Dev.heldHosts (d : Dev) : List HostWait :=
  (d.repairs.flatMap fun x => x.waiters.filterMap fun w => match w with
    | .hostRead h => some h
    | .hostWrite h _ _ => some h
    | _ => none) ++ d.media.flatMap (·.hosts)

/-- Whether a transaction takes copies away from hosts for the device's own sake (R334, R346). -/
def VitReq.evicts : VitReq → Bool
  | .evict => true
  | .withdraw _ => true
  | _ => false

/-- Whether a host access in flight, or an eviction not yet over, is in a range (R298 step 4, R296, R346). -/
def Dev.hostsIn (d : Dev) (s : Span) : Bool :=
  (d.heldHosts.any fun h => overlap h.sa 64 s.sa s.len) || d.vitTxns.any fun t => t.req.evicts && overlap (t.line * 64) 64 s.sa s.len

/-- Free the blocks whose count is 0, and store that is given up, once no running command's step and no host access in flight touches
them (R160, R298): zeroed, and a flash copy invalidated (R260). A block homed elsewhere lowers the count there. -/
def Dev.reclaimBlocks (d : Dev) : Dev :=
  let gone (b : Block) : Bool := b.freeing && !d.readBySteps b.frame && !d.readBySteps b.summary
  let idle (x : Nat × Span) : Bool := !d.readBySteps x.2 && !d.hostsIn x.2
  let dead := d.blocks.filter gone
  let left := d.leaving.filter idle
  let d := ((dead.filter fun b => d.isLocal b.frameSa).flatMap fun b => [b.frame, b.summary]).foldl Dev.wipeSpan d
  let d := d.freeSpans (left.map Prod.snd)
  let d := { d with blocks := d.blocks.filter (!gone ·), leaving := d.leaving.filter (!left.contains ·) }
  (dead.filter fun b => !d.isLocal b.frameSa).foldl (fun d b => d.tellStep .refs (d.homeOf b.summarySa) b.domain 0 (refArgs false b)) d

/-- Whether a command is bound to a version of a table homed here (R208): one of this member's, or of another's. -/
def Dev.versionBound (d : Dev) (t : Table) (v : W32) : Bool :=
  (t.bindings.any fun b => b.version == v) || d.ctxs.any fun c => c.domain == t.domain && c.held.any fun e => e.2.2.table == some (t.id, v)

/-- The stored size of a rehanged version's parts: its classes, then its remap table, in whole 64 KiB (R207, R216). -/
def Version.spans (v : Version) : List Span :=
  if v.kind = 3 then
    (v.classes.filter fun c => c.rows != 0).map (fun c => { sa := c.sa, len := roundUp (c.rows * rowSize 2 c.format v.dim) 65536 }) ++
      [{ sa := v.remapSa, len := roundUp (4 * v.rows) 65536 }]
  else []

/-- The live members of the collection but this one. -/
def Dev.others (d : Dev) : List Nat :=
  if d.coll.state == .formed then
    (List.range 16).filter fun m => m != d.coll.geoId && d.coll.members.getLsbD m && !d.coll.lost.getLsbD m
  else []

/-- Every member learns the home of a table, or that an identifier is free again (R210, R355; log 113): 64 bytes of REPL. -/
def Dev.tellTable (d : Dev) (t : Table) (gone : Bool) : Dev :=
  d.others.foldl (fun d m =>
    d.sendFab 0x11 (d.fidOf m) t.domain 0 0 0 0 0 (natLe (if gone then 4 else 3) 1 ++ natLe t.home 1 ++ natLe t.id 2 ++ natLe t.domain 2 ++ List.replicate 58 0) none) d

/-- An answer to a STEP message that waited here (R364, R371). -/
def Dev.answerWaiting (d : Dev) (x : FabService) (m : FabMsg) (st : Status) (words : List Nat) : Dev :=
  let payload := stepArgs words
  let y : OutMsg := .fabric 0x86 m.src (d.fidOf d.coll.geoId) m.domain m.ctx m.tag (BitVec.ofNat 16 st.code) 0 0 payload
  { d with serving := replaceFirst (· == x) { x with answer := some y, since := d.now } d.serving }.sendFab 0x86 m.src m.domain m.ctx m.tag
    (BitVec.ofNat 16 st.code) 0 0 payload none

/-- Other members' WAIT_RECLAIMs whose version has left the catalogue are answered (R209, R210): word 0 is the CURRENT version. -/
def Dev.answerReclaims (d : Dev) : Dev :=
  let reclaimed (m : FabMsg) : Bool := fieldAt m.payload 0 8 == StepKind.table.code && fieldAt m.payload 26 1 == 4 &&
    !(d.tables.any fun t => t.domain == m.domain && t.id == fieldAt m.payload 24 2 && t.versions.any fun v => v.number.toNat == fieldAt m.payload 32 4)
  d.serving.foldl (fun d x => match x.req, x.answer with
    | some (0x06, m), none =>
      if reclaimed m then
        let now := (d.tables.find? fun t => t.domain == m.domain && t.id == fieldAt m.payload 24 2).bind fun t => t.versions.find? (·.state == .current)
        d.answerWaiting x m .ok [now.elim 0 (·.number.toNat), 0]
      else d
    | _, _ => d) d

/-- DRAINING versions that no command is bound to leave the catalogue of their home, a rehanged one's store is freed, where it lies on
another member by its own controller, and a table whose deletion leaves it empty frees its identifier (R209, R211). -/
def Dev.reclaimVersions (d : Dev) : Dev :=
  let mine (t : Table) : Bool := t.home == d.coll.geoId || !d.joined
  let gone (t : Table) (v : Version) : Bool := mine t && v.state == .draining && !d.versionBound t v.number
  let out := d.tables.flatMap fun t => ((t.versions.filter (gone t)).flatMap Version.spans).map fun s => (t, s)
  let ended := d.tables.filter fun t => mine t && t.deleting && t.versions.all (gone t)
  let d := { d with
    tables := (d.tables.filter fun t => !ended.contains t).map fun t => { t with versions := t.versions.filter fun v => !gone t v } }
  let d := out.foldl (fun d x =>
    if d.isLocal x.2.sa then d.wipeSpan x.2 else d.tellStep .free (d.homeOf x.2.sa) x.1.domain 0 [x.2.sa, x.2.len]) d
  (ended.foldl (fun (d : Dev) t => d.tellTable t true) d).answerReclaims

/-- The store of an index (R232): heads, map, centroids and codebook; chunks; segments. -/
def Index.metaBytes (x : Index) : Nat :=
  32 * x.lists.length + 32 * x.capacity + 2 * x.lists.length * x.dim + 2 * (if x.codeFormat = 0x0A then 256 else 16) * x.dim

/-- The spans of an index. -/
def Index.spans (x : Index) : List Span :=
  { sa := x.metaSa, len := roundUp x.metaBytes 65536 } ::
    ((x.lists.flatMap fun l => l.chunks ++ ((l.retained.map Prod.fst).getD [])).map fun a => { sa := a, len := 65536 }) ++
    x.segments.map fun g => { sa := g.sa, len := 67108864 }

/-- Whether a running command other than a waiting DELETE INDEX works on an index (R248). -/
def Dev.indexBusy (d : Dev) (dom id : Nat) : Bool :=
  d.ctxs.any fun c => c.domain == dom && c.held.any fun e =>
    e.2.1.state == .running && !e.2.2.committed && indexOf e.2.2 == some id

/-- Retained list bodies that no search holds are freed, replaced segments likewise, and an unknown index with its last
command (R245, R248, R249): the store is zeroed, and flash copies go. -/
def Dev.reclaimBodies (d : Dev) : Dev :=
  let idle (l : IList) : Bool := l.retained.isSome && l.holders.isEmpty
  let dead (g : Segment) : Bool := g.replaced && g.holders.isEmpty
  let waited (x : Index) : Bool := d.ctxs.any fun c => c.domain == x.domain && c.held.any fun e =>
    e.2.2.committed && cmdVerb e.2.2 == some .delete && indexOf e.2.2 == some x.id
  let gone (x : Index) : Bool := x.unknown && !d.indexBusy x.domain x.id && !waited x
  let free := d.indexes.flatMap fun x =>
    if gone x then x.spans else
      ((x.lists.filter idle).flatMap fun l => ((l.retained.map Prod.fst).getD []).map fun a => ({ sa := a, len := 65536 } : Span)) ++
        (x.segments.filter dead).map fun g => ({ sa := g.sa, len := 67108864 } : Span)
  let keep (x : Index) : Index :=
    let freed := (List.range x.lists.length).filter fun i => (x.lists[i]?).any idle
    { x with
      lists := x.lists.map fun l => if idle l then { l with retained := none } else l
      segments := x.segments.filter fun g => !dead g
      map := x.map.map fun m => if freed.contains m.list then { m with retainedSlot := none } else m }
  let xs := (d.indexes.filter fun x => !gone x).map keep
  { free.foldl Dev.wipeSpan d with indexes := xs }

/-- A waiting command whose wait is over: a WAIT_RECLAIM whose version is gone, or a DELETE INDEX that no command
holds up any more (R209, R248): with its result words. -/
def Dev.nextWaited (d : Dev) : Option (SlotRef × Nat) :=
  d.ctxs.findSome? fun c => c.held.findSome? fun e =>
    let k := e.2.2
    let r : SlotRef := { ctx := c.num, slot := e.1 }
    if !(k.committed && e.2.1.state == .running && k.cut.isNone) then none
    else
      match cmdVerb k with
      | some .publishTable =>
        let id := fieldAt k.line 16 2
        match d.tables.find? fun t => t.domain == c.domain && t.id == id with
        | none => some (r, 0)
        | some t =>
          if t.versions.any fun v => v.number.toNat == fieldAt k.line 24 4 then none
          else some (r, ((t.versions.find? (·.state == .current)).map (·.number.toNat)).getD 0)
      | some .delete =>
        if d.indexBusy c.domain (fieldAt k.line 16 2) then none
        else some (r, (((d.indexes.filter fun x => x.domain == c.domain && x.id == fieldAt k.line 16 2 && x.unknown).flatMap Index.spans).map (·.len)).foldl (· + ·) 0)
      | _ => none

/-- Whether the sequence of R298 has drained for a Curator command: no issued step of its domain and no host access in
flight holds an old generation, and no eviction of a line in its spans is outstanding (R298 step 4, R296, R346). -/
def Dev.drained (d : Dev) (dom : Nat) (k : Cmd) : Bool :=
  !(d.ctxs.any fun c => c.domain == dom && c.held.any fun e => decide (0 < e.2.2.issued) && !d.current e.2.2) &&
    !(k.freeing.any d.hostsIn)

/-- The next Curator command whose change has committed and whose sequence has drained (R298 step 5). -/
def Dev.nextDrained (d : Dev) : Option (SlotRef × Cmd) :=
  d.ctxs.findSome? fun c => c.held.findSome? fun e =>
    if e.2.2.committed && e.2.1.state == .running && ((cmdVerb e.2.2).map Verb.takesTurn).getD false &&
        d.drained c.domain e.2.2
    then some ({ ctx := c.num, slot := e.1 }, e.2.2) else none

/-- The code of a placement in a REPL record: 0 spread, 1 the east wing, 3 the west wing (log 18). -/
def Placement.code : Placement → Nat
  | .spread => 0
  | .wing w => 1 + 2 * b2n w

/-- The placement of a code. -/
def Placement.ofCode (n : Nat) : Placement := if bit n 0 then .wing (bit n 1) else .spread

/-- The 64-byte extent record of a REPL message: the layout is the model's own, since R364 gives none (log 18). -/
def Extent.record (add : Bool) (e : Extent) : List Byte :=
  natLe (b2n add) 1 ++ natLe e.rights.code 1 ++ natLe e.placement.code 1 ++ [0] ++ natLe e.domain 4 ++ natLe e.gen.toNat 4 ++
    natLe e.loan.toNat 4 ++ natLe e.cva 8 ++ natLe e.len 8 ++ natLe e.sa 8 ++ List.replicate 24 0

/-- The rights of a code (R287). -/
def Rights.ofCode (n : Nat) : Rights :=
  match n with
  | 1 => .writable | 2 => .readOnly | 3 => .sealed | _ => .vitrine


/-- Send records to every other member's replica (R355). -/
def Dev.replicate (d : Dev) (recs : List Byte) : Dev :=
  d.others.foldl (fun d m => d.sendFab 0x11 (d.fidOf m) 0xFFFF 0 0 0 0 0 recs none) d

/-- The extents change as one: the new list, its difference replicated. -/
def Dev.setExtents (d : Dev) (es : List Extent) : Dev :=
  let gone := d.extents.filter fun e => !es.contains e
  let new := es.filter fun e => !d.extents.contains e
  { d with extents := es }.replicate ((gone.flatMap (Extent.record false)) ++ new.flatMap (Extent.record true))

/-- A fresh generation for a domain's new extents: above the last by a free step (log 19). -/
def Dev.freshGen (d : Dev) (dom : Nat) : W32 × Dev :=
  let g := ((d.nextGen.find? (·.1 == dom)).map Prod.snd).getD 0 + 1 + BitVec.ofNat 32 (Config.freeNat d.draws % 2 ^ 16)
  (g, { d with draws := d.draws + 1, nextGen := insertBy Prod.fst (dom, g) d.nextGen })

/-- The handle of a loan (R305). -/
def Loan.handle (l : Loan) : W32 := BitVec.ofNat 32 (l.gen.toNat * 65536 + l.index)

/-- The open loan of a domain that a handle names (R307). -/
def Dev.loan? (d : Dev) (dom handle : Nat) : Option Loan :=
  d.loans.find? fun l => l.domain == dom && !l.gone && l.handle.toNat == handle

/-- The new extents of an ALIAS: the source's store at the destination, with the rights and the loan it names (R291). -/
def Dev.aliasExtents (d : Dev) (c : Context) (k : Cmd) (es : List Extent) : Dev × W32 :=
  let cva := fieldAt k.line 24 8; let len := fieldAt k.line 32 8; let src := fieldAt k.line 40 8; let handle := fieldAt k.line 20 4
  let (g, d) := d.freshGen c.domain
  let new := es.map fun e =>
    let lo := max e.cva src
    let hi := min (e.cva + e.len) (src + len)
    ({ domain := c.domain, cva := cva + (lo - src), len := hi - lo, sa := e.sa + (lo - e.cva), rights := Rights.ofCode (fieldAt k.line 17 1), gen := g,
       loan := if handle = 0 then e.loan else BitVec.ofNat 32 handle, placement := e.placement } : Extent)
  (d.setExtents (d.extents ++ new), g)

/-- Result word 0 of an ALIAS that has sealed its source and has not yet mapped its extents: no generation has this value. -/
def unaliased : Nat := 2 ^ 64 - 1

/-- An ALIAS whose seal has drained maps its extents (R291); where the source is gone by then, with a loan that expired, it maps nothing
(R293, R309). -/
def Dev.finishAlias (d : Dev) (r : SlotRef) (c : Context) (k : Cmd) : Dev :=
  let handle := fieldAt k.line 20 4
  match cover d.extents c.domain (fieldAt k.line 40 8) (fieldAt k.line 32 8) with
  | .error u => d.finish r .xlateFault (BitVec.ofNat 64 u) 40 0
  | .ok es =>
    if handle != 0 && (d.loan? c.domain handle).isNone then d.finish r .versionGone 0 0 0
    else
      let (d, g) := d.aliasExtents c k es
      d.finish r .ok (BitVec.ofNat 64 g.toNat) (k.w1 + BitVec.ofNat 64 es.length) 0

/-- Its record is issued: freed store is zeroed, a TRANSFER now changes the holder (R331), and an ALIAS that sealed now maps (R291). -/
def Dev.finishDrained (d : Dev) (r : SlotRef) (k : Cmd) : Dev :=
  let d := d.freeSpans k.freeing
  let d := if cmdVerb k == some .loanRenew && fieldAt k.line 16 1 == 4 then
      { d with loans := modifyAll (fun l => l.index == fieldAt k.line 20 2) (fun l => { l with holder := fieldAt k.line 32 2 }) d.loans }
    else d
  match if cmdVerb k == some .map && k.w0.toNat = unaliased then d.ctx? r.ctx else none with
  | some c => d.finishAlias r c k
  | none => d.finish r .ok k.w0 k.w1 k.w2

/-! ### Steps (R33, R84, R110, R299) -/

/-- The steps of one command in flight at once (R33). -/
def maxIssued : Nat := 8

/-- Whether a span touches a sector under repair (R399). -/
def Dev.underRepair (d : Dev) (s : Span) : Bool := d.repairs.any fun x => overlap (x.sector * 32) 32 s.sa s.len

/-- The granules of a step's reads that only flash holds as it is issued (R254, R257). -/
def Dev.coldGranules (d : Dev) (st : Step) : List Nat :=
  ((st.reads.filter fun s => d.isLocal s.sa).flatMap granulesOf).filter fun g => !st.warm.contains g && d.granules.any fun x => x.number == g && x.residency == .flash

/-- The die of an operation: its channel and the die of its block there (R266, log 42). -/
def MediaOp.die (m : MediaOp) : Nat × Nat := (m.channel, Config.dieOf m.channel m.block)

/-- A channel that is OFF powers on and trains again (R452). -/
def Dev.channelOn (d : Dev) (c : Nat) : Dev :=
  if d.channels.any fun x => x.index == c && x.off then
    ({ d with channels := modifyAll (fun (x : OnfiChannel) => x.index == c) (fun x => { x with mpe := true }) d.channels }).setField 0xA040 c c 0
  else d

/-- Two reads of one granule become one, for all that wait for it (R257). -/
def MediaOp.join (a b : MediaOp) : MediaOp :=
  { a with cmds := a.cmds ++ b.cmds.filter (!a.cmds.contains ·), hosts := a.hosts ++ b.hosts, fabs := a.fabs ++ b.fabs.filter (!a.fabs.contains ·) }

/-- Queue a media operation: its transfer takes a granule in its domain's queue at the channel (R263, R314); a read of a
granule that the domain already reads shares that read (R257). -/
def Dev.queueMedia (d : Dev) (m : MediaOp) : Dev :=
  let same (x : MediaOp) : Bool := m.kind == .read && x.kind == .read && x.granule == m.granule && x.domain == m.domain && !x.discard
  if d.media.any same then { d with media := modifyAll same (·.join m) d.media }
  else
    let d := { d with media := d.media ++ [m] }
    let d := if m.kind == .read then d.channelOn m.channel else d
    if m.kind == .erase then d
    else d.enqueue { kind := .onfi, index := m.channel } m.domain (granulesFor 65536 65536 true none d.now none)

/-- Queue the flash reads a command's step waits for (R262, R266). -/
def Dev.askFlash (d : Dev) (r : SlotRef) (gs : List Nat) : Dev :=
  gs.foldl (fun d g =>
    match d.granules.find? (·.number == g) with
    | none => d
    | some x => d.queueMedia (MediaOp.make .read g x.channel x.domain x.block [r])) d

/-- The layer of STREAM a step works for. -/
def Step.layer? (st : Step) : Option Nat :=
  st.effects.findSome? fun f => match f with
    | .streamMove i _ _ _ false => some i
    | .streamStatus [i] false => some i
    | _ => none

/-- How many steps of a command may be in flight (R33): for STREAM only of `lookahead` layers at once (R278). -/
def Cmd.window (k : Cmd) : Nat :=
  if k.layers.isEmpty || bit (lineFlags k.line) 1 then min maxIssued k.plan.length
  else
    let n := if fieldAt k.desc 16 1 = 0 then 2 else fieldAt k.desc 16 1
    ((List.range (min maxIssued k.plan.length)).filter fun i =>
      decide (((k.plan.take (i + 1)).filterMap Step.layer?).eraseDups.length ≤ n)).length

/-- What a STREAM whose translation changed still writes: its remaining layers are ABANDONED (R281), where the status
array itself is still mapped. -/
def Dev.abandonStep (d : Dev) (k : Cmd) : List Step :=
  let host := bit (lineFlags k.line) 0
  if bit (lineFlags k.line) 1 then [] else
  let arr := fieldAt k.desc 8 8
  let gone := !host && k.caps.any fun e => overlap e.cva e.len arr (16 * k.layers.length) && !d.inForce e
  let left := (List.range k.layers.length).filter fun i => (k.layers[i]?).any fun x => x.state == .pending
  if left.isEmpty || gone then [] else [{ Step.nop with effects := [.streamStatus left true] }]

/-! ### Engines and the issue of steps (R19, R21, R26, R27, R33, R72, R84) -/

/-- Kinds that serve any number of steps at once: the front end, the Curator and the atomic units (R108). -/
def EngineKind.shared : EngineKind → Bool
  | .front => true | .atomic => true | _ => false

/-- Whether an engine can run steps: neither its fuses nor its tests disable it, and its wing or its gallery has power (R18, R430, R431, R449, R453). -/
def Dev.unitWorks (d : Dev) (kind : EngineKind) (i : Nat) : Bool :=
  let gallery (g : Nat) : Bool := d.galleries.any fun x => x.logical == some g && x.state == .joined && x.power != .off
  match kind with
  | .mover => !bit d.badMovers i && (decide (i < 16) || d.power.west == .on)
  | .scanner => !bit d.badScanners i && (decide (i < 4) || d.power.west == .on)
  | .pe => gallery (i / 32)
  | .gallery => gallery i
  | _ => true

/-- The engines of a kind in a pipeline, in the order in which its steps look for a free one: PEs have the number gallery * 32 +
index (R8), and one of each gallery comes before the next of any (log 106). -/
def PipelineRec.engines (p : PipelineRec) (kind : EngineKind) : List Nat :=
  match kind with
  | .mover => (List.range 32).filter (bit p.movers)
  | .scanner => (List.range 8).filter (bit p.scanners)
  | .gallery => (List.range 40).filter (bit p.galleries)
  | .pe => (List.range 32).flatMap fun i => ((List.range 40).filter (bit p.galleries)).map fun g => g * 32 + i
  | _ => []

/-- The issued steps of the device. -/
def Dev.inFlight (d : Dev) : List Step := d.ctxs.flatMap fun c => c.held.flatMap fun e => e.2.2.plan.take e.2.2.issued

/-- Whether a step occupies an engine: a step of a whole gallery occupies each of its PEs. -/
def Step.occupies (st : Step) (kind : EngineKind) (i : Nat) : Bool :=
  match st.engine with
  | none => false
  | some e =>
    match kind, st.kind with
    | .pe, .gallery => e == i / 32
    | .gallery, .pe => e / 32 == i
    | a, b => a == b && e == i

/-- A step that could be issued: its command, the command's domain, and its place in the plan. -/
structure Ready where
  r : SlotRef
  k : Cmd
  domain : Nat
  at_ : Nat
  step : Step
deriving DecidableEq, Repr

/-- The place of the next step of a command to issue: a step that a repair parked and that goes on (R400), else the first one not
issued, within the limit of R33. -/
def Cmd.nextPlace (k : Cmd) : Option Nat :=
  match (List.range k.issued).find? fun i => (k.plan[i]?).any fun s => s.engine.isNone && !s.kind.shared && !s.parked with
  | some i => some i
  | none => if k.cut.isNone && k.lost.isNone && decide (k.issued < k.window) then some k.issued else none

/-- The steps that could be issued, at most one of each command. -/
def Dev.readySteps (d : Dev) : List Ready :=
  d.ctxs.flatMap fun c => c.held.filterMap fun e =>
    let k := e.2.2
    if e.2.1.state == .running && k.started then
      k.nextPlace.bind fun i => (k.plan[i]?).map fun st => { r := { ctx := c.num, slot := e.1 }, k := k, domain := c.domain, at_ := i, step := st }
    else none

/-- Within a domain the ready step of the highest priority goes first, then that of the command accepted earliest (R72). -/
def firstReady (xs : List Ready) : Option Ready :=
  (sortOrd (fun a b => decide (cmdPrio b.k < cmdPrio a.k) || (cmdPrio a.k == cmdPrio b.k && decide (a.k.order < b.k.order))) xs).head?

/-- The domain after the last one served, in round robin (R26). -/
def nextAfter (last : Nat) (doms : List Nat) : Option Nat :=
  let s := sortOrd (fun a b => decide (a < b)) doms
  match s.find? fun x => decide (last < x) with
  | some x => some x
  | none => s.head?

/-- The arbiter of a unit. -/
def Dev.arbiterOf (d : Dev) (kind : EngineKind) (i : Nat) : Arbiter :=
  (d.arbiters.find? fun a => a.kind == kind && a.index == i).getD { kind := kind, index := i, last := 256, used := [] }

/-- A domain takes a turn at a unit: one step, of the weight that it has in a round; a round is over where no domain with work
has weight left (R26, log 105). -/
def Arbiter.turn (a : Arbiter) (doms : List Nat) (weight : Nat → Nat) : Option (Nat × Arbiter) :=
  let had (x : Nat) : Nat := ((a.used.find? fun u => u.1 == x).map Prod.snd).getD 0
  let left := doms.filter fun x => decide (had x < max 1 (weight x))
  let put (x : Nat) (used : List (Nat × Nat)) (n : Nat) : Arbiter :=
    { a with last := x, used := (x, n) :: used.filter fun u => u.1 != x }
  match nextAfter a.last left with
  | some x => some (x, put x a.used (had x + 1))
  | none => (nextAfter a.last doms).map fun x => (x, put x [] 1)

/-- The weight of a domain at a unit (R43): atomic units serve all alike. -/
def Dev.weightAt (d : Dev) (kind : EngineKind) (dom : Nat) : Nat :=
  match d.domainRec dom, kind with
  | some x, .mover => x.moverWeight
  | some x, .scanner => x.scannerWeight
  | _, _ => 1

/-- A unit keeps its arbiter. -/
def Dev.setArbiter (d : Dev) (a : Arbiter) : Dev :=
  { d with arbiters := a :: d.arbiters.filter fun x => !(x.kind == a.kind && x.index == a.index) }

/-- Whether a ready step may run on a unit: the unit is in its pipeline. -/
def Dev.runsOn (d : Dev) (kind : EngineKind) (x : Ready) (i : Nat) : Bool :=
  x.step.kind == kind && (d.pipelineOf x.domain (lineVerb x.k.line)).any fun p => (p.engines kind).contains i

/-- The next step for a free mover or scanner: its domain by the unit's arbiter, then by R72. -/
def Dev.pickUnit (d : Dev) (xs : List Ready) (kind : EngineKind) (n : Nat) : Option (Ready × Option Nat × Dev) :=
  if !(xs.any fun x => x.step.kind == kind) then none
  else
    (List.range n).findSome? fun i =>
      let mine := xs.filter fun x => d.runsOn kind x i
      if mine.isEmpty || !d.unitWorks kind i || d.inFlight.any (fun s => s.occupies kind i) then none
      else
        ((d.arbiterOf kind i).turn (mine.map (·.domain)).eraseDups (d.weightAt kind)).bind fun t =>
          (firstReady (mine.filter fun x => x.domain == t.1)).map fun x => (x, some i, d.setArbiter t.2)

/-- The PEs or galleries that a ready step may take, in the order in which they are tried: those of its pipeline, for a SEARCH those of
its positions (R234); a step that is meant for one gallery takes that where it works. -/
def Dev.enginesFor (d : Dev) (x : Ready) (kind : EngineKind) : List Nat :=
  let code := lineVerb x.k.line
  let all := ((d.pipelineOf x.domain code).map (·.engines kind)).getD []
  let own := if cmdVerb x.k == some .search then d.searchGalleries x.domain code x.r.ctx else all
  match x.step.engine with
  | some g => if decide (x.k.issued ≤ x.at_) && d.unitWorks kind g then [g] else own
  | none => own

/-- The next step for a free PE or gallery: these belong to one domain (R21), so R72 alone orders its steps. -/
def Dev.pickGallery (d : Dev) (xs : List Ready) (kind : EngineKind) : Option (Ready × Option Nat × Dev) :=
  let free (x : Ready) : Option Nat := (d.enginesFor x kind).find? fun i => d.unitWorks kind i && !(d.inFlight.any fun s => s.occupies kind i)
  (firstReady (xs.filter fun x => x.step.kind == kind && (free x).isSome)).map fun x => (x, free x, d)

/-- The next step to issue, its engine, and the device with the arbiter's turn taken. -/
def Dev.nextIssue (d : Dev) : Option (Ready × Option Nat × Dev) :=
  match d.readySteps with
  | [] => none
  | xs =>
    match firstReady (xs.filter fun x => x.step.kind.shared) with
    | some x => some (x, none, d)
    | none =>
      match d.pickUnit xs .mover 32 with
      | some y => some y
      | none =>
        match d.pickUnit xs .scanner 8 with
        | some y => some y
        | none =>
          match d.pickGallery xs .gallery with
          | some y => some y
          | none => d.pickGallery xs .pe

/-- What a step's microcode first puts into a memory of its gallery is its own: a free word, with its check (R385, log 104). -/
def Gallery.fill (g : Gallery) (unit seed : Nat) : Gallery :=
  let w := LocalWord.make unit (Config.freeNat seed % 131072 * 32) (freeBytes (seed + 1) 32)
  { g with words := w :: g.words.filter fun x => !(x.unit == w.unit && x.addr == w.addr) }

/-- The memory of a gallery that an engine's step works in: the scratchpad of its physical PE, or the gallery store. -/
def Gallery.unitOf (g : Gallery) (kind : EngineKind) (e : Nat) : Nat := if kind == .pe then at! g.niMap (e % 32) 34 else 34

/-- The gallery of an engine. -/
def engineGallery (kind : EngineKind) (e : Option Nat) : Option Nat :=
  match kind with
  | .gallery => e
  | .pe => e.map (· / 32)
  | _ => none

/-- The gallery of an engine takes a step: it leaves RETAIN, the time is noted (R451), and the step works in its memories. -/
def Dev.engage (d : Dev) (kind : EngineKind) (e : Option Nat) : Dev :=
  match e, engineGallery kind e with
  | some i, some g =>
    { d with
      draws := d.draws + 2
      galleries := d.galleries.map fun (x : Gallery) =>
        if x.logical == some g && x.power != .off then { x with power := .on, lastStep := d.now }.fill (x.unitOf kind i) d.draws else x }
  | _, _ => d

/-- Whether a word of the memory that a step works in fails its check (R385). -/
def Dev.badWords (d : Dev) (st : Step) : Bool :=
  match st.engine, engineGallery st.kind st.engine with
  | some i, some g => d.galleries.any fun x => x.logical == some g && x.words.any fun w => w.unit == x.unitOf st.kind i && !w.good
  | _, _ => false

/-- A step whose partials fail their check runs again from its own inputs (R398): what it put there is made anew. -/
def Dev.runAgain (d : Dev) (st : Step) : Dev :=
  let keep (x : Gallery) : Gallery := { x with words := x.words.filter LocalWord.good }
  { d with galleries := d.galleries.map fun (x : Gallery) => if x.logical == engineGallery st.kind st.engine then keep x else x }.engage st.kind st.engine

/-- A step of the plan is issued: it has its number and its engine, and the granules of its reads that only flash holds are
found (R257). -/
def Cmd.issueAt (k : Cmd) (i num : Nat) (e : Option Nat) (cold : List Nat) : Cmd :=
  { k with plan := k.plan.modify i fun s => { s with num := num, engine := e, parked := false, cold := cold }, issued := max k.issued (i + 1) }

/-- What a boundary check that finds a translation withdrawn leaves of a command (R84, R299): its issued steps. -/
def Dev.cutStale (d : Dev) (r : SlotRef) : Dev :=
  match d.cmd? r with
  | none => d
  | some k =>
    let last := d.abandonStep k
    d.modCmd r fun k =>
      { k with cut := some .staleXlate, plan := k.plan.take k.issued ++ last, issued := k.issued + last.length
               layers := k.layers.map fun x => if x.state == .pending then { x with state := .abandoned, time := d.now } else x }

/-- Whether a SEARCH still has rounds to run (R238): the steps of one round may all be retired before the next is planned. -/
def Cmd.searching (k : Cmd) : Bool := (k.search.any fun x => !x.done) && k.cut.isNone && k.lost.isNone

/-- A command with every step retired and no remote access outstanding completes with its status and words (R96), which a SELECT_ATTEND that fails has not (R199); one that was
cut short or lost data has only its issued steps to retire (R91, R299, R402). -/
def Dev.conclude (d : Dev) (r : SlotRef) : Dev :=
  match d.cmd? r with
  | none => d
  | some k =>
    let left := if k.cut.isSome || k.lost.isSome then k.plan.take k.issued else k.plan
    let d := if left.length < k.plan.length then d.modCmd r fun k => { k with plan := left } else d
    if k.started && left.isEmpty && k.remote.isEmpty && !k.searching then
      let st := finalStatus k.lost.isSome k.cut k.raised
      match k.lost with
      | some (a, b, c) => d.complete r st a b c
      | none => if cmdVerb k == some .selectAttend && st.isFailure then d.complete r st 0 0 0 else d.complete r st k.w0 k.w1 k.w2
    else d

/-- A scan step is the first of its list for its command: the list's snapshot is taken, and the list's steps are cut for it (R242). -/
def Dev.takeSnap (d : Dev) (x : Ready) : Option Dev :=
  x.step.scan?.bind fun s =>
    (d.indexes.find? fun y => y.domain == s.1 && y.id == s.2.1).bind fun y =>
      if x.k.search.any fun run => run.snaps.any (·.list == s.2.2.2.1) then none
      else
        let snap := y.snapOf s.2.2.2.1
        some (d.modCmd x.r fun k =>
          { k with search := k.search.map fun run => { run with snaps := run.snaps ++ [snap] }, plan := k.plan.take k.issued ++ y.rescan snap (k.plan.drop k.issued) })

/-- A scan step that starts reads the tombstone bits of its slots (R242). -/
def Dev.readTombs (d : Dev) (x : Ready) : Dev :=
  match x.step.scan? with
  | some (dom, id, qs, list, lo, n) =>
    match d.indexes.find? fun y => y.domain == dom && y.id == id with
    | some y => d.modCmd x.r fun k => { k with search := k.search.map fun run => y.startScan run qs list lo n }
    | none => d
  | none => d

/-- The `home` of a remote access that names a node of another collection by its FID. -/
def farHome (fid : Nat) : Nat := 0x1_0000 + fid

/-- The key of export data among a command's fetched bytes: no SA of this collection. -/
def farKey (off : Nat) : Nat := 2 ^ 60 + off

/-- An EXPORT request (R363): flag [0], and the export's number in [13:8]. -/
def exportFlags (no : Nat) : W16 := BitVec.ofNat 16 (1 + no * 256)

/-- The part of an export that a step reads: the node, the export, the offset and the length (R374, R376). -/
def Step.exportRead? (st : Step) : Option (Nat × Nat × Nat × Nat) :=
  st.effects.findSome? fun f => match f with
    | .exportRead fid no off len _ => some (fid, no, off, len)
    | _ => none

/-- The RD for a step's part of an export goes out (R374, R376). -/
def Dev.askExport (d : Dev) (r : SlotRef) (st : Step) : Dev :=
  match st.exportRead? with
  | none => d
  | some (fid, no, off, len) =>
    let (tag, d) := d.freshTag
    let d := d.modCmd r fun k =>
      { k with remote := k.remote ++ [{ tag := tag, home := farHome fid, sa := farKey off, len := len, isWrite := false, since := d.now, index := 0, fetch := none, bytes := [] }] }
    d.sendFab 0x01 fid (d.domainOf r) r.ctx tag (exportFlags no) (BitVec.ofNat 64 off) (BitVec.ofNat 64 len) [] (some r)

/-- Issue a step (R84): the boundary check of its command comes first; then its engine takes it, the flash reads that it waits for and
the RDs for its remote reads go out (R257, R369), and a scan step reads its tombstones (R242). -/
def Dev.issueStep (d : Dev) (x : Ready) (e : Option Nat) : Dev :=
  if decide (x.k.issued ≤ x.at_) && !d.current x.k then (d.cutStale x.r).conclude x.r
  else
    match if decide (x.k.issued ≤ x.at_) then d.takeSnap x else none with
    | some d' => d'
    | none =>
      let cold := d.coldGranules x.step
      let num := if decide (x.k.issued ≤ x.at_) then d.nextStep + 1 else x.step.num
      let d := { d with nextStep := d.nextStep + 1 }.modCmd x.r fun k => k.issueAt x.at_ num e cold
      let d := if decide (x.k.issued ≤ x.at_) then (d.readTombs x).askExport x.r x.step else d
      ((d.engage x.step.kind e).askFlash x.r cold).askMissing x.r x.k x.step.reads

/-! ### What follows of itself -/

/-- One thing that follows of itself: a duplicate answered, a drained withdrawal or a wait ended, a descriptor read, a command
started, or a step issued. -/
def Dev.settleOnce (d : Dev) : Option Dev :=
  match d.nextDup with
  | some (r, rc) => some (d.finishDup r rc)
  | none =>
    match d.nextDrained with
    | some (r, k) => some (d.finishDrained r k)
    | none =>
      match d.nextWaited with
      | some (r, w) => some ((d.finish r .ok (BitVec.ofNat 64 w) 0 0).reclaimBodies)
      | none =>
        match d.nextDescriptor with
        | some r => some (d.decode r false)
        | none =>
          match d.nextStart with
          | some r => some (d.start r)
          | none => d.nextIssue.map fun x => x.2.2.issueStep x.1 x.2.1

/-- Follow until nothing more follows; each turn ends, starts or decodes a command, takes a snapshot or issues a step, which bounds the
fuel. -/
def Dev.settleFuel : Nat → Dev → Dev
  | 0, d => d
  | n + 1, d =>
    match d.settleOnce with
    | some d' => Dev.settleFuel n d'
    | none => d

/-- What follows of itself after any change: freed store, answered duplicates, started commands, issued steps. -/
def Dev.settle (d : Dev) : Dev :=
  let d := (d.reclaimBlocks).reclaimVersions.reclaimBodies
  Dev.settleFuel ((d.ctxs.flatMap fun c => c.held.map fun e => 16 + e.2.2.plan.length).foldl (· + ·) 0) d

/-- A command begins: its steps and first result words are fixed (R84). A command without steps completes at once. -/
def Dev.begin (d : Dev) (r : SlotRef) (plan : List Step) (w0 w1 w2 : W64) : Dev :=
  let d := d.modCmd r fun k => { k with started := true, plan := plan, issued := 0, w0 := w0, w1 := w1, w2 := w2 }
  (d.conclude r).settle

/-- A command that is RUNNING with a tag, of a verb, and not yet begun. -/
def Dev.ready (d : Dev) (r : SlotRef) (v : Verb) : Option (Context × Cmd) :=
  match d.ctx? r.ctx, d.slot? r with
  | some c, some s =>
    match s.cmd with
    | some k =>
      if s.state == .running && !k.started && k.cut.isNone && cmdVerb k == some v && d.power.phase == .none then some (c, k)
      else none
    | none => none
  | _, _ => none

/-- Run a meaning on a command of a verb that is ready; else nothing happens (log 17). -/
def Dev.onReady (d : Dev) (r : SlotRef) (v : Verb) (f : Context → Cmd → Dev) : Dev :=
  match d.ready r v with
  | some (c, k) => f c k
  | none => d

/-- A command completes at once with a status raised before any step. -/
def Dev.reject (d : Dev) (r : SlotRef) (st : Status) : Dev := (d.complete r st 0 0 0).settle

end Sys2Proof.Machine
end

