-- ==== Sys2Proof/Machine/Coding.lean ====
section
/-! DEFINITION. The erasure coding of a collection (R405 to R408): the field, the stripes, and the parity deltas that a
write to coded store sends. R364 lists no message for a delta: the model carries it as a WR to the parity unit's
physical offset whose argument is one above the parity index (log 27). -/

namespace Sys2Proof.Machine

/-- Doubling in GF(2^8) with x^8 + x^4 + x^3 + x^2 + 1 (R407). -/
def gfDouble (a : Byte) : Byte := if a.getLsbD 7 then (a <<< 1) ^^^ 0x1D else a <<< 1

/-- The product in GF(2^8), by the bits of the first factor. -/
def gfMulBits (b : Byte) : Nat → Byte → Byte → Byte
  | 0, _, acc => acc
  | n + 1, a, acc => gfMulBits (gfDouble b) n (a >>> 1) (if a.getLsbD 0 then acc ^^^ b else acc)

/-- The product in GF(2^8). -/
def gfMul (a b : Byte) : Byte := gfMulBits b 8 a 0

/-- The inverse in GF(2^8): the 254th power; 0 for 0. -/
def gfInv (a : Byte) : Byte := (List.range 6).foldl (fun acc _ => gfMul (gfMul acc acc) a) a |> fun x => gfMul x x

/-- The coefficient c(j, i) of R407. -/
def coeff (m j i : Nat) : Byte := gfInv (BitVec.ofNat 8 j ^^^ BitVec.ofNat 8 (m + i))

/-- The members that formed the collection, in GEO_ID order: member j of R406 is the j-th (log 27). -/
def Dev.formedList (d : Dev) : List Nat := (List.range 16).filter fun i => d.coll.members.getLsbD i

/-- Whether this member's store is coded (R405). -/
def Dev.coded (d : Dev) : Bool := d.coll.state == .formed && d.coll.planK != 0

/-- The members that hold the shards of a unit's stripe, shard 0 first (R406). -/
def Dev.stripe (d : Dev) (member u : Nat) : List Nat :=
  let n := d.coll.planK + d.coll.planM
  let ms := d.formedList
  let t := ((ms.idxOf? member).getD 0 + ms.length * n - u % n) % ms.length
  (List.range n).map fun q => at! ms ((t + q) % ms.length) 0

/-- The parity shards of a data offset of a member (R406): the data shard's index; and parity index, home member and physical unit. -/
def Dev.parityHomes (d : Dev) (member o : Nat) : Nat × List (Nat × Nat × Nat) :=
  let k := d.coll.planK; let n := k + d.coll.planM
  let u := d.unitOf o
  (u % n, (List.range d.coll.planM).map fun q => (q, at! (d.stripe member u) (k + q) 0, u / n * n + k + q))

/-- Whether a unit can be decoded (R397, R409): at most m shards of its stripe lie on members that do not serve them. -/
def Dev.decodable (d : Dev) (member u : Nat) : Bool :=
  let n := d.coll.planK + d.coll.planM
  decide (((List.range n).filter fun q => !d.servesUnit (at! (d.stripe member u) q 0) (u / n * n + q)).length ≤ d.coll.planM)

/-- Whether the bytes of a store range homed on another member come from its home, and not by decoding (R409, R410). -/
def Dev.homeServes (d : Dev) (sa len : Nat) : Bool := (d.unitsAt sa len).all (d.servesUnit (d.homeOf sa))

/-- Whether a store range of a lost member can be decoded (R409). -/
def Dev.canDecode (d : Dev) (sa len : Nat) : Bool := (d.unitsAt sa len).all (d.decodable (d.homeOf sa))

/-- The parity index of the unit at a physical offset of this member (R406). -/
def Dev.parityIndex (d : Dev) (off : Nat) : Nat := off / 4096 % max 1 (d.coll.planK + d.coll.planM) - d.coll.planK

/-- The check that goes with the bytes of a sector of the parity store (R385). -/
def Dev.parityWants (d : Dev) (sec : Nat) : W32 := parityCheck (sec * 32) (d.parityIndex (sec * 32)) (memRead d.parity (sec * 32) 32)

/-- The stored check of a sector of the parity store: the store was written with zeros and good checks (R385, R440). -/
def Dev.parityStored (d : Dev) (sec : Nat) : W32 :=
  ((d.parityChecks.find? fun x => x.1 == sec).map Prod.snd).getD (parityCheck (sec * 32) (d.parityIndex (sec * 32)) (List.replicate 32 0))

/-- Whether a sector of the parity store reads good (R385, R386). -/
def Dev.parityGood (d : Dev) (sec : Nat) : Bool := d.parityStored sec == d.parityWants sec

/-- Bytes combined by exclusive or at an offset of the parity store (R407, R408), with the checks of their sectors; a sector that is
poisoned or fails its check stays so (R386, R387). -/
def Dev.addParity (d : Dev) (off : Nat) (delta : List Byte) : Dev :=
  let old := memRead d.parity off delta.length
  let new : Dev := { d with parity := memWrite d.parity off ((old.zip delta).map fun p => p.1 ^^^ p.2) }
  let secs := sectorsOf { sa := off, len := delta.length }
  let put (xs : List (Nat × W32)) (sec : Nat) : List (Nat × W32) :=
    insertBy Prod.fst (sec, d.parityStored sec ^^^ d.parityWants sec ^^^ new.parityWants sec) xs
  { new with parityChecks := secs.foldl put d.parityChecks }

/-- One piece of a write inside a 4 KiB unit of a member: a delta to each live parity home (R408, R409); the tags awaited. -/
def Dev.sendDeltas (d : Dev) (member o dom ctx : Nat) (delta : List Byte) (r : Option SlotRef) : Dev × List (Nat × Nat) :=
  let (i, homes) := d.parityHomes member o
  homes.foldl (fun (acc : Dev × List (Nat × Nat)) h =>
    let bs := delta.map (gfMul (coeff d.coll.planM h.1 i))
    let off := h.2.2 * 4096 + o % 4096
    if !d.servesUnit h.2.1 h.2.2 then acc
    else if h.2.1 = d.coll.geoId then (acc.1.addParity off bs, acc.2)
    else
      let (tag, d) := acc.1.freshTag
      (d.sendFab 0x02 (d.fidOf h.2.1) dom ctx tag 0 (BitVec.ofNat 64 off) (BitVec.ofNat 64 (h.1 + 1)) bs r, acc.2 ++ [(tag, h.2.1)])) (d, [])

/-- The parity deltas of bytes that change at a data offset of a member, unit by unit (R408); the tags and homes awaited. -/
def Dev.deltasFor (d : Dev) (member o dom ctx : Nat) (delta : List Byte) (r : Option SlotRef) : Dev × List (Nat × Nat) :=
  let len := delta.length
  let first := o / 4096
  (List.range (ceilDiv (o + len) 4096 - first)).foldl (fun (acc : Dev × List (Nat × Nat)) i =>
    let lo := max o ((first + i) * 4096)
    let hi := min (o + len) ((first + i + 1) * 4096)
    let (d, ts) := acc.1.sendDeltas member lo dom ctx (slice delta (lo - o) (hi - lo)) r
    (d, acc.2 ++ ts)) (d, [])

/-- The parity deltas of a write just made to this member's store, in a coded collection (R408): `old` is the store
before it; the tags and homes awaited. -/
def Dev.parityAfter (d : Dev) (old : List Host.Cell) (sa len dom ctx : Nat) (r : Option SlotRef) : Dev × List (Nat × Nat) :=
  if !d.coded then (d, [])
  else d.deltasFor d.coll.geoId (Machine.homeOf d.groupWidth sa).2 dom ctx (((memRead old sa len).zip (memRead d.mem sa len)).map fun p => p.1 ^^^ p.2) r

/-- A command waits for parity homes (R408). -/
def Dev.awaitParity (d : Dev) (r : SlotRef) (sa : Nat) (ts : List (Nat × Nat)) : Dev :=
  if ts.isEmpty then d
  else
    d.modCmd r fun k =>
      { k with remote := k.remote ++ ts.map fun t =>
          ({ tag := t.1, home := t.2, sa := sa, len := 0, isWrite := true, since := d.now, index := 0, fetch := none, bytes := [] } : RemoteAccess) }

/-- A write of a step to this member's store; in a coded collection the command waits for its parity homes (R408). -/
def Dev.storeWrite (d : Dev) (r : SlotRef) (sa : Nat) (bs : List Byte) : Dev :=
  let (d', ts) := (d.write sa bs).parityAfter d.mem sa bs.length (d.domainOf r) r.ctx (some r)
  d'.awaitParity r sa ts

/-- The source that stands for a host of this member in `serving`. -/
def hostSource : Nat := 0x1_0000

/-- An answer leaves: a fabric message through the shaper, anything else at once. -/
def Dev.sendAnswer (d : Dev) (m : OutMsg) : Dev :=
  match m with
  | .fabric type dst _ dom ctx tag flags address arg payload => d.sendFab type dst dom ctx tag flags address arg payload none
  | _ => d.emit m

/-- An answer that leaves at once, or once the awaited parity homes have answered (R408). -/
def Dev.answerAfter (d : Dev) (src tag dom : Nat) (ts : List (Nat × Nat)) (m : OutMsg) : Dev :=
  let keep : FabService :=
    { src := src, tag := tag, home := d.coll.geoId, since := d.now, lastHold := d.now, domain := dom, exportNo := none, await := ts, answer := some m, req := none, got := [] }
  let d1 := if src = hostSource && ts.isEmpty then d else { d with serving := d.serving ++ [keep] }
  if ts.isEmpty then d1.sendAnswer m else d1

end Sys2Proof.Machine
end

