-- ==== Sys2Proof/Machine/VitOps.lean ====
section
/-! DEFINITION. The vitrine's order point and directory (R330 to R347): shared operations of the host requests, of
engine steps and of the loss of a holder. A line is named by its SA divided by 64. -/

namespace Sys2Proof.Machine

/-- Replace the transactions at the order points. -/
def Dev.setTxns (d : Dev) (ts : List VitTxn) : Dev := { d with vitTxns := ts }

/-- The directory entry of a line; no entry is state I (R332). -/
def Dev.dir (d : Dev) (line : Nat) : Option DirEntry := d.directory.find? (·.line == line)

/-- Remove a line's entry. -/
def Dev.dirDrop (d : Dev) (line : Nat) : Dev := { d with directory := d.directory.filter (·.line != line) }

/-- Set a line's entry. -/
def Dev.dirSet (d : Dev) (e : DirEntry) : Dev :=
  { d with directory := d.directory.filter (·.line != e.line) ++ [e] }

/-- The vitrine record whose region holds an SA (R48). -/
def Dev.vitRecord (d : Dev) (sa : Nat) : Option VitrineRec :=
  d.image.bind fun i => i.vitrine.find? fun v => decide (v.base ≤ sa) && decide (sa < v.base + v.len)

/-- Directory entries of one wing granted to a domain (R334): in proportion to its vitrine bytes, at least 4,096; the
bytes of each domain are taken as homed half in each wing (log 10). -/
def Dev.vitShare (d : Dev) (dom : Nat) : Nat :=
  match d.image with
  | none => 0
  | some i =>
    let mine := ((i.vitrine.filter (·.domain == dom)).map (·.len)).foldl (· + ·) 0
    let all := (i.vitrine.map (·.len)).foldl (· + ·) 0
    if mine = 0 then 0 else max 4096 (1048576 * mine / all)

/-- Whether a line's home channel lies in the west wing (R18, log 10). -/
def Dev.lineWest (d : Dev) (line : Nat) : Bool := westStack (d.channelOf (line * 64) / 32)

/-- Whether the domain's share in a line's wing has room for a new entry (R334). -/
def Dev.dirRoom (d : Dev) (dom line : Nat) : Bool :=
  let mine := d.directory.filter (·.domain == dom)
  decide (mine.length < d.vitShare dom) ||
    decide ((mine.filter fun e => e.west == d.lineWest line).length < d.vitShare dom)

/-- The entry of the domain granted least recently in a line's wing. -/
def Dev.dirVictim (d : Dev) (dom line : Nat) : Option DirEntry :=
  (sortOrd (fun a b => decide (a.granted < b.granted))
    (d.directory.filter fun e => e.domain == dom && e.west == d.lineWest line)).head?

/-- The host identities with an accepted window onto an extent that maps a line (R333). -/
def Dev.windowHosts (d : Dev) (line : Nat) : List Nat :=
  let sa := line * 64
  ((d.windows.filter fun w => w.accepted &&
      d.extents.any fun e => e.domain == w.domain && decide (e.sa ≤ sa) && decide (sa < e.sa + e.len) &&
        decide (w.cva ≤ e.cva + (sa - e.sa)) && decide (e.cva + (sa - e.sa) < w.cva + w.len)).map (·.host)).eraseDups

/-- The holders a BROAD or pointed entry must be taken to have. -/
def Dev.dirHolders (d : Dev) (e : DirEntry) : List Nat := if e.broad then d.windowHosts e.line else e.holders

/-- What a step writes, as spans. -/
def Step.written (st : Step) : List Span :=
  st.writes.map (fun w => { sa := w.sa, len := w.bytes.length }) ++ st.outs ++ st.effects.flatMap fun f =>
    match f with
    | .copy _ dst len => [{ sa := dst, len := len }]
    | .atomic sa w _ _ _ _ => [{ sa := sa, len := w }]
    | .streamMove _ s dst false _ => [{ sa := dst, len := s.len }]
    | .publish sa _ _ => [{ sa := sa, len := 16 }]
    | _ => []

/-- What a request snoops on a line: the kind of BISnp (0 Cur, 1 Data, 2 Inv) and its targets (R336, R337). -/
def Dev.snoops (d : Dev) (t : VitTxn) : Nat × List Nat :=
  match d.dir t.line with
  | none => (2, [])
  | some e =>
    let hs := d.dirHolders e
    let owner := if e.state == .modified then hs else []
    match t.req with
    | .snpCur _ h _ => (0, owner.filter (· != h))
    | .snpData _ h _ => (1, owner.filter (· != h))
    | .snpInv _ h _ _ => (2, hs.filter (· != h))
    | .write _ _ _ _ _ => (2, hs)
    | .evict => (2, hs)
    | .withdraw ps => (2, ((ps.map Prod.fst).eraseDups).filter fun h => e.broad || e.holders.contains h)
    | .clean _ _ _ => (2, [])
    | .dropped => (2, [])
    | .fabric _ _ writes => if writes then (2, hs) else (1, owner)
    | .engine _ writes => if writes then (2, hs) else (1, owner)

/-- Whether serving a request enters a new directory entry. -/
def VitReq.grants : VitReq → Bool
  | .snpData _ _ _ => true
  | .snpInv _ _ _ _ => true
  | _ => false

/-- The bytes of a line for a host, none when it is poisoned (R344, R387). -/
def Dev.lineData (d : Dev) (sa : Nat) : Option (List Byte) :=
  if d.poisonedIn { sa := sa, len := 64 } then none else some (memRead d.mem sa 64)

/-- Apply a host write with byte enables: whole sectors replace poison, narrower bytes do not (R387, R344). -/
def Dev.writeEnabled (d : Dev) (sa : Nat) (en : BitVec 64) (data : List Byte) : Dev :=
  let part (d : Dev) (lo n : Nat) : Dev :=
    let put (m : List Host.Cell) (i : Nat) : List Host.Cell :=
      if en.getLsbD (lo + i) then memSet m (sa + lo + i) (at! data (lo + i) 0) else m
    { d with mem := (List.range n).foldl put d.mem }
  let full (lo n : Nat) : Bool := (List.range n).all fun i => en.getLsbD (lo + i)
  if full 0 64 then d.write sa (data.take 64)
  else
    let half (d : Dev) (lo : Nat) : Dev :=
      if full lo 32 then d.write (sa + lo) (slice data lo 32) else part d lo 32
    half (half d 0) 32

/-- A line loses one holder. -/
def Dev.dirRemove (d : Dev) (line host : Nat) : Dev :=
  match d.dir line with
  | none => d
  | some e =>
    let hs := e.holders.filter (· != host)
    if e.broad then d
    else if hs.isEmpty then d.dirDrop line
    else { d with directory := replaceFirst (· == e) { e with holders := hs } d.directory }

/-- An owner that has answered a BISnpData keeps S (R336, R337). -/
def Dev.dirClean (d : Dev) (line : Nat) : Dev :=
  { d with directory := modifyAll (·.line == line) (fun (e : DirEntry) => { e with state := .shared }) d.directory }

/-- Serve a transaction whose snoops are answered (R336). -/
def Dev.vitServe (d : Dev) (t : VitTxn) : Dev :=
  let sa := t.line * 64
  let answer (d : Dev) (port host dpa : Nat) : Dev :=
    d.toPort port t.domain false 64 none (.memData port host dpa (d.lineData sa))
  match t.req with
  | .snpCur p h dpa => answer d p h dpa
  | .snpData p h dpa =>
    let old := match d.dir t.line with
      | some e => e
      | none => { line := t.line, domain := t.domain, west := d.lineWest t.line, state := .shared, holders := [], broad := false, granted := d.now, kept := none }
    let hs := if old.holders.contains h then old.holders else old.holders ++ [h]
    let e := if old.broad || decide (4 < hs.length) then { old with state := .shared, holders := [], broad := true, granted := d.now }
      else { old with state := .shared, holders := hs, granted := d.now }
    (answer (d.dirSet e) p h dpa).emit (.ndr p h dpa 1)
  | .snpInv p h dpa withData =>
    let d := d.dirSet { line := t.line, domain := t.domain, west := d.lineWest t.line, state := .modified, holders := [h], broad := false, granted := d.now, kept := none }
    (if withData then answer d p h dpa else d).emit (.ndr p h dpa 2)
  | .write p h dpa en data =>
    let (d', ts) := ((d.dirDrop t.line).writeEnabled sa en data).parityAfter d.mem sa 64 t.domain h none
    d'.answerAfter hostSource dpa t.domain ts (.ndr p h dpa 0)
  | .evict => d.dirDrop t.line
  | .withdraw ps => (ps.map Prod.fst).foldl (fun d h => d.dirRemove t.line h) d
  | .clean p h dpa => (d.dirRemove t.line h).emit (.ndr p h dpa 0)
  | .dropped => d
  | .fabric _ _ writes => if writes then d.dirDrop t.line else d.dirClean t.line
  | .engine _ writes => if writes then d.dirDrop t.line else d.dirClean t.line

/-- Whether an active transaction may be served: every snoop is answered, and its line is not under repair (R399). -/
def Dev.vitReady (d : Dev) (t : VitTxn) : Bool :=
  t.active && t.awaiting.isEmpty && !d.underRepair { sa := t.line * 64, len := 64 }

/-- Serve a transaction that may be served; else activate the first of a line that has none active and send its snoops;
a grant without room in the directory first queues an eviction (R334, R335). -/
def Dev.vitPumpOnce (d : Dev) : Option Dev :=
  let firstOf (t : VitTxn) : Bool := (d.vitTxns.find? (·.line == t.line)) == some t
  let room (t : VitTxn) : Bool := !t.req.grants || (d.dir t.line).isSome || d.dirRoom t.domain t.line
  let needsEvict (t : VitTxn) : Option DirEntry :=
    (d.dirVictim t.domain t.line).bind fun v =>
      if d.vitTxns.any fun u => u.line == v.line && u.req == .evict then none else some v
  match d.vitTxns.find? d.vitReady with
  | some t => some ((d.setTxns (d.vitTxns.erase t)).vitServe t)
  | none =>
  match d.vitTxns.find? fun t => !t.active && firstOf t && (room t || (needsEvict t).isSome) with
  | none => none
  | some t =>
    if room t then
      let (kind, targets) := d.snoops t
      if targets.isEmpty then
        some { d with vitTxns := replaceFirst (· == t) { t with active := true, awaiting := [], since := d.now } d.vitTxns }
      else
        let d := { d with vitTxns := replaceFirst (· == t) { t with active := true, awaiting := targets, since := d.now } d.vitTxns }
        let d := d.countPage t.domain 0x1C8 targets.length
        some (targets.foldl (fun d h => d.emit (.bisnp h t.line kind)) d)
    else
      (needsEvict t).map fun v =>
        { d with vitTxns := d.vitTxns ++ [{ line := v.line, domain := v.domain, req := .evict, active := false, awaiting := [], since := d.now }] }

/-- Activate transactions until none may run; fuel bounds the turns. -/
def Dev.vitPumpFuel : Nat → Dev → Dev
  | 0, d => d
  | n + 1, d =>
    match d.vitPumpOnce with
    | some d' => Dev.vitPumpFuel n d'
    | none => d

/-- Activate whatever may run at the order points. -/
def Dev.vitPump (d : Dev) : Dev := Dev.vitPumpFuel (3 * d.vitTxns.length + 3) d

/-- A request reaches a line's order point (R335). -/
def Dev.vitArrive (d : Dev) (line dom : Nat) (q : VitReq) : Dev :=
  (d.setTxns (d.vitTxns ++ [{ line := line, domain := dom, req := q, active := false, awaiting := [], since := d.now }])).vitPump

/-- A holder answers, or is settled: it is awaited no longer; the last answer serves the transaction (R336). -/
def Dev.vitAnswered (d : Dev) (line host : Nat) : Dev :=
  match d.vitTxns.find? fun t => t.line == line && t.active with
  | none => d
  | some t =>
    let left := t.awaiting.filter (· != host)
    if left.isEmpty then { d with vitTxns := replaceFirst (· == t) { t with awaiting := [] } d.vitTxns }.vitPump
    else { d with vitTxns := replaceFirst (· == t) { t with awaiting := left } d.vitTxns }

/-- A line as a host leaves it when it keeps a shared copy (R336): S, with the host among its sharers (R333). -/
def Dev.dirShare (d : Dev) (line dom host : Nat) : Dev :=
  match d.dir line with
  | none => d.dirSet { line := line, domain := dom, west := d.lineWest line, state := .shared, holders := [host], broad := false, granted := d.now, kept := none }
  | some e =>
    let hs := if e.holders.contains host then e.holders else e.holders ++ [host]
    let e' := if e.broad || decide (4 < hs.length) then { e with state := .shared, holders := [], broad := true } else { e with state := .shared, holders := hs }
    { d with directory := replaceFirst (· == e) e' d.directory }

/-- The vitrine lines of a span (R330). -/
def Dev.vitLines (d : Dev) (s : Span) : List Nat :=
  if s.len = 0 || !d.isLocal s.sa || !d.inVitrine s.sa then []
  else (List.range ((s.sa + s.len - 1) / 64 - s.sa / 64 + 1)).map (· + s.sa / 64)

/-- The lines at which accesses must wait for back-invalidation, and whether the access writes: M lines read, held lines written
(R337). -/
def Dev.vitConflicts (d : Dev) (reads writes : List Span) : List (Nat × Bool) :=
  if d.directory.isEmpty then []
  else
    (((reads.flatMap d.vitLines).filter fun l => (d.dir l).any (·.state == .modified)).map fun l => (l, false)) ++
      ((writes.flatMap d.vitLines).filter fun l => (d.dir l).isSome).map fun l => (l, true)

/-- Queue the engine transactions of a command at the order points of its conflicting lines (R337). -/
def Dev.vitEngine (d : Dev) (r : SlotRef) (lines : List (Nat × Bool)) : Dev :=
  lines.foldl (fun d l =>
    if d.vitTxns.any fun t => t.line == l.1 && t.req == .engine r l.2 then d
    else d.vitArrive l.1 (d.domainOf r) (.engine r l.2)) d

/-- Settle one line for a lost holder (R344): the directory, and poison under the poison policy, which is the old record's
for a line of a removed region (R347). Answers the device and
whether the line reverted or was poisoned. -/
def Dev.vitSettleLine (d : Dev) (line host : Nat) : Dev × Nat × Nat :=
  match d.dir line with
  | none => (d, 0, 0)
  | some e =>
    if e.state == .modified && e.holders.contains host then
      let loan := e.kept.getD (((d.vitRecord (line * 64)).map (·.loan)).getD true)
      let d := d.dirDrop line
      if loan then (d, 1, 0) else ((d.poisonSector (2 * line)).poisonSector (2 * line + 1), 0, 1)
    else (d.dirRemove line host, 0, 0)

/-- The bytes of a Dynamic Capacity event record (log 33): its type, flags, host identity, start and length. -/
def DcEvent.record (e : DcEvent) : List Byte :=
  natLe (if e.add then 0 else if e.forced then 2 else 1) 1 ++ [0] ++ natLe e.host 2 ++ natLe 0 4 ++ natLe e.dpa 8 ++ natLe e.len 8 ++
    List.replicate 8 0

/-- The fabric agents bound to a host identity, by FID (R374, R381). -/
def Dev.agentsOf (d : Dev) (host : Nat) : List Nat :=
  (List.range 64).filterMap fun i =>
    let v := (d.reg (0x7100 + 8 * i)).toNat
    if bit v 63 && bits v 43 32 == host then some (bits v 15 0) else none

/-- An event enters the log of its host view, and goes to the agents bound to the identity (R303, R364). -/
def Dev.postEvent (d : Dev) (e : DcEvent) : Dev :=
  (d.agentsOf e.host).foldl (fun d fid => d.sendFab 0x15 fid 0xFFFF 0 0 0 0 0 e.record none) { d with dcEvents := d.dcEvents ++ [e] }

/-- A window's removal (R286); a window removed by the device itself posts a Release Capacity event with forced
removal to the host view (R298, R303). -/
def Dev.dropWindow (d : Dev) (w : Window) (forced : Bool) : Dev :=
  let d := { d with windows := d.windows.filter (· != w) }
  if forced then
    d.postEvent { host := w.host, add := false, forced := true, dpa := w.dpa, len := w.len, domain := w.domain, loan := w.loan, answered := false, retrieved := false }
  else d

/-- The event interrupt on every trained port (R303). -/
def Dev.eventIrqs (d : Dev) : Dev :=
  (d.ports.filter fun p => d.portUp p.index).foldl (fun d p => d.emit (.eventIrq p.index)) d

/-- Loss of a holder for the lines of one domain that satisfy a test (R343, R344): each is settled and its pending
answers are no longer awaited. Under the second and third triggers its windows onto the domain's VITRINE extents are
withdrawn and a VITRINE fault record is written (R345). -/
def Dev.vitLose (d : Dev) (dom host trigger : Nat) (which : Nat → Bool) : Dev :=
  let lines := (d.directory.filter fun e => e.domain == dom && which e.line &&
    (e.holders.contains host || e.broad)).map (·.line)
  let (d, rev, poi) := lines.foldl
    (fun a l => let (x, p, q) := a.1.vitSettleLine l host; (x, a.2.1 + p, a.2.2 + q)) (d, 0, 0)
  let d := (d.countPage dom 0x1D0 rev).countPage dom 0x1D8 poi
  let waiting := (d.vitTxns.filter fun t => t.domain == dom && t.active && which t.line && t.awaiting.contains host).map (·.line)
  let d := waiting.foldl (fun d l => d.vitAnswered l host) d
  if trigger = 1 then d
  else
    let mine := d.windows.filter fun w => w.host == host && w.domain == dom &&
      d.extents.any fun e => e.rights == .vitrine && e.touches w.domain w.cva w.len
    let d := mine.foldl (fun d w => d.dropWindow w true) d
    (if mine.isEmpty then d else d.eventIrqs).fault (.domain dom) 0x05 none dom 0xFFFF 0 host trigger rev poi

end Sys2Proof.Machine
end

