-- ==== Sys2Proof/Machine/TierOps.lean ====
section
/-! DEFINITION. The store's space and the two tiers: quotas and placement of store addresses (R43, R173, R288, R291,
R440), granule residency, and media operations under the governor (R254 to R273). -/

namespace Sys2Proof.Machine

/-! ### Space -/

/-- The bytes a list of spans covers, each byte once. -/
def unionBytes (ss : List Span) : Nat :=
  let sorted := sortOrd (fun a b => decide (a.sa < b.sa)) ss
  (sorted.foldl (fun (acc : Nat × Nat) s =>
    let lo := max acc.2 s.sa
    let hi := s.sa + s.len
    if lo < hi then (acc.1 + (hi - lo), hi) else acc) (0, 0)).1

/-- Enabled stacks (R7, R431). -/
def Dev.enabledStacks (d : Dev) : Nat := (d.stackUnits.filter (·.logical.isSome)).length

/-- Bytes of joined store that hold data: 32 MiB per enabled channel and increment (R440), less the parity share of a
coding plan (R406). -/
def Dev.storeBytes (d : Dev) : Nat :=
  let raw := 0x200_0000 * (32 * d.enabledStacks * d.acc.increments)
  if d.coll.planK = 0 then raw else raw * d.coll.planK / (d.coll.planK + d.coll.planM)

/-- Bytes the device reserves at accession: replay windows and extent trees (R81, R288). -/
def reservedBytes : Nat := 320 * 0x10_0000

/-- Store that a domain has given up and that is not yet zeroed: what its Curator commands free, and what it leaves, but for a vitrine
region's, which stays the region's (R298 step 5, R308). -/
def Dev.freeingOf (d : Dev) (dom : Nat) : List Span :=
  let turns := (d.ctxs.filter (·.domain == dom)).flatMap fun c =>
    c.held.flatMap fun e => if ((cmdVerb e.2.2).map Verb.takesTurn).getD false then e.2.2.freeing else []
  let all := turns ++ (d.leaving.filter (·.1 == dom)).map Prod.snd
  all.filter fun s => !(d.image.any fun i => i.vitrine.any fun v => overlap v.base v.len s.sa s.len)

/-- DRAM a domain's quota carries (R43, R173, R254, R391): its extents' store once, its vitrine regions, KV blocks held
in DRAM with their summaries, sessions and those being moved here (R163), running values, rehanged versions, indexes, and what commands hold while they run (R216, R221);
granules held by flash alone do not count (R254). -/
def Dev.dramUse (d : Dev) (dom : Nat) : Nat :=
  let spans := ((d.extents.filter fun e => e.domain == dom && e.rights != .vitrine).map fun e => (⟨e.sa, e.len⟩ : Span)) ++
    (d.blocks.filter fun b => b.domain == dom && d.isLocal b.frameSa).map Block.frame ++
    (((d.tables.filter (·.domain == dom)).flatMap fun t => t.versions.flatMap Version.spans).filter fun s => d.isLocal s.sa) ++
    (d.indexes.filter (·.domain == dom)).flatMap Index.spans ++ d.freeingOf dom
  let flash := ((d.granules.filter fun g => g.domain == dom && g.residency == .flash).map fun g =>
    unionBytes (spans.map (·.clip (g.number * 65536) 65536))).foldl (· + ·) 0
  let vit := match d.image with
    | some i => ((i.vitrine.filter (·.domain == dom)).map (·.len)).foldl (· + ·) 0
    | none => 0
  let blocks := ((d.blocks.filter fun b => b.domain == dom && d.isLocal b.summarySa).map fun b => b.summary.len).foldl (· + ·) 0
  let ctxs := ((d.ctxs.filter (·.domain == dom)).map fun c =>
    (c.session.elim 0 fun s => (s.spans.map (·.len)).foldl (· + ·) 0) + (if c.runningAlloc then 128 else 0)).foldl (· + ·) 0
  let moves := ((d.landings.filter fun x => x.domain == dom && x.moves).map (·.len)).foldl (· + ·) 0
  let work := ((d.ctxs.filter (·.domain == dom)).map fun c => (c.held.map fun e => e.2.2.work).foldl (· + ·) 0).foldl (· + ·) 0
  unionBytes spans + vit + blocks + ctxs + moves + work - flash

/-- Flash a domain's quota carries: granules with a flash copy (R254). -/
def Dev.flashUse (d : Dev) (dom : Nat) : Nat :=
  (d.granules.filter fun g => g.domain == dom && g.residency != .dram).length * 65536

/-- A domain's quotas in bytes (R43). -/
def Dev.dramQuota (d : Dev) (dom : Nat) : Nat := 2 ^ 30 * ((d.domainRec dom).map (·.dramQuota)).getD 0
def Dev.flashQuota (d : Dev) (dom : Nat) : Nat := 2 ^ 30 * ((d.domainRec dom).map (·.flashQuota)).getD 0

/-- Whether the DRAM quota has room for `n` more bytes. -/
def Dev.dramRoom (d : Dev) (dom n : Nat) : Bool := decide (d.dramUse dom + n ≤ d.dramQuota dom)

/-- The first store offset of this member. -/
def Dev.storeBase (d : Dev) : Nat := if d.coll.state == .formed then 2 ^ 52 * d.coll.geoId else 0

/-- The spans of store in use on this member. -/
def Dev.usedSpans (d : Dev) : List Span :=
  (d.extents.map fun e => (⟨e.sa, e.len⟩ : Span)) ++
    (match d.image with
     | some i => i.vitrine.map fun v => ⟨v.base, v.len⟩
     | none => []) ++
    (d.blocks.flatMap fun b => [⟨b.frameSa, roundUp b.frame.len 65536⟩, b.summary]) ++
    (d.ctxs.flatMap fun c => c.session.elim [] Session.spans) ++ (d.landings.map fun x => ⟨x.sa, x.len⟩) ++ d.leaving.map Prod.snd ++
    (d.tables.flatMap fun t => t.versions.flatMap Version.spans) ++ d.indexes.flatMap Index.spans ++
    d.ctxs.flatMap fun c => c.held.flatMap fun e => e.2.2.freeing

/-- Whether `n` bytes at `a` are joined and free. -/
def Dev.freeAt (d : Dev) (a n : Nat) : Bool :=
  let b := d.storeBase
  decide (reservedBytes + b ≤ a) && decide (a + n ≤ b + d.storeBytes) && !(d.usedSpans.any fun s => overlap s.sa s.len a n)

/-- The joined store of a wing: its share of the channels (R25, R440). -/
def Dev.wingBytes (d : Dev) (west : Bool) : Nat :=
  d.storeBytes * (d.channelsIn (.wing west)).length / max 1 (d.channelsIn .spread).length

/-- The store in use on a wing's channels: what is confined to it, and its share of what is spread (R25). -/
def Dev.wingUse (d : Dev) (west : Bool) : Nat :=
  let mine := (d.extents.filter fun e => e.placement == .wing west).map fun e => (⟨e.sa, e.len⟩ : Span)
  let confined := (d.extents.filter fun e => e.placement != .spread).map fun e => (⟨e.sa, e.len⟩ : Span)
  unionBytes mine + (unionBytes d.usedSpans - unionBytes confined) * (d.channelsIn (.wing west)).length / max 1 (d.channelsIn .spread).length

/-- Whether the channels of a placement have room for `n` more bytes (R25). -/
def Dev.wingRoom (d : Dev) (p : Placement) (n : Nat) : Bool :=
  match p with
  | .spread => true
  | .wing w => decide (d.wingUse w + n ≤ d.wingBytes w)

/-- A store address for `n` bytes at a placement, a multiple of 64 KiB: the free choice where it fits, else the lowest that does
(R291 names none, log 8). -/
def Dev.placeIn (d : Dev) (p : Placement) (n : Nat) : Option Nat × Dev :=
  let want := 65536 * (Config.freePlacement d.draws / 65536)
  let d' := { d with draws := d.draws + 1 }
  if !d.wingRoom p n then (none, d')
  else if d.freeAt want n then (some want, d')
  else
    let cands := (roundUp reservedBytes 65536 + d.storeBase) :: d.usedSpans.map fun s => roundUp (s.sa + s.len) 65536
    ((sortOrd (fun a b => decide (a < b)) cands).find? (fun a => d.freeAt a n), d')

/-- A store address for `n` bytes that no extent maps: spread (log 10). -/
def Dev.place (d : Dev) (n : Nat) : Option Nat × Dev := d.placeIn .spread n

/-- A 64-byte aligned store address for a small record: a free one where it is not in use, else the lowest that is not (log 8). -/
def Dev.placeSmall (d : Dev) (n : Nat) : Option Nat :=
  let want := 64 * (Config.freePlacement d.draws / 64)
  let cands := (roundUp reservedBytes 65536 + d.storeBase) :: d.usedSpans.map fun s => roundUp (s.sa + s.len) 64
  if d.freeAt want n then some want else (sortOrd (fun a b => decide (a < b)) cands).find? fun a => d.freeAt a n

/-! ### Channels and granules -/

/-- The usable channels of a domain's ONFI mask that are powered (R261, R268). -/
def Dev.channelsFor (d : Dev) (dom : Nat) : List Nat :=
  let m := ((d.domainRec dom).map (·.onfiMask)).getD 0
  (d.channels.filter fun c => bit m c.index && c.usable && !c.off && !c.draining).map (·.index)

/-- The next channel of a domain's round-robin (R261). -/
def Dev.nextChannel (d : Dev) (dom : Nat) : Option Nat :=
  let cs := d.channelsFor dom
  let last := (d.lastChannel.find? (·.1 == dom)).map Prod.snd
  match last with
  | none => cs.head?
  | some l => match cs.find? fun c => decide (l < c) with
    | some c => some c
    | none => cs.head?

/-- A granule's record. -/
def Dev.granule? (d : Dev) (g : Nat) : Option Granule := d.granules.find? (·.number == g)

/-- Set a granule's record. -/
def Dev.setGranule (d : Dev) (x : Granule) : Dev := { d with granules := insertBy (·.number) x d.granules }

/-- The block of a channel that the next program goes to (R270): a free block with the fewest cycles, which a block not used yet has. A
free block is erased, and no program is going to it. Which of the equal ones, and what happens on media that are full, the spec does not
say (log 42). -/
def Dev.blockFor (d : Dev) (ch : Nat) : Nat :=
  let mine := d.flash.filter (·.channel == ch)
  let free := mine.filter fun b => !b.retired && b.erased && !(d.media.any fun m => m.channel == ch && m.block == b.number && m.kind == .program)
  let fresh := (mine.map (·.number) ++ (d.media.filter fun m => m.channel == ch && m.kind == .program).map (·.block)).foldl max 0 + 1
  match (sortOrd (fun a b => decide (a.cycles < b.cycles)) free).head? with
  | some b => if b.cycles ≠ 0 ∧ fresh ≤ Config.blocksOf ch then fresh else b.number
  | none => fresh

/-! ### The governor (R273) -/

/-- Power of one kind of operation, mW (MEDIA_ENERGY). -/
def Dev.opPower (d : Dev) (k : MediaOpKind) : Nat :=
  match k with
  | .read => d.field 0x4008 31 16
  | .program => d.field 0x4008 47 32
  | .erase => d.field 0x4008 63 48

/-- The media power estimate in mW (R273). -/
def Dev.mediaPower (d : Dev) : Nat :=
  let ops := d.media.filter (·.onMedia)
  let dies := ((d.channels.filter (·.usable)).map (·.dies)).foldl (· + ·) 0
  let busy := ((ops.filter fun m => m.kind != .erase && !m.suspended).map (·.channel)).eraseDups
  (ops.map fun m => d.opPower m.kind).foldl (· + ·) 0 + (dies - ((ops.map (·.die)).eraseDups).length) * d.field 0x4008 15 0 +
    busy.length * d.field 0x4000 23 12 + d.field 0x4000 31 24 * 1000

/-- Whether the estimate with an operation added stays under the ceiling (R273): its kind's power in place of an idle
die's, and its channel's transfer. -/
def Dev.mediaAdmits (d : Dev) (m : MediaOp) : Bool :=
  decide ({ d with media := d.media ++ [{ m with onMedia := true }] }.mediaPower ≤ d.field 0x4000 11 0 * 1000)

/-- Whether an operation may go to the media now: programs and erases not while the device drains or the channel's
power is going (R268, R457); a read waits behind an operation of its die suspended four times (R266), and an erase until nothing reads
or programs its block. -/
def Dev.mayIssue (d : Dev) (m : MediaOp) : Bool :=
  let ch := d.channels.find? (·.index == m.channel)
  (ch.any fun c => c.usable && !c.off && (m.kind == .read || !c.draining)) &&
    (m.kind == .read || d.power.phase == .none) &&
    !(m.kind == .read && d.media.any fun x => x.onMedia && x.kind != .read && x.suspends == 4 && x.die == m.die) &&
    !(m.kind == .erase && d.media.any fun x => x.kind != .erase && x.channel == m.channel && x.block == m.block)

/-- Issue one queued operation, whose granule leaves its queue: a read suspends a program or erase of its die (R266). -/
def Dev.putOnMedia (d : Dev) (m : MediaOp) : Dev :=
  let ms := replaceFirst (· == m) { m with onMedia := true, held := false } d.media
  let d := if m.kind == .erase then d else d.popQueue { kind := .onfi, index := m.channel } m.domain
  if m.kind == .read then
    let ms := modifyAll (fun (x : MediaOp) => x.onMedia && x.kind != .read && !x.suspended && x.die == m.die)
      (fun (x : MediaOp) => { x with suspended := true, suspends := x.suspends + 1 }) ms
    { d with media := ms }
  else { d with media := ms }

/-- Try one queued operation: issue it, or hold it and count the hold once (R273). -/
def Dev.tryMedia (d : Dev) (m : MediaOp) : Dev :=
  let ahead := d.media.any fun x => x.channel == m.channel && x.held && x != m && !x.onMedia
  if m.onMedia || !d.mayIssue m then d
  else if d.mediaAdmits m && (m.held || !ahead) then d.putOnMedia m
  else if m.held then d
  else ({ d with media := replaceFirst (· == m) { m with held := true } d.media }).count 0x4010 1

/-- Try the erases and the operations that the governor holds; when power frees, held reads go before held programs and erases (R273). -/
def Dev.runMedia (d : Dev) : Dev :=
  let waiting := d.media.filter fun m => !m.onMedia && (m.held || m.kind == .erase)
  let order := (waiting.filter fun m => m.held && m.kind == .read) ++ (waiting.filter fun m => m.held && m.kind != .read) ++
    waiting.filter fun m => !m.held
  order.foldl (fun d m => d.tryMedia m) d

/-- Queue an erase, which crosses no egress point, and try to issue it (R266). -/
def Dev.queueErase (d : Dev) (m : MediaOp) : Dev := ({ d with media := d.media ++ [m] }).tryMedia m

/-- A queued operation is dropped; its granule leaves the channel's queue (R267). -/
def Dev.dropMedia (d : Dev) (m : MediaOp) : Dev :=
  let d := { d with media := d.media.erase m }
  if m.kind == .erase then d else d.popQueue { kind := .onfi, index := m.channel } m.domain

/-- Commands no longer wait for granules (R267): an operation that nothing waits for any more is dropped from its queue, or loses its
result where the media already run it. -/
def Dev.leaveMedia (d : Dev) (gone : SlotRef → Nat → Bool) : Dev :=
  let hit := d.media.filter fun m => m.cmds.any fun r => gone r m.granule
  hit.foldl (fun d m =>
    let left := m.cmds.filter fun r => !gone r m.granule
    let idle := left.isEmpty && m.hosts.isEmpty && m.fabs.isEmpty
    if idle && !m.onMedia then d.dropMedia m
    else { d with media := replaceFirst (· == m) { m with cmds := left, discard := m.discard || idle } d.media }) d

/-- Queue the program of one granule's demotion (R259 step 1, R261), or join the one under way. -/
def Dev.demote (d : Dev) (g dom : Nat) (rs : List SlotRef) : Dev :=
  let same (m : MediaOp) : Bool := m.kind == .program && m.granule == g && !m.discard
  if d.media.any same then
    { d with media := modifyAll (fun m => same m && !m.cmds.isEmpty) (fun (m : MediaOp) => if rs.isEmpty then { m with cmds := [] } else m.join (MediaOp.make .program g 0 0 0 rs)) d.media }
  else
    match d.nextChannel dom with
    | none => d
    | some ch =>
      let d := { d with lastChannel := insertBy Prod.fst (dom, ch) d.lastChannel }
      d.queueMedia (MediaOp.make .program g ch dom (d.blockFor ch) rs)

/-- The spans of this member's store that may reach flash, with their domains (R255): sealed extents, SEALED KV frames,
the class storage of rehanged versions, sealed segments of an index created with FLASH_OK. -/
def Dev.sealedSpans (d : Dev) : List (Nat × Span) :=
  (((d.extents.filter fun e => e.rights == .sealed).map fun e => (e.domain, (⟨e.sa, e.len⟩ : Span))) ++
    ((d.blocks.filter fun b => b.sealed && !b.freeing).map fun b => (b.domain, b.frame)) ++
    (d.tables.flatMap fun t => t.versions.flatMap fun v => (v.spans.take (v.classes.filter fun c => c.rows != 0).length).map fun s => (t.domain, s)) ++
    ((d.indexes.filter (·.flashOk)).flatMap fun x => (x.segments.filter (·.sealed)).map fun g => (x.domain, (⟨g.sa, 67108864⟩ : Span)))).filter fun e => d.isLocal e.2.sa

/-- The domain whose sealed data lie in a granule. -/
def Dev.sealedOwner (d : Dev) (g : Nat) : Option Nat :=
  (d.sealedSpans.find? fun e => decide (e.2.sa / 65536 ≤ g) && decide (g * 65536 < e.2.sa + e.2.len)).map Prod.fst

/-- Granules are read: the time is noted for those that may reach flash (R263). -/
def Dev.touch (d : Dev) (gs : List Nat) : Dev :=
  gs.eraseDups.foldl (fun d g =>
    match d.granule? g with
    | some x => d.setGranule { x with lastRead := d.now }
    | none =>
      match d.sealedOwner g with
      | some dom => d.setGranule { number := g, domain := dom, residency := .dram, channel := 0, block := 0, lastRead := d.now, dropping := false }
      | none => d) d

/-- Whether a running step reads a granule (R259 step 4): a step that is issued and resolved it to DRAM (R257). -/
def Dev.granuleRead (d : Dev) (g : Nat) : Bool :=
  d.inFlight.any fun st => !st.cold.contains g && st.reads.any fun x => overlap x.sa x.len (g * 65536) 65536

/-- Drop the DRAM copies whose drop waits, once no step reads them (R259). -/
def Dev.dropReady (d : Dev) : Dev :=
  { d with granules := d.granules.map fun g =>
      if g.dropping && !d.granuleRead g.number then { g with residency := .flash, dropping := false } else g }

/-- Bring a granule back to DRAM as BOTH (R257, R263): a read of it. -/
def Dev.promote (d : Dev) (g : Nat) : Dev :=
  match d.granule? g with
  | some x => d.setGranule { x with residency := if x.residency == .flash then .both else x.residency, dropping := false, lastRead := d.now }
  | none => d

/-- Drop the least recently read BOTH granules of a domain until the quota has room for `n` bytes (R257). -/
def Dev.makeRoom (d : Dev) (dom n : Nat) : Dev :=
  let cands := sortOrd (fun (a b : Granule) => decide (a.lastRead < b.lastRead) || (a.lastRead == b.lastRead && decide (a.number < b.number)))
    (d.granules.filter fun g => g.domain == dom && g.residency == .both && !d.granuleRead g.number)
  cands.foldl (fun d g => if d.dramRoom dom n then d else d.setGranule { g with residency := .flash }) d

end Sys2Proof.Machine
end

