-- ==== Sys2Proof/Machine/StepOps.lean ====
section
/-! DEFINITION. What every step can do: the atomic operations (R105 to R108), writes here and at other homes (R369, R370), reads
through the PE read caches (R114), exports and publication (R374 to R377). -/

namespace Sys2Proof.Machine

/-! ### Atomics (R105) -/

/-- A signed reading of `w` bytes. -/
def toSigned (w n : Nat) : Int := if n < 2 ^ (8 * w - 1) then n else (n : Int) - 2 ^ (8 * w)

/-- The new value of a target and whether the operation writes (R105): `cur`, `x` and `cmp` are of `w` bytes. -/
def atomicResult (op w cur x cmp : Nat) : Nat × Bool :=
  let m := 2 ^ (8 * w)
  let f (g : W32 → W32 → W32) : Nat := (g (BitVec.ofNat 32 cur) (BitVec.ofNat 32 x)).toNat
  match op with
  | 0x01 => ((cur + x) % m, true)
  | 0x02 => (f fadd, true)
  | 0x03 => (cur &&& x, true)
  | 0x04 => (cur ||| x, true)
  | 0x05 => (cur ^^^ x, true)
  | 0x06 => (if toSigned w x < toSigned w cur then x else cur, true)
  | 0x07 => (if toSigned w cur < toSigned w x then x else cur, true)
  | 0x08 => (min cur x, true)
  | 0x09 => (max cur x, true)
  | 0x0A => (f fmin, true)
  | 0x0B => (f fmax, true)
  | 0x0C => (x, true)
  | _ => if cur = cmp then (x, true) else (cur, false)

/-- Apply an atomic to this member's store (R106, R387), its write made by `put`: the device, the fetched value, whether
it wrote, whether the target was poisoned. DESIGN CHOICE (log 107): each atomic is applied by itself, and none is combined with
another, as R109 leaves to the controller. -/
def Dev.atomicAt (d : Dev) (sa w op x cmp : Nat) (put : Dev → Nat → List Byte → Dev) : Dev × Nat × Bool × Bool :=
  if d.poisonedIn { sa := sa, len := w } then (d, 0, false, true)
  else
    let cur := leNat (memRead d.mem sa w)
    let (new, wrote) := atomicResult op w cur (x % 2 ^ (8 * w)) (cmp % 2 ^ (8 * w))
    (if wrote then put d sa (natLe new w) else d, cur, wrote, false)

/-- Whether an FADD makes a NaN of operands that hold none (R144). -/
def atomicNan (op cur x : Nat) : Bool :=
  let a : W32 := BitVec.ofNat 32 cur
  let b : W32 := BitVec.ofNat 32 x
  op == 0x02 && isNan (fadd a b) && !isNan a && !isNan b

/-- NUM_NAN of a domain counts such a result of an atomic that was applied (R144). -/
def Dev.countNan (d : Dev) (dom op cur x : Nat) : Dev := if atomicNan op cur x then d.countPage dom 0x68 1 else d

/-! ### Messages of remote writes (R369) -/

/-- A status raised by a step (R96). -/
def Dev.raise (d : Dev) (r : SlotRef) (st : Status) : Dev := d.modCmd r fun k => { k with raised := k.raised ++ [st] }

/-- A command has a step that raised a failure, or was cut short. -/
def hasFailed (k : Cmd) : Bool := k.raised.any Status.isFailure || k.cut.isSome || k.lost.isSome

/-- Post a WR for bytes homed on another member; the command waits for its WR_ACK (R110, R372). -/
def Dev.writeRemote (d : Dev) (r : SlotRef) (sa : Nat) (bs : List Byte) : Dev :=
  let home := d.homeOf sa
  if !d.reaches home then d.raise r .targetDead else
  let (tag, d) := d.freshTag
  let d := d.modCmd r fun k =>
    { k with remote := k.remote ++ [{ tag := tag, home := home, sa := sa, len := bs.length, isWrite := true, since := d.now, index := 0, fetch := none, bytes := bs }] }
  d.sendFab 0x02 (d.fidOf home) (d.domainOf r) r.ctx tag 0 (BitVec.ofNat 64 sa) 0 bs (some r)

/-- The 32 bytes of an ATOM message's payload: an R107 entry with the target field zero (R364). -/
def atomPayload (x cmp op w : Nat) : List Byte :=
  natLe 0 8 ++ natLe x 8 ++ natLe cmp 8 ++ natLe op 1 ++ natLe w 1 ++ List.replicate 6 0

/-- Send an atomic to its home (R108, R369). -/
def Dev.atomicRemote (d : Dev) (r : SlotRef) (sa w op x cmp index : Nat) (fetch : Option Nat) : Dev :=
  let home := d.homeOf sa
  if !d.reaches home then d.raise r .targetDead else
  let (tag, d) := d.freshTag
  let d := d.modCmd r fun k =>
    { k with remote := k.remote ++ [{ tag := tag, home := home, sa := sa, len := w, isWrite := true, since := d.now, index := index + 1, fetch := fetch, bytes := atomPayload x cmp op w }] }
  d.sendFab 0x03 (d.fidOf home) (d.domainOf r) r.ctx tag 0 (BitVec.ofNat 64 sa) 0 (atomPayload x cmp op w) (some r)

/-- A LEDGER message to a member (R166, R364): subtype, domain, context, source, destination, front, epoch. A message to
this member itself leaves and comes back as its row. -/
def Dev.sendLedger (d : Dev) (dest sub dom ctx src dst front : Nat) (e : W32) : Dev :=
  let a := BitVec.ofNat 64 (sub + src * 2 ^ 8 + dst * 2 ^ 16 + front * 2 ^ 24 + e.toNat * 2 ^ 32)
  if dest = d.coll.geoId then d.emit (.fabric 0x10 (d.fidOf dest) (d.fidOf d.coll.geoId) dom ctx 0 0 a 0 [])
  else d.sendFab 0x10 (d.fidOf dest) dom ctx 0 0 a 0 [] none

/-- The entry of `remote` that stands for an offer waiting at the Ledger: no fabric tag. -/
def offerTag : Nat := 0x1_0000

/-- Bytes put over a cache line where they overlap it. -/
def CacheLine.over (l : CacheLine) (sa : Nat) (bs : List Byte) : CacheLine :=
  { l with bytes := (List.range l.bytes.length).map fun i =>
      if sa ≤ l.addr + i ∧ l.addr + i < sa + bs.length then at! bs (l.addr + i - sa) 0 else at! l.bytes i 0 }

/-- A write by a PE refreshes the lines that its own read cache holds: it is written through (R114). -/
def Dev.peWrote (d : Dev) (pe : Option Nat) (w : MemWrite) : Dev :=
  match pe with
  | none => d
  | some p => { d with peCache := d.peCache.map fun l => if l.owner == p && overlap l.addr 64 w.sa w.bytes.length then l.over w.sa w.bytes else l }

/-- Bytes written by a step on a PE or another engine: here, or at their home. A write to a line of the fabric cache updates that
line (R370). -/
def Dev.stepWrite (d : Dev) (r : SlotRef) (pe : Option Nat) (w : MemWrite) : Dev :=
  let d := d.peWrote pe w
  if d.isLocal w.sa then d.storeWrite r w.sa w.bytes
  else { d with fabCache := d.fabCache.map fun (l : CacheLine) => l.over w.sa w.bytes }.writeRemote r w.sa w.bytes

/-- Bytes laid over spans in order. -/
def spread (ss : List Span) (bs : List Byte) : List MemWrite :=
  (ss.foldl (fun (acc : List MemWrite × List Byte) s =>
    (acc.1 ++ [({ sa := s.sa, bytes := acc.2.take s.len } : MemWrite)], acc.2.drop s.len)) ([], bs)).1

/-! ### PE reads (R114) -/

/-- The physical PE that a gallery's NI maps a logical PE to (R8, R19): 34 to a physical gallery. -/
def Dev.physicalPe (d : Dev) (pe : Nat) : Option Nat :=
  (d.galleries.find? fun g => g.logical == some (pe / 32)).bind fun g => (g.niMap[pe % 32]?).map (g.physical * 34 + ·)

/-- The physical PE that a step reads and writes with: its own, or one of its gallery's by a free choice (R114). -/
def Dev.readerOf (d : Dev) (kind : EngineKind) (e : Option Nat) : Option Nat × Dev :=
  match kind, e with
  | .pe, some p => (d.physicalPe p, d)
  | .gallery, some g => (d.physicalPe (g * 32 + Config.freeNat d.draws % 32), { d with draws := d.draws + 1 })
  | _, _ => (none, d)

/-- Lines that a PE read cache holds: 16 KiB (R114). -/
def peCacheLines : Nat := 256

/-- A line enters a PE's read cache; a full cache gives up one of its lines, a free choice (R114, log 22). -/
def Dev.peFill (d : Dev) (l : CacheLine) : Dev :=
  let xs := d.peCache.filter fun x => !(x.owner == l.owner && x.addr == l.addr)
  let mine := xs.filter fun x => x.owner == l.owner
  if mine.length < peCacheLines then { d with peCache := xs ++ [l] }
  else
    match mine[Config.freeNat d.draws % mine.length]? with
    | some v => { d with draws := d.draws + 1, peCache := xs.erase v ++ [l] }
    | none => { d with peCache := xs ++ [l] }

/-- A PE reads one 64-byte line: the one that its cache holds, or, where by a free choice it holds none, the current one, which it
then holds (R114, R143, log 22). VITRINE lines bypass the cache (R330). -/
def Dev.peLine (d : Dev) (pe : Option Nat) (dom addr : Nat) (cur : List Byte) : List Byte × Dev :=
  match pe with
  | none => (cur, d)
  | some p =>
    if d.inVitrine addr then (cur, d)
    else
      match d.peCache.find? fun l => l.owner == p && l.domain == dom && l.addr == addr with
      | some l =>
        let d' := { d with draws := d.draws + 1 }
        if Config.freeBool d.draws then (l.bytes, d') else (cur, d'.peFill { owner := p, domain := dom, addr := addr, bytes := cur })
      | none => (cur, d.peFill { owner := p, domain := dom, addr := addr, bytes := cur })

/-- A PE reads a span, line by line (R114): of this member's store, or of what a remote home answered, as far as that holds whole
lines (R369, R370, log 22). -/
def Dev.peRead (d : Dev) (pe : Option Nat) (dom : Nat) (k : Cmd) (s : Span) : List Byte × Dev :=
  if pe.isNone || s.len = 0 then (d.loadSpan k s, d)
  else
    let first := s.sa / 64
    let n := (s.sa + s.len - 1) / 64 - first + 1
    (List.range n).foldl (fun acc i =>
      let addr := (first + i) * 64
      let lo := max s.sa addr
      let len := min (s.sa + s.len) (addr + 64) - lo
      if d.isLocal addr || len = 64 then
        let (b, d) := acc.2.peLine pe dom addr (acc.2.loadSpan k { sa := addr, len := 64 })
        (acc.1 ++ slice b (lo - addr) len, d)
      else (acc.1 ++ acc.2.loadSpan k { sa := lo, len := len }, acc.2)) (([] : List Byte), d)

/-- A PE reads several spans in order. -/
def Dev.peReadAll (d : Dev) (pe : Option Nat) (dom : Nat) (k : Cmd) (ss : List Span) : List Byte × Dev :=
  ss.foldl (fun acc s => let (b, d) := acc.2.peRead pe dom k s; (acc.1 ++ b, d)) (([] : List Byte), d)

/-- What the order of a command's sums may depend on (R142): its operands and descriptor, the placement of what it reads, the
galleries of its pipeline and those of them whose PEs were remapped since accession, the variant, and the repaired sectors of what it
reads; the terms themselves are added where the sum is taken. -/
def Dev.sumKey (d : Dev) (dom : Nat) (k : Cmd) (ss : List Span) : List Nat :=
  let gs := d.galleriesFor dom (lineVerb k.line)
  [leNat (slice k.line 0 3), leNat (slice k.line 16 48), leNat k.desc, d.acc.reported] ++
    ss.flatMap (fun s => [s.sa, s.len, d.channelOf s.sa]) ++ gs ++
    ((d.galleries.filter fun g => g.remapped && g.logical.any gs.contains).map (·.physical)) ++
    d.repaired.filter fun sec => ss.any fun s => overlap s.sa s.len (sec * 32) 32

/-! ### Exports and publication (R374, R376, R377) -/

/-- Whether an EXPORT request can leave: this member's own FAR link, or another live member's (R373, log 32). -/
def Dev.farPath (d : Dev) : Bool :=
  (d.links.any fun l => l.state == .up && l.far) || (d.coll.state == .formed && decide (1 < (bitCount d.coll.members d.coll.lost)))
where
  bitCount (m l : W16) : Nat := ((List.range 16).filter fun i => m.getLsbD i && !l.getLsbD i).length

/-- Write into an export (R376): a poisoned source is not sent. -/
def Dev.exportPut (d : Dev) (r : SlotRef) (fid no off : Nat) (src : List Span) : Dev :=
  match d.cmd? r with
  | none => d
  | some k =>
    if d.badSpans k src then d.raise r .poisoned
    else if !d.farPath then d.raise r .targetDead
    else
      let bytes := d.loadAll k src
      let (tag, d) := d.freshTag
      let d := d.modCmd r fun k =>
        { k with
          w0 := k.w0 + BitVec.ofNat 64 bytes.length
          remote := k.remote ++ [{ tag := tag, home := farHome fid, sa := farKey off, len := bytes.length, isWrite := true, since := d.now, index := 0, fetch := none, bytes := bytes }] }
      d.sendFab 0x02 fid (d.domainOf r) r.ctx tag (exportFlags no) (BitVec.ofNat 64 off) 0 bytes (some r)

/-- What an RD of an export brought is written (R376). -/
def Dev.exportTake (d : Dev) (r : SlotRef) (off len cva : Nat) : Dev :=
  match (d.cmd? r).bind fun k => (k.fetched.find? fun f => f.1 == farKey off && f.2.length == len).map fun f => (k, f.2) with
  | some (k, bs) => (spread (k.spans (d.domainOf r) cva len) bs).foldl (fun d w => d.stepWrite r none w) d
  | none => d

/-- Compare and publish a record (R377): the status, the bytes to write where it is published, the version and value to report. -/
def publishResult (ver val expected new : Nat) : Status × Option (List Byte) × Nat × Nat :=
  if ver = expected then
    let next := (ver + 1) % 2 ^ 64
    (.ok, some (natLe next 8 ++ natLe new 8), next, val)
  else (.conflict, none, ver, val)

/-- Compare and publish a record of this member's store, its write made by `put`. -/
def Dev.publishStore (d : Dev) (sa expected new : Nat) (put : Dev → Nat → List Byte → Dev) : Dev × Status × Nat × Nat :=
  if d.poisonedIn { sa := sa, len := 16 } then (d, .poisoned, 0, 0)
  else
    let (st, bs, w0, w1) := publishResult (leNat (memRead d.mem sa 8)) (leNat (memRead d.mem (sa + 8) 8)) expected new
    (bs.elim d fun b => put d sa b, st, w0, w1)

/-- PUBLISH's record step at its home: here, or by a PUB message (R364, R377). -/
def Dev.publishAt (d : Dev) (r : SlotRef) (sa : Nat) (expected new : W64) : Dev :=
  if d.isLocal sa then
    let (d, st, w0, w1) := d.publishStore sa expected.toNat new.toNat fun d a b => d.storeWrite r a b
    let d := if st == .ok then d else d.raise r st
    d.modCmd r fun k => { k with w0 := BitVec.ofNat 64 w0, w1 := BitVec.ofNat 64 w1 }
  else
    let home := d.homeOf sa
    if !d.reaches home then d.raise r .targetDead
    else
      let rec' := natLe expected.toNat 8 ++ natLe new.toNat 8 ++ List.replicate 16 0
      let (tag, d) := d.freshTag
      let d := d.modCmd r fun k =>
        { k with remote := k.remote ++ [{ tag := tag, home := home, sa := sa, len := 16, isWrite := true, since := d.now, index := 0, fetch := none, bytes := rec' }] }
      d.sendFab 0x04 (d.fidOf home) (d.domainOf r) r.ctx tag 0 (BitVec.ofNat 64 sa) 0 rec' (some r)

end Sys2Proof.Machine
end

