-- ==== Sys2Proof/Machine/MemOps.lean ====
section
/-! DEFINITION. What the steps of COPY, COMPARE, REDUCE and ATOMIC_BATCH do when they retire (R100 to R107): each reads its data
then, through the PE's cache where it runs on one (R114). -/

namespace Sys2Proof.Machine

/-! ### Poison (R386, R387) -/

/-- The parts of a span that a command knows to be poisoned: here, or as its home answered (R387). -/
def Dev.badParts (d : Dev) (k : Cmd) (s : Span) : List Span :=
  ((if d.isLocal s.sa then d.poison else k.spoiled).filter fun sec => overlap (sec * 32) 32 s.sa s.len).map fun sec =>
    s.clip (sec * 32) 32

/-- A sector of the store is poisoned by a step: here, or at its home by a WR without data, since R364 gives WR no mark for poison
(log 100). -/
def Dev.poisonAt (d : Dev) (r : SlotRef) (sec : Nat) : Dev :=
  if d.isLocal (sec * 32) then d.poisonSector sec else d.writeRemote r (sec * 32) []

/-! ### COPY -/

/-- Copy bytes (R100): every destination sector that receives a byte of a poisoned source sector is poisoned whole, every other
byte is copied, and POISONED is raised. -/
def Dev.copyBytes (d : Dev) (r : SlotRef) (src dst len : Nat) : Dev :=
  match d.cmd? r with
  | none => d
  | some k =>
    let s : Span := { sa := src, len := len }
    let bad := d.badParts k s
    let hit := (bad.flatMap fun b => sectorsOf { sa := dst + (b.sa - src), len := b.len }).eraseDups
    let d := d.stepWrite r none { sa := dst, bytes := d.loadSpan k s }
    let d := hit.foldl (fun d sec => d.poisonAt r sec) d
    if bad.isEmpty then d else d.raise r .poisoned

/-! ### COMPARE -/

/-- Offsets at which two byte lists differ. -/
def diffs (a b : List Byte) : List Nat :=
  (List.range a.length).filter fun i => at! a i 0 != at! b i 0

/-- The offset of the first byte that a COMPARE step compares. -/
def Step.compareFrom (st : Step) : Option Nat :=
  st.effects.findSome? fun f => match f with
    | .compare lo _ => some lo
    | _ => none

/-- A step of COMPARE (R101): the lowest difference and the number of them so far; under FIRST_ONLY the steps not issued that lie
wholly above it go. A poisoned sector that a step reads raises POISONED, and the words are zero from then on; DEDUCED (log 110): one in
a range that FIRST_ONLY leaves unread does not. -/
def Dev.compareAt (d : Dev) (r : SlotRef) (lo n : Nat) : Dev :=
  match d.cmd? r with
  | none => d
  | some k =>
    let dom := d.domainOf r
    let sa := k.spans dom (fieldAt k.line 16 8 + lo) n
    let sb := k.spans dom (fieldAt k.line 24 8 + lo) n
    let first := lineFlags k.line == 1
    if d.badSpans k (sa ++ sb) then (d.raise r .poisoned).modCmd r fun k => { k with w0 := 0, w1 := 0 }
    else if k.raised.contains .poisoned then d
    else
      let ds := diffs (d.loadAll k sa) (d.loadAll k sb)
      match ds.head? with
      | none => d
      | some x =>
        d.modCmd r fun k =>
          let low := min k.w0.toNat (lo + x)
          { k with
            w0 := BitVec.ofNat 64 low
            w1 := if first then 0 else k.w1 + BitVec.ofNat 64 ds.length
            plan := if first then k.plan.take k.issued ++ (k.plan.drop k.issued).filter fun st => !(st.compareFrom.any fun a => decide (low < a)) else k.plan }

/-! ### REDUCE -/

/-- Combine FP32 terms under an operation of R102: 1 SUM in the free order, 2 MIN, 3 MAX. -/
def combine (key : List Nat) (op : Nat) (xs : List W32) : W32 :=
  match op, xs with
  | 1, _ => fsum key xs
  | _, [] => fzero
  | 2, y :: ys => ys.foldl fmin y
  | _, y :: ys => ys.foldl fmax y

/-- A NaN result from terms that hold none (R144). -/
def nanEvent (xs : List W32) (y : W32) : NumEvents :=
  if isNan y && !(xs.any isNan) then ⟨0, 1⟩ else .none

/-- Numeric events are counted for a domain (R144). -/
def Dev.countEvents (d : Dev) (dom : Nat) (ev : NumEvents) : Dev := (d.countPage dom 0x60 ev.range).countPage dom 0x68 ev.nan

/-- The operands of REDUCE (R102): source, destination, n, m, stride, input and output format, operation. -/
structure ReduceOps where
  src : Nat
  dst : Nat
  n : Nat
  m : Nat
  stride : Nat
  fi : Nat
  fo : Nat
  op : Nat
deriving DecidableEq, Repr

/-- The operands of REDUCE in a line. -/
def reduceOps (line : List Byte) : ReduceOps :=
  { src := fieldAt line 16 8, dst := fieldAt line 24 8, n := fieldAt line 32 4, m := fieldAt line 36 4, stride := fieldAt line 40 8
    fi := fieldAt line 48 1, fo := fieldAt line 49 1, op := fieldAt line 50 1 }

/-- The byte ranges of `n` elements of a stored vector of `total`, from `lo` on: their own, and their scales in MX formats (R132). -/
def elemParts (code total lo n : Nat) : List (Nat × Nat) :=
  (lo * elemBits code / 8, ceilDiv (n * elemBits code) 8) ::
    if isMx code then [(roundUp (elemBytes code total) 32 + lo / 32, ceilDiv n 32)] else []

/-- The spans that hold `n` elements of vector `j` of a REDUCE from `lo` on: elements, then scales. -/
def Cmd.reduceSpans (k : Cmd) (dom : Nat) (o : ReduceOps) (j lo n : Nat) : List (List Span) :=
  (elemParts o.fi o.n lo n).map fun p => k.spans dom (o.src + j * o.stride + p.1) p.2

/-- Whether an element of vector `j` depends on a poisoned sector. -/
def Dev.badElem (d : Dev) (k : Cmd) (dom : Nat) (o : ReduceOps) (j i : Nat) : Bool :=
  d.badSpans k (k.reduceSpans dom o j i 1).flatten

/-- A PE reads `n` elements of vector `j` and converts them to FP32. -/
def Dev.reduceRow (d : Dev) (pe : Option Nat) (k : Cmd) (dom : Nat) (o : ReduceOps) (j lo n : Nat) : List W32 × Dev :=
  let (parts, d) := (k.reduceSpans dom o j lo n).foldl (fun acc ss =>
    let (b, d) := acc.2.peReadAll pe dom k ss
    (acc.1 ++ [b], d)) (([] : List (List Byte)), d)
  match parts with
  | [a] => (decodeVec o.fi n a, d)
  | a :: b :: _ => (decodeVec o.fi n (padTo a 32 ++ b), d)
  | [] => ([], d)

/-- Rows of every vector of a REDUCE for `n` elements from `lo` on. -/
def Dev.reduceRows (d : Dev) (pe : Option Nat) (k : Cmd) (dom : Nat) (o : ReduceOps) (lo n : Nat) : List (List W32) × Dev :=
  (List.range o.m).foldl (fun acc j =>
    let (v, d) := acc.2.reduceRow pe k dom o j lo n
    (acc.1 ++ [v], d)) (([] : List (List W32)), d)

/-- The spans a REDUCE reads in all: what the order of its sums may depend on (R142). -/
def Cmd.reduceAllSpans (k : Cmd) (dom : Nat) (o : ReduceOps) : List Span :=
  (List.range o.m).flatMap fun j => k.spans dom (o.src + j * o.stride) (storedSize o.fi o.n)

/-- A step of REDUCE with its elements complete (R102, R104): the output is written, and the sectors of an element that depends on a
poisoned input are poisoned. -/
def Dev.reduceAt (d : Dev) (r : SlotRef) (pe : Option Nat) (lo n : Nat) : Dev :=
  match d.cmd? r with
  | none => d
  | some k =>
    let dom := d.domainOf r
    let o := reduceOps k.line
    let key := d.sumKey dom k (k.reduceAllSpans dom o)
    let (rows, d) := d.reduceRows pe k dom o lo n
    let idx := List.range n
    let col (i : Nat) : List W32 := rows.map fun v => at! v i 0
    let ys := idx.map fun i => combine key o.op (col i)
    let ev := (idx.zip ys).foldl (fun a q => a.plus (nanEvent (col q.1) q.2)) NumEvents.none
    let (bs, ev2) := encodeVec o.fo ys
    let eb := elemBits o.fo / 8
    let bad := idx.filter fun i => (List.range o.m).any fun j => d.badElem k dom o j (lo + i)
    let hit := (bad.flatMap fun i => (k.spans dom (o.dst + (lo + i) * eb) eb).flatMap sectorsOf).eraseDups
    let d := (spread (k.spans dom (o.dst + lo * eb) bs.length) bs).foldl (fun d w => d.stepWrite r pe w) d
    let d := (hit.foldl (fun d sec => d.poisonAt r sec) d).countEvents dom (ev.plus ev2)
    let d := d.modCmd r fun k => { k with w0 := k.w0 + BitVec.ofNat 64 n }
    if bad.isEmpty then d else d.raise r .poisoned

/-- The last step of REDUCE under SCALAR (R102): the canonical NaN, not counted, where an input is poisoned. -/
def Dev.reduceAll (d : Dev) (r : SlotRef) (pe : Option Nat) : Dev :=
  match d.cmd? r with
  | none => d
  | some k =>
    let dom := d.domainOf r
    let o := reduceOps k.line
    let key := d.sumKey dom k (k.reduceAllSpans dom o)
    let bad := (List.range o.m).any fun j => d.badSpans k (k.reduceSpans dom o j 0 o.n).flatten
    let (rows, d) := d.reduceRows pe k dom o 0 o.n
    let xs := rows.flatten
    let y := if bad then fnan else combine key o.op xs
    let d := d.countEvents dom (if bad then .none else nanEvent xs y)
    let d := d.modCmd r fun k => { k with w0 := BitVec.ofNat 64 y.toNat }
    if bad then d.raise r .poisoned else d

/-! ### ATOMIC_BATCH -/

/-- The fetched value of an entry of an ATOMIC_BATCH goes to its place in the fetch array (R107). -/
def Dev.putFetched (d : Dev) (r : SlotRef) (v : Nat) (fetch : Option Nat) : Dev :=
  match fetch with
  | some sa => d.stepWrite r none { sa := sa, bytes := natLe v 8 }
  | none => d

/-- Note an entry of an ATOMIC_BATCH that was not applied (R107). -/
def Dev.entryFailed (d : Dev) (r : SlotRef) (i : Nat) (st : Status) (fetch : Option Nat) : Dev :=
  ((d.putFetched r 0 fetch).raise r st).modCmd r fun k =>
    { k with w1 := k.w1 + 1, w2 := if i < k.w2.toNat then BitVec.ofNat 64 i else k.w2 }

/-- Note an entry that was applied, with its fetched value (R107). -/
def Dev.entryDone (d : Dev) (r : SlotRef) (v : Nat) (fetch : Option Nat) : Dev :=
  (d.putFetched r v fetch).modCmd r fun k => { k with w0 := k.w0 + 1 }

/-- Where the fetched value of an entry goes. -/
def Cmd.fetchPlace (k : Cmd) (dom i : Nat) : Option Nat :=
  if fieldAt k.line 32 8 = 0 then none else saOf k.caps dom (fieldAt k.line 32 8 + 8 * i)

/-- The spans of entries of an ATOMIC_BATCH. -/
def Cmd.entrySpans (k : Cmd) (dom lo n : Nat) : List Span := k.spans dom (fieldAt k.line 16 8 + 32 * lo) (32 * n)

/-- One entry of an ATOMIC_BATCH, translated as it is applied (R107, R295): its extent enters the extent cache of the command's wing.
DESIGN CHOICE (log 108): operand and compare bytes above the width are ignored, since the entry's layout asks no zeros of them. -/
def Dev.applyEntry (d : Dev) (r : SlotRef) (i : Nat) : Dev :=
  match d.cmd? r with
  | none => d
  | some k =>
    let dom := d.domainOf r
    let fetch := k.fetchPlace dom i
    let ss := k.entrySpans dom i 1
    let b := d.loadAll k ss
    let cva := fieldAt b 0 8; let x := fieldAt b 8 8; let cmp := fieldAt b 16 8
    let op := fieldAt b 24 1; let w := fieldAt b 25 1
    if d.badSpans k ss then d.entryFailed r i .poisoned fetch
    else if !(atomicOk op w && cvaOk cva (max w 1) && zeros b 26 32 && (op == 0x0D || cmp == 0)) then d.entryFailed r i .badOperand fetch
    else
      match findExtent d.extents dom cva with
      | none => d.entryFailed r i .xlateFault fetch
      | some e =>
        let d := d.xcTouch (westPort k.port) { domain := dom, cva := e.cva }
        if !e.rights.writes then d.entryFailed r i .accessDenied fetch
        else
          let sa := e.sa + (cva - e.cva)
          if d.isLocal sa then
            let (d, old, _, bad) := d.atomicAt sa w op x cmp (fun d a b => d.storeWrite r a b)
            if bad then d.entryFailed r i .poisoned fetch else (d.countNan dom op old x).entryDone r old fetch
          else if !d.reaches (d.homeOf sa) then d.entryFailed r i .targetDead fetch
          else d.atomicRemote r sa w op x cmp i fetch

/-- The targets on this member of the entries of a step, as they are translated now. -/
def Dev.entryTargets (d : Dev) (r : SlotRef) (k : Cmd) (lo n : Nat) : List Span :=
  let dom := d.domainOf r
  (List.range n).filterMap fun j =>
    let b := d.loadAll k (k.entrySpans dom (lo + j) 1)
    ((saOf d.extents dom (fieldAt b 0 8)).filter d.isLocal).map fun sa => { sa := sa, len := fieldAt b 25 1 }

end Sys2Proof.Machine
end

