-- ==== Sys2Proof/Machine/KvOps.lean ====
section
/-! DEFINITION. Frames, summaries, intake and log of the context store, and what the steps of its verbs do when they retire (R149 to
R162, R170 to R172). -/

namespace Sys2Proof.Machine

/-! ### Where a session's parts lie (R146, R154, R155, R173) -/

/-- A layer of a session. -/
def Session.layer (s : Session) (l : Nat) : Layer := at! s.layers l { n := 0, blocks := [] }

/-- Change a layer of a session. -/
def Session.modLayer (s : Session) (l : Nat) (f : Layer → Layer) : Session := { s with layers := s.layers.modify l f }

/-- The greatest appended length of a session. -/
def Session.top (s : Session) : Nat := s.layers.foldl (fun m l => max m l.n) 0

/-- Bytes of one token's row: K, then V, of every head in BF16. -/
def Session.rowBytes (s : Session) : Nat := 4 * s.heads * s.dim

/-- The row of a position in a layer's intake, a ring of two block buffers (R154). -/
def Session.rowSpan (s : Session) (l p : Nat) : Span :=
  { sa := s.stateSa + l * s.intakeBytes + p % 128 * s.rowBytes, len := s.rowBytes }

/-- The part of a row that is one head's K or V. -/
def Session.rowPart (s : Session) (l p h : Nat) (v : Bool) : Span :=
  { sa := (s.rowSpan l p).sa + b2n v * (2 * s.heads * s.dim) + 2 * h * s.dim, len := 2 * s.dim }

/-- The codebook, and the part of one head of one layer (R146). -/
def Session.codebook (s : Session) : Span := { sa := s.stateSa + s.intakeBytes * s.layerCount + s.tableBytes, len := s.codebookBytes }
def Session.codebookPart (s : Session) (l h : Nat) : Span := { sa := s.codebook.sa + 32 * s.dim * (l * s.heads + h), len := 32 * s.dim }

/-- The provenance entries of positions from `p` on (R155). -/
def Session.logSpan (s : Session) (p n : Nat) : Span := { sa := s.logSa + 8 * p, len := 8 * n }

/-- One head of K or V in a block's frame (R149). -/
def Block.part (b : Block) (h : Nat) (v : Bool) : Span :=
  let n := regionSize b.format b.heads b.dim
  { sa := b.frameSa + b2n v * n + h * (n / b.heads), len := n / b.heads }

/-- The scale of one head of K or V in a block's summary (R151). -/
def Block.scaleSpan (b : Block) (h : Nat) (v : Bool) : Span := { sa := b.summarySa + 64 + 4 * (b2n v * b.heads + h), len := 4 }

/-- The summary of one head (R151): mean key, norm bounds, codes. -/
def Block.headSpan (b : Block) (h : Nat) : Span :=
  { sa := b.summarySa + 64 + 64 * ceilDiv b.heads 8 + h * (6 * b.dim + 32), len := 6 * b.dim + 32 }
def Block.meanSpan (b : Block) (h : Nat) : Span := { sa := (b.headSpan h).sa, len := 2 * b.dim + 8 }
def Block.codeSpan (b : Block) (h t n : Nat) : Span := { sa := (b.headSpan h).sa + 2 * b.dim + 32 + t * (b.dim / 16), len := n * (b.dim / 16) }

/-- Whether other sessions share a block (R157, R163): its count is above 1, or it is homed elsewhere. -/
def Dev.shared (d : Dev) (b : Block) : Bool := b.refs != 1 || !d.isLocal b.frameSa

/-- The blocks of a layer, in order. -/
def Dev.layerBlocks (d : Dev) (s : Session) (l : Nat) : List Block := (s.layer l).blocks.filterMap d.block?

/-- The block that frames block number `b` of a layer. -/
def Dev.blockAt (d : Dev) (s : Session) (l b : Nat) : Option Block := ((s.layer l).blocks[b]?).bind d.block?

/-- The session of a context. -/
def Dev.session? (d : Dev) (ctx : Nat) : Option Session := (d.ctx? ctx).bind (·.session)

/-- Change the session of a context. -/
def Dev.modSession (d : Dev) (ctx : Nat) (f : Session → Session) : Dev := d.modCtx ctx fun c => { c with session := c.session.map f }

/-- Change a block. -/
def Dev.modBlock (d : Dev) (id : Nat) (f : Block → Block) : Dev := { d with blocks := modifyAll (·.id == id) f d.blocks }

/-! ### Encoding and decoding (R149 to R152) -/

/-- 16-bit words of bytes. -/
def words16 (bs : List Byte) : List W16 := (chunks 2 bs).map fun b => BitVec.ofNat 16 (leNat b)

/-- Encode one head of K or V of a block: its bytes, scale and events (R150, R138, R139). -/
def encodeHead (format : Nat) (vs : List W32) : List Byte × W32 × NumEvents :=
  let s := headScale format vs
  let (bs, ev) := encodeVec format (vs.map fun v => if s = fone then v else fdiv v s)
  (bs, s, ev)

/-- The 64 rows of one head of K or V as stored, without the scale (R186). -/
def Dev.rawHead (d : Dev) (k : Cmd) (b : Block) (h : Nat) (v : Bool) : List (List W32) :=
  let vs := decodeVec b.format (64 * b.dim) (d.loadSpan k (b.part h v))
  (List.range 64).map fun t => (vs.drop (t * b.dim)).take b.dim

/-- The scale of one head. -/
def Dev.headScaleOf (d : Dev) (k : Cmd) (b : Block) (h : Nat) (v : Bool) : W32 := BitVec.ofNat 32 (leNat (d.loadSpan k (b.scaleSpan h v)))

/-- The 64 rows of one head of K or V, decoded under their scale (R140). -/
def Dev.headRows (d : Dev) (k : Cmd) (b : Block) (h : Nat) (v : Bool) : List (List W32) :=
  let s := d.headScaleOf k b h v
  (d.rawHead k b h v).map fun r => r.map fun x => fmul x s

/-- The bytes of rows `t` of a block in the form of the intake: exact (R158, R161). -/
def Dev.intakeRow (d : Dev) (k : Cmd) (b : Block) (t : Nat) : List Byte :=
  [false, true].flatMap fun v => (List.range b.heads).flatMap fun h =>
    (at! (d.headRows k b h v) t []).flatMap fun x => natLe (toBf16 x).1.toNat 2

/-- A value rounded toward or away from zero to FP32 (R152). -/
def roundDir (away : Bool) (m : Nat) (e : Int) : W32 :=
  if away then (Fp.fin false m e).up32 else fneg ((Fp.fin true m e).up32)

/-- A norm times 1 ∓ 2^−15, rounded outward (R152). -/
def widenNorm (up : Bool) (v : W32) : W32 :=
  match f32 v with
  | .fin _ m e => roundDir up (m * (if up then 32769 else 32767)) (e - 15)
  | _ => v

/-- The index of the least of a list of distances, ties to the lowest (R152); with a NaN among them, a free choice
(log 7). -/
def leastIndex (key : List Nat) (xs : List W32) : Nat :=
  if xs.any isNan then Config.sumPick key xs.length % max 1 xs.length
  else ((List.range xs.length).foldl (fun b i => if flt (at! xs i fzero) (at! xs b fzero) then i else b) 0)

/-- The 16 centroids of each subspace of one head's codebook (R146). -/
def centroids (dim : Nat) (bs : List Byte) : List (List (List W32)) :=
  (List.range (dim / 8)).map fun j => (List.range 16).map fun c => (words16 (slice bs ((j * 16 + c) * 16) 16)).map ofBf16

/-- The NaN among results that stand for a list of operands each (R144). -/
def nanEvents (xs : List (List W32 × W32)) : NumEvents := xs.foldl (fun a p => a.plus (nanEvent p.1 p.2)) .none

/-- The PQ codes of keys (R152), and their events. -/
def keyCodes (key : List Nat) (cents : List (List (List W32))) (keys : List (List W32)) : List Byte × NumEvents :=
  let part (v : List W32) (j : Nat) : List W32 := (v.drop (8 * j)).take 8
  let each := keys.flatMap fun v => (List.range cents.length).map fun j =>
    let ds := (at! cents j []).map fun c => (part v j ++ c, sqDist (key ++ [j]) (part v j) c)
    (leastIndex (key ++ [j]) (ds.map (·.2)), nanEvents ds)
  (packElems 4 (each.map (·.1)), each.foldl (fun a x => a.plus x.2) .none)

/-- The mean key and the norm bounds of 64 decoded keys (R152), and their events. -/
def keyBounds (key : List Nat) (dim : Nat) (keys : List (List W32)) : List Byte × NumEvents :=
  let cols := (List.range dim).map fun i => keys.map fun v => at! v i fzero
  let mean := cols.map fun c => fmul (fsum key c) (fofRat 1 64)
  let norms := keys.map fun v => fsqrt (fsum key (v.map fun x => fmul x x))
  let lo := (norms.drop 1).foldl fmin (at! norms 0 fzero)
  let hi := (norms.drop 1).foldl fmax (at! norms 0 fzero)
  let conv := mean.map toBf16
  ((conv.flatMap fun x => natLe x.1.toNat 2) ++ natLe (widenNorm false lo).toNat 4 ++ natLe (widenNorm true hi).toNat 4,
    ((nanEvents (cols.zip mean)).plus (nanEvents (keys.zip norms))).plus (conv.foldl (fun a x => a.plus x.2) .none))

/-- Whether some of a block's frame is held on flash (R163). -/
def Dev.onFlash (d : Dev) (b : Block) : Bool := (granulesOf b.frame).any fun g => (d.granule? g).any fun x => x.residency != .dram

/-- The first 64 bytes of a summary record (R151). -/
def Block.header (b : Block) (onFlash : Bool) : List Byte :=
  natLe b.first 4 ++ natLe b.layer 2 ++ natLe (if b.sealed then 2 else 1) 1 ++ natLe b.format 1 ++ natLe b.refs 3 ++
    natLe (b2n b.pinned + 2 * b2n b.recomputed + 4 * b2n onFlash) 1 ++ List.replicate 52 0

/-- The summary record of a block in bytes (R151). -/
def Dev.summaryRecord (d : Dev) (k : Cmd) (b : Block) : List Byte :=
  b.header (d.onFlash b) ++ (d.loadSpan k b.summary).drop 64

/-! ### Reference counts (R159, R160) -/

/-- The greatest reference count: at it a block is pinned (R159). -/
def pinCount : Nat := 0xFF_FFFF

/-- Raise or lower a block's reference count (R159, R160): at 0 it is being freed; at 0xFF_FFFF it is pinned, with one
EVENT record of kind 2. -/
def Dev.refBlock (d : Dev) (id : Nat) (up : Bool) : Dev :=
  match d.block? id with
  | none => d
  | some b =>
    if b.pinned then d
    else
      let n := if up then b.refs + 1 else b.refs - 1
      let pin := n == pinCount
      let d := d.modBlock id fun b => { b with refs := n, pinned := pin, freeing := n == 0 }
      if pin then d.fault (.domain b.domain) 0x07 none b.domain 0xFFFF 0 0xFFFF b.summarySa 2 0 else d

/-! ### APPEND (R153 to R155) -/

/-- The operands of an APPEND: layer, format, first position, count, K, V and identifier CVAs. -/
structure AppendOps where
  layer : Nat
  fmt : Nat
  p : Nat
  n : Nat
  k : Nat
  v : Nat
  ids : Nat
deriving DecidableEq, Repr

/-- The operands of an APPEND in its operand bytes. -/
def appendOps (o : List Byte) : AppendOps :=
  { layer := fieldAt o 0 2, fmt := fieldAt o 2 1, p := fieldAt o 4 4, n := fieldAt o 8 4, k := fieldAt o 16 8, v := fieldAt o 24 8, ids := fieldAt o 32 8 }

/-- Bytes of one token's K or V in the input format. -/
def AppendOps.row (o : AppendOps) (s : Session) : Nat := s.heads * s.dim * (elemBits o.fmt / 8)

/-- The spans of K, of V and of the token identifiers of rows of an APPEND. -/
def Cmd.appendSpans (k : Cmd) (dom : Nat) (s : Session) (lo n : Nat) : List Span × List Span × List Span :=
  let o := appendOps (cmdOps k)
  let sp (base w : Nat) : List Span := k.spans dom (base + lo * w) (n * w)
  (sp o.k (o.row s), sp o.v (o.row s), if o.layer = 0 then sp o.ids 4 else [])

/-- Provenance entries of tokens from a position on (R155). -/
def logEntries (p : Nat) (ids : List Byte) : List Byte :=
  (List.range (ids.length / 4)).flatMap fun i => slice ids (4 * i) 4 ++ natLe (p + i) 4

/-- Rows of an APPEND enter the intake, and under layer 0 the log (R154, R155); a poisoned source ends it there (R165). -/
def Dev.appendRows (d : Dev) (r : SlotRef) (lo n : Nat) : Dev :=
  match d.cmd? r, d.session? r.ctx with
  | some k, some s =>
    let dom := d.domainOf r
    let o := appendOps (cmdOps k)
    let (ks, vs, ids) := k.appendSpans dom s lo n
    if hasFailed k then d
    else if d.badSpans k (ks ++ vs ++ ids) then (d.raise r .poisoned).modCmd r fun k => { k with plan := k.plan.take k.issued }
    else
      let conv (ss : List Span) : List (W16 × NumEvents) := (decodeVec o.fmt (n * s.heads * s.dim) (d.loadAll k ss)).map toBf16
      let (kv, vv) := (conv ks, conv vs)
      let row (xs : List (W16 × NumEvents)) (i : Nat) : List Byte :=
        ((xs.drop (i * s.heads * s.dim)).take (s.heads * s.dim)).flatMap fun x => natLe x.1.toNat 2
      let toks := d.loadAll k ids
      let d := (List.range n).foldl (fun d i => d.stepWrite r none { sa := (s.rowSpan o.layer (o.p + lo + i)).sa, bytes := row kv i ++ row vv i }) d
      let d := if o.layer = 0 && s.logSa != 0 then d.stepWrite r none { sa := (s.logSpan (o.p + lo) n).sa, bytes := logEntries (o.p + lo) toks } else d
      let d := d.countEvents dom ((kv ++ vv).foldl (fun a x => a.plus x.2) .none)
      (d.modSession r.ctx fun s => s.modLayer o.layer fun l => { l with n := o.p + lo + n }).modCmd r fun k =>
        { k with w0 := BitVec.ofNat 64 (o.p + lo + n) }
  | _, _ => d

/-- Values of one head of K or V of the 64 intake rows of a block. -/
def Dev.intakeHead (d : Dev) (s : Session) (l first h : Nat) (v : Bool) : List W32 :=
  (List.range 64).flatMap fun t => let p := s.rowPart l (first + t) h v; (words16 (memRead d.mem p.sa p.len)).map ofBf16

/-- Whether a layer holds all 64 tokens of a block: a step whose rows failed leaves the block without a frame (R154, R165). -/
def Session.fills (s : Session) (b : Block) : Bool := decide (b.first + 64 ≤ (s.layer b.layer).n)

/-- One head of a block's frame is encoded from the intake, with its scales (R149, R150). -/
def Dev.encodeHead (d : Dev) (r : SlotRef) (id h : Nat) : Dev :=
  match d.session? r.ctx, d.block? id with
  | some s, some b =>
    if !s.fills b then d else
    [false, true].foldl (fun d v =>
      let (bs, sc, ev) := Machine.encodeHead b.format (d.intakeHead s b.layer b.first h v)
      let d := (d.stepWrite r none { sa := (b.part h v).sa, bytes := bs }).stepWrite r none { sa := (b.scaleSpan h v).sa, bytes := natLe sc.toNat 4 }
      d.countEvents (d.domainOf r) ev) d
  | _, _ => d

/-- 16 keys of one head of a block are summarized from its frame; with the last of them the mean key and the bounds (R152). -/
def Dev.summarize (d : Dev) (r : SlotRef) (id h q : Nat) : Dev :=
  match d.cmd? r, d.session? r.ctx, d.block? id with
  | some k, some s, some b =>
    if !s.fills b then d else
    let dom := d.domainOf r
    let key := d.sumKey dom k []
    let keys := d.headRows k b h false
    let (codes, ev) := keyCodes key (centroids b.dim (d.loadSpan k (s.codebookPart b.layer h))) ((keys.drop (16 * q)).take 16)
    let d := (d.stepWrite r none { sa := (b.codeSpan h (16 * q) 16).sa, bytes := codes }).countEvents dom ev
    if q != 3 then d
    else
      let (bs, ev) := keyBounds key b.dim keys
      (d.stepWrite r none { sa := (b.meanSpan h).sa, bytes := bs }).countEvents dom ev
  | _, _, _ => d

/-- A block whose frame and summary are complete enters the table of its layer, HOT with reference count 1 (R154). -/
def Dev.enterBlock (d : Dev) (r : SlotRef) (ctx l id : Nat) : Dev :=
  match d.session? ctx, d.block? id with
  | some s, some b =>
    if !s.fills b then d
    else
      ((d.modBlock id fun b => { b with refs := 1, freeing := false }).modSession ctx fun s => s.modLayer l fun x => { x with blocks := x.blocks ++ [id] }).modCmd r
        fun k => { k with w1 := k.w1 + 1 }
  | _, _ => d

/-! ### SEAL (R156, R157) -/

/-- A block is SEALED (R156); a HOT one is counted. -/
def Dev.sealBlock (d : Dev) (r : SlotRef) (id : Nat) : Dev :=
  if (d.block? id).any (·.sealed) then d
  else (d.modBlock id fun b => { b with sealed := true }).modCmd r fun k => { k with w0 := k.w0 + 1 }

/-- One head of a block is encoded as MXFP4 into another frame (R157). -/
def Dev.demoteHead (d : Dev) (r : SlotRef) (id nid h : Nat) : Dev :=
  match d.cmd? r, d.block? id, d.block? nid with
  | some k, some b, some nb =>
    [false, true].foldl (fun d v =>
      let (bs, ev) := encodeVec 0x08 (d.headRows k b h v).flatten
      let d := (d.stepWrite r none { sa := (nb.part h v).sa, bytes := bs }).stepWrite r none { sa := (nb.scaleSpan h v).sa, bytes := natLe fone.toNat 4 }
      d.countEvents (d.domainOf r) ev) d
  | _, _, _ => d

/-- The demoted frame and its summary replace the old ones as one change, and the old ones are given up (R157, R160); a block that
has come to be shared since is left as it is. -/
def Dev.demotedBlock (d : Dev) (r : SlotRef) (id nid : Nat) : Dev :=
  match d.block? id, d.block? nid with
  | some b, some nb =>
    if d.shared b then d.modCmd r fun k => { k with w2 := k.w2 + 1 }
    else
      ((d.modBlock id fun b => { b with format := nb.format, frameSa := nb.frameSa, summarySa := nb.summarySa, recomputed := false }).modBlock nid
        fun x => { x with format := b.format, frameSa := b.frameSa, summarySa := b.summarySa }).modCmd r fun k => { k with w1 := k.w1 + 1 }
  | _, _ => d

/-! ### FORK and DROP (R158 to R161) -/

/-- A session's block table takes a block that another holds too (R158): its count rises; a block homed elsewhere gets an entry of
its own, whose reference its home counts. -/
def Dev.shareBlock (d : Dev) (r : SlotRef) (ctx l id : Nat) : Dev :=
  match d.block? id with
  | none => d
  | some b =>
    let put (d : Dev) (x : Nat) : Dev :=
      (d.modSession ctx fun s => s.modLayer l fun y => { y with n := 64 * (y.blocks.length + 1), blocks := y.blocks ++ [x] }).modCmd r
        fun k => { k with w0 := k.w0 + 1 }
    if d.isLocal b.frameSa then put ((d.refBlock id true).modBlock id fun b => { b with sealed := true }) id
    else
      let d := d.askStep r .refs (d.homeOf b.summarySa) 0 (stepArgs (refArgs true b))
      put { d with nextBlock := d.nextBlock + 1, blocks := d.blocks ++ [{ b with id := d.nextBlock, freeing := false }] } d.nextBlock

/-- A session's block table gives up its last blocks of a layer (R161); the count of a block homed elsewhere falls there. -/
def Dev.releaseBlock (d : Dev) (r : SlotRef) (ctx l id : Nat) : Dev :=
  let d := (d.modSession ctx fun s => s.modLayer l fun y => { n := 64 * (y.blocks.erase id).length, blocks := y.blocks.erase id }).modCmd r
    fun k => { k with w0 := k.w0 + 1 }
  match d.block? id with
  | none => d
  | some b =>
    if d.isLocal b.frameSa then
      let last := b.refs == 1 && !b.pinned
      (d.refBlock id false).modCmd r fun k => { k with w1 := if last then k.w1 + 1 else k.w1 }
    else { d.askStep r .refs (d.homeOf b.summarySa) 0 (stepArgs (refArgs false b)) with blocks := d.blocks.filter (·.id != id) }

/-- The tokens of a layer from the end of its whole blocks below a position up to it, in the form of the intake, and the span that
holds each (R158, R161). -/
def Dev.tailRows (d : Dev) (k : Cmd) (s : Session) (l p : Nat) : List (List Byte × List Span) :=
  (List.range (p % 64)).map fun t =>
    match d.blockAt s l (p / 64) with
    | some b => (d.intakeRow k b t, [b.frame])
    | none => let x := s.rowSpan l (p / 64 * 64 + t); (d.loadSpan k x, [x])

/-- The tokens below a position of the block that straddles it go to the intake, poisoned where they were, and the block is released
(R161). -/
def Dev.straddle (d : Dev) (r : SlotRef) (ctx l p : Nat) : Dev :=
  match d.cmd? r, d.session? ctx with
  | some k, some s =>
    match d.blockAt s l (p / 64) with
    | none => d
    | some b =>
      let rows := d.tailRows k s l p
      let place (t : Nat) : Span := s.rowSpan l (p / 64 * 64 + t)
      let bad := d.badSpan k b.frame
      let d := rows.zipIdx.foldl (fun d x => d.stepWrite r none { sa := (place x.2).sa, bytes := x.1.1 }) d
      let d := if bad then ((List.range (p % 64)).flatMap fun t => sectorsOf (place t)).eraseDups.foldl Dev.poisonSector d else d
      (d.releaseBlock r ctx l b.id).modSession ctx fun s => s.modLayer l fun y => { y with n := p }
  | _, _ => d

/-- Every layer longer than a position is cut to it, and so is the log; a session lost from there on is ACTIVE again (R161). -/
def Dev.truncateSession (d : Dev) (ctx p : Nat) : Dev :=
  match d.session? ctx with
  | none => d
  | some s =>
    let old := s.top
    let state : SessionState := match s.state with
      | .lost q => if p ≤ q then .active else .lost q
      | x => x
    let d := if s.logSa != 0 && decide (p < s.limit) && decide (p < max old s.lostLen) then d.zeroRange (s.logSpan p 0).sa (8 * (s.limit - p)) else d
    d.modSession ctx fun s => { s with state := state, layers := s.layers.map fun (l : Layer) => { l with n := min l.n p } }

/-- A context has no session any more; its store is given up (R160, R161). -/
def Dev.closeSession (d : Dev) (ctx : Nat) : Dev :=
  match d.session? ctx with
  | none => d
  | some s => (d.leave ((d.ctx? ctx).elim 0xFFFF (·.domain)) s.spans).modCtx ctx fun c => { c with session := none }

/-! ### FETCH_BLOCKS (R162) -/

/-- A part of a FETCH_BLOCKS's output: K (0), V (1) or summary (2) of a block, or (3) the log. -/
structure FetchPart where
  kind : Nat
  block : Nat
  off : Nat
  len : Nat
deriving DecidableEq, Repr

/-- The operands of a FETCH_BLOCKS: layer, parts, output format, first block, block count, destination. -/
structure FetchOps where
  layer : Nat
  parts : Nat
  fmt : Nat
  first : Nat
  count : Nat
  dst : Nat
  len : Nat
deriving DecidableEq, Repr

/-- The operands of a FETCH_BLOCKS in a line. -/
def fetchOps (l : List Byte) : FetchOps :=
  { layer := fieldAt l 16 2, parts := fieldAt l 18 1, fmt := fieldAt l 19 1, first := fieldAt l 20 4, count := fieldAt l 24 4, dst := fieldAt l 32 8, len := fieldAt l 40 8 }

/-- The appended tokens that a FETCH_BLOCKS covers. -/
def FetchOps.covered (o : FetchOps) (s : Session) : Nat := min (64 * (o.first + o.count)) (s.layer o.layer).n - 64 * o.first

/-- Bytes of one part of one block, padded (R162); tokens of the intake, and positions past the last, are BF16 rows (log 26). -/
def Dev.fetchSize (d : Dev) (s : Session) (o : FetchOps) (b kind : Nat) : Nat :=
  let rows (w : Nat) : Nat := 64 * s.heads * s.dim * w
  if kind = 2 then roundUp (summarySize s.heads s.dim) 64
  else
    match d.blockAt s o.layer b with
    | some x => roundUp (if o.fmt = 0 then regionSize x.format s.heads s.dim else rows (if o.fmt = 1 then 4 else 2)) 64
    | none => rows 2

/-- The parts of the blocks of a FETCH_BLOCKS, in order (R162). -/
def Dev.fetchParts (d : Dev) (s : Session) (o : FetchOps) : List FetchPart :=
  ((List.range o.count).flatMap fun i => ([0, 1, 2].filter (bit o.parts)).map fun kd => (o.first + i, kd)).foldl
    (fun (acc : List FetchPart) x =>
      let off := (acc.getLast?.map fun p => p.off + p.len).getD 0
      acc ++ [{ kind := x.2, block := x.1, off := off, len := d.fetchSize s o x.1 x.2 }]) []

/-- Bytes that the parts take. -/
def fetchLen (ps : List FetchPart) : Nat := (ps.getLast?.map fun p => p.off + p.len).getD 0

/-- What a part of a block reads. -/
def Dev.fetchReads (d : Dev) (s : Session) (o : FetchOps) (p : FetchPart) : List Span :=
  match d.blockAt s o.layer p.block with
  | some b => if p.kind = 2 then [b.summary] else
      { sa := b.frameSa + p.kind * regionSize b.format b.heads b.dim, len := regionSize b.format b.heads b.dim } ::
        if o.fmt = 0 then [] else [{ sa := b.summarySa + 64, len := 8 * b.heads }]
  | none =>
    if p.kind = 2 then [] else
      ((List.range 64).filter fun t => decide (64 * p.block + t < (s.layer o.layer).n)).map fun t => s.rowSpan o.layer (64 * p.block + t)

/-- The bytes of a part of a block (R162). -/
def Dev.fetchBytes (d : Dev) (k : Cmd) (s : Session) (o : FetchOps) (p : FetchPart) : List Byte :=
  let body : List Byte :=
    match d.blockAt s o.layer p.block with
    | some b =>
      if p.kind = 2 then d.summaryRecord k b
      else if o.fmt = 0 then d.loadSpan k { sa := b.frameSa + p.kind * regionSize b.format b.heads b.dim, len := regionSize b.format b.heads b.dim }
      else (List.range b.heads).flatMap fun h => (encodeVec o.fmt (d.headRows k b h (p.kind == 1)).flatten).1
    | none =>
      if p.kind = 2 then []
      else (List.range s.heads).flatMap fun h => (List.range 64).flatMap fun t =>
        if 64 * p.block + t < (s.layer o.layer).n then d.loadSpan k (s.rowPart o.layer (64 * p.block + t) h (p.kind == 1))
        else List.replicate (2 * s.dim) 0
  body ++ List.replicate (p.len - body.length) 0

/-- A step of FETCH_BLOCKS: bytes of its blocks' parts from one on (R162). -/
def Dev.fetchOut (d : Dev) (r : SlotRef) (lo n : Nat) : Dev :=
  match d.cmd? r, d.session? r.ctx with
  | some k, some s =>
    let o := fetchOps k.line
    let bs := ((d.fetchParts s o).filter fun p => overlap p.off p.len lo n).flatMap fun p =>
      let a := max p.off lo
      slice (d.fetchBytes k s o p) (a - p.off) (min (p.off + p.len) (lo + n) - a)
    (spread (k.spans (d.domainOf r) (o.dst + lo) bs.length) bs).foldl (fun d w => d.stepWrite r none w) d
  | _, _ => d

/-- A step that writes the provenance entries of FETCH_BLOCKS's tokens, from the `lo`-th byte on, at an offset of the destination; an
entry that was lost reads as poisoned (R162, R172). -/
def Dev.fetchLog (d : Dev) (r : SlotRef) (off lo n : Nat) : Dev :=
  match d.cmd? r, d.session? r.ctx with
  | some k, some s =>
    let o := fetchOps k.line
    let dom := d.domainOf r
    let src : Span := { sa := (s.logSpan (64 * o.first) 0).sa + lo, len := n }
    let dst := k.spans dom (o.dst + off + lo) n
    let d := (spread dst (d.loadSpan k src)).foldl (fun d w => d.stepWrite r none w) d
    let hit := (d.badParts k src).flatMap fun b => (k.spans dom (o.dst + off + lo + (b.sa - src.sa)) b.len).flatMap sectorsOf
    hit.eraseDups.foldl (fun d sec => d.poisonAt r sec) d
  | _, _ => d

/-! ### Lost positions (R170 to R172) -/

/-- The first lost position of a session (R171). -/
def Session.lostFrom (s : Session) : Option Nat :=
  match s.state with
  | .lost p => some p
  | _ => none

/-- The first position above those that a class 0x03 command touches (R171, R193). -/
def Cmd.kvReach (k : Cmd) (s : Session) : Nat :=
  let o := cmdOps k
  match cmdVerb k with
  | some .append => (appendOps o).p + (appendOps o).n
  | some .seal => fieldAt k.line 16 4
  | some .migrate => if fieldAt k.line 16 1 = 1 || fieldAt k.line 28 4 = 0 then s.top else min s.top (64 * (fieldAt k.line 24 4 + fieldAt k.line 28 4))
  | some .fetchBlocks => if fieldAt k.line 18 1 = 8 then 0 else 64 * (fetchOps k.line).first + (fetchOps k.line).covered s
  | some .selectAttend => fieldAt o 4 4 + fieldAt o 2 1
  | _ => 0

/-- The front member and the context there that a context of this member stands for. -/
def Dev.frontOf (d : Dev) (ctx : Nat) : Nat × Nat := if 65536 ≤ ctx then (ctx / 65536 - 1, ctx % 65536) else (d.coll.geoId, ctx)

/-- The result words of DATA_LOST for a session lost from a position on (R172): LOG_LOST where the log of the lost range is. -/
def Dev.kvLostWords (d : Dev) (ctx : Nat) (s : Session) (first : Nat) : W64 × W64 × W64 :=
  let gone := s.logSa != 0 && d.poisonedIn (s.logSpan first (s.lostLen - first))
  let (front, c) := d.frontOf ctx
  (BitVec.ofNat 64 first, BitVec.ofNat 64 s.lostLen, BitVec.ofNat 64 (b2n gone * 2 ^ 63 + front * 2 ^ 48 + c * 2 ^ 32))

/-- A session becomes LOST from a position on (R170): its running commands that touch such positions end with DATA_LOST once their
issued steps have retired (R171, R193). -/
def Dev.loseSession (d : Dev) (ctx first : Nat) : Dev :=
  match d.session? ctx with
  | none => d
  | some s =>
    let p := match s.state with
      | .lost q => min q first
      | _ => first
    let lost : Session := { s with state := .lost p, lostLen := if s.lostFrom.isSome then s.lostLen else s.top }
    let w := d.kvLostWords ctx lost p
    let hit (x : Slot) : Bool := x.state == .running && x.cmd.any fun k => k.started && k.lost.isNone && decide (p < k.kvReach s)
    let d := d.modCtx ctx fun c =>
      { c with
        session := some lost
        slots := c.slots.map fun x => if hit x then { x with cmd := x.cmd.map fun k => { k with lost := some w } } else x }
    (d.slotsWhere fun c _ => c.num == ctx).foldl (fun d r => d.conclude r) d

/-- Sessions whose tables hold a lost block are LOST from its first position at the latest (R170). -/
def Dev.loseBlock (d : Dev) (b : Block) : Dev :=
  ((d.ctxs.filter fun c => c.session.any fun s => s.layers.any fun l => l.blocks.contains b.id).map (·.num)).foldl (fun d n => d.loseSession n b.first) d

end Sys2Proof.Machine
end

