-- ==== Sys2Proof/Machine/MoveOps.lean ====
section
/-! DEFINITION. Class 0x03 commands whose session another member owns, and sessions that go from one member to another: staging areas,
session images, and the STEP messages between front member, owner and target (R158, R163, R166, R167; the payloads are this model's
firmware's, log 11). -/

namespace Sys2Proof.Machine

/-! ### What a forwarded command works on -/

/-- The number of the context that stands here for a context of a front member. -/
def Dev.ctxNum (d : Dev) (front ctx : Nat) : Nat := if front = d.coll.geoId then ctx else guestNum front ctx

/-- A range of operand bytes of a forwarded command in its staging area: where it lies there and, for what goes to host memory, the
host's address (R176). -/
structure Staged where
  cva : Nat
  len : Nat
  write : Bool
  host : Option Nat
  off : Nat
deriving DecidableEq, Repr

/-- A CVA that stands for host memory in the line that a forwarded HOST_OUT command's owner sees: away from the query range. -/
def hostCva (query n : Nat) : Nat := if query < 2 ^ 55 then 2 ^ 56 + n * 2 ^ 50 else 2 ^ 53 + n * 2 ^ 50

/-- Bytes put over a list. -/
def overlay (bs : List Byte) (off : Nat) (xs : List Byte) : List Byte := bs.take off ++ xs ++ bs.drop (off + xs.length)

/-- The line and descriptor that the owner sees: under HOST_OUT the outputs of SELECT_ATTEND get CVAs, which the staging area maps, and
the flag goes (R176, R192). -/
def Cmd.forwarded (k : Cmd) : List Byte × List Byte :=
  if cmdVerb k == some .selectAttend && bit (lineFlags k.line) 2 then
    let query := fieldAt (cmdOps k) 32 8
    let line := overlay k.line 2 (natLe (fieldAt k.line 2 1 - 64) 1)
    let out := natLe (hostCva query 0) 8
    if lineExt k.line then
      (line, overlay (overlay k.desc 40 out) 48 (if fieldAt k.desc 48 8 = 0 then natLe 0 8 else natLe (hostCva query 1) 8))
    else (overlay line 56 out, k.desc)
  else (k.line, k.desc)

/-- The ranges of a command's staging area, behind its descriptor, and the area's size. -/
def stagedRanges (g : Option Geom) (line desc : List Byte) : List Staged × Nat :=
  let ns := (Verb.ofCode (lineVerb line)).elim [] fun v => (formOf g v line desc).getD []
  ns.foldl (fun (acc : List Staged × Nat) n =>
    (acc.1 ++ [{ cva := n.cva, len := n.len, write := n.write, host := none, off := acc.2 }], acc.2 + roundUp n.len 64)) ([], roundUp desc.length 64)

/-- The geometry of a session. -/
def Session.geom (s : Session) : Geom := { layers := s.layerCount, heads := s.heads, dim := s.dim, group := s.group }

/-- The staging area of a command at its front member: its ranges with the host addresses they stand for, and its size. -/
def Cmd.staging (k : Cmd) (s : Session) : List Staged × Nat :=
  let (line, desc) := k.forwarded
  let (xs, n) := stagedRanges (some s.geom) line desc
  if line == k.line then (xs, n)
  else
    let query := fieldAt (cmdOps k) 32 8
    (xs.map fun x =>
      if x.cva = hostCva query 0 then { x with host := some (fieldAt (cmdOps k) 40 8) }
      else if x.cva = hostCva query 1 then { x with host := some (fieldAt k.desc 48 8) } else x, n)

/-- The extents through which the owner sees the staging area. -/
def stagingCaps (dom base : Nat) (xs : List Staged) : List Extent :=
  xs.map fun x => { domain := dom, cva := x.cva, len := x.len, sa := base + x.off, rights := .writable, gen := 0, loan := 0, placement := .spread }

/-- Steps that copy spans over spans of the same length in pieces of 64 KiB, without raising a status. -/
def stageSteps (src dst : List Span) : List Step :=
  let cuts := src.foldl (fun (acc : List (Span × Nat) × Nat) s => (acc.1 ++ [(s, acc.2)], acc.2 + s.len)) ([], 0)
  cuts.1.flatMap fun x =>
    (dst.foldl (fun (acc : List Step × Nat) t =>
      let lo := max x.2 acc.2
      let hi := min (x.2 + x.1.len) (acc.2 + t.len)
      let a := x.1.sa + (lo - x.2)
      let b := t.sa + (lo - acc.2)
      (if lo < hi then
        acc.1 ++ [{ Step.nop with kind := .mover, free := true, extra := true, reads := [{ sa := a, len := hi - lo }], outs := [{ sa := b, len := hi - lo }], effects := [.stage a b (hi - lo)] }]
       else acc.1, acc.2 + t.len)) (([] : List Step), 0)).1

/-- Copy bytes with their poison, without a status (log 11). -/
def Dev.stageBytes (d : Dev) (r : SlotRef) (src dst len : Nat) : Dev :=
  match d.cmd? r with
  | none => d
  | some k =>
    let s : Span := { sa := src, len := len }
    let hit := ((d.badParts k s).flatMap fun b => sectorsOf { sa := dst + (b.sa - src), len := b.len }).eraseDups
    hit.foldl (fun d sec => d.poisonAt r sec) (d.stepWrite r none { sa := dst, bytes := d.loadSpan k s })

/-- Bytes of a staging area go to host memory (R176, R199). -/
def Dev.stageHost (d : Dev) (r : SlotRef) (src : Span) (addr : Nat) : Dev :=
  match d.ctx? r.ctx, d.cmd? r with
  | some c, some k =>
    if d.portUp c.homePort then d.toPort c.homePort c.domain true src.len (some r) (.write c.homePort addr (d.loadSpan k src)) else d.raise r .targetDead
  | _, _ => d

/-- The owner that a forwarded command names, and its place in the owner's staging area. -/
def Dev.sendRun (d : Dev) (r : SlotRef) (owner base : Nat) : Dev :=
  match d.cmd? r with
  | none => d
  | some k => let (line, desc) := k.forwarded; d.askStep r .run owner r.ctx (stepArgs [base, desc.length] ++ line)

/-- Forward a class 0x03 command to the owner the front member last learnt of (R166): first what it reads is staged there. An owner that
cannot be reached gives TARGET_DEAD (R360). -/
def Dev.forward (d : Dev) (r : SlotRef) (k : Cmd) (s : Session) : Dev :=
  let d := d.modCmd r fun k => { k with started := true, plan := [] }
  let n := (k.staging s).2
  let d := if n = 0 then d.sendRun r s.owner 0 else d.askStep r .stage s.owner r.ctx (stepArgs [n])
  (d.conclude r).settle

/-- The staging area is there: the descriptor and what the command reads go to it, then the command itself. -/
def Dev.stageInputs (d : Dev) (r : SlotRef) (owner base : Nat) : Dev :=
  match d.cmd? r, d.session? r.ctx with
  | some k, some s =>
    let dom := d.domainOf r
    let (xs, _) := k.staging s
    let desc := k.forwarded.2
    let steps := (xs.filter fun x => !x.write).flatMap fun x => stageSteps (k.spans dom x.cva x.len) [{ sa := base + x.off, len := x.len }]
    let d := d.modCmd r fun k => { k with staged := some (owner, base), plan := steps ++ [{ Step.nop with extra := true, effects := [.forward] }] }
    if desc.isEmpty then d else d.writeRemote r base desc
  | _, _ => d

/-- The command itself goes to the owner. -/
def Dev.forwardNow (d : Dev) (r : SlotRef) : Dev :=
  match (d.cmd? r).bind (·.staged) with
  | some (owner, base) => d.sendRun r owner base
  | none => d

/-- The log entries of the first tokens of a forwarded APPEND (R155). -/
def Dev.appendLog (d : Dev) (r : SlotRef) (n : Nat) : Dev :=
  match d.cmd? r, d.session? r.ctx with
  | some k, some s =>
    let o := appendOps (cmdOps k)
    let (_, _, ids) := k.appendSpans (d.domainOf r) s 0 n
    d.stepWrite r none { sa := (s.logSpan o.p n).sa, bytes := logEntries o.p (d.loadAll k ids) }
  | _, _ => d

/-- What the front member knows of its session follows a command that its owner ran. -/
def Session.follow (s : Session) (k : Cmd) (w0 : Nat) : Session :=
  match cmdVerb k with
  | some .append => s.modLayer (appendOps (cmdOps k)).layer fun l => { l with n := w0 }
  | some .drop =>
    if fieldAt k.line 16 1 = 2 then
      let p := fieldAt k.line 20 4
      { s with layers := s.layers.map fun (l : Layer) => { l with n := min l.n p } }
    else s
  | _ => s

/-- The steps that a front member still has once the owner has answered (R155, R162, R192): outputs leave the staging area, and the log,
which the front member holds, is written or read. -/
def Dev.stageOutputs (d : Dev) (r : SlotRef) (k : Cmd) (s : Session) (w0 : Nat) : List Step :=
  let dom := d.domainOf r
  let outs := match k.staged with
    | none => []
    | some (_, base) =>
      ((k.staging s).1.filter (·.write)).flatMap fun x =>
        let src : Span := { sa := base + x.off, len := if cmdVerb k == some .fetchBlocks then min x.len w0 else x.len }
        match x.host with
        | none => stageSteps (cutSpans [src]) (k.spans dom x.cva src.len)
        | some addr => (cutSpans [src]).map fun p => { Step.nop with kind := .mover, extra := true, reads := [p], effects := [.stageHost p (addr + (p.sa - src.sa))] }
  let o := appendOps (cmdOps k)
  match cmdVerb k with
  | some .append =>
    let n := w0 - o.p
    let (_, _, ids) := k.appendSpans dom s 0 n
    outs ++ if o.layer = 0 && n != 0 then [{ Step.nop with kind := .mover, extra := true, reads := ids, outs := [s.logSpan o.p n], effects := [.appendLog n] }] else []
  | some .fetchBlocks =>
    let f := fetchOps k.line
    let n := 8 * f.covered s
    outs ++ if bit f.parts 3 then
      (pieces n 65536).map fun p =>
        { Step.nop with kind := .mover, free := true, reads := [{ sa := (s.logSpan (64 * f.first) 0).sa + p.1, len := p.2 }], outs := k.spans dom (f.dst + w0 + p.1) p.2
                        effects := [.fetchLog w0 p.1 p.2], w0 := p.2 }
    else []
  | _ => outs

/-! ### Session images (R163, R166) -/

/-- The size of a session image's table: geometry, lengths, and one record to a block. -/
def Session.imageTable (s : Session) : Nat := roundUp (64 + 8 * s.layerCount + 64 * (s.layers.flatMap (·.blocks)).length) 65536

/-- The layout of a session image: where each block whose frame is copied lies in it, and the image's size. -/
def Dev.imageLayout (d : Dev) (s : Session) (ids : List Nat) : List (Nat × Nat) × Nat :=
  ids.foldl (fun (acc : List (Nat × Nat) × Nat) id =>
    match d.block? id with
    | none => acc
    | some b => (acc.1 ++ [(id, acc.2)], acc.2 + roundUp b.frame.len 65536 + roundUp b.summary.len 65536)) ([], s.imageTable + roundUp s.stateBytes 65536)

/-- A block's record in a session image: where its frame and summary are from now on. -/
def Block.imageRecord (b : Block) (frame summary : Nat) : List Byte :=
  natLe b.layer 2 ++ natLe (b2n b.sealed + 2 * b2n b.pinned + 4 * b2n b.recomputed) 1 ++ natLe b.format 1 ++ natLe b.first 4 ++
    natLe frame 8 ++ natLe summary 8 ++ List.replicate 40 0

/-- The table of a session's image at `base`: `moved` names the blocks whose frames it holds. -/
def Dev.imageBytes (d : Dev) (s : Session) (base : Nat) (moved : List (Nat × Nat)) : List Byte :=
  let head := natLe s.layerCount 2 ++ natLe s.heads 2 ++ natLe s.dim 2 ++ natLe s.group 1 ++ natLe s.hotFormat 1 ++ natLe s.limit 4 ++
    natLe (s.layers.flatMap (·.blocks)).length 4 ++ natLe ((s.lostFrom.map (· + 1)).getD 0) 4 ++ natLe s.lostLen 4 ++ List.replicate 40 0
  let rec' (id : Nat) : List Byte :=
    match d.block? id with
    | none => List.replicate 64 0
    | some b =>
      match moved.find? fun (m : Nat × Nat) => m.1 == id with
      | some m => b.imageRecord (base + m.2) (base + m.2 + roundUp b.frame.len 65536)
      | none => b.imageRecord b.frameSa b.summarySa
  head ++ (s.layers.flatMap fun l => natLe l.n 8) ++ (s.layers.flatMap (·.blocks)).flatMap rec'

/-- A block of an image takes its place here: one whose store is here already keeps its entry; a copied one is held once; a block homed
elsewhere stands for one reference to it. -/
def Dev.takeBlock (d : Dev) (dom heads dim : Nat) (b : List Byte) : Nat × Nat × Dev :=
  let layer := fieldAt b 0 2
  let flags := fieldAt b 2 1
  let ssa := fieldAt b 16 8
  match d.blocks.find? fun x => x.summarySa == ssa && d.isLocal ssa && !x.freeing with
  | some x => (layer, x.id, d)
  | none =>
    (layer, d.nextBlock,
      { d with nextBlock := d.nextBlock + 1, blocks := d.blocks ++ [{ id := d.nextBlock, domain := dom, layer := layer, first := fieldAt b 4 4, heads := heads, dim := dim, sealed := bit flags 0, format := fieldAt b 3 1, refs := 1, pinned := bit flags 1, recomputed := bit flags 2, frameSa := fieldAt b 8 8, summarySa := ssa, freeing := false }] })

/-- A context of another front member, as its session's owner holds it (R166). -/
def Context.guest (num dom : Nat) : Context :=
  { num := num, domain := dom, usable := 0, homePort := 0, msixEn := false, vector := 0, high := 0, window := [], slots := [], fails := [], lastClose := 0
    running := [], runningAlloc := false, session := none }

/-- A session takes its place in a context from its image (R158, R166); the table's store is given up. -/
def Dev.installImage (d : Dev) (x : Landing) (num logSa : Nat) (e : W32) : Dev :=
  let b := memRead d.mem x.sa 64
  let layers := fieldAt b 0 2; let heads := fieldAt b 2 2; let dim := fieldAt b 4 2
  let n := fieldAt b 12 4
  let lens := (List.range layers).map fun l => leNat (memRead d.mem (x.sa + 64 + 8 * l) 8)
  let (ids, d) := (List.range n).foldl (fun (acc : List (Nat × Nat) × Dev) i =>
    let (l, id, d) := acc.2.takeBlock x.domain heads dim (memRead acc.2.mem (x.sa + 64 + 8 * layers + 64 * i) 64)
    (acc.1 ++ [(l, id)], d)) (([] : List (Nat × Nat)), d)
  let table := roundUp (64 + 8 * layers + 64 * n) 65536
  let s : Session :=
    { state := if fieldAt b 16 4 = 0 then .active else .lost (fieldAt b 16 4 - 1), layerCount := layers, heads := heads, dim := dim, group := fieldAt b 6 1, hotFormat := fieldAt b 7 1, limit := fieldAt b 8 4
      layers := (List.range layers).map fun l => { n := at! lens l 0, blocks := (ids.filter fun i => i.1 == l).map Prod.snd }
      lostLen := fieldAt b 20 4, owner := d.coll.geoId, epoch := e, claimed := true, target := d.coll.geoId, offered := e, stateSa := x.sa + table, logSa := logSa, moved := none
      rebuilding := false }
  let d := { d with landings := d.landings.erase x }.leave x.domain [⟨x.sa, table⟩]
  if (d.ctx? num).isSome then d.modCtx num fun c => { c with session := some s }
  else
    let c := Context.guest num x.domain
    { d with ctxs := d.ctxs ++ [{ c with session := some s }] }

/-- A staging area or an image is given up. -/
def Dev.dropLanding (d : Dev) (x : Landing) : Dev :=
  { d with landings := d.landings.erase x }.leave x.domain [⟨x.sa, x.len⟩]

/-- The copied blocks that have not come to be shared since: those are what a session's image holds (R163). -/
def Dev.imageHolds (d : Dev) (moved : List (Nat × Nat)) : List (Nat × Nat) :=
  moved.filter fun m => (d.block? m.1).any fun b => !d.shared b

/-- The same blocks, with their state. -/
def Dev.imageMarks (d : Dev) (moved : List (Nat × Nat)) : List (Nat × Bool) :=
  (d.imageHolds moved).filterMap fun m => (d.block? m.1).map fun b => (m.1, b.sealed)

/-- A session's image is complete but for its table, which follows, and again where blocks have come to be shared since. -/
def Dev.writeImage (d : Dev) (r : SlotRef) (ctx : Nat) (moved : List (Nat × Nat)) : Dev :=
  match (d.cmd? r).bind (·.staged), d.session? ctx with
  | some (_, base), some s =>
    let marks := d.imageMarks moved
    (d.stepWrite r none { sa := base, bytes := d.imageBytes s base (d.imageHolds moved) }).modSession ctx fun s => { s with moved := some marks }
  | _, _ => d

/-- What an offer waits for (R166): the copies and their acknowledgements, and a table that shows the blocks as they are. -/
def Dev.offerHold (d : Dev) (r : SlotRef) (k : Cmd) (st : Step) : Option Dev :=
  st.effects.findSome? fun f => match f with
    | .offer ctx _ moved =>
      if k.plan.length != 1 || !k.remote.isEmpty || k.staged.isNone then some d
      else if (d.session? ctx).any fun s => s.moved != some (d.imageMarks moved) then some (d.writeImage r ctx moved)
      else none
    | .forward => if k.plan.length != 1 || !k.remote.isEmpty then some d else none
    | .handOver => if k.plan.length != 1 || !k.remote.isEmpty then some d else none
    | _ => none

/-- The session is frozen, and the Ledger and the target get the offer (R163, R166). -/
def Dev.offerNow (d : Dev) (r : SlotRef) (ctx target : Nat) : Dev :=
  match d.session? ctx with
  | some s =>
    let e := (if newer s.offered s.epoch then s.offered else s.epoch) + 1
    let dom := d.domainOf r
    let (front, c) := d.frontOf ctx
    let d := d.modSession ctx fun s => { s with state := .moving, target := target, offered := e }
    let d := d.modCmd r fun k =>
      { k with remote := k.remote ++ [{ tag := offerTag, home := target, sa := 0, len := 0, isWrite := false, since := d.now, index := 0, fetch := none, bytes := [] }] }
    (d.sendLedger d.coll.master 1 dom c d.coll.geoId target front e).sendLedger target 1 dom c d.coll.geoId target front e
  | none => d

/-- A child made for another member's context goes there: its table follows its intake and codebook (R158). -/
def Dev.handOver (d : Dev) (r : SlotRef) : Dev :=
  match (d.cmd? r).bind (·.staged), d.session? r.ctx with
  | some (_, base), some s =>
    if (d.cmd? r).any hasFailed then d else d.stepWrite r none { sa := base, bytes := d.imageBytes s base [] }
  | _, _ => d

end Sys2Proof.Machine
end

