-- ==== Sys2Proof/Machine/Trans.lean ====
section
/-! DEFINITION. Exponential, logarithm and hyperbolic tangent: exact values to about 2^−80 in integers, and results that
are free within the bounds the spec states (R141, R186, R191; log 7). -/

namespace Sys2Proof.Machine

/-- A real number approximated as n × 2^e. -/
abbrev Ap := Int × Int

/-- One in the fixed point of 96 fractional bits. -/
def fixOne : Int := 2 ^ 96

/-- ln 2 in that fixed point. -/
def fixLn2 : Int := 54916777467707473351141471128

/-- A real number in the fixed point, rounded down. -/
def Ap.fix (a : Ap) : Int :=
  if -96 ≤ a.2 then a.1 * 2 ^ (a.2 + 96).toNat else a.1 / 2 ^ (-96 - a.2).toNat

/-- The Taylor sum of exp for an argument of magnitude below 1: `n` terms by Horner's rule. -/
def expTaylor (r : Int) : Nat → Nat → Int → Int
  | 0, _, acc => acc
  | n + 1, i, acc => expTaylor r n (i - 1) (fixOne + r * acc / (i * fixOne))

/-- exp of a fixed-point number; beyond ±1000 a value that overflows or vanishes. -/
def expFix (x : Int) : Ap :=
  if 1000 * fixOne < x then (1, 2000)
  else if x < -1000 * fixOne then (0, 0)
  else
    let k := x / fixLn2
    (expTaylor (x - k * fixLn2) 32 32 fixOne, k - 96)

/-- The series of 2 atanh: `n` odd powers. -/
def atanhSum (z2 : Int) : Nat → Nat → Int → Int → Int
  | 0, _, _, acc => acc
  | n + 1, i, p, acc => atanhSum z2 n (i + 2) (p * z2 / fixOne) (acc + 2 * p / i)

/-- ln of m × 2^e for m > 0, in the fixed point. -/
def lnFix (m : Nat) (e : Int) : Int :=
  let l := Nat.log2 m
  let x : Int := m * 2 ^ 96 / 2 ^ l
  let z := (x - fixOne) * fixOne / (x + fixOne)
  (e + l) * fixLn2 + atanhSum (z * z / fixOne) 32 1 z 0

/-- c × tanh(x / c) for a positive c = mc × 2^ec (R181's cap). -/
def capAp (x : Ap) (mc : Nat) (ec : Int) : Ap :=
  let neg := decide (x.1 < 0)
  let q : Ap := ((x.1.natAbs * 2 ^ 160 / mc : Nat), x.2 - ec - 160)
  let small := q.fix < 2 ^ 80
  let t : Ap :=
    if small then (q.1 * (3 * fixOne - q.fix * q.fix / fixOne), q.2 - 96)
    else
      let u := (expFix (-2 * q.fix)).fix
      (3 * ((fixOne - u) * fixOne / (fixOne + u)), -96)
  ((if neg then -1 else 1) * (t.1 * mc / 3), t.2 + ec)

/-- A finite FP32 pattern as n × 2^e. -/
def apOf (v : W32) : Option Ap :=
  match f32 v with
  | .fin neg m e => some (signed neg m, e)
  | _ => none

/-- Whether an FP32 pattern lies within a relative error of 2^−k of a real number, of which `a` is an approximation to 2^-50. -/
def near (v : W32) (a : Ap) (k : Nat) : Bool :=
  match apOf v with
  | some b =>
    let t := min b.2 a.2
    let x := b.1 * 2 ^ (b.2 - t).toNat
    let y := a.1 * 2 ^ (a.2 - t).toNat
    decide ((x - y).natAbs * 2 ^ (k + 20) ≤ y.natAbs * (2 ^ 20 - 1))
  | none => false

/-- The FP32 pattern nearest to a real number. -/
def Ap.to32 (a : Ap) : W32 := (Fp.ofInt a.1 a.2 false).to32

/-- A result the spec bounds by a relative error of 2^−k: free within the bound, a function of the key (R142, log 7). -/
def freeNear (key : List Nat) (a : Ap) (k : Nat) : W32 :=
  let v := Config.freeF32 key
  if near v a k then v else a.to32

/-- A number a little above a real number whose approximation is `a`: by the share 2^-40 of it. -/
def Ap.above (a : Ap) : Ap := (a.1 * 2 ^ 40 + a.1.natAbs, a.2 - 40)

/-- A result that the controller rounds upward (R191): not below the real number, and above it by no more than a relative error of
2^−22 lets it be; free between the two (log 7). -/
def freeUp (key : List Nat) (a : Ap) : W32 :=
  let v := Config.freeF32 key
  let low := (Fp.ofInt a.above.1 a.above.2 false).up32
  if near v a 22 && !flt v low then v else low

/-- exp of a difference of two FP32 values, relative error at most 2^−22 (R141). -/
def fexpDiff (key : List Nat) (s m : W32) : W32 :=
  match (f32 s).add (f32 m).neg with
  | .nan => fnan
  | .inf neg => if neg then fzero else 0x7F80_0000
  | .fin neg n e => freeNear (key ++ [s.toNat, m.toNat]) (expFix (Ap.fix (signed neg n, e))) 22

/-- ln of an FP32 value. The spec states no bound for it: DESIGN CHOICE (log 7), a relative error of at most 2^−22, as R141 has it for
the exponential, and free within that. -/
def fln (key : List Nat) (x : W32) : W32 :=
  match f32 x with
  | .nan => fnan
  | .inf neg => if neg then fnan else 0x7F80_0000
  | .fin neg m e => if m = 0 then 0xFF80_0000 else if neg then fnan else freeNear (key ++ [x.toNat]) (lnFix m e, -96) 22

/-- Scale and cap as one operation with error at most u × |result| (R186): `dot × k` without a cap; `c` of 0 is none. -/
def scaleCap (key : List Nat) (c k dot : W32) : W32 :=
  match f32 c with
  | .fin _ mc ec =>
    if mc = 0 then fmul dot k
    else
      match (f32 dot).mul (f32 k) with
      | .nan => fnan
      | .inf neg => if neg then fneg c else c
      | .fin neg m e => if m = 0 then (Fp.fin neg 0 0).to32 else freeNear (key ++ [dot.toNat, k.toNat]) (capAp (signed neg m, e) mc ec) 24
  | _ => fnan

/-! ### Upward rounding (R191) -/

/-- FP32 sum and product, rounded upward. -/
def faddUp (a b : W32) : W32 := ((f32 a).add (f32 b)).up32
def fmulUp (a b : W32) : W32 := ((f32 a).mul (f32 b)).up32

/-- FP32 square root, rounded upward: the root to nearest, or the pattern above it. -/
def fsqrtUp (a : W32) : W32 :=
  let y := fsqrt a
  match (f32 y).mul (f32 y) with
  | .fin n m e => if (Fp.fin n m e).lt (f32 a) then y + 1 else y
  | _ => y

/-- A sum rounded upward at each addition, in the free order of the key (R142, R191). -/
def sumUpFuel (key : List Nat) : Nat → List W32 → W32
  | _, [] => 0
  | 0, x :: _ => x
  | _ + 1, [x] => x
  | fuel + 1, x :: y :: ts =>
    let xs := x :: y :: ts
    let i := Config.sumPick key (2 * xs.length) % xs.length
    let rest := xs.eraseIdx i
    let j := Config.sumPick key (2 * xs.length + 1) % rest.length
    sumUpFuel key fuel (faddUp (at! xs i x) (at! rest j y) :: rest.eraseIdx j)

/-- The norm of a vector rounded upward (R191). -/
def normUp (key : List Nat) (xs : List W32) : W32 :=
  fsqrtUp (sumUpFuel (key ++ xs.map BitVec.toNat) xs.length (xs.map fun x => fmulUp x x))

/-- The cap of R181 rounded upward: an infinite argument gives c (R191). -/
def capUp (key : List Nat) (c x : W32) : W32 :=
  match f32 c, f32 x with
  | .fin _ mc ec, .fin neg m e => if mc = 0 || m = 0 then x else freeUp (key ++ [c.toNat, x.toNat]) (capAp (signed neg m, e) mc ec)
  | .fin _ mc _, .inf neg => if mc = 0 then x else if neg then fneg c else c
  | _, _ => fnan

/-- The exponential of a value over a maximum, rounded upward (R191). -/
def fexpUp (key : List Nat) (s m : W32) : W32 :=
  match (f32 s).add (f32 m).neg with
  | .nan => fnan
  | .inf neg => if neg then fzero else 0x7F80_0000
  | .fin neg n e => if n = 0 then fone else freeUp (key ++ [s.toNat, m.toNat]) (expFix (Ap.fix (signed neg n, e)))

end Sys2Proof.Machine
end

