-- ==== Sys2Proof/Machine/AttendOps.lean ====
section
/-! DEFINITION. What the steps of SELECT_ATTEND do: selection, exact attention, skipped mass, records, and the stages that follow one
another (R178 to R200). -/

namespace Sys2Proof.Machine

/-! ### Operands -/

/-- What a SELECT_ATTEND asks for, its defaults resolved (R175, R183). -/
structure Ask where
  layer : Nat
  q : Nat
  fmt : Nat
  p0 : Nat
  topK : Nat
  sink : Nat
  recent : Nat
  keep : Nat
  h0 : Nat
  hc : Nat
  window : Nat
  scale : W32
  cap : W32
  query : Nat
  out : Nat
  sel : Nat
  flashSkip : Bool
  exact : Bool
  host : Bool
  stride : Nat

/-- 1/√d rounded to nearest (R175): the exact value to 200 bits, rounded once. -/
def rsqrtDim (dim : Nat) : W32 := (Fp.fin false (2 * isqrt (2 ^ 400 / dim) + 1) (-201)).to32

/-- The operands of a SELECT_ATTEND on a session. -/
def Cmd.ask (k : Cmd) (s : Session) : Ask :=
  let o := cmdOps k
  let flags := lineFlags k.line
  let mult := fieldAt o 12 1
  let sc := BitVec.ofNat 32 (fieldAt o 20 4)
  let (h0, hc) := selectHeads o s.heads
  { layer := fieldAt o 0 2, q := fieldAt o 2 1, fmt := fieldAt o 3 1, p0 := fieldAt o 4 4, topK := fieldAt o 8 2
    sink := fieldAt o 10 1, recent := fieldAt o 11 1, keep := (if mult = 0 then 4 else mult) * fieldAt o 8 2, h0 := h0, hc := hc
    window := fieldAt o 16 4, scale := if sc = 0 then rsqrtDim s.dim else sc
    cap := BitVec.ofNat 32 (fieldAt o 24 4), query := fieldAt o 32 8, out := fieldAt o 40 8
    sel := if lineExt k.line then fieldAt k.desc 48 8 else 0, flashSkip := bit flags 0, exact := bit flags 1, host := bit flags 2
    stride := selectStride flags o }

/-- Selection mode: neither EXACT nor a window (R180). -/
def Ask.selects (a : Ask) : Bool := !a.exact && a.window == 0

/-- The block that holds the first query, and the one that holds the last. -/
def Ask.blk0 (a : Ask) : Nat := a.p0 / 64
def Ask.blkLast (a : Ask) : Nat := (a.p0 + a.q - 1) / 64

/-! ### What a head attends (R180, R181) -/

/-- A query row of one KV head: token, member and BF16 vector (R178). -/
structure QRow where
  j : Nat
  g : Nat
  v : List W32

/-- A block of a layer as attention reads it for one KV head: keys and values as stored, and their scales (R186). -/
structure Kv where
  index : Nat
  keys : List (List W32)
  vals : List (List W32)
  kScale : W32
  vScale : W32

/-- Block `b` of a layer for head `h`: its frame once frame and summary are complete, else intake rows (R154, R181). -/
def Dev.kv (d : Dev) (k : Cmd) (s : Session) (l h b : Nat) : Kv :=
  match d.blockAt s l b with
  | some x =>
    { index := b, keys := d.rawHead k x h false, vals := d.rawHead k x h true, kScale := d.headScaleOf k x h false, vScale := d.headScaleOf k x h true }
  | none =>
    let ps := (List.range 64).map (64 * b + ·) |>.filter fun p => decide (p < (s.layer l).n)
    let row (v : Bool) (p : Nat) : List W32 := (words16 (d.loadSpan k (s.rowPart l p h v))).map ofBf16
    { index := b, keys := ps.map (row false), vals := ps.map (row true), kScale := fone, vScale := fone }

/-- What the score or the value step of a block reads for one head (R196). -/
def Dev.kvSpans (d : Dev) (s : Session) (l h b : Nat) (v : Bool) : List Span :=
  match d.blockAt s l b with
  | some x => [x.part h v, x.scaleSpan h v]
  | none => ((List.range 64).filter fun t => decide (64 * b + t < (s.layer l).n)).map fun t => s.rowPart l (64 * b + t) h v

/-- The candidates of selection mode: framed blocks from `sink` below blk0 − recent (R181). -/
def Ask.candidates (a : Ask) (framed : Nat) : List Nat :=
  if a.selects then (List.range (min framed (a.blk0 - a.recent))).filter fun b => decide (a.sink ≤ b) else []

/-- The blocks attended whatever the selection (R180, R181). -/
def Ask.always (a : Ask) (framed : Nat) : List Nat :=
  (List.range (a.blkLast + 1)).filter fun b =>
    a.exact || decide (b < a.sink) ||
      (if a.window != 0 then decide (a.p0 + 1 ≤ 64 * b + 63 + a.window) else decide (a.blk0 ≤ b + a.recent) || decide (framed ≤ b))

/-- Whether query token `j` attends position `p` of an attended block (R180). -/
def Ask.attends (a : Ask) (j p : Nat) : Bool :=
  decide (p ≤ a.p0 + j) && (a.window == 0 || decide (a.p0 + j < p + a.window) || decide (p / 64 < a.sink))

/-! ### Scoring and selection (R182 to R184) -/

/-- The maximum of values over rows; NaN if any is NaN. -/
def maxKey (xs : List W32) : W32 :=
  match xs with
  | [] => fnan
  | y :: ys => ys.foldl fmax y

/-- ln of a sum of exponentials, over their maximum. -/
def logSumExp (key : List Nat) (xs : List W32) : W32 :=
  let m := maxKey xs
  if isNan m || isInf m then m
  else fadd m (fln key (fsum key (xs.map fun x => fexpDiff key x m)))

/-- Greatest key first, ties to the lower index, NaN below every number (R183). -/
def rankBefore (a b : Nat × W32) : Bool :=
  if isNan a.2 then isNan b.2 && decide (a.1 < b.1)
  else isNan b.2 || flt b.2 a.2 || (!flt a.2 b.2 && decide (a.1 < b.1))

/-- The `n` best of scored blocks. -/
def best (n : Nat) (xs : List (Nat × W32)) : List Nat := ((sortOrd rankBefore xs).take n).map (·.1)

/-- A block's mean key for one head (R151). -/
def Dev.meanKey (d : Dev) (k : Cmd) (b : Block) (h : Nat) : List W32 := ((words16 (d.loadSpan k (b.meanSpan h))).take b.dim).map ofBf16

/-- The coarse score of a block for a row (R182). -/
def Dev.coarse (d : Dev) (k : Cmd) (key : List Nat) (s : Session) (a : Ask) (h b : Nat) (r : QRow) : W32 :=
  match d.blockAt s a.layer b with
  | some x => scaleCap (key ++ [1, b, r.j, r.g]) a.cap a.scale (dot key false false r.v (d.meanKey k x h))
  | none => fnan

/-- The fine score of a block for a row (R182), with the head's centroids. -/
def Dev.fine (d : Dev) (k : Cmd) (key : List Nat) (s : Session) (a : Ask) (cents : List (List (List W32))) (h b : Nat) (r : QRow) : W32 :=
  match d.blockAt s a.layer b with
  | some x =>
    let bs := d.loadSpan k (x.codeSpan h 0 64)
    let table (j c : Nat) : W32 := dot key false false ((r.v.drop (8 * j)).take 8) (at! (at! cents j []) c [])
    let pq (t : Nat) : W32 := fsum key ((List.range (x.dim / 8)).map fun j => table j (packedElem bs 4 (t * (x.dim / 8) + j)))
    logSumExp (key ++ [2, b, r.j, r.g]) ((List.range 64).map fun t => scaleCap (key ++ [3, b, t, r.j, r.g]) a.cap a.scale (pq t))
  | none => fnan

/-- Whether the coarse and the fine stage run for a number of candidates (R183). -/
def Ask.coarseRuns (a : Ask) (cands : Nat) : Bool := decide (a.topK < cands)
def Ask.fineRuns (a : Ask) (cands : Nat) : Bool := decide (a.topK < cands) && a.topK != 0

/-- The candidates that the coarse stage keeps (R182, R183). -/
def Dev.keptOf (d : Dev) (k : Cmd) (key : List Nat) (s : Session) (a : Ask) (h : Nat) (rows : List QRow) : List Nat :=
  let cands := a.candidates (s.layer a.layer).blocks.length
  if !a.coarseRuns cands.length || cands.length ≤ a.keep then cands
  else best a.keep (cands.map fun b => (b, maxKey (rows.map (d.coarse k key s a h b))))

/-- The codebook of a head. -/
def Dev.centroidsOf (d : Dev) (k : Cmd) (s : Session) (a : Ask) (h : Nat) : List (List (List W32)) := centroids s.dim (d.loadSpan k (s.codebookPart a.layer h))

/-- The candidates chosen of those kept (R182, R183). -/
def Dev.chosenOf (d : Dev) (k : Cmd) (key : List Nat) (s : Session) (a : Ask) (h : Nat) (rows : List QRow) (kept : List Nat) : List Nat :=
  let cands := a.candidates (s.layer a.layer).blocks.length
  if !a.coarseRuns cands.length then cands
  else if a.topK = 0 then []
  else
    let cents := d.centroidsOf k s a h
    best a.topK (kept.map fun b => (b, maxKey (rows.map (d.fine k key s a cents h b))))

/-! ### Exact attention of one row (R185 to R187) -/

/-- The partial state of a row, and whether its inputs hold a NaN. -/
structure Partial where
  m : W32
  l : W32
  o : List W32
  tokens : Nat
  nonfinite : Bool
  nanIn : Bool

/-- Exact attention of one row over blocks in ascending order (R185 to R187). -/
def attendRow (key : List Nat) (a : Ask) (dim : Nat) (r : QRow) (kvs : List Kv) : Partial :=
  let per := kvs.map fun b =>
    let ts := (List.range b.keys.length).filter fun t => a.attends r.j (64 * b.index + t)
    let ss := ts.map fun t =>
      scaleCap (key ++ [5, b.index, t, r.j, r.g]) a.cap (fmul b.kScale a.scale) (dot key false false r.v (at! b.keys t []))
    (b, ts, ss)
  let scores := per.flatMap fun x => x.2.2
  let m := maxKey scores
  let blocks := per.map fun x =>
    let ps := x.2.2.map fun s => fexpDiff (key ++ [6, x.1.index, r.j, r.g]) s m
    let o := (List.range dim).map fun i => fmul x.1.vScale (dot key true false ps (x.2.1.map fun t => at! (at! x.1.vals t []) i fzero))
    (ps, fsum key ps, o)
  let vals := per.flatMap fun x => x.2.1.flatMap fun t => at! x.1.vals t []
  let inputs := r.v ++ (per.flatMap fun x => x.2.1.flatMap fun t => at! x.1.keys t []) ++ vals
  let bad (w : W32) : Bool := isNan w || isInf w
  { m := m, l := treeSum (blocks.map fun x => x.2.1), o := (List.range dim).map fun i => treeSum (blocks.map fun x => at! x.2.2 i fzero)
    tokens := scores.length, nonfinite := scores.any bad || (blocks.any fun x => x.1.any bad) || vals.any bad, nanIn := inputs.any isNan }

/-! ### Skipped mass (R190, R191) -/

/-- skip_est of a row over the skipped blocks, the candidates kept having fine scores where that stage ran (R190). -/
def Dev.skipEst (d : Dev) (k : Cmd) (key : List Nat) (s : Session) (a : Ask) (x : AttendHead) (r : QRow) (skipped : List Nat) : W32 :=
  if skipped.isEmpty then 0xFF80_0000
  else
    let cands := (a.candidates (s.layer a.layer).blocks.length).length
    let cents := d.centroidsOf k s a x.head
    let est (b : Nat) : W32 :=
      if a.fineRuns cands && x.kept.contains b then d.fine k key s a cents x.head b r
      else fadd (fln (key ++ [7]) (fofNat 64)) (d.coarse k key s a x.head b r)
    logSumExp (key ++ [8, r.j, r.g]) (skipped.map est)

/-- A block's greatest key norm for one head (R152). -/
def Dev.normMax (d : Dev) (k : Cmd) (b : Block) (h : Nat) : W32 := BitVec.ofNat 32 (fieldAt (d.loadSpan k (b.meanSpan h)) (2 * b.dim + 4) 4)

/-- skip_bound of a row (R191): the norm, every product, every exponential, the sum and its logarithm rounded upward. -/
def Dev.skipBound (d : Dev) (k : Cmd) (key : List Nat) (s : Session) (a : Ask) (h : Nat) (r : QRow) (skipped : List Nat) : W32 :=
  if skipped.isEmpty then 0xFF80_0000
  else
    let q := normUp (key ++ [9]) r.v
    let xs := skipped.map fun b =>
      match d.blockAt s a.layer b with
      | some x => capUp (key ++ [10, b, r.j, r.g]) a.cap (fmulUp (fmulUp a.scale q) (d.normMax k x h))
      | none => fnan
    let m := maxKey xs
    if isNan m || isInf m then m
    else
      let sum := sumUpFuel (key ++ [11, r.j, r.g]) xs.length (xs.map fun x => fmulUp (fofNat 64) (fexpUp (key ++ [12]) x m))
      match f32 sum with
      | .fin _ n e => faddUp m (freeUp (key ++ [13, sum.toNat]) (lnFix n e, -96))
      | _ => sum

/-- Whether what skip_est and skip_bound of a row are made of holds a NaN. -/
def Dev.skipNanIn (d : Dev) (k : Cmd) (s : Session) (a : Ask) (x : AttendHead) (r : QRow) (skipped : List Nat) : Bool :=
  r.v.any isNan || skipped.any fun b => (d.blockAt s a.layer b).any fun y =>
    (d.meanKey k y x.head).any isNan || isNan (d.normMax k y x.head) || (x.kept.contains b && (d.centroidsOf k s a x.head).any fun c => c.any fun v => v.any isNan)

/-! ### Records -/

/-- The record of a row (R188). -/
def rowRecord (p : Partial) (est bound : W32) (blocks notChosen flash pos head : Nat) : List Byte :=
  natLe p.m.toNat 4 ++ natLe p.l.toNat 4 ++ natLe est.toNat 4 ++ natLe bound.toNat 4 ++ natLe p.tokens 4 ++ natLe blocks 4 ++
    natLe notChosen 4 ++ natLe flash 4 ++ natLe (b2n p.nonfinite + 2 * b2n (flash != 0)) 1 ++ List.replicate 3 0 ++
    natLe pos 4 ++ natLe head 2 ++ List.replicate 22 0 ++ p.o.flatMap fun x => natLe x.toNat 4

/-- The blocks a head attends, in ascending order. -/
def Ask.attended (a : Ask) (framed : Nat) (x : AttendHead) : List Nat :=
  sortOrd (fun x y => decide (x < y)) ((a.always framed ++ x.chosen.filter fun b => !x.flash.contains b).eraseDups)

/-- The candidates a head did not choose. -/
def Ask.notChosen (a : Ask) (framed : Nat) (x : AttendHead) : List Nat := (a.candidates framed).filter fun b => !x.chosen.contains b

/-- A selection region of one head (R200). -/
def Ask.region (a : Ask) (framed : Nat) (x : AttendHead) : List Byte :=
  let at_ := a.attended framed x
  let b := natLe at_.length 4 ++ natLe (a.candidates framed).length 4 ++ natLe x.flash.length 4 ++ List.replicate 52 0 ++ at_.flatMap fun i => natLe i 4
  (b ++ List.replicate (a.stride - b.length) 0).take a.stride

/-- The spans of the query row of a token, head and member. -/
def Cmd.querySpans (k : Cmd) (dom : Nat) (s : Session) (a : Ask) (j h g : Nat) : List Span :=
  let size := s.dim * (elemBits a.fmt / 8)
  k.spans dom (a.query + ((j * a.hc + (h - a.h0)) * s.group + g) * size) size

/-- The pairs of token and member of a KV head's rows, in the order of R178. -/
def Ask.pairs (a : Ask) (s : Session) : List (Nat × Nat) := (List.range a.q).flatMap fun j => (List.range s.group).map fun g => (j, g)

/-- The query rows of a head, converted (R178), and the events of the conversion. -/
def Dev.queryRows (d : Dev) (k : Cmd) (dom : Nat) (s : Session) (a : Ask) (h : Nat) : List QRow × NumEvents :=
  let rows := (a.pairs s).map fun p =>
    let conv := (decodeVec a.fmt s.dim (d.loadAll k (k.querySpans dom s a p.1 h p.2))).map toBf16
    ((⟨p.1, p.2, conv.map fun x => ofBf16 x.1⟩ : QRow), conv.foldl (fun (e : NumEvents) x => e.plus x.2) NumEvents.none)
  (rows.map Prod.fst, rows.foldl (fun (e : NumEvents) x => e.plus x.2) NumEvents.none)

/-- The records of one head by their place in the output area, and their NaN that come of no NaN (R144, R189). -/
def Dev.headRecords (d : Dev) (k : Cmd) (dom : Nat) (key : List Nat) (s : Session) (a : Ask) (x : AttendHead) : List (Nat × List Byte) × NumEvents :=
  let framed := (s.layer a.layer).blocks.length
  let key := key ++ [x.head]
  let at_ := a.attended framed x
  let not := a.notChosen framed x
  let skipped := sortOrd (fun x y => decide (x < y)) (not ++ x.flash)
  let kvs := at_.map (d.kv k s a.layer x.head)
  let each := (d.queryRows k dom s a x.head).1.map fun r =>
    let p := attendRow key a s.dim r kvs
    let est := d.skipEst k key s a x r skipped
    let bound := d.skipBound k key s a x.head r skipped
    let made := (if p.nanIn then [] else (p.m :: p.l :: p.o)) ++ if d.skipNanIn k s a x r skipped then [] else [est, bound]
    (((r.j * a.hc + (x.head - a.h0)) * s.group + r.g, rowRecord p est bound at_.length not.length x.flash.length (a.p0 + r.j) (x.head * s.group + r.g)),
      (⟨0, (made.filter isNan).length⟩ : NumEvents))
  (each.map Prod.fst, each.foldl (fun (e : NumEvents) y => e.plus y.2) NumEvents.none)

/-! ### Stages (R196) -/

/-- A gallery's step that reads. -/
def attendStep (reads : List Span) : Step := { Step.nop with kind := .gallery, free := true, reads := reads }

/-- Row chunks packed in order into query-load steps of at most 64 KiB, a head's codebook slice with its chunks. -/
def packLoads (rowBytes sliceBytes : Nat) (xs : List (Nat × List (Nat × Nat))) : List (List (Nat × List (Nat × Nat))) :=
  let size (g : List (Nat × List (Nat × Nat))) : Nat := (g.map fun c => c.2.length * rowBytes).foldl (· + ·) 0 + (g.map Prod.fst).eraseDups.length * sliceBytes
  xs.foldl (fun (acc : List (List (Nat × List (Nat × Nat)))) c =>
    match acc.getLast? with
    | some g => if size (g ++ [c]) ≤ 65536 then acc.dropLast ++ [g ++ [c]] else acc ++ [[c]]
    | none => [[c]]) []

/-- The steps of a stage: 0 query load, 1 coarse, 2 coarse selection, 3 fine, 4 final selection, 5 score, 6 row maximum exchange, 7 value,
8 merge. -/
def Dev.attendSteps (d : Dev) (k : Cmd) (dom : Nat) (s : Session) (a : Ask) (run : AttendRun) (stage : Nat) : List Step :=
  let framed := (s.layer a.layer).blocks.length
  let cands := a.candidates framed
  let n := cands.length
  let cuts := ceilDiv (a.q * s.group) 16
  let part (f : Block → Span) (b : Nat) : List Span := (d.blockAt s a.layer b).elim [] fun x => [f x]
  let look (rd : List Span) : List Step := List.replicate cuts (attendStep rd)
  match stage with
  | 0 =>
    let chunk := run.heads.flatMap fun x => (chunks 16 (a.pairs s)).map fun c => (x.head, c)
    (packLoads (s.dim * (elemBits a.fmt / 8)) (32 * s.dim) chunk).map fun g =>
      attendStep ((g.flatMap fun c => c.2.flatMap fun p => k.querySpans dom s a p.1 c.1 p.2) ++ (g.map Prod.fst).eraseDups.map fun h => s.codebookPart a.layer h)
  | 1 => if a.coarseRuns n then run.heads.flatMap fun x => (chunks 64 cands).flatMap fun bs => look (bs.flatMap (part fun y => y.meanSpan x.head)) else []
  | 2 => if a.coarseRuns n && decide (a.keep < n) && a.topK != 0 then run.heads.map fun _ => attendStep [] else []
  | 3 => if a.fineRuns n then run.heads.flatMap fun x => (chunks 32 x.kept).flatMap fun bs => look (bs.flatMap (part fun y => y.codeSpan x.head 0 64)) else []
  | 4 => if a.fineRuns n then run.heads.map fun _ => attendStep [] else []
  | 5 => run.heads.flatMap fun x => (a.attended framed x).flatMap fun b => look (d.kvSpans s a.layer x.head b false)
  | 6 => [attendStep []]
  | 7 => run.heads.flatMap fun x => (a.attended framed x).flatMap fun b => look (d.kvSpans s a.layer x.head b true)
  | _ => run.heads.flatMap fun x => let m := ceilDiv (a.attended framed x).length 256; List.replicate (m + if m < 2 then 0 else 1) (attendStep [])

/-- The next stage that has steps: its last step waits for the others and ends it. -/
def Dev.nextStage (d : Dev) (k : Cmd) (dom : Nat) (s : Session) (a : Ask) (run : AttendRun) (from_ : Nat) : List Step :=
  ((List.range 9).filter (from_ ≤ ·)).findSome? (fun n =>
    match (d.attendSteps k dom s a run n).reverse with
    | [] => none
    | x :: xs => some (xs.reverse ++ [{ x with free := false, effects := [.attendStage n] }])) |>.getD []

/-- The steps that follow the last merge: records and selection regions leave in pieces of 64 KiB, and the last of them adds the words. -/
def Cmd.attendWrites (k : Cmd) (dom : Nat) (a : Ask) (out regions : List Byte) : List Step :=
  let one (addr : Nat) (bs : List Byte) : List Step := (pieces bs.length 65536).map fun p =>
    let b := slice bs p.1 p.2
    let st := { Step.nop with extra := true }
    if a.host then { st with host := [{ addr := addr + p.1, bytes := b }] } else { st with writes := spread (k.spans dom (addr + p.1) p.2) b }
  one a.out out ++ (if a.sel = 0 then [] else one a.sel regions) ++ [{ Step.nop with extra := true, effects := [.attendStage 9] }]

/-- The first position of a block, read so far, whose data for a head are poisoned (R193). -/
def Dev.attendLost (d : Dev) (k : Cmd) (s : Session) (a : Ask) (run : AttendRun) (stage : Nat) : Option Nat :=
  let framed := (s.layer a.layer).blocks.length
  let bad (bs : List Nat) (f : Nat → List Span) : List Nat := bs.filter fun b => d.badSpans k (f b)
  let part (f : Block → Span) (b : Nat) : List Span := (d.blockAt s a.layer b).elim [] fun x => [f x]
  let hit := run.heads.flatMap fun x =>
    match stage with
    | 0 => if d.badSpan k (s.codebookPart a.layer x.head) then [0] else []
    | 1 => bad (a.candidates framed) (part fun y => y.meanSpan x.head)
    | 3 => bad x.kept (part fun y => y.codeSpan x.head 0 64)
    | 5 => bad (a.attended framed x) fun b => d.kvSpans s a.layer x.head b false
    | 7 => bad (a.attended framed x) fun b => d.kvSpans s a.layer x.head b true
    | _ => []
  match hit with
  | [] => none
  | b :: bs => some (64 * bs.foldl min b)

/-- A stage of a SELECT_ATTEND ends (R196): what it found is kept and the next one's steps follow. A poisoned query ends the command with
POISONED, lost positions with DATA_LOST (R193); a command that fails writes no record and adds no words (R188, R199). -/
def Dev.attendStage (d : Dev) (r : SlotRef) (stage : Nat) : Dev :=
  match d.cmd? r, d.session? r.ctx with
  | some k, some s =>
    match k.attend with
    | none => d
    | some run =>
      let dom := d.domainOf r
      let a := k.ask s
      let framed := (s.layer a.layer).blocks.length
      if hasFailed k then d
      else if stage = 9 then
        let total (f : AttendHead → Nat) : Nat := (run.heads.map f).foldl (· + ·) 0
        let n := total fun x => (a.attended framed x).length
        let flash := total fun x => x.flash.length
        let d := (d.countPage dom 0xA0 n).countPage dom 0xA8 flash
        let d := if flash = 0 then d else d.raise r .okDegraded
        d.modCmd r fun k => { k with w0 := BitVec.ofNat 64 n, w1 := BitVec.ofNat 64 (total fun x => (a.notChosen framed x).length), w2 := BitVec.ofNat 64 flash }
      else if stage = 0 && run.heads.any fun x => (a.pairs s).any fun p => d.badSpans k (k.querySpans dom s a p.1 x.head p.2) then d.raise r .poisoned
      else
        match d.attendLost k s a run stage with
        | some first => d.loseSession r.ctx first
        | none =>
          let rows (h : Nat) : List QRow := (d.queryRows k dom s a h).1
          let d := if stage = 0 then d.countEvents dom (run.heads.foldl (fun (e : NumEvents) x => e.plus (d.queryRows k dom s a x.head).2) NumEvents.none) else d
          -- a stage that does not run ends with the one before it
          let ends (n : Nat) : Bool := decide (stage ≤ n) && ((List.range (n + 1)).filter (stage + 1 ≤ ·)).all fun m => (d.attendSteps k dom s a run m).isEmpty
          let keep (x : AttendHead) : AttendHead := if ends 2 then { x with kept := d.keptOf k (run.key ++ [x.head]) s a x.head (rows x.head) } else x
          let run := { run with heads := run.heads.map keep }
          let ends4 : Bool := ends 2 && !(a.fineRuns (a.candidates framed).length) || stage = 4
          let onlyFlash (b : Nat) : Bool := (d.blockAt s a.layer b).any fun x => (granulesOf x.frame).any fun g => (d.granule? g).any (·.residency == .flash)
          let choose (x : AttendHead) : AttendHead :=
            if ends4 then
              let ch := d.chosenOf k (run.key ++ [x.head]) s a x.head (rows x.head) x.kept
              { x with chosen := ch, flash := if a.flashSkip then ch.filter onlyFlash else [] }
            else x
          let run := { run with heads := run.heads.map choose }
          let d := d.modCmd r fun k => { k with attend := some run }
          if stage = 8 then
            let recs := run.heads.map (d.headRecords k dom run.key s a)
            let out := (sortOrd (fun (x y : Nat × List Byte) => decide (x.1 < y.1)) (recs.flatMap Prod.fst)).flatMap Prod.snd
            let ev := recs.foldl (fun (e : NumEvents) x => e.plus x.2) NumEvents.none
            let steps := k.attendWrites dom a out (run.heads.flatMap (a.region framed))
            (d.countEvents dom ev).modCmd r fun k => { k with plan := k.plan ++ steps }
          else
            let next := d.nextStage k dom s a run (stage + 1)
            d.modCmd r fun k => { k with plan := k.plan ++ next }
  | _, _ => d

end Sys2Proof.Machine
end

