-- ==== Sys2Proof/Machine/CheckOps.lean ====
section
/-! DEFINITION. What the steps of SCAN_CHECK and CHECK_LOAD do when they retire (R392 to R396). -/

namespace Sys2Proof.Machine

/-- The greatest byte count of a running value (R391). -/
def runningMax : Nat := 2 ^ 48 - 1

/-- A running value of a context. -/
def Context.value (c : Context) (n : Nat) : RunningValue := at! c.running n { poly := 0, reg := 0, count := 0 }

/-- A running value of a context is set. -/
def Dev.setRunning (d : Dev) (ctx n : Nat) (v : RunningValue) : Dev := d.modCtx ctx fun x => { x with running := x.running.set n v }

/-- Bytes written at a CVA through a command's captures. -/
def Cmd.writesAt (k : Cmd) (dom cva : Nat) (bs : List Byte) : List MemWrite := spread (k.spans dom cva bs.length) bs

/-- The seed of a block that starts `off` bytes into the range (R392). -/
def scanSeed (p : CrcPoly) (l : List Byte) (off : Nat) : Nat :=
  if fieldAt l 34 1 = 1 then foldedSeed p ((fieldAt l 56 8 + off) % 2 ^ 64) (fieldAt l 40 4) else p.init

/-- The range of a SCAN_CHECK. -/
def Cmd.scanRange (k : Cmd) (dom : Nat) : List Span := k.spans dom (fieldAt k.line 16 8) (fieldAt k.line 24 8)

/-- The last step of SCAN_CHECK RUNNING (R393, R396): the running value and the words, where the command ends with OK; a poisoned
sector leaves the value, and the words stay zero. -/
def Dev.scanRunning (d : Dev) (r : SlotRef) : Dev :=
  match d.ctx? r.ctx, d.cmd? r with
  | some c, some k =>
    let ss := k.scanRange c.domain
    let n := fieldAt k.line 35 1
    let old := c.value n
    let cont := fieldAt k.line 34 1 == 2
    match crcPoly (fieldAt k.line 32 1) with
    | none => d
    | some p =>
      if d.badSpans k ss then d.raise r .poisoned
      else if hasFailed k then d
      else
        let reg := crcBytes p (if cont then old.reg.toNat else crcStart p (scanSeed p k.line 0)) (d.loadAll k ss)
        let count := min runningMax ((if cont then old.count else 0) + fieldAt k.line 24 8)
        (d.setRunning c.num n { poly := fieldAt k.line 32 1, reg := BitVec.ofNat 64 reg, count := count }).modCmd r fun k =>
          { k with w0 := BitVec.ofNat 64 (crcFinish p reg), w1 := BitVec.ofNat 64 count }
  | _, _ => d

/-- The spans of block `i` of a SCAN_CHECK, and of its slot in the check array (R392). -/
def Cmd.scanBlock (k : Cmd) (dom i : Nat) : List Span × List Span :=
  let blk := fieldAt k.line 36 4
  (k.spans dom (fieldAt k.line 16 8 + i * blk) blk, k.spans dom (fieldAt k.line 48 8 + 8 * i) 8)

/-- One block of SCAN_CHECK BLOCKED or VERIFY (R393, R396): BLOCKED writes the block's check, or all ones for a poisoned one; VERIFY
counts a poisoned one as not matching. -/
def Dev.scanBlock (d : Dev) (r : SlotRef) (p : CrcPoly) (i : Nat) : Dev :=
  match d.cmd? r with
  | none => d
  | some k =>
    let (ss, slot) := k.scanBlock (d.domainOf r) i
    let bad := d.badSpans k ss
    let check := crcOf p (scanSeed p k.line (i * fieldAt k.line 36 4)) (d.loadAll k ss)
    if fieldAt k.line 33 1 = 2 then
      let d := (spread slot (natLe (if bad then 2 ^ 64 - 1 else check) 8)).foldl (fun d w => d.stepWrite r none w) d
      if bad then d.raise r .poisoned else d.modCmd r fun k => { k with w0 := k.w0 + 1 }
    else
      let d := if bad || d.badSpans k slot then d.raise r .poisoned else d
      if !bad && check == leNat (d.loadAll k slot) then d.modCmd r fun k => { k with w0 := k.w0 + 1 }
      else d.modCmd r fun k => { k with w1 := k.w1 + 1, w2 := if i < k.w2.toNat then BitVec.ofNat 64 i else k.w2 }

/-- Blocks of SCAN_CHECK BLOCKED or VERIFY. -/
def Dev.scanBlocks (d : Dev) (r : SlotRef) (lo n : Nat) : Dev :=
  match (d.cmd? r).bind fun k => crcPoly (fieldAt k.line 32 1) with
  | none => d
  | some p => (List.range n).foldl (fun d j => d.scanBlock r p (lo + j)) d

/-- The 32-byte record of a running value; an empty one is a record of zeros (R394). -/
def RunningValue.record (v : RunningValue) : List Byte :=
  if v.poly = 0 then List.replicate 32 0
  else natLe v.reg.toNat 8 ++ natLe v.count 8 ++ natLe v.poly 1 ++ List.replicate 15 0

/-- The running value a record holds, where the record is good (R394); the record of zeros that CHECK_SAVE writes of an empty value
loads as empty (log 25). -/
def runningOfRecord (bs : List Byte) : Option RunningValue :=
  let reg := fieldAt bs 0 8; let count := fieldAt bs 8 8; let code := fieldAt bs 16 1
  if !zeros bs 17 32 || decide (runningMax < count) then none
  else if code = 0 then (if reg = 0 && count = 0 then some { poly := 0, reg := 0, count := 0 } else none)
  else
    match crcPoly code with
    | none => none
    | some p => if reg < 2 ^ p.width then some { poly := code, reg := BitVec.ofNat 64 reg, count := count } else none

/-- The step of CHECK_LOAD (R394): a bad record raises BAD_OPERAND and leaves the running value. -/
def Dev.checkLoad (d : Dev) (r : SlotRef) : Dev :=
  match d.ctx? r.ctx, d.cmd? r with
  | some c, some k =>
    let ss := k.spans c.domain (fieldAt k.line 16 8) 32
    if d.badSpans k ss then d.raise r .poisoned
    else
      match runningOfRecord (d.loadAll k ss) with
      | none => d.raise r .badOperand
      | some v => if hasFailed k then d else d.setRunning c.num (fieldAt k.line 24 1) v
  | _, _ => d

end Sys2Proof.Machine
end

