-- ==== Sys2Proof/Machine/IndexOps.lean ====
section
/-! DEFINITION. Vector indexes: distances, insertion, deletion, rewriting and sealing as the steps of class 0x05 do them (R228 to
R249). -/

namespace Sys2Proof.Machine

/-- An index of a domain. -/
def Dev.index? (d : Dev) (dom id : Nat) : Option Index := d.indexes.find? fun x => x.domain == dom && x.id == id

/-- Change an index. -/
def Dev.modIndex (d : Dev) (dom id : Nat) (f : Index → Index) : Dev :=
  { d with indexes := modifyAll (fun x => x.domain == dom && x.id == id) f d.indexes }

/-- The size of a full-vector record (R231). -/
def Index.recordSize (x : Index) : Nat :=
  roundUp (16 + if hasScale x.vecFormat then x.dim + 4 else elemBytes x.vecFormat x.dim) 32

/-- Records of a segment (R231). -/
def Index.perSegment (x : Index) : Nat := 67108864 / x.recordSize

/-- The records of a locator's segment, and its slot there. -/
def Index.recordAt (x : Index) (set loc : Nat) : Option (Segment × Nat × VecRecord) :=
  (x.segments.find? fun g => g.set == set && g.number == loc / x.perSegment).bind fun g =>
    (g.records[loc % x.perSegment]?).map fun v => (g, loc % x.perSegment, v)

/-- Where a record lies. -/
def Index.recordSpan (x : Index) (g : Segment) (slot : Nat) : Span :=
  { sa := g.sa + slot * x.recordSize, len := x.recordSize }

/-- The check of an entry at a place (R230): over bytes 0 to 19 and the codes, its seed folded from the entry's SA and the list. -/
def Index.entryCheck (x : Index) (list sa : Nat) (e : Entry) : W32 :=
  match crcPoly 0x01 with
  | some p =>
    BitVec.ofNat 32 (crcOf p (foldedSeed p sa list)
      (natLe e.item.toNat 8 ++ natLe e.attr.toNat 8 ++ natLe e.locator 4 ++ packElems (elemBits x.codeFormat) e.codes))
  | none => 0

/-- An entry with the check of its place. -/
def Index.sign (x : Index) (list : Nat) (chunks : List Nat) (slot : Nat) (e : Entry) : Entry :=
  { e with check := x.entryCheck list (x.entrySpan chunks slot).sa e }

/-- The slots of a snapshot, among those a scan step reads, whose entries fail their check (R236, R251): a tombstoned one is not scored. -/
def Index.badSlots (x : Index) (snap : ListSnap) (lo n : Nat) : List Nat :=
  let (chunks, es) := x.body snap
  ((List.range n).map (· + lo)).filter fun i => (es[i]?).any fun e => !e.tomb && x.sign snap.list chunks i e != e

/-- Set the tombstone bits of an item (R244): in its list's current body and in the retained one. -/
def Index.bury (x : Index) (m : MapEntry) : Index :=
  let kill (es : List Entry) (i : Nat) : List Entry := es.modify i fun e => { e with tomb := true }
  { x with
    map := x.map.filter (·.item != m.item)
    lists := x.lists.modify m.list fun l =>
      { l with
        entries := kill l.entries m.slot
        retained := l.retained.map fun b => match m.retainedSlot with
          | some i => (b.1, kill b.2 i)
          | none => b } }

/-! ### Distances (R229, R230, R235, R236) -/

/-- A vector times the reciprocal of its norm, in FP32 (R228, R229). -/
def unitVector (key : List Nat) (xs : List W32) : List W32 :=
  let inv := fdiv fone (fsqrt (fsum key (xs.map fun x => fmul x x)))
  xs.map fun x => fmul x inv

/-- Whether every element is a zero. -/
def isZeroVector (xs : List W32) : Bool := xs.all fun x => fabs x == 0

/-- The NaN that normalizing makes (R144). -/
def unitEvents (xs ys : List W32) : NumEvents := nanEvents (ys.map fun y => (xs, y))

/-- A query as its distances use it (R229): normalized under cosine, then converted to BF16; with its events. -/
def queryVector (key : List Nat) (metric : Nat) (xs : List W32) : List W32 × NumEvents :=
  let ys := if metric = 3 then unitVector key xs else xs
  (ys.map fun y => ofBf16 (toBf16 y).1,
    ys.foldl (fun (a : NumEvents) y => a.plus (toBf16 y).2) (if metric = 3 then unitEvents xs ys else .none))

/-- The distance of a stored vector from a query (R229); `wide` says that the vector is held in FP32 (R135). -/
def distance (key : List Nat) (metric : Nat) (wide : Bool) (x q : List W32) : W32 :=
  match metric with
  | 1 => sqDist key x q
  | 2 => fneg (dot key wide false x q)
  | _ => fsub fone (dot key wide false x q)

/-- Whether a stored vector's elements, decoded, are FP32: so held, or the product of a scale (R140, R231). -/
def Index.wide (x : Index) : Bool := x.vecFormat == 1 || hasScale x.vecFormat

/-- An FP32 value rounded to FP16, saturating at ±65,504 (R235), as FP32. -/
def toHalfSat (v : W32) : W32 :=
  let top (neg : Bool) : W32 := if neg then 0xC77F_E000 else 0x477F_E000
  match f32 v with
  | .nan => fnan
  | .inf neg => top neg
  | .fin neg m e =>
    let (q, t) := roundDyadic 11 fmt16.emin m e
    match fmt16.pack neg q t with
    | some n => if bits n 14 10 = 31 then top neg else (fmt16.decode n).to32
    | none => top neg

/-- The part of a vector that subspace `j` covers (R230). -/
def Index.part (x : Index) (xs : List W32) (j : Nat) : List W32 := (xs.drop (j * (x.dim / x.subspaces))).take (x.dim / x.subspaces)

/-- The codebook of subspace `j`, decoded. -/
def Index.codes (x : Index) (j : Nat) : List (List W32) := (at! x.codebook j []).map fun c => c.map ofBf16

/-- A query's distance tables (R235): for each subspace its entries. -/
def Index.tables (x : Index) (key : List Nat) (q : List W32) : List (List W32) :=
  (List.range x.subspaces).map fun j =>
    let qj := x.part q j
    (x.codes j).map fun c => toHalfSat (if x.metric = 1 then sqDist key qj c else fneg (dot key false false qj c))

/-- The NaN among a query's table entries (R144). -/
def Index.tableEvents (x : Index) (key : List Nat) (q : List W32) : NumEvents :=
  let t := x.tables key q
  (List.range x.subspaces).foldl (fun a j => a.plus (nanEvents (((x.codes j).zip (at! t j [])).map fun p => (x.part q j ++ p.1, p.2)))) .none

/-- The fixed tree of R236: neighbours added in pairs. -/
def pairSum : Nat → List W32 → W32
  | _, [] => fzero
  | _, [x] => x
  | 0, x :: _ => x
  | n + 1, xs => pairSum n ((chunks 2 xs).map fun p => fadd (at! p 0 fzero) (at! p 1 fzero))

/-- The PQ distance of an entry (R236). -/
def Index.pq (x : Index) (tabs : List (List W32)) (codes : List Nat) : W32 :=
  let pe (p : Nat) : W32 :=
    let js := (List.range x.subspaces).filter fun j => j % 32 == p
    match js.map fun j => at! (at! tabs j []) (at! codes j 0) fzero with
    | [] => fzero
    | t :: ts => ts.foldl fadd t
  let s := pairSum 5 ((List.range 32).map pe)
  if x.metric = 3 then fadd s fone else s

/-- Nearer first, ties to the lower identifier, NaN after every number (R239). -/
def nearer (a b : W32 × Nat) : Bool :=
  if isNan a.1 then isNan b.1 && decide (a.2 < b.2)
  else isNan b.1 || flt a.1 b.1 || (!flt b.1 a.1 && decide (a.2 < b.2))

/-- The coarse distances of a vector from the lists' centroids (R235, R247), and their events. -/
def Index.coarse (x : Index) (key : List Nat) (q : List W32) : List W32 × NumEvents :=
  let ds := x.centroids.map fun c => let v := c.map ofBf16; (v ++ q, distance key x.metric false v q)
  (ds.map Prod.snd, nanEvents ds)

/-- The lists of an index ranked by coarse distance (R235). -/
def Index.ranked (x : Index) (key : List Nat) (q : List W32) : List Nat :=
  (sortOrd nearer ((x.coarse key q).1.zip (List.range x.centroids.length))).map Prod.snd

/-! ### Changes to a list (R241 to R249) -/

/-- A step's note on its command. -/
def Dev.note (d : Dev) (r : SlotRef) (f : Cmd → Cmd) : Dev := d.modCmd r f

/-- Delete one identifier (R244, R248): word 0 counts it, or word 1 counts it as not live, with OK_SHORT. -/
def Dev.deleteItem (d : Dev) (r : SlotRef) (dom id : Nat) (item : W64) : Dev :=
  match (d.index? dom id).bind fun x => x.map.find? (·.item == item) with
  | some m => (d.modIndex dom id fun x => x.bury m).note r fun k => { k with w0 := k.w0 + 1 }
  | none => d.note r fun k => { k with w1 := k.w1 + 1, raised := k.raised ++ [.okShort] }

/-- An identifier of a DELETE ITEMS: none where its sector is poisoned. -/
def Dev.deleteAsk (d : Dev) (dom : Nat) (k : Cmd) (i : Nat) : Option W64 :=
  let ss := k.spans dom (fieldAt k.line 24 8 + 8 * i) 8
  if d.badSpans k ss then none else some (BitVec.ofNat 64 (leNat (d.loadAll k ss)))

/-- Identifiers of a DELETE ITEMS (R244); one whose sector is poisoned raises POISONED. -/
def Dev.deleteRows (d : Dev) (r : SlotRef) (dom id lo n : Nat) : Dev :=
  (List.range n).foldl (fun d i =>
    match d.cmd? r with
    | none => d
    | some k =>
      match d.deleteAsk dom k (lo + i) with
      | some item => d.deleteItem r dom id item
      | none => d.raise r .poisoned) d

/-- A vector is not inserted (R247): counted, its entry noted where it is the first, and a status raised. -/
def Dev.notInserted (d : Dev) (r : SlotRef) (n : Nat) (st : List Status) : Dev :=
  d.note r fun k =>
    { k with w1 := k.w1 + 1, w2 := if n < k.w2.toNat then BitVec.ofNat 64 n else k.w2, raised := k.raised ++ st }

/-- CAPACITY stops a COMPACT (R249): what is done stands, and nothing more is done. -/
def Dev.capStop (d : Dev) (r : SlotRef) : Dev := d.note r fun k => { k with cut := some (k.cut.getD .capacity) }

/-- CAPACITY stops an INSERT at a vector (R247): it and the later ones are not inserted. -/
def Dev.capInsert (d : Dev) (r : SlotRef) (n : Nat) : Dev :=
  (d.note r fun k =>
    { k with w1 := k.w1 + BitVec.ofNat 64 (fieldAt (cmdOps k) 4 4 - n), w2 := if n < k.w2.toNat then BitVec.ofNat 64 n else k.w2 }).capStop r

/-- The open segment of a segment set: the last one, unless it is sealed or full. -/
def Index.openSegment (x : Index) (set : Nat) : Option Segment :=
  (x.segments.filter fun g => g.set == set).getLast?.bind fun g =>
    if g.sealed || decide (x.perSegment ≤ g.records.length) then none else some g

/-- The number of the next segment of a set. -/
def Index.nextSegment (x : Index) (set : Nat) : Nat :=
  match (x.segments.filter fun g => g.set == set).getLast? with
  | some g => g.number + 1
  | none => 0

/-- Store for a new segment or chunk, within the quota (R228). -/
def Dev.takeStore (d : Dev) (dom n : Nat) : Option (Nat × Dev) :=
  if !d.dramRoom dom n then none
  else
    match d.place n with
    | (some sa, d) => some (sa, d.zeroRange sa n)
    | (none, _) => none

/-- A new open segment of a set (R231, R249): the set's others are sealed. None for want of store. -/
def Dev.newSegment (d : Dev) (dom id set : Nat) : Option Dev :=
  (d.index? dom id).bind fun x =>
    (d.takeStore dom 67108864).map fun p =>
      let g : Segment := { set := set, number := x.nextSegment set, sa := p.1, sealed := false, replaced := false, records := [], holders := [] }
      let close (y : Segment) : Segment := if y.set == set then { y with sealed := true } else y
      p.2.modIndex dom id fun x => { x with segments := x.segments.map close ++ [g] }

/-- Append a record to a segment set (R231): its locator, or none for want of room or locators. A set's full segment is
sealed as the next one opens. -/
def Dev.addRecord (d : Dev) (dom id set : Nat) (v : VecRecord) : Option (Nat × Dev) :=
  let put (d : Dev) : Option (Nat × Dev) :=
    (d.index? dom id).bind fun x => (x.openSegment set).bind fun g =>
      let loc := g.number * x.perSegment + g.records.length
      let add (y : Segment) : Segment := if y.set == set && y.number == g.number then { y with records := y.records ++ [v] } else y
      if 2 ^ 32 ≤ loc then none else some (loc, d.modIndex dom id fun x => { x with segments := x.segments.map add })
  (d.index? dom id).bind fun x =>
    if (x.openSegment set).isSome then put d
    else if 2 ^ 32 ≤ x.nextSegment set * x.perSegment then none
    else (d.newSegment dom id set).bind put

/-- Room for one more entry of a list: its chunks, with a new one where the last is full (R243). -/
def Dev.entryRoom (d : Dev) (dom id n : Nat) : Option Dev :=
  (d.index? dom id).bind fun x =>
    let l := x.list n
    if l.entries.length < l.chunks.length * x.chunkSlots then some d
    else
      (d.takeStore dom 65536).map fun p =>
        p.2.modIndex dom id fun x => { x with lists := x.lists.modify n fun l => { l with chunks := l.chunks ++ [p.1] } }

/-- A vector that an INSERT has encoded (R247): its entry in the command, whether it can be inserted at all, and what is
stored of it. -/
structure NewItem where
  entry : Nat
  valid : Bool
  poisoned : Bool
  item : W64
  attr : W64
  list : Nat
  replace : Bool
  codes : List Nat
  bytes : List Byte
deriving DecidableEq, Repr

/-- The codes of a vector, decoded as its record holds it (R230): for each subspace the nearest code, with its events. -/
def Index.codesOf (x : Index) (key : List Nat) (dec : List W32) : List (Nat × NumEvents) :=
  (List.range x.subspaces).map fun j =>
    let ds := (x.codes j).map fun c => (x.part dec j ++ c, sqDist (key ++ [j]) (x.part dec j) c)
    (leastIndex (key ++ [j]) (ds.map Prod.snd), nanEvents ds)

/-- Encode one vector for insertion (R230, R231, R247), with its numeric events (R144). -/
def Index.encode (x : Index) (key : List Nat) (i : Nat) (xs : List W32) (item attr : W64) (list : Option Nat) (replace poisoned : Bool) :
    NewItem × NumEvents :=
  let zero := x.metric == 3 && isZeroVector xs
  let ys := if x.metric = 3 && !zero then unitVector key xs else xs
  let (bs, ev) := encodeRow x.vecFormat ys
  let dec := decodeScaled x.vecFormat x.dim bs
  let coded := x.codesOf (key ++ [i]) dec
  let (q, qev) := queryVector key x.metric xs
  let (home, hev) : Nat × NumEvents := match list with
    | some n => (n, .none)
    | none => (((x.ranked key q).head?).getD 0, qev.plus (x.coarse key q).2)
  let all := ((ev.plus hev).plus (if x.metric = 3 then unitEvents xs ys else .none)).plus ((coded.map Prod.snd).foldl NumEvents.plus .none)
  ({ entry := i, valid := item != BitVec.allOnes 64 && decide (home < x.lists.length) && !zero, poisoned := poisoned, item := item, attr := attr
     list := home, replace := replace, codes := coded.map Prod.fst, bytes := bs }, if zero || poisoned then .none else all)

/-- The operand bytes of an INSERT, from line byte 16 or descriptor byte 0 (R228, R246). -/
def insertOps (k : Cmd) : List Byte := if lineExt k.line then k.desc else slice k.line 16 48

/-- The spans of vectors, identifiers, attributes and lists of entries of an INSERT. -/
def Cmd.insertSpans (k : Cmd) (dom : Nat) (x : Index) (lo n : Nat) : List (List Span) :=
  let o := insertOps k
  let vb := x.dim * (elemBits (fieldAt o 2 1) / 8)
  let part (off w : Nat) : List Span := if fieldAt o off 8 = 0 then [] else k.spans dom (fieldAt o off 8 + lo * w) (n * w)
  [part 8 vb, part 16 8, part 24 8, part 32 4]

/-- Entry `i` of an INSERT, encoded. -/
def Dev.newItem (d : Dev) (dom : Nat) (k : Cmd) (x : Index) (i : Nat) : NewItem × NumEvents :=
  let o := insertOps k
  let ss := k.insertSpans dom x i 1
  let at' (j : Nat) : List Byte := d.loadAll k (at! ss j [])
  x.encode (d.sumKey dom k (at! ss 0 [])) i (decodeVec (fieldAt o 2 1) x.dim (at' 0)) (BitVec.ofNat 64 (leNat (at' 1)))
    (BitVec.ofNat 64 (leNat (at' 2))) (if fieldAt o 32 8 = 0 then none else some (leNat (at' 3))) (bit (lineFlags k.line) 1) (d.badSpans k ss.flatten)

/-- Insert one vector (R243, R247): record, entry with its check, and map in one step; REPLACE buries the old entry in the same step. -/
def Dev.insertItem (d : Dev) (r : SlotRef) (dom id : Nat) (n : NewItem) : Dev :=
  match d.index? dom id with
  | none => d
  | some x =>
    let old := x.map.find? (·.item == n.item)
    if n.poisoned then d.notInserted r n.entry [.poisoned]
    else if !n.valid || (old.isSome && !n.replace) then d.notInserted r n.entry [.okShort]
    else if old.isNone && decide (x.capacity ≤ x.map.length) then d.capInsert r n.entry
    else
      match d.entryRoom dom id n.list with
      | none => d.capInsert r n.entry
      | some d =>
        match d.addRecord dom id (x.list n.list).set { item := n.item, attr := n.attr, bytes := n.bytes } with
        | none => d.capInsert r n.entry
        | some (loc, d) =>
          let d := match old with
            | some m => d.modIndex dom id fun x => x.bury m
            | none => d
          let put (x : Index) : Index :=
            let l := x.list n.list
            let slot := l.entries.length
            let e := x.sign n.list l.chunks slot { item := n.item, attr := n.attr, locator := loc, codes := n.codes, check := 0, tomb := false }
            { x with
              lists := x.lists.modify n.list fun l => { l with entries := l.entries ++ [e] }
              map := x.map ++ [{ item := n.item, list := n.list, slot := slot, retainedSlot := none }] }
          (d.modIndex dom id put).note r fun k => { k with w0 := k.w0 + 1 }

/-- Vectors of an INSERT from one on, in entry order (R247): none after CAPACITY, nor where INIT made no index. -/
def Dev.insertRows (d : Dev) (r : SlotRef) (dom id lo n : Nat) : Dev :=
  (List.range n).foldl (fun d i =>
    match d.cmd? r, d.index? dom id with
    | some k, some x =>
      if k.cut == some .capacity || k.cut == some .badOperand then d
      else
        let (m, ev) := d.newItem dom k x (lo + i)
        (d.insertItem r dom id m).countEvents dom ev
    | _, _ => d) d

/-- A vector's centroid or code, in the words of a store. -/
def wordsOf (bs : List Byte) (n : Nat) : List W16 := (List.range n).map fun i => BitVec.ofNat 16 (fieldAt bs (2 * i) 2)

/-- An INIT's index enters with its centroids and codebook (R228): under cosine each centroid is normalized. A name taken meanwhile is
BAD_OPERAND; a poisoned centroid or codebook makes no index (log 31). -/
def Dev.enterIndex (d : Dev) (r : SlotRef) (x : Index) : Dev :=
  match d.cmd? r with
  | none => d
  | some k =>
    let o := k.desc
    let nl := fieldAt o 56 4
    let cents := k.spans x.domain (fieldAt o 64 8) (2 * nl * x.dim)
    let book := k.spans x.domain (fieldAt o 72 8) (2 * x.c * x.dim)
    let stop (st : Status) : Dev := d.modCmd r fun k => { k with cut := some (k.cut.getD st), plan := k.plan.take k.issued }
    if (d.index? x.domain x.id).isSome then stop .badOperand
    else if d.badSpans k (cents ++ book) then (d.raise r .poisoned).modCmd r fun k => { k with plan := k.plan.take k.issued }
    else
      let key := d.sumKey x.domain k cents
      let cs := (List.range nl).map fun i => wordsOf (slice (d.loadAll k cents) (2 * x.dim * i) (2 * x.dim)) x.dim
      let bs := d.loadAll k book
      let sub := x.dim / x.subspaces
      let unit (c : List W16) : List W16 × NumEvents :=
        let v := c.map ofBf16
        let u := unitVector key v
        let w := u.map toBf16
        (w.map Prod.fst, (w.foldl (fun (a : NumEvents) y => a.plus y.2) NumEvents.none).plus (unitEvents v u))
      let norm := if x.metric = 3 then cs.map unit else cs.map fun c => (c, NumEvents.none)
      let x := { x with
        centroids := norm.map Prod.fst
        codebook := (List.range x.subspaces).map fun j => (List.range x.c).map fun e => wordsOf (slice bs (2 * sub * (j * x.c + e)) (2 * sub)) sub }
      ({ d with indexes := d.indexes ++ [x] }.modCmd r fun k => { k with freeing := [] }).countEvents x.domain ((norm.map Prod.snd).foldl NumEvents.plus .none)

/-! ### SEARCH -/

/-- A tables step of a SEARCH reads queries (R235): a poisoned one ends the command with POISONED and no output (R252). -/
def Dev.readQueries (d : Dev) (r : SlotRef) (lo n : Nat) : Dev :=
  match d.ctx? r.ctx, d.cmd? r with
  | some c, some k =>
    match d.index? c.domain (fieldAt k.line 16 2) with
    | none => d
    | some x =>
      let qf := fieldAt k.line 18 1
      let qb := x.dim * (elemBits qf / 8)
      let ss := k.spans c.domain (fieldAt k.line 32 8 + lo * qb) (n * qb)
      if d.badSpans k ss then (d.raise r .poisoned).modCmd r fun k => { k with plan := k.plan.take k.issued }
      else
        let bs := d.loadAll k ss
        let new := (List.range n).map fun i => decodeVec qf x.dim (slice bs (i * qb) qb)
        d.modCmd r fun k => { k with search := k.search.map fun run =>
          { run with queries := run.queries.take lo ++ new ++ run.queries.drop (lo + n) } }
  | _, _ => d

/-- The sectors of entries that a scan step scores and that fail their check (R236, R251). -/
def Dev.badEntries (d : Dev) (k : Cmd) (st : Step) : List Nat :=
  match st.scan?, k.search with
  | some (dom, id, _, list, lo, n), some run =>
    match d.index? dom id, run.snaps.find? (·.list == list) with
    | some x, some s => ((x.badSlots s lo n).flatMap fun i => sectorsOf (x.entrySpan (x.body s).1 i)).eraseDups
    | _, _ => []
  | _, _ => []

/-- The RUNNING searches of an index, which hold what a rewrite replaces (R245). -/
def Dev.searchers (d : Dev) (dom id : Nat) : List SlotRef :=
  d.slotsWhere fun c s => c.domain == dom && s.state == .running && s.cmd.any fun k =>
    cmdVerb k == some .search && fieldAt k.line 16 2 == id

/-- Copy the record of an entry into another segment set: the new locator. The copy of a poisoned record is poisoned (R386). -/
def Dev.moveRecord (d : Dev) (dom id from_ into : Nat) (e : Entry) : Option (Nat × Dev) :=
  match (d.index? dom id).bind fun x => x.recordAt from_ e.locator with
  | some (g, slot, v) =>
    (d.addRecord dom id into v).map fun p =>
      let bad := (d.index? dom id).any fun x => d.poisonedIn (x.recordSpan g slot)
      let new := ((p.2.index? dom id).bind fun x => (x.recordAt into p.1).map fun g => x.recordSpan g.1 g.2.1)
      (p.1, match bad, new with
        | true, some s => (sectorsOf s).foldl Dev.poisonSector p.2
        | _, _ => p.2)
  | none => some (e.locator, d)

/-- Store for `n` chunks of a new body. -/
def Dev.takeChunks : Nat → Dev → Nat → Option (List Nat × Dev)
  | 0, d, _ => some ([], d)
  | n + 1, d, dom =>
    (d.takeStore dom 65536).bind fun p => (Dev.takeChunks n p.2 dom).map fun q => (p.1 :: q.1, q.2)

/-- A COMPACT takes the lock of a list (R241). -/
def Dev.lockList (d : Dev) (r : SlotRef) (dom id n : Nat) : Dev :=
  d.modIndex dom id fun x => { x with lists := x.lists.modify n fun l => { l with lock := some r } }

/-- Rewrite a list without its tombstones (R245); under FULL its records move to the index's segment set (R249). Each entry has the
check of its new place. Word 0 counts the entries removed, word 1 the lists rewritten, word 2 the bytes that will be freed. -/
def Dev.rewriteList (d : Dev) (r : SlotRef) (dom id n : Nat) (full : Bool) : Dev :=
  let free (d : Dev) : Dev := d.modIndex dom id fun x => { x with lists := x.lists.modify n fun l => { l with lock := none } }
  if (d.cmd? r).any fun k => k.cut == some .capacity || k.cut == some .badOperand then free d
  else
    match d.index? dom id with
    | none => d
    | some x =>
      match x.lists[n]? with
      | none => d
      | some l =>
        if !full && !(l.entries.any (·.tomb)) then free d
        else
          let live := l.entries.filter (!·.tomb)
          let moved : Option (List Entry × Dev) :=
            if full && l.set != x.set then
              live.foldl (fun (acc : Option (List Entry × Dev)) e => acc.bind fun a =>
                (a.2.moveRecord dom id l.set x.set e).map fun p => (a.1 ++ [{ e with locator := p.1 }], p.2)) (some ([], d))
            else some (live, d)
          match moved.bind fun a => (Dev.takeChunks (ceilDiv live.length x.chunkSlots) a.2 dom).map fun p => (a.1, p) with
          | none => free (d.capStop r)
          | some (es, chunks, d) =>
            let holders := d.searchers dom id
            let slotOf (item : W64) : Nat := (es.findIdx? (·.item == item)).getD 0
            let signed := (List.range es.length).filterMap fun i => (es[i]?).map (x.sign n chunks i)
            let put (x : Index) : Index :=
              { x with
                lists := x.lists.set n { chunks := chunks, entries := signed, gen := l.gen + 1, retained := some (l.chunks, l.entries), holders := holders, set := if full then x.set else l.set, lock := none }
                map := x.map.map fun m => if m.list == n then { m with slot := slotOf m.item, retainedSlot := some m.slot } else m }
            (d.modIndex dom id put).note r fun k =>
              { k with w0 := k.w0 + BitVec.ofNat 64 (l.entries.length - es.length), w1 := k.w1 + 1
                       w2 := k.w2 + BitVec.ofNat 64 (65536 * l.chunks.length) }

/-- Segments of sets that no list refers to any more are replaced, held by the searches that run (R245, R249). -/
def Dev.retireSets (d : Dev) (r : SlotRef) (dom id : Nat) : Dev :=
  match d.index? dom id with
  | none => d
  | some x =>
    let old (g : Segment) : Bool := g.set != x.set && !g.replaced && !(x.lists.any fun l => l.set == g.set)
    let n := (x.segments.filter old).length
    if n = 0 then d
    else
      let holders := d.searchers dom id
      let put (g : Segment) : Segment := if old g then { g with replaced := true, holders := holders } else g
      (d.modIndex dom id fun x => { x with segments := x.segments.map put }).note r fun k =>
        { k with w2 := k.w2 + BitVec.ofNat 64 (67108864 * n) }

/-- SEAL seals the open segment and opens a new one, CAPACITY where there is no store for it; FULL begins a new segment set (R249). -/
def Dev.sealSegment (d : Dev) (r : SlotRef) (dom id : Nat) (full : Bool) : Dev :=
  match d.index? dom id with
  | none => d
  | some x =>
    if full then
      d.modIndex dom id fun x => { x with segments := x.segments.map fun g => if g.set == x.set then { g with sealed := true } else g, set := x.set + 1 }
    else
      match d.newSegment dom id x.set with
      | some d => d
      | none => d.capStop r

/-! ### List locks (R241, R245) -/

/-- The list that a step takes the lock of, or rewrites. -/
def Step.rewrites? (st : Step) : Option (Nat × Nat × Nat) :=
  st.effects.findSome? fun f => match f with
    | .lockList dom id n => some (dom, id, n)
    | .rewrite dom id n _ => some (dom, id, n)
    | _ => none

/-- The lists that a step of INSERT or DELETE acts on, as the index stands. -/
def Dev.listsOf (d : Dev) (r : SlotRef) (k : Cmd) (st : Step) : List (Nat × Nat × Nat) :=
  st.effects.flatMap fun f => match f with
    | .insertItems dom id lo n =>
      match d.index? dom id with
      | none => []
      | some x =>
        let items := (List.range n).map fun i => (d.newItem dom k x (lo + i)).1
        items.flatMap fun m => (dom, id, m.list) :: ((x.map.filter fun y => y.item == m.item).map fun y => (dom, id, y.list))
    | .deleteItems dom id lo n =>
      match d.index? dom id with
      | none => []
      | some x => (List.range n).flatMap fun i => (d.deleteAsk (d.domainOf r) k (lo + i)).elim [] fun item =>
          (x.map.filter fun y => y.item == item).map fun y => (dom, id, y.list)
    | _ => []

/-- Whether another command's COMPACT holds the lock of a list. -/
def Dev.listLocked (d : Dev) (r : SlotRef) (dom id n : Nat) : Bool :=
  (d.index? dom id).any fun x => (x.list n).lock.any (· != r)

/-- Whether a step waits for a list (R241, R245): for its lock, or, where it rewrites the list, for its retained body. -/
def Dev.listHeld (d : Dev) (r : SlotRef) (k : Cmd) (st : Step) : Bool :=
  (match st.rewrites? with
   | some (dom, id, n) => d.listLocked r dom id n || (d.index? dom id).any fun x => (x.list n).retained.isSome
   | none => false) ||
    ((d.indexes.any fun x => x.lists.any fun l => l.lock.any (· != r)) && (d.listsOf r k st).any fun x => d.listLocked r x.1 x.2.1 x.2.2)

end Sys2Proof.Machine
end

