-- ==== Sys2Proof/Machine/TableOps.lean ====
section
/-! DEFINITION. Embedding tables: the catalogue, where the rows of a version lie, and what the steps of class 0x04 do when they
retire (R203 to R223). -/

namespace Sys2Proof.Machine

/-- A table of a domain's catalogue. -/
def Dev.table? (d : Dev) (dom id : Nat) : Option Table := d.tables.find? fun t => t.domain == dom && t.id == id

/-- Replace a table of the catalogue. -/
def Dev.setTable (d : Dev) (t : Table) : Dev :=
  { d with tables := d.tables.filter (fun x => !(x.domain == t.domain && x.id == t.id)) ++ [t] }

/-- The CURRENT version of a table (R203). -/
def Table.current (t : Table) : Option Version := t.versions.find? (·.state == .current)

/-- A version of a table by number. -/
def Table.version? (t : Table) (n : W32) : Option Version := t.versions.find? (·.number == n)

/-- Set the plinth to a version: the displaced one is DRAINING (R209). -/
def Table.plinth (t : Table) (n : W32) : Table :=
  { t with versions := t.versions.map fun v =>
      if v.number == n then { v with state := .current }
      else if v.state == .current then { v with state := .draining } else v }

/-- A rehanged version enters its table's catalogue (R203, R216): its number is assigned, and under PUBLISH the plinth is set where the
expected version is CURRENT. The answer: a status, the new number and the CURRENT version before. -/
def Dev.admitVersion (d : Dev) (dom id : Nat) (v : Version) (pub : Bool) (expected : W32) : Dev × Status × W32 × W32 :=
  match d.table? dom id with
  | none => (d, .versionGone, 0, 0)
  | some t =>
    if 8 ≤ t.versions.length then (d, .capacity, 0, 0)
    else
      let n := t.nextVersion
      let old := (t.current.map (·.number)).getD 0
      let t := { t with nextVersion := n + 1, versions := t.versions ++ [{ v with number := n, state := .staged }] }
      if !pub then (d.setTable t, .ok, n, old)
      else if t.current.any fun v => v.number == expected then (d.setTable (t.plinth n), .ok, n, old)
      else (d.setTable t, .conflict, n, old)

/-- The words of a REHANG once the catalogue has answered (R216): with CONFLICT word 1 is the CURRENT version, else the bytes
allocated; word 2 is the rows pruned. The store is no longer the command's. -/
def Dev.versionEntered (d : Dev) (r : SlotRef) (st : Status) (n old : W32) (bytes pruned : Nat) : Dev :=
  if st != .ok && st != .conflict then d.raise r st
  else
    let d := d.modCmd r fun k =>
      { k with freeing := [], work := 0, w0 := BitVec.ofNat 64 n.toNat, w1 := BitVec.ofNat 64 (if st = .conflict then old.toNat else bytes), w2 := BitVec.ofNat 64 pruned }
    if st = .conflict then d.raise r .conflict else d

/-- The 108 bytes of a version in a STEP message (R364, log 11). -/
def Version.record (v : Version) : List Byte :=
  natLe v.number.toNat 4 ++ natLe v.kind 1 ++ natLe v.format 1 ++ natLe v.dim 2 ++ natLe v.rows 4 ++ natLe v.stateKind 1 ++ natLe v.classes.length 1 ++ natLe 0 2 ++
    natLe v.rowsCva 8 ++ natLe v.stride 8 ++ natLe v.popCva 8 ++ natLe v.stateCva 8 ++ natLe v.source.toNat 4 ++ natLe v.remapSa 8 ++
    (List.range 3).flatMap fun i => match v.classes[i]? with
      | some c => natLe c.sa 8 ++ natLe c.format 4 ++ natLe c.rows 4
      | none => List.replicate 16 0

/-- The version of such a record. -/
def versionOfRecord (b : List Byte) : Version :=
  { number := BitVec.ofNat 32 (fieldAt b 0 4), state := .staged, kind := fieldAt b 4 1, format := fieldAt b 5 1, dim := fieldAt b 6 2, rows := fieldAt b 8 4
    stateKind := fieldAt b 12 1, rowsCva := fieldAt b 16 8, stride := fieldAt b 24 8, popCva := fieldAt b 32 8, stateCva := fieldAt b 40 8
    source := BitVec.ofNat 32 (fieldAt b 48 4), remapSa := fieldAt b 52 8
    classes := (List.range (fieldAt b 13 1)).map fun i => { sa := fieldAt b (60 + 16 * i) 8, format := fieldAt b (68 + 16 * i) 4, rows := fieldAt b (72 + 16 * i) 4 } }

/-! ### PUBLISH_TABLE at a table's home (R203, R205, R209 to R211) -/

/-- The version a descriptor describes, where it is well formed (R205). -/
def versionOf (b : List Byte) : Option Version :=
  let rows := fieldAt b 0 4; let dm := fieldAt b 4 2; let kind := fieldAt b 6 1; let f := fieldAt b 7 1
  let cva := fieldAt b 8 8; let stride := fieldAt b 16 8; let pop := fieldAt b 24 8; let st := fieldAt b 32 8; let sk := fieldAt b 40 1
  if decide (1 ≤ rows) && dm % 32 == 0 && decide (32 ≤ dm ∧ dm ≤ 1024) && (kind == 1 || kind == 2) &&
      (if kind = 1 then f == 1 || f == 2 else servingFormat f) && cvaOk cva 32 && stride % 32 == 0 &&
      decide (rowSize kind f dm ≤ stride) && (pop == 0 || cvaOk pop 4) && decide (sk ≤ 3) && (kind == 1 || sk == 0) &&
      (if sk = 0 then st == 0 else cvaOk st 32) && zeros b 41 64
  then some { number := 1, state := .current, kind := kind, rows := rows, dim := dm, format := f, rowsCva := cva, stride := stride
              popCva := pop, stateCva := st, stateKind := sk, source := 0, classes := [], remapSa := 0 }
  else none

/-- The number of the CURRENT version of a table; 0 where there is none. -/
def Dev.currentOf (d : Dev) (dom id : Nat) : W32 := (((d.table? dom id).bind Table.current).map (·.number)).getD 0

/-- CREATE (R209, R210): a free identifier gets version 1, and every member learns its home. -/
def Dev.createTable (d : Dev) (dom id : Nat) (v : Version) : Dev × Status × W32 × W32 :=
  if (d.table? dom id).isSome then (d, .badOperand, 0, 0)
  else
    let t : Table := { domain := dom, id := id, nextVersion := 2, versions := [v], deleting := false, home := d.coll.geoId, bindings := [] }
    ((d.setTable t).tellTable t false, .ok, 1, 0)

/-- A publishing mode goes on where its expected version is CURRENT; else CONFLICT with word 0 the CURRENT version (R210). -/
def Dev.ifExpected (d : Dev) (t : Table) (line : List Byte) (f : W32 → Dev × Status × W32 × W32) : Dev × Status × W32 × W32 :=
  match t.current with
  | some v => if v.number.toNat == fieldAt line 20 4 then f v.number else (d, .conflict, v.number, 0)
  | none => (d, .conflict, 0, 0)

/-- PUBLISH_DESCRIPTOR (R203, R209, R210). -/
def Dev.publishDescriptor (d : Dev) (dom id : Nat) (line : List Byte) (v : Version) : Dev × Status × W32 × W32 :=
  match d.table? dom id with
  | none => (d, .badOperand, 0, 0)
  | some t =>
    d.ifExpected t line fun old =>
      if 8 ≤ t.versions.length then (d, .capacity, 0, 0)
      else
        let n := t.nextVersion
        (d.setTable ({ t with nextVersion := n + 1, versions := t.versions ++ [{ v with number := n, state := .staged }] }.plinth n), .ok, n, old)

/-- PUBLISH_STAGED (R209, R210): a target that is not STAGED is BAD_OPERAND (log 30). -/
def Dev.publishStaged (d : Dev) (dom id : Nat) (line : List Byte) : Dev × Status × W32 × W32 :=
  match d.table? dom id with
  | none => (d, .badOperand, 0, 0)
  | some t =>
    d.ifExpected t line fun old =>
      let n : W32 := BitVec.ofNat 32 (fieldAt line 24 4)
      if (t.version? n).any fun v => v.state == .staged then (d.setTable (t.plinth n), .ok, n, old) else (d, .badOperand, 0, 0)

/-- DELETE (R209, R210): every version is DRAINING; word 1 is the version that was CURRENT. -/
def Dev.deleteTable (d : Dev) (dom id : Nat) : Dev × Status × W32 × W32 :=
  match d.table? dom id with
  | none => (d, .badOperand, 0, 0)
  | some t =>
    (d.setTable { t with deleting := true, versions := t.versions.map fun v => { v with state := .draining } }, .ok, 0, (t.current.map (·.number)).getD 0)

/-- Whether a WAIT_RECLAIM still waits (R209, R210): its target is in the catalogue. -/
def Dev.reclaimWaits (d : Dev) (dom id target : Nat) : Bool :=
  (d.table? dom id).any fun t => t.versions.any fun v => v.number.toNat == target

/-- The mode byte of a STEP that asks a table's home for its CURRENT version (log 11). -/
def askCurrent : Nat := 6

/-- A PUBLISH_TABLE that came to the table's home by its line and descriptor (R210): its status and words; none while a WAIT_RECLAIM
waits. -/
def Dev.tableStep (d : Dev) (dom : Nat) (line desc : List Byte) : Dev × Option (Status × W32 × W32) :=
  let id := fieldAt line 16 2
  let done (x : Dev × Status × W32 × W32) : Dev × Option (Status × W32 × W32) := (x.1, some x.2)
  let mode := fieldAt line 18 1
  if mode = 3 then done (d.publishStaged dom id line)
  else if mode = 4 then if d.reclaimWaits dom id (fieldAt line 24 4) then (d, none) else (d, some (.ok, d.currentOf dom id, 0))
  else if mode = 5 then done (d.deleteTable dom id)
  else if mode = askCurrent then (d, some (.ok, d.currentOf dom id, 0))
  else
    match versionOf desc with
    | none => (d, some (.badOperand, 0, 0))
    | some v => done (if mode = 1 then d.createTable dom id v else d.publishDescriptor dom id line v)

/-! ### Bindings of other members (R208, R210) -/

/-- A member's command binds to a version of a table homed here. -/
def Dev.bindFor (d : Dev) (fid dom id named : Nat) : Dev × Except Status Version :=
  match d.bindVersion dom id named with
  | .error st => (d, .error st)
  | .ok v =>
    match d.table? dom id with
    | none => (d, .error .badOperand)
    | some t => (d.setTable { t with bindings := t.bindings ++ [{ fid := fid, version := v.number }] }, .ok v)

/-- A member's binding ends. -/
def Dev.unbindFor (d : Dev) (fid dom id : Nat) (n : W32) : Dev :=
  match d.table? dom id with
  | none => d
  | some t => d.setTable { t with bindings := t.bindings.erase { fid := fid, version := n } }

/-- A version whose store lies here, of a table homed elsewhere, is kept under its number (R216). -/
def Dev.keepVersion (d : Dev) (dom id : Nat) (v : Version) : Dev :=
  match d.table? dom id with
  | none => d
  | some t => d.setTable { t with versions := t.versions ++ [v] }

/-- Store of a reclaimed version that lies here is freed at the word of its table's home (R211). -/
def Dev.freeVersion (d : Dev) (dom sa len : Nat) : Dev :=
  let gone (v : Version) : Bool := (v.spans.getLast?).any fun s => s.sa == sa
  let d := { d with tables := d.tables.map fun (t : Table) => if t.domain == dom then { t with versions := t.versions.filter fun v => !gone v } else t }
  d.wipeSpan { sa := sa, len := len }

/-! ### Optimizers (R219 to R222) -/

/-- β^t with relative error at most 2^−22 (R220): free within it (log 7). -/
def fpow (beta t : W32) : W32 :=
  match f32 beta with
  | .fin _ m e => if m = 0 then fzero else
      freeNear [5, beta.toNat, t.toNat] (expFix ((t.toNat : Int) * lnFix m e)) 22
  | _ => fnan

/-- x − lr × g / (√s + eps), each operation rounded once (R220). -/
def adaStep (lr eps x g s : W32) : W32 := fsub x (fdiv (fmul lr g) (fadd (fsqrt s) eps))

/-- The optimizer state of an update, decoded: one FP32 list. -/
def words32 (n : Nat) (bs : List Byte) : List W32 := (List.range n).map fun i => BitVec.ofNat 32 (fieldAt bs (4 * i) 4)

/-- Number of FP32 words of state per row (R205). -/
def stateWords (kind dim : Nat) : Nat :=
  match kind with
  | 1 => dim | 2 => 1 | 3 => 2 * dim | _ => 0

/-- The state kind an optimizer requires (R220). -/
def optState (opt : Nat) : Nat :=
  match opt with
  | 3 => 1 | 4 => 2 | 5 => 3 | _ => 0

/-- What a SCATTER_UPDATE's line says of its optimizer (R219): code, lr, eps, β1, β2, step. -/
structure OptArgs where
  opt : Nat
  lr : W32
  eps : W32
  beta1 : W32
  beta2 : W32
  step : W32
deriving DecidableEq, Repr

/-- The optimizer of a line. -/
def optArgs (l : List Byte) : OptArgs :=
  { opt := fieldAt l 18 1, lr := BitVec.ofNat 32 (fieldAt l 40 4), eps := BitVec.ofNat 32 (fieldAt l 44 4), beta1 := BitVec.ofNat 32 (fieldAt l 48 4)
    beta2 := BitVec.ofNat 32 (fieldAt l 52 4), step := BitVec.ofNat 32 (fieldAt l 56 4) }

/-- The new elements and state of a row of `dim` elements (R220): elements `x`, state `s`, gradient `g`. -/
def OptArgs.compute (u : OptArgs) (key : List Nat) (dim : Nat) (x s g : List W32) : List W32 × List W32 :=
  let at' (xs : List W32) (i : Nat) : W32 := at! xs i 0
  let idx := List.range dim
  match u.opt with
  | 1 => (g, s)
  | 2 => (idx.map fun i => fadd (at' x i) (fmul u.lr (at' g i)), s)
  | 3 =>
    let s' := idx.map fun i => fadd (at' s i) (fmul (at' g i) (at' g i))
    (idx.map fun i => adaStep u.lr u.eps (at' x i) (at' g i) (at' s' i), s')
  | 4 =>
    let sum := fsum key (g.map fun v => fmul v v)
    let s' := fadd (at' s 0) (fdiv sum (fofNat dim))
    (idx.map fun i => adaStep u.lr u.eps (at' x i) (at' g i) s', [s'])
  | _ =>
    let c1 := fsub fone u.beta1; let c2 := fsub fone u.beta2
    let m := idx.map fun i => fadd (fmul u.beta1 (at' s i)) (fmul c1 (at' g i))
    let v := idx.map fun i => fadd (fmul u.beta2 (at' s (dim + i))) (fmul c2 (fmul (at' g i) (at' g i)))
    let k1 := fsub fone (fpow u.beta1 u.step); let k2 := fsub fone (fpow u.beta2 u.step)
    let y := idx.map fun i =>
      fsub (at' x i) (fdiv (fmul u.lr (fdiv (at' m i) k1)) (fadd (fsqrt (fdiv (at' v i) k2)) u.eps))
    (y, m ++ v)

/-- The NaN among new elements and state whose operands held none (R144). -/
def OptArgs.events (u : OptArgs) (dim : Nat) (x s g y s' : List W32) : NumEvents :=
  let own (i : Nat) : List W32 := [at! x i 0, at! g i 0] ++
    match u.opt with
    | 3 => [at! s i 0]
    | 4 => at! s 0 0 :: g
    | 5 => [at! s i 0, at! s (dim + i) 0]
    | _ => []
  (nanEvents ((List.range dim).map fun i => (own i, at! y i 0))).plus
    (if u.opt = 1 || u.opt = 2 then .none else nanEvents ((List.range s'.length).map fun i => (own (i % dim), at! s' i 0)))

/-- The header of a row after an application (R206, R222): under ASSIGN the step and writer, and one more application. -/
def OptArgs.header (u : OptArgs) (old : List Byte) (seq : W32) (ctx geo : Nat) : List Byte :=
  let count := natLe ((fieldAt old 12 4 + 1) % 2 ^ 32) 4
  if u.opt = 1 then natLe u.step.toNat 4 ++ natLe seq.toNat 4 ++ natLe ctx 2 ++ natLe geo 1 ++ [0] ++ count
  else slice old 0 12 ++ count

/-- Whether an ASSIGN meets a row assigned at its own step by another writer (R222). -/
def OptArgs.collides (u : OptArgs) (old : List Byte) (seq : W32) (ctx geo : Nat) : Bool :=
  u.opt == 1 && fieldAt old 0 4 == u.step.toNat &&
    !(fieldAt old 4 4 == seq.toNat && fieldAt old 8 2 == ctx && fieldAt old 10 1 == geo)

/-! ### Rows of a version, found when a step runs (R205 to R207, R295) -/

/-- Where a row lies: its spans, the remap entry's span, its form, and whether it is pruned. -/
structure RowAt where
  spans : List Span
  remap : List Span
  kind : Nat
  format : Nat
  pruned : Bool
deriving DecidableEq, Repr

/-- The class and slot of a row in a remap entry (R207); none is PRUNED. -/
def Version.slotOf (v : Version) (e : Nat) : Option (WidthClass × Nat) := (v.classes[e / 2 ^ 30]?).map fun c => (c, e % 2 ^ 30)

/-- The remap entry of a row. -/
def Version.remapSpan (v : Version) (row : Nat) : Span := { sa := v.remapSa + 4 * row, len := 4 }

/-- Where a row of a version lies now: through its remap entry, or through the extents in force (R205, R207). A remap entry that is
yet to come from its home, or that is poisoned, gives no row. -/
def Dev.rowAt (d : Dev) (dom : Nat) (k : Cmd) (v : Version) (row : Nat) : RowAt :=
  if v.kind = 3 then
    let m := v.remapSpan row
    if !(d.missing k [m]).isEmpty || d.badSpan k m then { spans := [], remap := [m], kind := 2, format := 1, pruned := false }
    else
      match v.slotOf (leNat (d.loadSpan k m)) with
      | some (c, i) =>
        let n := rowSize 2 c.format v.dim
        { spans := cutHomes [{ sa := c.sa + i * n, len := n }], remap := [m], kind := 2, format := c.format, pruned := false }
      | none => { spans := [], remap := [m], kind := 2, format := 1, pruned := true }
  else
    { spans := d.liveSpans dom (v.rowsCva + row * v.stride) (rowSize v.kind v.format v.dim), remap := [], kind := v.kind, format := v.format, pruned := false }

/-- The spans of a row's optimizer state (R205). -/
def Dev.stateSpans (d : Dev) (dom : Nat) (v : Version) (row : Nat) : List Span :=
  let n := 4 * stateWords v.stateKind v.dim
  if v.stateKind = 0 then [] else d.liveSpans dom (v.stateCva + row * n) n

/-- The popularity count of a row (R205, R214). -/
def Dev.countSpans (d : Dev) (dom : Nat) (v : Version) (row : Nat) : List Span := d.liveSpans dom (v.popCva + 4 * row) 4

/-- The CVA ranges of a row of a host-held version, and of its state where it is written. -/
def Version.needs (v : Version) (write : Bool) (row : Nat) : List Need :=
  if v.kind = 3 then []
  else
    ⟨v.rowsCva + row * v.stride, rowSize v.kind v.format v.dim, write, 0⟩ ::
      if write && v.stateKind != 0 then [⟨v.stateCva + row * 4 * stateWords v.stateKind v.dim, 4 * stateWords v.stateKind v.dim, true, 0⟩] else []

/-- What a step finds as it runs (R107, R295): what it reads and writes, and the CVA ranges by which it came there. -/
structure Found where
  reads : List Span
  writes : List Span
  needs : List Need
deriving DecidableEq, Repr

/-- Two such together. -/
def Found.plus (a b : Found) : Found := { reads := a.reads ++ b.reads, writes := a.writes ++ b.writes, needs := a.needs ++ b.needs }

/-- A row that is read. -/
def Dev.foundRow (d : Dev) (dom : Nat) (k : Cmd) (v : Version) (row : Nat) : Found :=
  let a := d.rowAt dom k v row
  { reads := a.remap ++ a.spans, writes := [], needs := v.needs false row }

/-- Whether the ADD of a SCATTER_UPDATE is made of FADDs (R220, R222). -/
def Cmd.fadds (k : Cmd) : Bool := fieldAt k.line 18 1 == 2 && k.version.any fun v => v.format == 1

/-- A row and its state. -/
def Dev.updateSpans (d : Dev) (dom : Nat) (k : Cmd) (v : Version) (row : Nat) : List Span := (d.rowAt dom k v row).spans ++ d.stateSpans dom v row

/-- Whether some of a row that is to be updated lies on another member. -/
def Dev.rowAway (d : Dev) (dom : Nat) (k : Cmd) (v : Version) (row : Nat) : Bool := (d.updateSpans dom k v row).any fun s => !d.isLocal s.sa

/-- The rows of a GATHER's pieces. -/
def BagPiece.rows (p : BagPiece) : List Nat := p.terms.filterMap (·.row)

/-- Whether a GATHER counts (R212). -/
def Cmd.counting (k : Cmd) : Bool := bit (lineFlags k.line) 1

/-- The rows of a class of a REHANG in the order of its ranking (R217). -/
def Cmd.classRows (k : Cmd) (order : List Nat) (cls : Nat) : List Nat :=
  let n (i : Nat) : Nat := fieldAt k.line (32 + 4 * i) 4
  (order.drop (((List.range cls).map n).foldl (· + ·) 0)).take (n cls)

/-- Rows by popularity, greatest first, ties by lower row (R217). -/
def rankRows (counts : List Nat) : List Nat :=
  sortOrd (fun a b => decide (at! counts b 0 < at! counts a 0) || (at! counts a 0 == at! counts b 0 && decide (a < b)))
    (List.range counts.length)

/-- The order of a REHANG's rows, once its ranking steps have read every count. -/
def Cmd.ranking (k : Cmd) : List Nat := rankRows (k.counts.map (·.getD 0))

/-- The version that a REHANG builds from its source (R207, R216, R218): its classes and its remap table lie in the store placed for it. -/
def Cmd.rehanged (k : Cmd) (v : Version) : Version :=
  let n (i : Nat) : Nat := fieldAt k.line (32 + 4 * i) 4
  let placed := (List.range 3).foldl (fun (acc : List Nat × List Span) i =>
    if n i = 0 then (acc.1 ++ [0], acc.2) else (acc.1 ++ [(acc.2.head?.map (·.sa)).getD 0], acc.2.drop 1)) (([] : List Nat), k.freeing)
  { number := 0, state := .staged, kind := 3, rows := v.rows, dim := v.dim, format := 0, rowsCva := 0, stride := 0
    popCva := if fieldAt k.line 48 8 = 0 then v.popCva else fieldAt k.line 48 8
    stateCva := 0, stateKind := 0, source := v.number
    classes := (List.range 3).map fun c => { format := fieldAt k.line (18 + c) 1, sa := at! placed.1 c 0, rows := n c }
    remapSa := (placed.2.head?.map (·.sa)).getD 0 }

/-- What an effect finds as it runs. A row that lies on another member is found under its lock, by itself (R222). -/
def Dev.foundBy (d : Dev) (r : SlotRef) (k : Cmd) (f : Effect) : Found :=
  let dom := d.domainOf r
  let none : Found := { reads := [], writes := [], needs := [] }
  match f, k.version with
  | .entries lo n, _ => let ts := d.entryTargets r k lo n; { reads := ts, writes := ts, needs := [] }
  | .gather ps, some v =>
    let rows := (ps.flatMap BagPiece.rows).eraseDups
    let cs : List Nat := if k.counting then rows else []
    let counts := (cs.flatMap fun i => d.countSpans dom v i).filter fun s => d.isLocal s.sa
    ((rows.map fun i => d.foundRow dom k v i).foldl Found.plus none).plus
      { reads := [], writes := counts, needs := cs.map fun i => ⟨v.popCva + 4 * i, 4, false, 0⟩ }
  | .row u, some v =>
    let ss := d.updateSpans dom k v u.row
    if u.phase != 0 then none
    else if d.rowAway dom k v u.row then { none with needs := v.needs true u.row }
    else { reads := ss, writes := ss, needs := v.needs true u.row }
  | .encodeRows cls lo n, some v =>
    let rows := ((k.classRows k.ranking cls).drop lo).take n
    ((rows.map fun i => d.foundRow dom k v i).foldl Found.plus none).plus
      { reads := [], writes := rows.map fun i => (k.rehanged v).remapSpan i, needs := [] }
  | _, _ => none

/-- What a step finds as it runs. -/
def Dev.found (d : Dev) (r : SlotRef) (k : Cmd) (st : Step) : Found :=
  (st.effects.map (d.foundBy r k)).foldl Found.plus { reads := [], writes := [], needs := [] }

/-- The first fault among CVA ranges through the extents in force, with the checks of R293 (R295). -/
def Dev.needFault (d : Dev) (dom : Nat) (ns : List Need) : Option Status :=
  if ns.isEmpty then none
  else
    match translate d.extents dom [] ns with
    | .fault st _ _ => some st
    | _ => if ns.any fun n => match cover d.extents dom n.cva n.len with
        | .error _ => true
        | .ok _ => false then some .xlateFault
      else if ns.any fun n => n.write && match cover d.extents dom n.cva n.len with
        | .ok xs => xs.any fun e => !e.rights.writes
        | .error _ => false then some .accessDenied
      else none

/-! ### GATHER (R213, R214, R225) -/

/-- Rows added element by element in ascending order; no rows give +0 (R213). -/
def sumRows (dim : Nat) (rows : List (List W32)) : List W32 :=
  (List.range dim).map fun e =>
    match rows with
    | [] => fzero
    | x :: xs => xs.foldl (fun a y => fadd a (at! y e 0)) (at! x e 0)

/-- A row as a PE reads it: whether it is poisoned, and its elements; a pruned row is zeros (R207, R213). -/
def Dev.readRow (d : Dev) (pe : Option Nat) (dom : Nat) (k : Cmd) (v : Version) (row : Nat) : Bool × List W32 × Dev :=
  let a := d.rowAt dom k v row
  if a.pruned then (false, List.replicate v.dim fzero, d)
  else if a.spans.isEmpty || d.badSpans k (a.remap ++ a.spans) then (true, List.replicate v.dim fzero, d)
  else
    let (bs, d) := d.peReadAll pe dom k a.spans
    (false, decodeStored a.kind a.format v.dim bs, d)

/-- The pooling of a GATHER (R212). -/
def Cmd.pooling (k : Cmd) : Nat := fieldAt k.line 18 1

/-- Bytes between output rows of a GATHER (R213). -/
def Cmd.outStride (k : Cmd) (v : Version) : Nat := roundUp (elemBytes (fieldAt k.line 19 1) v.dim) 32

/-- A piece of a bag is pooled (R213): its terms in ascending order, then its sum added to that of the steps before it. -/
def Dev.poolPiece (d : Dev) (pe : Option Nat) (dom : Nat) (k : Cmd) (v : Version) (old : Option Pool) (p : BagPiece) : Pool × Dev :=
  let w := k.pooling == 3
  let (terms, bad, d) := p.terms.foldl (fun (acc : List (W32 × List W32) × Bool × Dev) t =>
    match t.row with
    | none => (acc.1, true, acc.2.2)
    | some i =>
      let (bad, xs, d) := acc.2.2.readRow pe dom k v i
      (acc.1 ++ [(t.weight.getD fone, xs)], acc.2.1 || bad || (w && t.weight.isNone), d)) (([] : List (W32 × List W32)), p.bad, d)
  let part := sumRows v.dim (terms.map fun t => if w then t.2.map fun x => fmul t.1 x else t.2)
  let nan := (List.range v.dim).map fun e => terms.any fun t => isNan (at! t.2 e 0) || (w && isNan t.1)
  match old with
  | some q =>
    ({ sum := (List.range v.dim).map fun e => fadd (at! q.sum e 0) (at! part e 0), bad := q.bad || bad
       nan := (List.range v.dim).map fun e => at! q.nan e false || at! nan e false }, d)
  | none => ({ sum := part, bad := bad, nan := nan }, d)

/-- The result row of a bag in bytes, and its numeric events (R213, R144): the output format's canonical NaN where a sector that it
depends on is poisoned (R225). -/
def Cmd.bagRow (k : Cmd) (v : Version) (q : Pool) (size : Nat) : List Byte × NumEvents :=
  let inv := fdiv fone (fofNat size)
  let ys := if q.bad then List.replicate v.dim fnan
    else if size = 0 then List.replicate v.dim fzero
    else if k.pooling == 2 then q.sum.map fun x => fmul x inv else q.sum
  let (bs, ev) := encodeVec (fieldAt k.line 19 1) ys
  let made := ((List.range v.dim).filter fun e => isNan (at! ys e 0) && !at! q.nan e false).length
  (padTo bs 32, if q.bad then .none else ev.plus ⟨0, made⟩)

/-- An output row of a GATHER goes to its place, or under HOST_OUT to host memory (R212). -/
def Dev.putBag (d : Dev) (r : SlotRef) (pe : Option Nat) (c : Context) (k : Cmd) (v : Version) (bag : Nat) (bs : List Byte) : Dev :=
  let at' := fieldAt k.line 56 8 + bag * k.outStride v
  if !bit (lineFlags k.line) 0 then
    ((spread (k.spans c.domain at' bs.length) bs).foldl (fun d w => d.stepWrite r pe w) d).modCmd r fun k => { k with w0 := k.w0 + 1 }
  else if d.portUp c.homePort then
    (d.toPort c.homePort c.domain true bs.length (some r) (.write c.homePort at' bs)).modCmd r fun k => { k with w0 := k.w0 + 1 }
  else d.raise r .targetDead

/-- A row's count at its home goes up by 1, and holds at its greatest (R214): no status depends on it. DESIGN CHOICE (log 30): a count in
an extent that may not be written, or in a poisoned sector, stays. -/
def Dev.addCount (d : Dev) (sa : Nat) : Dev :=
  if d.poisonedIn { sa := sa, len := 4 } then d else d.write sa (natLe (min (leNat (memRead d.mem sa 4) + 1) 0xFFFF_FFFF) 4)

/-- The count of an index that was read (R214): here, or at its home. -/
def Dev.countIndex (d : Dev) (dom : Nat) (v : Version) (row : Nat) : Dev :=
  match findExtent d.extents dom (v.popCva + 4 * row) with
  | none => d
  | some e =>
    let sa := e.sa + (v.popCva + 4 * row - e.cva)
    if !e.rights.writes then d
    else if d.isLocal sa then d.addCount sa
    else if d.reaches (d.homeOf sa) then d.tellStep .count (d.homeOf sa) dom 0 [sa]
    else d

/-- A step of GATHER (R213 to R215, R225): each piece is pooled, bags that end are written, indices are counted. -/
def Dev.gatherStep (d : Dev) (r : SlotRef) (pe : Option Nat) (ps : List BagPiece) : Dev :=
  match d.ctx? r.ctx, d.cmd? r with
  | some c, some k =>
    match k.version with
    | none => d
    | some v =>
      let dom := c.domain
      let one (d : Dev) (p : BagPiece) : Dev :=
        let old := if p.first then none else (d.cmd? r).bind (·.pool)
        let (q, d) := d.poolPiece pe dom k v old p
        let lost := !p.first && old.isNone
        let rows := p.rows
        let pruned := (rows.filter fun i => (d.rowAt dom k v i).pruned).length
        let d := d.modCmd r fun k => { k with pool := if p.last || lost then none else some q, w1 := k.w1 + BitVec.ofNat 64 pruned }
        let d := if q.bad then d.raise r .poisoned else d
        let d := d.countPage dom 0xC0 rows.length
        let d := if k.counting then rows.foldl (fun d i => d.countIndex dom v i) d else d
        if p.last && !lost then
          let (bs, ev) := k.bagRow v q p.size
          (d.putBag r pe c k v p.bag bs).countEvents dom ev
        else d
      ps.foldl one d
  | _, _ => d

/-! ### SCATTER_UPDATE (R219 to R222) -/

/-- A gradient of a SCATTER_UPDATE: its spans. -/
def Cmd.gradSpans (k : Cmd) (dom : Nat) (v : Version) (i n : Nat) : List Span :=
  let gb := v.dim * (elemBits (fieldAt k.line 19 1) / 8)
  k.spans dom (fieldAt k.line 32 8 + i * gb) (n * gb)

/-- A combining step (R221): gradients of one row are added in ascending entry order; under ASSIGN the last one stands. The row of a
poisoned gradient gets no update (R225). -/
def Dev.combineRows (d : Dev) (r : SlotRef) (pe : Option Nat) (rows : List (Nat × Nat)) : Dev :=
  match d.cmd? r with
  | none => d
  | some k =>
    match k.version with
    | none => d
    | some v =>
      let dom := d.domainOf r
      let one (d : Dev) (x : Nat × Nat) : Dev :=
        let ss := k.gradSpans dom v x.1 1
        let bad := d.badSpans k ss
        let (bs, d) := d.peReadAll pe dom k ss
        let g := decodeVec (fieldAt k.line 19 1) v.dim bs
        let old := ((d.cmd? r).bind fun k => k.grads.find? fun y => y.1 == x.2).map Prod.snd
        let new : Option (List W32) × NumEvents := match old with
          | none => (if bad then none else some g, .none)
          | some none => (none, .none)
          | some (some a) =>
            if bad then (none, .none)
            else if fieldAt k.line 18 1 = 1 then (some g, .none)
            else
              let ys := (a.zip g).map fun p => ([p.1, p.2], fadd p.1 p.2)
              (some (ys.map (·.2)), nanEvents ys)
        let d := d.modCmd r fun k => { k with grads := (x.2, new.1) :: k.grads.filter fun y => y.1 != x.2 }
        (if bad then d.raise r .poisoned else d).countEvents dom new.2
      rows.foldl one d

/-- The combined gradient of a row. -/
def Cmd.gradOf (k : Cmd) (row : Nat) : Option (List W32) := (k.grads.find? fun y => y.1 == row).bind Prod.snd

/-- An application is counted (R222, R226). -/
def Dev.rowApplied (d : Dev) (r : SlotRef) (dom : Nat) : Dev := (d.countPage dom 0xC0 1).modCmd r fun k => { k with w0 := k.w0 + 1 }

/-- An ADD on an FP32 row (R220, R222): one FADD per element and one ADD to the header's count, each at its home. -/
def Dev.faddRow (d : Dev) (r : SlotRef) (dom : Nat) (k : Cmd) (v : Version) (row : Nat) (g : List W32) : Dev :=
  let u := optArgs k.line
  let base := v.rowsCva + row * v.stride
  let one (d : Dev) (cva op x : Nat) : Dev :=
    match saOf d.extents dom cva with
    | none => d
    | some sa =>
      if d.isLocal sa then
        let (d, old, _, bad) := d.atomicAt sa 4 op x 0 (fun d a b => d.storeWrite r a b)
        if bad then d.raise r .poisoned else d.countNan dom op old x
      else d.atomicRemote r sa 4 op x 0 0 none
  let ps := g.map fun x => ([x], fmul u.lr x)
  let d := (List.range v.dim).foldl (fun d i => one d (base + 16 + 4 * i) 0x02 (at! ps i ([], 0)).2.toNat) (d.countEvents dom (nanEvents ps))
  (one d (base + 12) 0x01 1).rowApplied r dom

/-- One row's application as a whole (R220, R222): not applied where the row or its state is poisoned; header, elements and state are
written as one, the row counted, an assign collision reported. -/
def Dev.wholeRow (d : Dev) (r : SlotRef) (pe : Option Nat) (dom : Nat) (k : Cmd) (v : Version) (row : Nat) (g : List W32) : Dev :=
  let u := optArgs k.line
  let at' := (d.rowAt dom k v row).spans
  let state := d.stateSpans dom v row
  if d.badSpans k (at' ++ state) then d.raise r .poisoned
  else
    let seq := lineSeq k.line
    let old := d.loadAll k at'
    let st := d.loadAll k state
    let x := decodeStored 1 v.format v.dim old
    let s := words32 (st.length / 4) st
    let (y, s') := u.compute ([leNat (slice k.line 16 48), row]) v.dim x s g
    let (body, ev) := encodeVec v.format y
    let ws := spread at' (u.header old seq r.ctx d.coll.geoId ++ body ++ old.drop (16 + body.length)) ++ spread state (s'.flatMap fun w => natLe w.toNat 4)
    let d := (ws.foldl (fun d w => d.stepWrite r pe w) d).countEvents dom (ev.plus (u.events v.dim x s g y s'))
    let d := d.rowApplied r dom
    if u.collides old seq r.ctx d.coll.geoId then
      let d := d.modCmd r fun k => { k with w2 := k.w2 + BitVec.ofNat 64 (2 ^ 32) }
      (d.countPage dom 0xC8 1).fault (.domain dom) 0x06 none dom r.ctx seq 0xFFFF row
        (fieldAt old 4 4 * 2 ^ 32 + fieldAt old 10 1 * 2 ^ 16 + fieldAt old 8 2) u.step.toNat
    else d

/-- A row of a SCATTER_UPDATE is applied; a row without a combined gradient gets no update (R222, R225). -/
def Dev.applyRow (d : Dev) (r : SlotRef) (pe : Option Nat) (row : Nat) : Dev :=
  match d.cmd? r with
  | none => d
  | some k =>
    match k.version, k.gradOf row with
    | some v, some g => if k.fadds then d.faddRow r (d.domainOf r) k v row g else d.wholeRow r pe (d.domainOf r) k v row g
    | _, _ => d

/-! ### Row locks (R220, R222) -/

/-- Whether a row is locked against a member. -/
def Dev.rowLocked (d : Dev) (fid sa len : Nat) : Bool := d.rowLocks.any fun x => x.fid != fid && overlap x.sa x.len sa len

/-- The header of a row. -/
def Dev.headerOf (d : Dev) (dom : Nat) (k : Cmd) (v : Version) (row : Nat) : Option Span := (d.rowAt dom k v row).spans.head?

/-- A row's lock is asked for: taken here, or asked of the home of its header (R220). -/
def Dev.lockRow (d : Dev) (r : SlotRef) (h : Span) (size : Nat) : Option Dev :=
  let me := d.fidOf d.coll.geoId
  if d.isLocal h.sa then
    if d.rowLocks.any fun x => overlap x.sa x.len h.sa size then none
    else some { d with rowLocks := d.rowLocks ++ [{ fid := me, sa := h.sa, len := size }] }
  else some (d.askStep r .lock (d.homeOf h.sa) r.ctx (stepArgs [h.sa, size]))

/-- Other members' requests for locks that wait here are granted, the oldest first, where their rows are free (R220). -/
def Dev.grantLocks (d : Dev) : Dev :=
  d.serving.foldl (fun d x => match x.req, x.answer with
    | some (0x06, m), none =>
      let sa := fieldAt m.payload 8 8
      let len := fieldAt m.payload 16 8
      if fieldAt m.payload 0 8 != StepKind.lock.code || d.rowLocks.any (fun y => overlap y.sa y.len sa len) then d
      else Dev.answerWaiting { d with rowLocks := d.rowLocks ++ [{ fid := m.src, sa := sa, len := len }] } x m .ok []
    | _, _ => d) d

/-- A row's lock is given up. -/
def Dev.unlockRow (d : Dev) (dom sa : Nat) : Dev :=
  if d.isLocal sa then Dev.grantLocks { d with rowLocks := d.rowLocks.filter fun x => !(x.fid == d.fidOf d.coll.geoId && x.sa == sa) }
  else d.tellStep .unlock (d.homeOf sa) dom 0 [sa]

/-- A row of an issued step comes to a phase. -/
def Dev.setPhase (d : Dev) (r : SlotRef) (num row phase : Nat) : Dev :=
  d.modCmd r fun k => { k with plan := k.plan.map fun (s : Step) =>
    if s.num == num then { s with effects := s.effects.map fun f => match f with
        | .row u => if u.row = row then .row { u with phase := phase } else f
        | f => f }
    else s }

/-- The locks that an issued step holds are given up: it leaves its command (R222). -/
def Dev.unlockStep (d : Dev) (r : SlotRef) (st : Step) : Dev :=
  match d.cmd? r with
  | none => d
  | some k =>
    match k.version with
    | none => d
    | some v =>
      st.effects.foldl (fun d f => match f with
        | .row u =>
          if u.phase = 2 || u.phase = 3 then
            match d.headerOf (d.domainOf r) k v u.row with
            | some h => d.unlockRow (d.domainOf r) h.sa
            | none => d
          else d
        | _ => d) d

/-- What an applying step brings about before it retires (R221, R222): nothing while gradients are still combined; each row that lies on
another member in part is locked at its header's home, read, written, and unlocked once its writes are acknowledged; a row here waits
for another member's lock. -/
def Dev.rowHold (d : Dev) (r : SlotRef) (k : Cmd) (st : Step) : Option Dev :=
  let dom := d.domainOf r
  match k.version with
  | none => none
  | some v =>
    let us := st.effects.filterMap fun f => match f with
      | .row u => some u
      | _ => none
    let combining := k.plan.any fun s => s.effects.any fun f => match f with
      | .combine _ => true
      | _ => false
    if us.isEmpty then none
    else if combining then some d
    else
      match us.find? fun u => u.phase != 4 && (k.gradOf u.row).isSome && !k.fadds && (u.phase != 0 || d.rowAway dom k v u.row) with
      | some u =>
        let ss := d.updateSpans dom k v u.row
        let head := (ss.head?).getD { sa := 0, len := 0 }
        match u.phase with
        | 0 =>
          (match d.lockRow r head (rowSize 1 v.format v.dim) with
           | some d' => some (d'.setPhase r st.num u.row (if d.isLocal head.sa then 2 else if d.answers (d.homeOf head.sa) then 1 else 4))
           | none => some d)
        | 2 =>
          let miss := d.missing k ss
          if miss.isEmpty then
            let (pe, d) := d.readerOf st.kind st.engine
            some ((d.applyRow r pe u.row).setPhase r st.num u.row 3)
          else some (d.askMissing r k ss)
        | 3 =>
          if k.remote.any fun a => a.isWrite && ss.any fun s => overlap s.sa s.len a.sa a.len then some d
          else some ((d.unlockRow dom head.sa).setPhase r st.num u.row 4)
        | _ => some d
      | none =>
        if us.any fun u => u.phase == 0 && (d.headerOf dom k v u.row).any fun h => d.isLocal h.sa && d.rowLocks.any fun x => overlap x.sa x.len h.sa h.len then some d
        else none

/-! ### REHANG (R216, R217) -/

/-- Whether a command has failed so far that a new version cannot come of it (R225). -/
def Dev.rehangOver (d : Dev) (r : SlotRef) : Bool := (d.cmd? r).any hasFailed

/-- A remap entry is written (R207). -/
def Dev.putRemap (d : Dev) (r : SlotRef) (pe : Option Nat) (v : Version) (row cls slot : Nat) : Dev :=
  d.stepWrite r pe { sa := (v.remapSpan row).sa, bytes := natLe (cls * 2 ^ 30 + slot) 4 }

/-- A ranking step reads counts (R217). A poisoned one ends the REHANG with POISONED. The last ranking step writes the remap entries of
the pruned rows, which R223 gives no step of their own (DESIGN CHOICE, log 114). -/
def Dev.rankStep (d : Dev) (r : SlotRef) (pe : Option Nat) (lo n : Nat) (last : Bool) : Dev :=
  match d.cmd? r with
  | none => d
  | some k =>
    match k.version with
    | none => d
    | some v =>
      let dom := d.domainOf r
      let pop := (k.rehanged v).popCva
      let ss := k.spans dom (pop + 4 * lo) (4 * n)
      if hasFailed k then d
      else if d.badSpans k ss then (d.raise r .poisoned).modCmd r fun k => { k with plan := k.plan.take k.issued }
      else
        let (bs, d) := d.peReadAll pe dom k ss
        let d := d.modCmd r fun k => { k with counts := k.counts ++ (List.range n).map fun i => some (fieldAt bs (4 * i) 4) }
        match last, d.cmd? r with
        | true, some k =>
          let new := k.rehanged v
          let kept := ((new.classes).map (·.rows)).foldl (· + ·) 0
          (k.ranking.drop kept).foldl (fun d row => d.putRemap r pe new row 3 0) d
        | _, _ => d

/-- An encoding step (R217): rows of a class are read from the source, encoded, and written with their remap entries. -/
def Dev.encodeStep (d : Dev) (r : SlotRef) (pe : Option Nat) (cls lo n : Nat) : Dev :=
  match d.cmd? r with
  | none => d
  | some k =>
    match k.version with
    | none => d
    | some v =>
      let dom := d.domainOf r
      let new := k.rehanged v
      let rows := ((k.classRows k.ranking cls).drop lo).take n
      let one (d : Dev) (x : Nat × Nat) : Dev :=
        if d.rehangOver r then d
        else
          let (bad, xs, d) := d.readRow pe dom k v x.2
          if bad then (d.raise r .poisoned).modCmd r fun k => { k with plan := k.plan.take k.issued }
          else
            match new.classes[cls]? with
            | none => d
            | some w =>
              let (bs, ev) := encodeRow w.format xs
              let size := rowSize 2 w.format v.dim
              let d := d.stepWrite r pe { sa := w.sa + (lo + x.1) * size, bytes := padTo bs 32 }
              (d.putRemap r pe new x.2 cls (lo + x.1)).countEvents dom ev
      ((List.range rows.length).zip rows).foldl one d

/-- Whether an encoding step waits for the ranking (R217). -/
def rankHold (d : Dev) (k : Cmd) (st : Step) : Option Dev :=
  let encodes := st.effects.any fun f => match f with
    | .encodeRows _ _ _ => true
    | _ => false
  let ranks := k.plan.any fun s => s.effects.any fun f => match f with
    | .rank _ _ _ => true
    | _ => false
  if encodes && ranks && !hasFailed k then some d else none

/-- The built version enters the catalogue with the last step (R203, R216): here, or at the table's home. -/
def Dev.enterVersion (d : Dev) (r : SlotRef) (dom id : Nat) (v : Version) (pub : Bool) (expected : W32) (bytes pruned : Nat) : Dev :=
  if d.rehangOver r then d
  else
    let home := d.tableHome dom id
    if home = d.coll.geoId then
      let (d, st, n, old) := d.admitVersion dom id v pub expected
      d.versionEntered r st n old bytes pruned
    else d.askStep r .enter home r.ctx (stepArgs [id, b2n pub, expected.toNat, bytes, pruned] ++ v.record)

/-- Whether a step reads or writes rows of the version that its command is bound to (R208). -/
def Step.onRows (st : Step) : Bool :=
  st.effects.any fun f => match f with
    | .gather _ => true
    | .row _ => true
    | .encodeRows _ _ _ => true
    | _ => false

/-- A command is bound no longer once the last step on its version's rows has retired (R208). -/
def Dev.unbindIdle (d : Dev) (r : SlotRef) (st : Step) : Dev :=
  match d.cmd? r with
  | none => d
  | some k => if st.onRows && !(k.plan.any Step.onRows) then d.unbind r k else d

end Sys2Proof.Machine
end

