-- ==== Sys2Proof/Machine/Steps.lean ====
section
/-! DEFINITION. What a step does when it retires (R84, R110): its writes, poison, posted data and effects; what keeps it from
retiring, and the recovery ladder's hold on it (R400). -/

namespace Sys2Proof.Machine

/-! ### Steps that go -/

/-- Issued steps leave a command without an effect, and wait for no repair and no flash read (R267, R299, R401). -/
def Dev.dropSteps (d : Dev) (r : SlotRef) (p : Step → Bool) : Dev :=
  match d.cmd? r with
  | none => d
  | some k =>
    let gone := (k.plan.take k.issued).filter p
    let kept := (k.plan.take k.issued).filter (!p ·)
    let mine (w : RepairWaiter) : Bool := match w with
      | .step x n => x == r && gone.any (·.num == n)
      | _ => false
    let d := { d with repairs := d.repairs.map fun (x : Repair) => { x with waiters := x.waiters.filter (!mine ·) } }
    let d := gone.foldl (fun d s => d.unlockStep r s) d
    let d := d.modCmd r fun k => { k with plan := kept ++ k.plan.drop k.issued, issued := kept.length }
    let wanted (g : Nat) : Bool := kept.any fun s => s.cold.contains g || s.flash.contains g
    d.leaveMedia fun x g => x == r && gone.any (fun s => s.cold.contains g) && !wanted g

/-! ### STREAM (R277 to R281) -/

/-- The code of a layer's state (R279). -/
def LayerState.code : LayerState → Nat
  | .pending => 0 | .full => 1 | .fullLate => 2 | .shadow => 3 | .missed => 4 | .abandoned => 5

/-- A status word (R279); `t0` is when the command took its tag. -/
def StreamLayer.word (x : StreamLayer) (t0 : Nat) : List Byte :=
  natLe x.state.code 1 ++ natLe (b2n x.failed + 2 * b2n x.copied) 1 ++ natLe 0 2 ++ natLe ((x.time - t0) / 1000) 4 ++ natLe x.written 8

/-- The result words of STREAM as its layers stand (R283). -/
def Cmd.streamWords (k : Cmd) : Cmd :=
  let full (x : StreamLayer) : Bool := x.state == .full || x.state == .fullLate
  { k with
    w0 := BitVec.ofNat 64 (k.layers.filter full).length
    w1 := BitVec.ofNat 64 (k.layers.filter fun x => x.state == .shadow).length
    w2 := match k.layers.findIdx? fun x => !full x with
      | some i => BitVec.ofNat 64 i
      | none => BitVec.allOnes 64 }

/-- The layer whose bytes a step transfers, and whether they are those of its shadow. -/
def Step.moves? (st : Step) : Option (Nat × Bool) :=
  st.effects.findSome? fun f => match f with
    | .streamMove i _ _ _ sh => some (i, sh)
    | _ => none

/-- Some layers stop (R280): their transfer steps go, with the reads that these wait for (R267), and new steps come ahead of the rest. -/
def Dev.replan (d : Dev) (r : SlotRef) (gone : Nat → Bool) (new : List Step) : Dev :=
  let stops (st : Step) : Bool := st.moves?.any fun m => gone m.1 && !m.2
  let srcs := ((d.cmd? r).map fun k => (k.plan.filter stops).flatMap (·.reads)).getD []
  (d.dropSteps r stops).modCmd r fun k =>
    { k with
      plan := k.plan.take k.issued ++ new ++ (k.plan.drop k.issued).filter (fun (s : Step) => !(s.layer?.any gone))
      remote := k.remote.filter fun a => a.isWrite || !srcs.any (fun s => overlap s.sa s.len a.sa a.len) }.streamWords

/-- The transfer step of a span of a layer, or of its shadow under HOST_OUT (R282): on a mover. -/
def moveStep (i : Nat) (src : Span) (dst : Nat) (host shadow : Bool) : Step :=
  { Step.nop with kind := .mover, free := true, reads := [src], effects := [.streamMove i src dst host shadow] }

/-- The step that writes status words of layers (R282): it may overtake the transfers of other layers. -/
def statusStep (ls : List Nat) (copied : Bool) : Step := { Step.nop with free := true, effects := [.streamStatus ls copied] }

/-- A layer is served from its shadow (R280, R281): no copy is made, or under HOST_OUT the copy and then the status. -/
def Dev.serveShadow (d : Dev) (r : SlotRef) (i : Nat) (failed : Bool) : Dev :=
  match d.cmd? r with
  | none => d
  | some k =>
    match k.layers[i]? with
    | none => d
    | some x =>
      let host := bit (lineFlags k.line) 0
      let dst := fieldAt k.desc (64 + 32 * i + 8) 8
      let dom := d.domainOf r
      let copies := ((k.spans dom x.shadow x.shadowBytes).foldl (fun (acc : List Step × Nat) s =>
        (acc.1 ++ [moveStep i s acc.2 true true], acc.2 + s.len)) ([], dst)).1
      let steps := (if host then copies else []) ++ [statusStep [i] host]
      let y := { x with state := .shadow, failed := failed, time := d.now, written := 0 }
      let d := d.modCmd r fun k => { k with layers := k.layers.set i y, raised := k.raised ++ [.okDegraded] }
      (d.countPage dom 0x110 1).replan r (· == i) steps

/-- A layer is MISSED and the later ones are ABANDONED, none of them transferred (R280, R281). -/
def Dev.missLayer (d : Dev) (r : SlotRef) (i : Nat) (failed : Bool) : Dev :=
  match d.cmd? r with
  | none => d
  | some k =>
    let hit (j : Nat) : Bool := decide (i ≤ j) && (k.layers[j]?).any fun x => x.state == .pending
    let js := (List.range k.layers.length).filter hit
    let put (j : Nat) (x : StreamLayer) : StreamLayer :=
      if hit j then { x with state := if j = i then .missed else .abandoned, failed := failed && j == i, time := d.now } else x
    let d := d.modCmd r fun k =>
      { k with
        layers := (List.range k.layers.length).filterMap fun j => (k.layers[j]?).map (put j)
        raised := if failed then k.raised else k.raised ++ [.deadlineMissed] }
    d.replan r (fun j => js.contains j) [statusStep js false]

/-- Whether a STREAM's policy is SHADOW (R275). -/
def Cmd.shadowPolicy (k : Cmd) : Bool := fieldAt k.desc 2 1 == 0 || fieldAt k.desc 2 1 == 2

/-- The deadline of a layer acts by the policy SHADOW or FAIL (R280); a layer without a shadow is treated as under FAIL. -/
def Dev.lateLayer (d : Dev) (r : SlotRef) (i : Nat) (failed : Bool) : Dev :=
  match d.cmd? r with
  | none => d
  | some k =>
    if k.shadowPolicy && (k.layers[i]?).any fun x => x.shadow != 0 then d.serveShadow r i failed else d.missLayer r i failed

/-- The source of a layer cannot be read (R281): the status is raised and the layer is served or missed. -/
def Dev.sourceFailed (d : Dev) (r : SlotRef) (i : Nat) (st : Status) : Dev :=
  match d.cmd? r with
  | none => d
  | some k =>
    if (k.layers[i]?).any fun x => x.state == .pending then (d.raise r st).lateLayer r i true else d

/-- The layer of a STREAM whose transfer a step is: an unreadable source of it serves or misses the layer (R281). -/
def Step.sourceOf? (st : Step) : Option Nat := st.moves?.bind fun m => if m.2 then none else some m.1

/-- Move bytes of a layer (R278, R282): nothing more of a layer that has ended; a poisoned source fails the layer. -/
def Dev.streamMove (d : Dev) (r : SlotRef) (i : Nat) (src : Span) (dst : Nat) (host shadow : Bool) : Dev :=
  match d.ctx? r.ctx, d.cmd? r with
  | some c, some k =>
    if !shadow && !(k.layers[i]?).any fun x => x.state == .pending then d
    else if d.badSpan k src then if shadow then d.raise r .poisoned else d.sourceFailed r i .poisoned
    else if host then
      if d.portUp c.homePort then
        (d.modCmd r fun k => if shadow then { k with layers := k.layers.modify i fun x => { x with written := x.written + src.len } } else k).toPort
          c.homePort c.domain true src.len (some r) (.write c.homePort dst (d.loadSpan k src))
      else d.raise r .targetDead
    else d.stepWrite r none { sa := dst, bytes := d.loadSpan k src }
  | _, _ => d

/-- Write the status words of layers (R278, R279). -/
def Dev.streamStatus (d : Dev) (r : SlotRef) (ls : List Nat) (copied : Bool) : Dev :=
  match d.ctx? r.ctx, d.cmd? r with
  | some c, some k =>
    let host := bit (lineFlags k.line) 0
    let arr := fieldAt k.desc 8 8
    let now := d.now
    let upd (x : StreamLayer) : StreamLayer :=
      if x.state == .pending then
        { x with state := if k.t0 + x.deadline * 1000 < now then .fullLate else .full, time := now, written := x.bytes }
      else { x with copied := x.copied || (copied && x.state == .shadow && x.written == x.shadowBytes) }
    let all (k : Cmd) : List StreamLayer := (List.range k.layers.length).filterMap fun j =>
      (k.layers[j]?).map fun x => if ls.contains j then upd x else x
    let d := d.modCmd r fun k => { k with layers := all k }.streamWords
    ls.foldl (fun d j =>
      match (d.cmd? r).bind fun k => k.layers[j]? with
      | none => d
      | some x =>
        let w := x.word k.t0
        if host && x.state == .shadow && !copied then d
        else if host then
          if d.portUp c.homePort then d.toPort c.homePort c.domain true 16 (some r) (.write c.homePort (arr + 16 * j) w)
          else d.raise r .targetDead
        else (spread (spansOf k.caps c.domain (arr + 16 * j) 16) w).foldl (fun d w => d.stepWrite r none w) d) d
  | _, _ => d

/-- The spans that the status words of layers, or a layer's bytes, are written to. -/
def Cmd.statusSpans (k : Cmd) (dom : Nat) (ls : List Nat) : List Span :=
  if bit (lineFlags k.line) 0 then [] else ls.flatMap fun i => k.spans dom (fieldAt k.desc 8 8 + 16 * i) 16

def Cmd.layerSpans (k : Cmd) (dom i : Nat) : List Span :=
  if bit (lineFlags k.line) 0 then [] else k.spans dom (fieldAt k.desc (64 + 32 * i + 8) 8) ((k.layers[i]?.map (·.bytes)).getD 0)

/-- What a status step of STREAM waits for before it retires (R278, R280): the step that wrote PENDING; the transfers of a layer that it
reports FULL, and their acknowledgements (R110); the copy of the shadow that it reports copied. -/
def Dev.streamHold (d : Dev) (r : SlotRef) (k : Cmd) (st : Step) : Option Dev :=
  st.effects.findSome? fun f => match f with
    | .streamStatus ls copied =>
      let dom := d.domainOf r
      let earlier := k.plan.filter fun s => decide (s.num < st.num)
      let full (i : Nat) : Bool := (k.layers[i]?).any fun x => x.state == .pending
      let waits (i : Nat) : Bool := (full i || copied) && earlier.any fun s => s.moves? == some (i, copied)
      let acks := k.statusSpans dom ls ++ (ls.filter full).flatMap (k.layerSpans dom)
      if earlier.any (fun s => !(s.writes.isEmpty && s.host.isEmpty)) || ls.any waits ||
          k.remote.any (fun a => a.isWrite && acks.any fun s => overlap s.sa s.len a.sa (max 1 a.len)) then some d
      else none
    | _ => none

/-! ### BUILD_SHADOW (R277) -/

/-- The places in a layer's shadow of the blocks of `n` source bytes from `lo` on: elements, then scales (R132, R276). -/
def Cmd.shadowParts (k : Cmd) (dom i lo n : Nat) : List (List Span) :=
  let (_, _, sh, total, _) := streamEntry k.desc i
  let w := elemBits (fieldAt k.desc 3 1)
  let e0 := lo * 8 / w
  let blocks := n * 8 / w / 32
  [k.spans dom (sh + e0 / 2) (16 * blocks), k.spans dom (sh + roundUp (total * 8 / w / 2) 32 + e0 / 32) blocks]

/-- A shadow step (R277, R282): source bytes become blocks of the layer's shadow; a block with a poisoned source byte poisons the sectors
it is written to (R386). With a layer's last bytes its shadow is written. -/
def Dev.shadowPart (d : Dev) (r : SlotRef) (pe : Option Nat) (i lo n : Nat) : Dev :=
  match d.cmd? r with
  | none => d
  | some k =>
    let dom := d.domainOf r
    let (src, _, _, total, _) := streamEntry k.desc i
    let fmt := fieldAt k.desc 3 1
    let per := 4 * elemBits fmt
    let (bs, d) := d.peReadAll pe dom k (k.spans dom (src + lo) n)
    let blocks := (chunks 32 (decodeVec fmt (n * 8 / elemBits fmt) bs)).map (mxBlock 0x08)
    let parts := [packElems 4 (blocks.flatMap (·.1)), blocks.map fun b => (BitVec.ofNat 8 b.2.1 : Byte)]
    let bad := (List.range blocks.length).filter fun b => d.badSpans k (k.spans dom (src + lo + b * per) per)
    let hit := (bad.flatMap fun b => (k.shadowParts dom i (lo + b * per) per).flatten.flatMap sectorsOf).eraseDups
    let d := ((k.shadowParts dom i lo n).zip parts).foldl (fun d p => (spread p.1 p.2).foldl (fun d w => d.stepWrite r pe w) d) d
    let d := (hit.foldl (fun d sec => d.poisonAt r sec) d).countEvents dom (blocks.foldl (fun (a : NumEvents) b => a.plus b.2.2) NumEvents.none)
    let d := if bad.isEmpty then d else d.raise r .poisoned
    d.modCmd r fun k =>
      let done (x : StreamLayer) : Nat := x.written + n
      { k with
        w0 := if (k.layers[i]?).any fun x => done x == total then k.w0 + 1 else k.w0
        layers := k.layers.modify i fun x => { x with written := done x } }

/-- The granules of a block's frame. -/
def Block.granules (b : Block) : List Nat := granulesOf b.frame

/-- Apply one effect of a step that retires; `pe` is the physical PE that it reads and writes with, if it runs on one. -/
def Dev.applyEffect (d : Dev) (r : SlotRef) (pe : Option Nat) (f : Effect) : Dev :=
  match f with
  | .appendRows lo n => d.appendRows r lo n
  | .encodeHead id h => d.encodeHead r id h
  | .summarize id h q => d.summarize r id h q
  | .enter ctx l id => d.enterBlock r ctx l id
  | .openSession ctx s =>
    if (d.cmd? r).any hasFailed then d
    else (d.modCtx ctx fun c => { c with session := some s }).modCmd r fun k => { k with freeing := [], work := 0 }
  | .closeSession ctx => d.closeSession ctx
  | .sealBlock id => d.sealBlock r id
  | .demoteHead id nid h => d.demoteHead r id nid h
  | .demoted id nid => d.demotedBlock r id nid
  | .share ctx xs => xs.foldl (fun d x => d.shareBlock r ctx x.1 x.2) d
  | .extend ctx l n => d.modSession ctx fun s => s.modLayer l fun y => { y with n := n }
  | .release ctx xs => xs.foldl (fun d x => d.releaseBlock r ctx x.1 x.2) d
  | .straddle ctx l p => d.straddle r ctx l p
  | .truncate ctx p => d.truncateSession ctx p
  | .fetchOut lo n => d.fetchOut r lo n
  | .fetchLog off lo n => d.fetchLog r off lo n
  | .stage src dst len => d.stageBytes r src dst len
  | .stageHost src addr => d.stageHost r src addr
  | .forward => d.forwardNow r
  | .appendLog n => d.appendLog r n
  | .offer ctx target _ => d.offerNow r ctx target
  | .handOver => d.handOver r
  | .attendStage n => d.attendStage r n
  | .toFlash id =>
    match d.block? id with
    | some b => (b.granules.filter fun g => !((d.granule? g).any fun x => x.residency != .dram)).foldl (fun d g => d.demote g b.domain [r]) d
    | none => d
  | .toDram id =>
    match d.block? id with
    | some b => b.granules.foldl (fun d g => d.promote g) d
    | none => d
  | .gather ps => d.gatherStep r pe ps
  | .combine rows => d.combineRows r pe rows
  | .row u => if u.phase = 0 then d.applyRow r pe u.row else d
  | .rank lo n last => d.rankStep r pe lo n last
  | .encodeRows cls lo n => d.encodeStep r pe cls lo n
  | .version dom id v pub e bytes pruned => d.enterVersion r dom id v pub e bytes pruned
  | .index x => d.enterIndex r x
  | .queries lo n => d.readQueries r lo n
  | .scan dom _ qs _ _ n => d.countPage dom 0xE0 (qs.length * n)
  | .insertItems dom id lo n => d.insertRows r dom id lo n
  | .deleteItems dom id lo n => d.deleteRows r dom id lo n
  | .lockList dom id n => d.lockList r dom id n
  | .rewrite dom id n full => (d.rewriteList r dom id n full).retireSets r dom id
  | .sealSegment dom id full => d.sealSegment r dom id full
  | .scanRunning => d.scanRunning r
  | .scanBlocks lo n => d.scanBlocks r lo n
  | .checkLoad => d.checkLoad r
  | .count dom off n => d.countPage dom off n
  | .fault dom cls host d0 d1 d2 => d.fault (.domain dom) cls none dom r.ctx 0 host d0 d1 d2
  | .copy src dst len => d.copyBytes r src dst len
  | .compare lo n => d.compareAt r lo n
  | .reduce lo n => d.reduceAt r pe lo n
  | .reduceAll => d.reduceAll r pe
  | .atomic sa w op x cmp fetch =>
    if d.isLocal sa then
      let (d, old, wrote, bad) := d.atomicAt sa w op x.toNat cmp.toNat (fun d a b => d.storeWrite r a b)
      let d := if bad then d.raise r .poisoned else d.countNan (d.domainOf r) op old x.toNat
      d.modCmd r fun k =>
        { k with w0 := if fetch then BitVec.ofNat 64 old else 0, w1 := if op = 0x0D ∧ wrote then 1 else 0 }
    else d.atomicRemote r sa w op x.toNat cmp.toNat 0 none
  | .entries lo n => (List.range n).foldl (fun d j => d.applyEntry r (lo + j)) d
  | .streamMove i src dst host shadow => d.streamMove r i src dst host shadow
  | .streamStatus ls copied => d.streamStatus r ls copied
  | .shadowPart i lo n => d.shadowPart r pe i lo n
  | .publish sa e v => d.publishAt r sa e v
  | .exportWrite fid no off src => d.exportPut r fid no off src
  | .exportRead _ _ off len cva => d.exportTake r off len cva

/-- Apply a step's writes, poison, posted data and effects; posted data for a home port that is down raises TARGET_DEAD
(R88, R199). -/
def Dev.applyStep (d : Dev) (r : SlotRef) (c : Context) (st : Step) : Dev :=
  let (pe, d) := d.readerOf st.kind st.engine
  let d := st.writes.foldl (fun d w => d.stepWrite r pe w) d
  let d := st.poisons.foldl (fun d sec => d.poisonAt r sec) d
  let d :=
    if st.host.isEmpty then d
    else if !d.portUp c.homePort then d.raise r .targetDead
    else st.host.foldl (fun d h => d.toPort c.homePort c.domain true h.bytes.length (some r) (.write c.homePort h.addr h.bytes)) d
  let d := st.effects.foldl (fun d f => d.applyEffect r pe f) d
  match st.raises with
  | some s => d.raise r s
  | none => d

/-! ### Steps held by repairs (R399, R400) -/

/-- The reads of rung 1 (R397): REREADS in DRAM; on flash one for each entry of the die's read-retry table (one at least, log 42). -/
def Dev.rereads (d : Dev) (sec : Nat) : Nat :=
  match d.granules.find? fun g => g.number == sec / 2048 && g.residency == .flash with
  | some g => max 1 (Config.retryEntries g.channel)
  | none => d.field 0x8100 7 4

/-- From rung 2 on a step that waits is parked (R400): it releases its engine. -/
def Dev.park (d : Dev) (w : RepairWaiter) : Dev :=
  match w with
  | .step r n => d.modCmd r fun k => { k with plan := k.plan.map fun (s : Step) => if s.num == n then { s with parked := true, engine := none } else s }
  | _ => d

/-- A sector's repair begins on rung 1, or a step joins the one in progress (R399). -/
def Dev.startRepair (d : Dev) (sec : Nat) (w : RepairWaiter) : Dev :=
  if d.repairs.any (·.sector == sec) then
    let d := if d.repairs.any fun x => x.sector == sec && decide (2 ≤ x.rung) then d.park w else d
    { d with repairs := modifyAll (·.sector == sec) (fun x =>
        if x.waiters.contains w then x else { x with waiters := x.waiters ++ [w] }) d.repairs }
  else
    { d with repairs := d.repairs ++ [{ sector := sec, rung := 1, tries := d.rereads sec, waiters := [w] }] }

/-- The sectors under repair that spans of this member touch. -/
def Dev.repairsIn (d : Dev) (ss : List Span) : List Nat :=
  (d.repairs.map (·.sector)).filter fun sec => ss.any fun s => d.isLocal s.sa && overlap (sec * 32) 32 s.sa s.len

/-- What a step sends to egress points (R314): to the command's home port, and to the links toward other homes. -/
def Dev.sends (d : Dev) (c : Context) (k : Cmd) (st : Step) : List (Point × Nat) :=
  let toHost := st.host.map (·.bytes.length) ++ st.effects.map fun f => match f with
    | .streamMove _ s _ true _ => s.len
    | .gather ps => if bit (lineFlags k.line) 0 then (ps.filter (·.last)).length * (k.version.map k.outStride).getD 0 else 0
    | _ => 0
  let link (fid n : Nat) : List (Point × Nat) := match d.linkFor fid with
    | some l => [({ kind := .zherek, index := l }, n)]
    | none => []
  ({ kind := .cxl, index := c.homePort }, toHost.foldl (· + ·) 0) ::
    ((st.written.filter fun s => !d.isLocal s.sa).flatMap fun s => link (d.fidOf (d.homeOf s.sa)) s.len) ++
    st.effects.flatMap fun f => match f with
      | .exportWrite fid _ _ ss => link fid ((ss.map (·.len)).foldl (· + ·) 0)
      | _ => []

/-- The domain's queue at each point a step writes to has room for the step's bytes, of 128 KiB (R316). -/
def Dev.hasRoom (d : Dev) (c : Context) (k : Cmd) (st : Step) : Bool :=
  let out := (d.sends c k st).filter fun x => x.2 != 0
  out.all fun x =>
    let need := ((out.filter fun y => y.1 == x.1).map Prod.snd).foldl (· + ·) 0
    match (d.points.find? fun e => e.point == x.1).bind fun e => e.queues.find? (·.domain == c.domain) with
    | none => true
    | some q => decide ((q.posted.map (·.bytes)).foldl (· + ·) 0 + (q.mem.map (·.bytes)).foldl (· + ·) 0 + need ≤ 128 * 1024)

/-- Whether writes cover a sector in part, so that its old bytes are read (R387). -/
def partly (ws : List Span) (sec : Nat) : Bool :=
  ws.any fun w => overlap (sec * 32) 32 w.sa w.len && !(decide (w.sa ≤ sec * 32) && decide (sec * 32 + 32 ≤ w.sa + w.len))

/-! ### The order in which steps retire (R26, R85, R112) -/

/-- Whether two ranges share a sector. -/
def Span.shares (a b : Span) : Bool := decide (0 < a.len) && decide (0 < b.len) && overlap (a.sa / 32) ((a.sa + a.len - 1) / 32 - a.sa / 32 + 1) (b.sa / 32) ((b.sa + b.len - 1) / 32 - b.sa / 32 + 1)

/-- Whether two steps of one command must keep their order: one writes a sector that the other reads or writes (R112). -/
def Step.meets (a b : Step) : Bool :=
  (a.written.any fun x => (b.reads ++ b.written).any x.shares) || a.reads.any fun x => b.written.any x.shares

/-- Whether the step at a place of a plan may retire: it is issued, on its engine and not parked, and it is the oldest, or
independent of every older one (R85, R112, R400). -/
def Cmd.mayRetire (k : Cmd) (i : Nat) (st : Step) : Bool :=
  decide (i < k.issued) && (st.kind.shared || st.engine.isSome) && !st.parked &&
    (i == 0 || (st.free && !((k.plan.take i).any st.meets)))

/-- The channel of this member whose atomic unit a step uses (R108). -/
def Dev.atomicUnit (d : Dev) (st : Step) : Option Nat :=
  if st.kind != .atomic then none
  else st.effects.findSome? fun f => match f with
    | .atomic sa _ _ _ _ _ => if d.isLocal sa then some (d.channelOf sa) else none
    | .publish sa _ _ => if d.isLocal sa then some (d.channelOf sa) else none
    | _ => none

/-- The atomic unit takes turns (R26): whether it is a step's turn at its unit, and the unit's arbiter after it. Within a domain
the steps go in the order in which they were issued; a parked one is set aside. -/
def Dev.atomicTurn (d : Dev) (dom : Nat) (st : Step) : Option Dev :=
  match d.atomicUnit st with
  | none => some d
  | some u =>
    let queued := d.ctxs.flatMap fun c => c.held.flatMap fun e =>
      ((e.2.2.plan.take e.2.2.issued).filter fun s => !s.parked && d.atomicUnit s == some u).map fun s => (c.domain, s.num)
    match (d.arbiterOf .atomic u).turn (queued.map Prod.fst).eraseDups (fun _ => 1) with
    | none => some d
    | some t =>
      if t.1 == dom && !(queued.any fun q => q.1 == dom && decide (q.2 < st.num)) then some (d.setArbiter t.2) else none

/-! ### Retirement -/

/-- The place of an issued step by its number. -/
def Cmd.placeOf (k : Cmd) (num : Nat) : Option Nat := (List.range k.issued).find? fun i => (k.plan[i]?).any (·.num == num)

/-- A step leaves its command: what came for it alone goes with it, but for what later stages of SELECT_ATTEND compute with; `found` are
the reads that it found as it ran. -/
def Cmd.without (k : Cmd) (i : Nat) (found : List Span) : Cmd :=
  match k.plan[i]? with
  | none => k
  | some st =>
    let rest := k.plan.eraseIdx i
    let used (a n : Nat) : Bool := (rest.take (k.issued - 1)).any fun s => s.reads.any fun x => overlap x.sa x.len a n
    let mine (a n : Nat) : Bool := (st.reads ++ found).any fun x => overlap x.sa x.len a n
    { k with
      plan := rest
      issued := k.issued - 1
      fetched := k.fetched.filter fun f => k.attend.isSome || !mine f.1 f.2.length || used f.1 f.2.length
      spoiled := k.spoiled.filter fun sec => k.attend.isSome || !mine (sec * 32) 32 || used (sec * 32) 32 }

/-- A step ends with a failure status and none of its effects (R96); the command's other steps go on, but a bag that the step was to
pool has no result, and rows that it locked are free. -/
def Dev.failStep (d : Dev) (r : SlotRef) (num : Nat) (st : Status) : Dev :=
  match d.cmd? r with
  | none => d
  | some k =>
    match k.placeOf num with
    | none => d
    | some i =>
      let d := (k.plan[i]?).elim d fun s => d.unlockStep r s
      (((d.raise r st).modCmd r fun k => { k.without i [] with pool := none }).conclude r).settle

/-- A step's data cannot be had (R281, R369): a layer of STREAM is served or missed by its policy, any other step fails. -/
def Dev.sourceLost (d : Dev) (r : SlotRef) (st : Step) (status : Status) : Dev :=
  match st.sourceOf? with
  | some i => ((d.sourceFailed r i status).conclude r).settle
  | none => d.failStep r st.num status

/-- Whether a step gives up blocks homed elsewhere that other steps still read (R160). -/
def Dev.releaseHeld (d : Dev) (st : Step) : Bool :=
  st.effects.any fun f => match f with
    | .release _ xs => xs.any fun x => (d.block? x.2).any fun b => !d.isLocal b.frameSa && (d.readBySteps b.frame || d.readBySteps b.summary)
    | _ => false

/-- What keeps a step from retiring, and what it brings about: reads that fail their checks and repairs in progress (R399), granules
that flash alone holds (R257), a STREAM's order (R278), remote data (R369), back-invalidation (R337), a list body still held (R245),
room at egress (R316), and the turn at an atomic unit (R26). -/
def Dev.stepHold (d : Dev) (r : SlotRef) (c : Context) (k : Cmd) (st : Step) (fails : List Nat) : Option Dev :=
  let found := d.found r k st
  let reads := st.reads ++ found.reads
  let writes := st.written ++ found.writes
  let bad := (fails.filter fun sec =>
    d.isLocal (sec * 32) && (reads.any (fun s => overlap (sec * 32) 32 s.sa s.len) || partly writes sec)) ++ d.badEntries k st
  let held := d.repairsIn (reads ++ writes)
  let cold := d.coldGranules { st with reads := reads }
  if !bad.isEmpty || !held.isEmpty then some ((bad ++ held).foldl (fun d sec => d.startRepair sec (.step r st.num)) d)
  else if !(st.cold ++ cold).isEmpty then
    some ((d.modCmd r fun k => { k with plan := k.plan.map fun (s : Step) => if s.num == st.num then { s with cold := (s.cold ++ cold).eraseDups } else s }).askFlash r (st.cold ++ cold))
  else
    match d.needFault c.domain found.needs with
    | some status => some (d.failStep r st.num status)
    | none =>
      match ((d.offerHold r k st).orElse fun _ => d.streamHold r k st).orElse fun _ => rankHold d k st with
      | some d' => some d'
      | none =>
        let miss := d.missing k reads
        if miss.any fun s => !d.reaches (d.homeOf s.sa) then some (d.sourceLost r st .targetDead)
        else if !miss.isEmpty then some (d.askMissing r k reads)
        else if st.exportRead?.any fun e => !(k.fetched.any fun f => f.1 == farKey e.2.2.1 && f.2.length == e.2.2.2) then some d
        else if d.badWords st then some (d.runAgain st)
        else
          match d.rowHold r k st with
          | some d' => some d'
          | none =>
            let ls := d.vitConflicts reads writes
            if !ls.isEmpty then some (d.vitEngine r ls)
            else if d.listHeld r k st || d.releaseHeld st || !d.hasRoom c k st || !(st.flash.all fun g => (d.granule? g).any fun x => x.residency == .flash) ||
                (d.atomicTurn c.domain st).isNone then some d
            else none

/-- A step retires (R84): its effects are applied, it leaves the command, and its words are added. -/
def Dev.retire (d : Dev) (r : SlotRef) (c : Context) (i : Nat) (st : Step) : Dev :=
  match d.cmd? r with
  | none => d
  | some k =>
    let found := d.found r k st
    let d := (d.xcFill (westPort k.port) c.domain found.needs).fabTouch k (st.reads ++ found.reads)
    let d := ((d.atomicTurn c.domain st).getD d).applyStep r c st
    let d := d.modCmd r fun k =>
      { k.without i found.reads with
        retired := if st.extra then k.retired else k.retired + 1, w0 := k.w0 + BitVec.ofNat 64 st.w0, w1 := k.w1 + BitVec.ofNat 64 st.w1, w2 := k.w2 + BitVec.ofNat 64 st.w2 }
    (d.touch (((st.reads ++ found.reads).filter fun s => d.isLocal s.sa).flatMap granulesOf)).unbindIdle r st

/-- The step at a place of a command's plan retires, if it may and nothing holds it; a command with nothing left completes, and
other steps are issued. -/
def Dev.retireStep (d : Dev) (r : SlotRef) (i : Nat) (fails : List Nat) : Dev :=
  match d.ctx? r.ctx, d.cmd? r with
  | some c, some k =>
    match k.plan[i]? with
    | none => d
    | some st =>
      if !k.mayRetire i st then d
      else
        match d.stepHold r c k st fails with
        | some d' => d'
        | none => (((d.retire r c i st).conclude r).dropReady).settle
  | _, _ => d

/-- A command's steps no longer wait for repairs (R401): the repairs go on out of sight. -/
def Dev.detach (d : Dev) (r : SlotRef) : Dev :=
  let mine (w : RepairWaiter) : Bool := match w with
    | .step x _ => x == r
    | .command x => x == r
    | _ => false
  { d with repairs := d.repairs.map fun x => { x with waiters := x.waiters.filter fun w => !mine w } }

/-- Whether a step waits for bytes of a range. -/
def Step.wants (st : Step) (sa len : Nat) : Bool :=
  (st.reads.any fun s => overlap s.sa s.len sa len) || st.exportRead?.any fun e => farKey e.2.2.1 == sa && e.2.2.2 == len

/-- Whether an access is one of a STEP message (R364): it has no store address. -/
def isStep (a : RemoteAccess) : Bool := a.isWrite && a.sa == 0 && a.len == 0

/-- A command that waits for the owner of its session: the owner is told to abort what it runs for it (R91). -/
def Dev.cutForwarded (d : Dev) (r : SlotRef) (k : Cmd) : Dev :=
  (k.remote.filter fun a => isStep a && a.index == StepKind.run.code).foldl (fun d a => d.tellStep .cut a.home (d.domainOf r) (r.ctx % 65536) [a.tag]) d

/-- A command is stopped at its next boundary (R91, R299): its issued steps go on to their end; with none issued it
completes at once. -/
def Dev.stop (d : Dev) (r : SlotRef) (why : Status) : Dev :=
  match d.cmd? r with
  | none => d
  | some _ =>
    (d.modCmd r fun k => { k with cut := some (k.cut.getD why), started := true, plan := if k.started then k.plan.take k.issued else [] }).conclude r

end Sys2Proof.Machine
end

