-- ==== Sys2Proof/Machine/Mapping.lean ====
section
/-! DEFINITION. MAP, UNMAP and LOAN_RENEW in the Curator, the withdrawal sequence, and loan expiry (chapter 11). -/

namespace Sys2Proof.Machine

/-! ### Generations and withdrawal (R298) -/

/-- The entries of both extent caches for changed extents are invalidated (R298 step 2). -/
def Dev.xcDrop (d : Dev) (es : List Extent) : Dev :=
  let keep (x : XcEntry) : Bool := !(es.any fun e => e.domain == x.domain && e.cva == x.cva)
  { d with xcEast := d.xcEast.filter keep, xcWest := d.xcWest.filter keep,
           fabCache := d.fabCache.filter fun l => !(es.any fun e => overlap e.sa e.len l.addr l.bytes.length) }

/-- The windows of a domain onto a CVA range. -/
def Dev.windowsOn (d : Dev) (dom cva len : Nat) : List Window :=
  d.windows.filter fun w => w.domain == dom && overlap w.cva w.len cva len

/-- Windows go, with a forced Release Capacity event for each (R298 step 3, R303). -/
def Dev.dropWindows (d : Dev) (ws : List Window) : Dev :=
  if ws.isEmpty then d else (ws.foldl (fun d w => d.dropWindow w true) d).eventIrqs

/-- The ways by which windows reach a line: the host of each and the line's DPA in its view. -/
def Dev.pathsTo (d : Dev) (ws : List Window) (line : Nat) : List (Nat × Nat) :=
  let sa := line * 64
  ws.flatMap fun w => (d.extents.filter fun e => e.domain == w.domain && decide (e.sa ≤ sa) && decide (sa < e.sa + e.len) &&
    decide (w.cva ≤ e.cva + (sa - e.sa)) && decide (e.cva + (sa - e.sa) < w.cva + w.len)).map fun e =>
      (w.host, w.dpa + (e.cva + (sa - e.sa) - w.cva))

/-- The lines that hosts may cache through windows about to go: each with its domain and the ways to it (R346). -/
def Dev.cachedBy (d : Dev) (ws : List Window) : List (Nat × Nat × List (Nat × Nat)) :=
  d.directory.filterMap fun e =>
    let hs := d.dirHolders e
    match (d.pathsTo ws e.line).filter fun p => hs.contains p.1 with
    | [] => none
    | ps => some (e.line, e.domain, ps)

/-- Windows have gone: the copies that their hosts may no longer hold are invalidated (R346, log 96). -/
def Dev.evictLines (d : Dev) (ls : List (Nat × Nat × List (Nat × Nat))) : Dev :=
  ls.foldl (fun d x =>
    match x.2.2.filter fun p => !(d.windowHosts x.1).contains p.1 with
    | [] => d
    | ps => d.vitArrive x.1 x.2.1 (.withdraw ps)) d

/-- Steps parked on rungs 2 to 5 under a withdrawn translation are stopped: their reads are detached, they write nothing further, and
their commands complete with STALE_XLATE once their other issued steps have run (R299). -/
def Dev.stopParked (d : Dev) (dom : Nat) : Dev :=
  let rs := d.slotsWhere fun c s => c.domain == dom && s.cmd.any fun k => k.started && (k.plan.take k.issued).any (·.parked) && !d.current k
  rs.foldl (fun d r => ((d.dropSteps r (·.parked)).cutStale r).conclude r) d

/-- The remainders of an extent outside a range, with a new generation (R297, R298). -/
def Extent.remainders (e : Extent) (cva len : Nat) : List Extent :=
  (if e.cva < cva then [{ e with len := cva - e.cva, gen := e.gen + 1 }] else []) ++
    if cva + len < e.cva + e.len then
      [{ e with cva := cva + len, len := e.cva + e.len - (cva + len), sa := e.sa + (cva + len - e.cva), gen := e.gen + 1 }]
    else []

/-- The part of an extent's store inside a CVA range. -/
def Extent.part (e : Extent) (cva len : Nat) : Span :=
  let lo := max e.cva cva
  { sa := e.sa + (lo - e.cva), len := min (e.cva + e.len) (cva + len) - lo }

/-- Steps 1 to 3 of R298 for the removal of CVA ranges of a domain: the device, the extents removed or split, the
windows removed, the spans to free. -/
def Dev.withdraw (d : Dev) (dom : Nat) (rs : List (Nat × Nat)) : Dev × Nat × Nat × List Span :=
  let hit (e : Extent) : Option (Nat × Nat) := rs.find? fun x => e.touches dom x.1 x.2
  let old := d.extents.filter fun e => (hit e).isSome
  let es := d.extents.flatMap fun e => match hit e with
    | some x => e.remainders x.1 x.2
    | none => [e]
  let spans := old.filterMap fun e => (hit e).map fun x => e.part x.1 x.2
  let ws := d.windows.filter fun w => w.domain == dom && rs.any fun x => overlap w.cva w.len x.1 x.2
  let ls := d.cachedBy ws
  let d := (((d.setExtents es).xcDrop old).dropWindows ws).evictLines ls
  (d.stopParked dom, old.length, ws.length, spans)

/-- A committed change of a Curator command: its words, and what its record waits for (R298 steps 4 and 5). -/
def Dev.commitTurn (d : Dev) (r : SlotRef) (spans : List Span) (w0 w1 : Nat) : Dev :=
  (d.modCmd r fun k => { k with started := true, committed := true, freeing := spans, w0 := BitVec.ofNat 64 w0,
                                w1 := BitVec.ofNat 64 w1, w2 := 0 }).settle

/-! ### Loans (R305, R306) -/

/-- Whether a host identity has authority over a loan: its holder, or right [3] with the submit right in the domain (R306). -/
def Dev.mayUse (d : Dev) (host : Nat) (l : Loan) : Bool :=
  l.holder == host || (d.manages host && bit (d.rightsOf host l.domain) 0)

/-- Continue with the loan a handle names, or complete with VERSION_GONE or ACCESS_DENIED. -/
def Dev.withLoan (d : Dev) (r : SlotRef) (c : Context) (k : Cmd) (handle : Nat) (f : Loan → Dev) : Dev :=
  match d.loan? c.domain handle with
  | none => d.reject r .versionGone
  | some l => if d.mayUse k.host l then f l else d.reject r .accessDenied

/-- The extents of a loan. -/
def Dev.loanExtents (d : Dev) (l : Loan) : List Extent :=
  d.extents.filter fun e => e.domain == l.domain && e.loan == l.handle

/-- A loan is gone and its extents are withdrawn together (R307 CLOSE, R308): the device and the spans to free. -/
def Dev.deaccession (d : Dev) (l : Loan) : Dev × List Span :=
  let d := { d with loans := modifyAll (fun x => x.handle == l.handle) (fun x => { x with gone := true }) d.loans }
  let es := d.loanExtents l
  let (d, _, _, spans) := d.withdraw l.domain (es.map fun e => (e.cva, e.len))
  (d, spans)

/-! ### MAP (R290 to R292) -/

/-- A MAP of one operation that has its turn. -/
def Dev.onMap (d : Dev) (r : SlotRef) (op : Nat) (f : Context → Cmd → Dev) : Dev :=
  d.onReady r .map fun c k => if fieldAt k.line 16 1 = op then f c k else d

/-- Whether the extent trees have room for `n` more extents (R288). -/
def Dev.treeRoom (d : Dev) (dom n : Nat) : Bool :=
  decide (d.extents.length + n ≤ 1048576) && decide ((d.extents.filter (·.domain == dom)).length + n ≤ 262144)

/-- Whether a range of store has as many aliases as it may carry (R288). -/
def Dev.aliasFull (d : Dev) (sa len : Nat) : Bool := decide (65535 ≤ (d.extents.filter fun x => overlap x.sa x.len sa len).length)

/-- MAP ALLOCATE (R291, R440). -/
def devMapAllocate (r : SlotRef) (d : Dev) : Dev :=
  d.onMap r 1 fun c k =>
    let cva := fieldAt k.line 24 8; let len := fieldAt k.line 32 8
    if d.extents.any fun e => e.touches c.domain cva len then d.reject r .badOperand
    else d.withLoan r c k (fieldAt k.line 20 4) fun l =>
      if !d.dramRoom c.domain len || !d.treeRoom c.domain 1 then d.reject r .capacity
      else
        match d.placeIn (d.placementOf c.domain) len with
        | (none, d) => if d.acc.increments < 128 && !d.acc.dramStopped then d else d.reject r .capacity
        | (some sa, d) =>
          let (g, d) := d.freshGen c.domain
          let e : Extent := { domain := c.domain, cva := cva, len := len, sa := sa, rights := Rights.ofCode (fieldAt k.line 17 1), gen := g, loan := l.handle, placement := d.placementOf c.domain }
          ((d.zeroRange sa len).setExtents (d.extents ++ [e])).commitTurn r [] g.toNat 1

/-- Execute MAP ALLOCATE. -/
def execMapAllocate (r : SlotRef) (s : State) : Host.Outcome State Fault Refusal := whenLive (devMapAllocate r) s

/-- The extents that alias the store of given extents. -/
def Dev.aliases (d : Dev) (es : List Extent) : List Extent :=
  d.extents.filter fun x => es.any fun e => overlap x.sa x.len e.sa e.len

/-- Extents with every alias of their store, and the aliases of those in turn, so that no alias of a sealed address is
left out (R287). -/
def Dev.aliasesOf (d : Dev) : Nat → List Extent → List Extent
  | 0, es => es
  | n + 1, es =>
    let more := d.aliases es
    if more.length ≤ es.length then more else d.aliasesOf n more

/-- Seal extents and every alias of their store, with new generations (R291, R298): the device, how many changed, and
the new generation of the first. -/
def Dev.sealExtents (d : Dev) (es : List Extent) : Dev × Nat × W32 :=
  let old := d.aliasesOf d.extents.length es
  let newGen := (es.head?.map fun e => e.gen + 1).getD 0
  let es' := d.extents.map fun e => if old.contains e then { e with rights := .sealed, gen := e.gen + 1 } else e
  (((d.setExtents es').xcDrop old).stopParked ((es.head?.map (·.domain)).getD 0xFFFF), old.length, newGen)

/-- The extents that touch a CVA range of a domain. -/
def Dev.touching (d : Dev) (dom cva len : Nat) : List Extent := d.extents.filter fun e => e.touches dom cva len

/-- MAP ALIAS (R291); its checks in the order of R96. One that seals maps its extents once the seal has drained. -/
def devMapAlias (r : SlotRef) (d : Dev) : Dev :=
  d.onMap r 2 fun c k =>
    let cva := fieldAt k.line 24 8; let len := fieldAt k.line 32 8; let src := fieldAt k.line 40 8
    let handle := fieldAt k.line 20 4; let want := Rights.ofCode (fieldAt k.line 17 1)
    let narrow (e : Extent) : Bool := match e.rights, want with
      | .writable, _ => true
      | .readOnly, .readOnly => true
      | .readOnly, .sealed => true
      | .sealed, .sealed => true
      | .vitrine, _ => true
      | _, _ => false
    if d.extents.any (fun e => e.touches c.domain cva len) || (d.touching c.domain src len).any (fun e => !narrow e) then
      d.reject r .badOperand
    else
      match cover d.extents c.domain src len with
      | .error u => (d.complete r .xlateFault (BitVec.ofNat 64 u) 40 0).settle
      | .ok es =>
        if es.any (·.rights == .vitrine) then d.reject r .accessDenied
        else
          let mine (l : W32) : Option Loan := d.loan? c.domain l.toNat
          let used := if handle = 0 then es.map (fun e => mine e.loan) else [mine (BitVec.ofNat 32 handle)]
          if used.any Option.isNone then d.reject r .versionGone
          else if used.any fun l => l.any fun l => !d.mayUse k.host l then d.reject r .accessDenied
          else if !d.treeRoom c.domain es.length ||
              es.any (fun e => d.aliasFull e.sa e.len) then
            d.reject r .capacity
          else
            let toSeal := if want == .sealed then es.filter fun e => e.rights != .sealed else []
            if !toSeal.isEmpty then
              let (d, n, _) := d.sealExtents toSeal
              d.commitTurn r [] unaliased n
            else
            let (d, g) := d.aliasExtents c k es
            d.commitTurn r [] g.toNat es.length

/-- Execute MAP ALIAS. -/
def execMapAlias (r : SlotRef) (s : State) : Host.Outcome State Fault Refusal := whenLive (devMapAlias r) s

/-- MAP SEAL (R291, R346); its checks in the order of R96. -/
def devMapSeal (r : SlotRef) (d : Dev) : Dev :=
  d.onMap r 3 fun c k =>
    let cva := fieldAt k.line 24 8; let len := fieldAt k.line 32 8
    if (d.touching c.domain cva len).any fun e => decide (e.cva < cva) || decide (cva + len < e.cva + e.len) then d.reject r .badOperand
    else
      match cover d.extents c.domain cva len with
      | .error u => (d.complete r .xlateFault (BitVec.ofNat 64 u) 24 0).settle
      | .ok es =>
      if es.any (·.rights == .vitrine) then d.reject r .accessDenied
      else
        let (d, n, g) := d.sealExtents es
        d.commitTurn r [] g.toNat n

/-- Execute MAP SEAL. -/
def execMapSeal (r : SlotRef) (s : State) : Host.Outcome State Fault Refusal := whenLive (devMapSeal r) s

/-- The base of a Dynamic Capacity region in every host view (R286). -/
def regionBase (n : Nat) : Nat := 0x0004_0000_0000_0000 * (n + 1)

/-- MAP EXPOSE (R291, R328, R329). -/
def devMapExpose (r : SlotRef) (d : Dev) : Dev :=
  d.onMap r 4 fun c k =>
    let cva := fieldAt k.line 24 8; let len := fieldAt k.line 32 8; let region := fieldAt k.line 19 1
    let off := fieldAt k.line 40 8; let host := fieldAt k.line 48 2
    let dpa := regionBase region + off
    if !bit (d.rightsOf host c.domain) 1 || decide (2 ^ 50 < off + len) ||
        (d.touching c.domain cva len).any (fun e => (e.rights == .vitrine) != decide (6 ≤ region)) || d.windows.any (fun w => w.host == host && overlap w.dpa w.len dpa len) then d.reject r .badOperand
    else
      match cover d.extents c.domain cva len with
      | .error u => (d.complete r .xlateFault (BitVec.ofNat 64 u) 24 0).settle
      | .ok es =>
        let loans := es.filterMap fun e => d.loan? c.domain e.loan.toNat
        if decide (6 ≤ region) && loans.any (fun l => l.holder != host) then d.reject r .accessDenied
        else if decide (1024 ≤ (d.windows.filter (·.host == host)).length) || decide (65536 ≤ d.windows.length) then d.reject r .capacity
        else
          let loan := (es.head?.map (·.loan)).getD 0
          let w : Window := { host := host, dpa := dpa, domain := c.domain, cva := cva, len := len, region := region, loan := loan, accepted := false }
          let ev : DcEvent := { host := host, add := true, forced := false, dpa := dpa, len := len, domain := c.domain, loan := loan, answered := false, retrieved := false }
          (({ d with windows := d.windows ++ [w] }.postEvent ev).eventIrqs).commitTurn r [] 0 0

/-- Execute MAP EXPOSE. -/
def execMapExpose (r : SlotRef) (s : State) : Host.Outcome State Fault Refusal := whenLive (devMapExpose r) s

/-- MAP VITRINE (R291). -/
def devMapVitrine (r : SlotRef) (d : Dev) : Dev :=
  d.onMap r 5 fun c k =>
    let cva := fieldAt k.line 24 8; let len := fieldAt k.line 32 8; let off := fieldAt k.line 40 8
    let rec? := d.image.bind fun i => i.vitrine.find? fun v => v.region == fieldAt k.line 19 1 && v.domain == c.domain
    match rec? with
    | none => d.reject r .badOperand
    | some v =>
      if decide (v.len < off + len) || d.extents.any (fun e => e.touches c.domain cva len) then d.reject r .badOperand
      else d.withLoan r c k (fieldAt k.line 20 4) fun l =>
        if !d.treeRoom c.domain 1 || d.aliasFull (v.base + off) len then d.reject r .capacity
        else
          let (g, d) := d.freshGen c.domain
          let e : Extent := { domain := c.domain, cva := cva, len := len, sa := v.base + off, rights := .vitrine, gen := g, loan := l.handle, placement := d.placementOf c.domain }
          (d.setExtents (d.extents ++ [e])).commitTurn r [] g.toNat 1

/-- Execute MAP VITRINE. -/
def execMapVitrine (r : SlotRef) (s : State) : Host.Outcome State Fault Refusal := whenLive (devMapVitrine r) s

/-! ### UNMAP (R297, R298) -/

/-- UNMAP RANGE. -/
def devUnmapRange (r : SlotRef) (d : Dev) : Dev :=
  d.onReady r .unmap fun c k =>
    let cva := fieldAt k.line 24 8; let len := fieldAt k.line 32 8
    if fieldAt k.line 16 1 != 1 then d
    else if !(d.extents.any fun e => e.touches c.domain cva len) then
      (d.complete r .xlateFault (BitVec.ofNat 64 cva) 24 0).settle
    else
      let (d, n, w, spans) := d.withdraw c.domain [(cva, len)]
      d.commitTurn r spans n w

/-- Execute UNMAP RANGE. -/
def execUnmapRange (r : SlotRef) (s : State) : Host.Outcome State Fault Refusal := whenLive (devUnmapRange r) s

/-- UNMAP WITHDRAW: windows of one view, or of every view. -/
def devUnmapWithdraw (r : SlotRef) (d : Dev) : Dev :=
  d.onReady r .unmap fun c k =>
    let cva := fieldAt k.line 24 8; let len := fieldAt k.line 32 8; let host := fieldAt k.line 20 2
    if fieldAt k.line 16 1 != 2 then d
    else
      let es := d.extents.filter fun e => e.touches c.domain cva len
      if es.isEmpty then (d.complete r .xlateFault (BitVec.ofNat 64 cva) 24 0).settle
      else
        let ws := (d.windowsOn c.domain cva len).filter fun w => host == 0xFFFF || w.host == host
        let spans := es.map fun e => e.part cva len
        ((d.dropWindows ws).evictLines (d.cachedBy ws)).commitTurn r spans 0 ws.length

/-- Execute UNMAP WITHDRAW. -/
def execUnmapWithdraw (r : SlotRef) (s : State) : Host.Outcome State Fault Refusal := whenLive (devUnmapWithdraw r) s

/-! ### LOAN_RENEW (R306, R307) -/

/-- A LOAN_RENEW of one operation that has its turn. -/
def Dev.onLoan (d : Dev) (r : SlotRef) (op : Nat) (f : Context → Cmd → Dev) : Dev :=
  d.onReady r .loanRenew fun c k => if fieldAt k.line 16 1 = op then f c k else d

/-- The expiry of a term counted from now; none for a term of 0 (R307). Terms are µs(L), times ns(L). -/
def Dev.expiryOf (d : Dev) (term : Nat) : Option Nat := if term = 0 then none else some (d.now + term * 1000)

/-- The index of a new loan, less one: a free one where no loan has it, else the lowest that none has (log 20). -/
def Dev.freeLoan (d : Dev) : Option Nat :=
  let taken (i : Nat) : Bool := d.loans.any fun l => !l.gone && l.index == i + 1
  let want := Config.freeNat d.draws % 16384
  if taken want then (List.range 16384).find? fun i => !taken i else some want

/-- LOAN OPEN: an index that no loan uses, its generation one above its last use's (R305), free at its first use (log 20). -/
def devLoanOpen (r : SlotRef) (d : Dev) : Dev :=
  d.onLoan r 1 fun c k =>
    match d.freeLoan with
    | none => d.reject r .capacity
    | some i =>
      let gen := match d.loans.find? (·.index == i + 1) with
        | some l => l.gen + 1
        | none => BitVec.ofNat 16 (Config.freeNat (d.draws + 1))
      let l : Loan := { index := i + 1, gen := gen, domain := c.domain, holder := k.host, expiry := d.expiryOf (fieldAt k.line 24 8), gone := false }
      { d with draws := d.draws + 2, loans := d.loans.filter (fun (x : Loan) => x.index != i + 1) ++ [l] }.commitTurn r [] l.handle.toNat 0

/-- Execute LOAN OPEN. -/
def execLoanOpen (r : SlotRef) (s : State) : Host.Outcome State Fault Refusal := whenLive (devLoanOpen r) s

/-- LOAN RENEW: word 0 is the expiry, or all ones with none. -/
def devLoanRenew (r : SlotRef) (d : Dev) : Dev :=
  d.onLoan r 2 fun c k => d.withLoan r c k (fieldAt k.line 20 4) fun l =>
    let ex := d.expiryOf (fieldAt k.line 24 8)
    { d with loans := modifyAll (fun x => x.handle == l.handle) (fun x => { x with expiry := ex }) d.loans }.commitTurn r []
      (ex.getD (2 ^ 64 - 1)) 0

/-- Execute LOAN RENEW. -/
def execLoanRenew (r : SlotRef) (s : State) : Host.Outcome State Fault Refusal := whenLive (devLoanRenew r) s

/-- LOAN CLOSE: deaccession at once. -/
def devLoanClose (r : SlotRef) (d : Dev) : Dev :=
  d.onLoan r 3 fun c k => d.withLoan r c k (fieldAt k.line 20 4) fun l =>
    let (d, spans) := d.deaccession l
    d.commitTurn r spans 0 0

/-- Execute LOAN CLOSE. -/
def execLoanClose (r : SlotRef) (s : State) : Host.Outcome State Fault Refusal := whenLive (devLoanClose r) s

/-- LOAN TRANSFER: the new holder must hold the submit right; vitrine lines of the old holder are back-invalidated and
its windows onto them withdrawn first (R307, R331). -/
def devLoanTransfer (r : SlotRef) (d : Dev) : Dev :=
  d.onLoan r 4 fun c k => d.withLoan r c k (fieldAt k.line 20 4) fun l =>
    if !bit (d.rightsOf (fieldAt k.line 32 2) c.domain) 0 then d.reject r .badOperand
    else
      let es := (d.loanExtents l).filter (·.rights == .vitrine)
      let spans := es.map fun e => ({ sa := e.sa, len := e.len } : Span)
      let ws := d.windows.filter fun w => w.host == l.holder && es.any fun e => e.touches w.domain w.cva w.len
      ((d.dropWindows ws).evictLines (d.cachedBy ws)).commitTurn r spans 0 0

/-- Execute LOAN TRANSFER. -/
def execLoanTransfer (r : SlotRef) (s : State) : Host.Outcome State Fault Refusal := whenLive (devLoanTransfer r) s

/-- Deaccession of one expired loan (R308): its vitrine lines settled by policy, a LOAN fault record, the count. Its store goes once
nothing that began before touches it (log 21). -/
def Dev.expireLoan (d : Dev) (l : Loan) : Dev :=
  let es := d.loanExtents l
  let mine (line : Nat) : Bool := es.any fun e => overlap (line * 64) 64 e.sa e.len
  let d := d.vitLose l.domain l.holder 1 mine
  let (d, spans) := d.deaccession l
  let d := d.leave l.domain spans
  (d.countPage l.domain 0x130 1).fault (.domain l.domain) 0x04 none l.domain 0xFFFF 0 l.holder l.handle.toNat es.length 0

/-- LOAN_EXPIRY: the Curator's check at a local time deaccessions every open loan past its expiry, while some pair
works (R308, R23). -/
def devLoanExpiry (t : Nat) (d : Dev) : Dev :=
  let d := d.atTime t
  if d.workingPairs = 0 then d
  else
    ((d.loans.filter fun l => !l.gone && l.expiry.any fun x => decide (x ≤ d.now)).foldl (fun d l => d.expireLoan l) d).settle

/-- Execute LOAN_EXPIRY. -/
def execLoanExpiry (t : Nat) (s : State) : Host.Outcome State Fault Refusal := whenLive (devLoanExpiry t) s

end Sys2Proof.Machine
end

