-- ==== Sys2Proof/Machine/RegAccess.lean ====
section
/-! DEFINITION. Access to the register file: who reaches which block (R29, R31, R494, R499), what a write to a page, a
fused-off unit or beyond the image's limits does (R9, R28, R30, R493, R498), and the write of one register's RW and W1C
bits with its range check (R15, R492). -/

namespace Sys2Proof.Machine

/-- Units that the reported variant enables, by block (R7, R8): in each wing the lowest ones, galleries by logical number. A
variant not yet fixed enables all (DESIGN CHOICE, log 38). -/
def variantHas (variant : Nat) : Block29 → Bool
  | .port p => decide (p % 2 < if variant = 3 then 1 else 2)
  | .link l => decide (l % 4 < if variant = 3 then 2 else if variant = 2 then 3 else 4)
  | .onfi c => decide (c % 16 < if variant = 3 then 8 else if variant = 2 then 12 else 16)
  | .stack s => decide (s % 4 < if variant = 3 then 2 else if variant = 2 then 3 else 4)
  | .gallery g => decide (g < if variant = 3 then 20 else if variant = 2 then 30 else 40)
  | _ => true

/-- Whether an egress point's unit is enabled by the variant. -/
def Dev.pointEnabled (d : Dev) (p : Point) : Bool :=
  variantHas d.acc.reported (match p.kind with
    | .cxl => .port p.index
    | .zherek => .link p.index
    | .onfi => .onfi p.index) && decide (p.index < match p.kind with | .cxl => 4 | .zherek => 8 | .onfi => 32)

/-- The aligned 4-byte and 8-byte accesses that BAR0 serves (R491). -/
def wellAligned (off size : Nat) : Bool :=
  (size == 4 || size == 8) && off % size == 0 && decide (off + size ≤ 0x0040_0000)

/-- What the Docent bus may see (R499): the device-global block and the unit blocks. -/
def docentVisible (off : Nat) : Bool :=
  match blockOf off with
  | .page _ => false
  | .reserved => false
  | _ => true

/-- Whether a host identity reaches a BAR0 offset (R29, R47, R64). A domain page is reached with right [2] in the domain or with right
[3], as the register map and R29 have it, where R68 names right [2] alone (DEDUCED, log 124). -/
def Dev.reaches0 (d : Dev) (host off : Nat) : Bool :=
  match blockOf off with
  | .global => d.manages host
  | .page dm => d.image.isSome && (bit (d.rightsOf host dm) 2 || d.manages host)
  | _ => d.image.isSome && d.manages host

/-- The value a register would hold after a write (R15, R492). -/
def Dev.after (d : Dev) (w : RegWrite) : W64 :=
  match descOf w.reg with
  | some r => written r (d.reg w.reg) w
  | none => 0

/-- A write of RW and W1C bits with no other effect (R15); an offset that names no register ignores it (R493). -/
def Dev.plainWrite (d : Dev) (w : RegWrite) : Dev :=
  if (descOf w.reg).isSome then d.setReg w.reg (d.after w) else d

/-- A write whose value is range-checked whole (R492): out of range it is discarded, and a REFUSED bit set where the
register has one: the offset and the bit. -/
def Dev.rangedWrite (d : Dev) (w : RegWrite) (ok : W64 → Bool) (refused : Option (Nat × Nat)) : Dev :=
  if ok (d.after w) then d.plainWrite w
  else
    match refused with
    | some (off, b) => d.setField off b b 1
    | none => d

/-- A port that the value of a page register would use for a domain (R28): HOME_PORT of CTX_ARG, PORT of FAULT_CTRL. -/
def pagePort (off : Nat) (v : W64) : Option Nat :=
  if off = 0x040 then some (bits v.toNat 19 18) else if off = 0x308 then some (bits v.toNat 19 18) else none

/-- Whether a page write would give a domain a CXL port that the image does not give it (R28; DEDUCED, log 39). -/
def Dev.beyondLimit (d : Dev) (dom : Nat) (w : RegWrite) : Bool :=
  match pagePort (w.reg - pageOff dom 0) (d.after w), pagePort (w.reg - pageOff dom 0) (d.reg w.reg) with
  | some p, some q => p != q && !(d.domainRec dom).any fun x => bit x.portMask p
  | _, _ => false

/-- A page write, held or not, against the limits of the image in force (R28, R58). -/
def Dev.withinLimit (d : Dev) (dom : Nat) (w : RegWrite) (f : Dev → Dev) : Dev :=
  if d.beyondLimit dom w then d.setField (pageOff dom 0) 1 1 1 else f d

/-- A register write that may be applied: a page of a domain that is not defined discards it, one whose partial image is
loading holds it (R30, R493), and a unit that the variant does not enable ignores it (R9, R498). -/
def Dev.onBlock (d : Dev) (w : RegWrite) (f : Dev → Dev) : Dev :=
  match blockOf w.reg with
  | .page dm =>
    if (d.domainRec dm).isNone then d
    else if d.loadingDomain == some dm then { d with load := { d.load with held := d.load.held ++ [w] } }
    else d.withinLimit dm w f
  | b => if variantHas d.acc.reported b then f d else d

/-- A register write as it arrives (R29, R31, R491, R494): dropped on a port that is down and in BOOTING, without effect
when not aligned, counted when refused; over the Docent bus applied where visible (R499). -/
def Dev.onWrite (d : Dev) (w : RegWrite) (f : Dev → Dev) : Dev :=
  if !wellAligned w.offset w.size || d.acc.state == .booting then d
  else
    match w.src with
    | .docent => if docentVisible w.reg then d.onBlock w f else d
    | .bar port host =>
      if !d.portUp port then d
      else if d.reaches0 host w.reg then d.onBlock w f
      else d.count (portOff port 0x210) 1

/-- The meaning of a register-write row: the traffic first wakes the device (R459), then the write is admitted; the row
acts only on a write of its own kind. -/
def onRegister (i : Instr) (w : RegWrite) (kind : Dev → Bool) (f : Dev → Dev) (d : Dev) : Dev :=
  onSrc i w.src (fun d => d.onWrite w fun d => if kind d then f d else d) d

end Sys2Proof.Machine
end

