-- ==== Sys2Proof/Machine/Ports.lean ====
section
/-! DEFINITION. The command aperture, context operations, steps, ABORT and the reset of command state (chapter 03). -/

namespace Sys2Proof.Machine

/-! ### Submission (R65 to R79) -/

/-- An ACCESS fault record (R413). -/
def Dev.accessFault (d : Dev) (dom ctx : Nat) (st : Status) (host d0 d1 port : Nat) : Dev :=
  d.fault (.domain dom) 0x01 (some st) dom ctx 0 host d0 d1 port

/-- The class of a sequence number (R79). -/
inductive SeqClass where
  | fresh
  | duplicate (rc : Option Record)
  | stale
deriving DecidableEq, Repr

/-- Classify a sequence number against a context's window (R79). -/
def Context.classify (c : Context) (s : W32) : SeqClass :=
  if newer s c.high then .fresh
  else if (c.high - s).toNat ≤ 127 then
    match c.window.find? (·.seq == s) with
    | none => .fresh
    | some e => .duplicate e.record
  else .stale

/-- A new highest sequence number drops the entries older than its window (R79). -/
def Context.accept (c : Context) (s : W32) : Context :=
  let high := if newer s c.high then s else c.high
  { c with high := high, window := c.window.filter (fun e => decide ((high - e.seq).toNat ≤ 127)) ++ [{ seq := s, record := none }] }

/-- A command as its line arrives, the `order`-th accepted. -/
def Cmd.fresh (port host order : Nat) (line : List Byte) (t : Nat) : Cmd :=
  { port := port, host := host, line := line, desc := [], order := order, caps := [], tagged := false, started := false, plan := [],
    issued := 0, retired := 0, raised := [], cut := none, lost := none, degraded := false, w0 := 0, w1 := 0, w2 := 0,
    remote := [], fetched := [], spoiled := [], table := none, version := none, pool := none, grads := [], counts := [], waits := [], freeing := [], work := 0, t0 := t, orphan := none, layers := [],
    search := none, attend := none, guest := none, staged := none, committed := false, duplicateOf := none, resume := false }

/-- A slot takes a line: its read-back fields, and the command (R73, R74). -/
def Slot.take (state : SlotState) (reason : WaitReason) (line : List Byte) (k : Option Cmd) : Slot :=
  { state := state, reason := reason, status := none, seq := lineSeq line, compl := lineCompl line, steps := 0, verb := lineVerb line,
    prio := linePrio line, held := false, cmd := k }

/-- Checks 6 and 7 of R96 that need no operands, then decoding (R71, R95): an ABORT then runs at once (R82, R93). -/
def Dev.startLine (d : Dev) (r : SlotRef) (dom : Nat) (line : List Byte) : Dev :=
  match Verb.ofCode (lineVerb line) with
  | none => d.complete r .noVerb 0 0 0
  | some v =>
    if !d.classOk dom (lineVerb line) then d.complete r .noVerb 0 0 0
    else if !lineReserved line || (lineExt line && !(allowsExt v line && extFlagsOk v line)) then d.complete r .badOperand 0 0 0
    else
      let d := d.decode r false
      if v == .abort then d.modSlot r fun s => if s.state == .waiting then { s with state := .running } else s else d

/-- Change each RUNNING ABORT that has begun, with its own context at hand. -/
def Dev.modAborts (d : Dev) (f : Context → Cmd → Cmd) : Dev :=
  { d with ctxs := d.ctxs.map fun (c : Context) =>
      { c with slots := c.slots.map fun s =>
          { s with cmd := s.cmd.map fun k => if s.state == .running && k.started && cmdVerb k == some .abort then f c k else k } } }

/-- Whether an ABORT in context `c` covers a slot of context `x` (R90). -/
def abortCovers (c : Context) (k : Cmd) (x : Context) (slot : Nat) : Bool :=
  let scope := fieldAt k.line 16 1
  x.domain == c.domain && (scope == 3 || (x.num == fieldAt k.line 20 4 && (scope == 2 || slot == fieldAt k.line 18 2)))

/-- Whether a slot's last record is ABORTED. -/
def Dev.wasAborted (d : Dev) (r : SlotRef) : Bool := (d.slot? r).any fun s => s.state == .done && s.status == some .aborted

/-- A slot is about to be taken by another line: an ABORT that waits for it counts the command that ended there (R91). -/
def Dev.retake (d : Dev) (r : SlotRef) : Dev :=
  let a := d.wasAborted r
  d.modAborts fun _ k =>
    if k.waits.contains r then
      { k with waits := k.waits.filter (· != r), w0 := if a then k.w0 + 1 else k.w0, w1 := if a then k.w1 else k.w1 + 1 }
    else k

/-- A line accepted into the scope of an ABORT that has begun and has no record yet completes with ABORTED, and that
ABORT counts it (R93). -/
def Dev.arriveInAbort (d : Dev) (c : Context) (r : SlotRef) : Dev :=
  let covers (a : Context) (k : Cmd) : Bool := abortCovers a k c r.slot
  let running := d.ctxs.any fun a => a.held.any fun e => e.2.1.state == .running && e.2.2.started && cmdVerb e.2.2 == some .abort && covers a e.2.2
  if running && (d.slot? r).any (fun s => s.state == .waiting) then
    (d.modAborts fun a k => if covers a k then { k with waits := k.waits ++ [r] } else k).complete r .aborted 0 0 0
  else d

/-- An accepted line takes its slot (R73, R79). With no Curator pair working it completes with TARGET_DEAD (R23); in the
scope of an ABORT it completes with ABORTED (R93). -/
def Dev.acceptLine (d : Dev) (w : LineWrite) (c : Context) (slot : Nat) : Dev :=
  let r : SlotRef := { ctx := c.num, slot := slot }
  let k := Cmd.fresh w.port w.host d.order w.data d.now
  let d := { d.retake r with order := d.order + 1 }
  let d := (d.modCtx c.num fun c => c.accept (lineSeq w.data)).modSlot r fun _ => Slot.take .waiting .none w.data (some k)
  (if d.workingPairs = 0 then d.complete r .targetDead 0 0 0 else (d.startLine r c.domain w.data).arriveInAbort c r).settle

/-- A line that arrives in an open context, from an identity with the submit right: checks 1 to 5 of R96. -/
def Dev.submit (d : Dev) (w : LineWrite) (c : Context) (slot : Nat) : Dev :=
  let r : SlotRef := { ctx := c.num, slot := slot }
  if w.enables != BitVec.allOnes 64 then
    let named := (List.range 12).all fun i => w.enables.getLsbD (4 + i)
    let line := w.data.zipIdx.map fun p => if w.enables.getLsbD p.2 then p.1 else 0
    if named && complOk (lineCompl line) then d.refuseLine c slot line .tornSubmit
    else d.submitFault c slot (slice line 0 4 ++ (if named then slice line 4 60 else List.replicate 60 0)) .tornSubmit
  else if c.usable ≤ slot then d.refuseLine c slot w.data .badOperand
  else
    match c.slots[slot]? with
    | none => d.refuseLine c slot w.data .badOperand
    | some s =>
      if s.state == .waiting || s.state == .running then d.refuseLine c slot w.data .slotBusy
      else if !complOk (lineCompl w.data) then
        ((d.retake r).modSlot r fun _ => { Slot.take .done .none w.data none with status := some .badOperand }).submitFault c slot w.data .badOperand
      else
        match c.classify (lineSeq w.data) with
        | .stale => d.refuseLine c slot w.data .staleSequence
        | .fresh => d.acceptLine w c slot
        | .duplicate _ =>
          let k := { Cmd.fresh w.port w.host d.order w.data d.now with duplicateOf := some (lineSeq w.data) }
          ({ d.retake r with order := d.order + 1 }.modSlot r fun _ => Slot.take .waiting .duplicate w.data (some k)).settle

/-- A write into the command aperture (R65, R67): the Registrar's checks, then the slot's. -/
def devSubmissionLine (w : LineWrite) (d : Dev) : Dev :=
  if !d.portUp w.port || !d.admits || w.offset ≥ 0x1000_0000 then d
  else if !d.knows w.host then d.count (portOff w.port 0x208) 1
  else
    let slot := w.offset % 0x1000 / 0x40
    match d.ctx? (w.offset / 0x1000) with
    | none => d.count (portOff w.port 0x200) 1
    | some c =>
      if !bit (d.rightsOf w.host c.domain) 0 then
        d.accessFault c.domain c.num .accessDenied w.host w.offset 0 w.port
      else d.submit w c slot

/-- Execute SUBMISSION_LINE. -/
def execSubmissionLine (w : LineWrite) (s : State) : Host.Outcome State Fault Refusal := 
  whenLive (onTraffic (.submissionLine w) w.port (devSubmissionLine w)) s

/-- The read-back line of a slot, its wait reason as it stands now (R74). -/
def Dev.slotLine (d : Dev) (c : Context) (slot : Nat) : List Byte :=
  match c.slots[slot]? with
  | none => List.replicate 64 0
  | some s =>
    let steps := match s.cmd with
      | some k => k.retired
      | none => s.steps
    { s with reason := d.waitReason c s, steps := steps }.line

/-- A read in the command aperture (R67, R74): zeros without an open context and the submit right, poison for an
identity the image does not know; it waits where its answer finds no room (R316). -/
def devSlotRead (port host offset : Nat) (d : Dev) : Dev :=
  if !d.portUp port || !d.admits || offset ≥ 0x1000_0000 then d
  else if !d.knows host then (d.count (portOff port 0x208) 1).toPort port 256 false 64 none (.memData port host offset none)
  else
    match d.ctx? (offset / 0x1000) with
    | none => d.toPort port 256 false 64 none (.slotLine port (List.replicate 64 0))
    | some c =>
      if d.portFull port c.domain then d.waitRoom (.slotRead port host offset)
      else if bit (d.rightsOf host c.domain) 0 then
        d.toPort port c.domain false 64 none (.slotLine port (d.slotLine c (offset % 0x1000 / 0x40)))
      else d.toPort port c.domain false 64 none (.slotLine port (List.replicate 64 0))

/-- Execute SLOT_READ. -/
def execSlotRead (port host offset : Nat) (s : State) : Host.Outcome State Fault Refusal := 
  whenLive (onTraffic (.slotRead port host offset) port (devSlotRead port host offset)) s

/-- The domains with misses pending at a wing's ingress. -/
def Dev.missDomains (d : Dev) (west : Bool) : List Nat :=
  ((d.ctxs.filter fun c => c.held.any fun e => e.2.1.state == .waiting && e.2.1.reason == .miss && westPort e.2.2.port == west).map (·.domain)).eraseDups

/-- A Curator pair ends a miss (R294): the command captures its translation or completes; not while no pair works
(R23), and only at its domain's turn among the domains with misses pending (R26). -/
def devXlateMissServed (r : SlotRef) (d : Dev) : Dev :=
  match d.slot? r with
  | none => d
  | some s =>
    let west := s.cmd.any fun k => westPort k.port
    let dom := d.domainOf r
    let turn := nextAfter (if west then d.missTurn.2 else d.missTurn.1) (d.missDomains west) == some dom
    if s.state == .waiting && s.reason == .miss && decide (0 < d.workingPairs) && turn then
      let d := { d with missTurn := if west then (d.missTurn.1, dom) else (dom, d.missTurn.2) }
      ((d.countPage dom 0x120 1).decode r true).settle
    else d

/-- Execute XLATE_MISS_SERVED. -/
def execXlateMissServed (r : SlotRef) (s : State) : Host.Outcome State Fault Refusal := whenLive (devXlateMissServed r) s

/-! ### Contexts (R68, R69) -/

/-- CTX_RESULT of a domain after an operation: the code, the context and DONE (R68). -/
def Dev.ctxResult (d : Dev) (dom code ctx : Nat) : Dev :=
  let o := pageOff dom 0x50
  ((d.setField o 15 8 code).setField o 47 32 ctx).setField o 0 0 1

/-- Whether a write names CTX_CMD of a page and gives an operation (R68, R492). -/
def isCtxCmd (op : Nat) (w : RegWrite) : Bool :=
  match blockOf w.reg with
  | .page dom => w.reg == pageOff dom 0x48 && (w.size == 8 || w.offset % 8 == 0) && w.fieldOf 3 0 == op
  | _ => false

/-- The domain of a page register. -/
def pageOf (off : Nat) : Nat := off / 0x2000 - 0x80

/-- Fields of a domain's CTX_ARG (R68). -/
def Dev.ctxArg (d : Dev) (dom hi lo : Nat) : Nat := d.field (pageOff dom 0x40) hi lo

/-- OPEN: a free context number, drawn freely, or NO_CONTEXT, BAD_ARG, PORT_DOWN (R69). -/
def Dev.ctxOpen (d : Dev) (dom : Nat) : Dev :=
  let slots := d.ctxArg dom 16 10
  let ceiling := ((d.domainRec dom).map (·.ctxCeiling)).getD 0
  if ceiling ≤ (d.ctxs.filter fun c => c.domain == dom && !c.isGuest).length then d.ctxResult dom 1 0
  else if slots = 0 ∨ 64 < slots then d.ctxResult dom 4 0
  else if !d.portUp (d.ctxArg dom 19 18) then d.ctxResult dom 5 0
  else
    let want := Config.freeNat d.draws % 65536
    let num := if d.ctxs.any (·.num == want) then ((List.range 65536).find? fun n => !(d.ctxs.any (·.num == n))).getD 0 else want
    let c : Context :=
      { num := num, domain := dom, usable := slots, homePort := d.ctxArg dom 19 18, msixEn := d.ctxArg dom 20 20 == 1,
        vector := d.ctxArg dom 31 21, high := BitVec.ofNat 32 (d.ctxArg dom 63 32) - 1, window := [],
        slots := List.replicate slots Slot.fresh, fails := [], lastClose := 0,
        running := List.replicate 8 { poly := 0, reg := 0, count := 0 }, runningAlloc := false, session := none }
    { d with draws := d.draws + 1, ctxs := d.ctxs ++ [c] }.ctxResult dom 0 num

/-- CTX_OPEN: the OPEN of a CTX_CMD write (R68, R69). -/
def devCtxOpen (w : RegWrite) (d : Dev) : Dev := onRegister (.ctxOpen w) w (fun _ => isCtxCmd 1 w) (fun d => d.ctxOpen (pageOf w.reg)) d

/-- Execute CTX_OPEN. -/
def execCtxOpen (w : RegWrite) (s : State) : Host.Outcome State Fault Refusal := whenLive (devCtxOpen w) s

/-- The line of a DROP WHOLE (R161), as a front member sends it to a session's owner. -/
def dropLine : List Byte := overlay (overlay (List.replicate 64 0) 0 (natLe 0x0304 2)) 16 [1]

/-- What a context's session holds is released when the context goes (R147, R161): here, or, by a DROP, on the owner; references to
blocks homed elsewhere go back to their homes. -/
def Dev.dropSession (d : Dev) (c : Nat) : Dev :=
  match d.session? c with
  | none => d
  | some s =>
    let d := if s.owner == d.coll.geoId || !d.joined then d else
      d.tellStep .run s.owner ((d.ctx? c).elim 0xFFFF (·.domain)) c ([0, 0] ++ (chunks 8 dropLine).map leNat)
    let drop (d : Dev) (id : Nat) : Dev :=
      match d.block? id with
      | none => d
      | some b =>
        if d.isLocal b.frameSa then d.refBlock id false
        else { d.tellStep .refs (d.homeOf b.summarySa) b.domain 0 (refArgs false b) with blocks := d.blocks.filter (·.id != id) }
    ((s.layers.flatMap (·.blocks)).foldl drop d).closeSession c

/-- CLOSE of context `n` (R69, R147): an ABORT that runs counts the commands that ended in it first (R91). -/
def Dev.ctxClose (d : Dev) (dom n : Nat) : Dev :=
  match d.ctx? n with
  | none => d.ctxResult dom 2 n
  | some c =>
    if c.domain != dom then d.ctxResult dom 2 n
    else if c.slots.any fun s => s.state == .waiting || s.state == .running then d.ctxResult dom 3 n
    else
      let d := (List.range c.slots.length).foldl (fun d i => d.retake { ctx := n, slot := i }) (d.dropSession n)
      (({ d with ctxs := d.ctxs.filter (fun x => x.num != n) }).settle).ctxResult dom 0 n

/-- CTX_CLOSE: the CLOSE of a CTX_CMD write (R68, R69). -/
def devCtxClose (w : RegWrite) (d : Dev) : Dev :=
  onRegister (.ctxClose w) w (fun _ => isCtxCmd 2 w) (fun d => d.ctxClose (pageOf w.reg) (w.fieldOf 31 16)) d

/-- Execute CTX_CLOSE. -/
def execCtxClose (w : RegWrite) (s : State) : Host.Outcome State Fault Refusal := whenLive (devCtxClose w) s

/-- REHOME of context `n` (R69). -/
def Dev.ctxRehome (d : Dev) (dom n : Nat) : Dev :=
  match d.ctx? n with
  | none => d.ctxResult dom 2 n
  | some c =>
    if c.domain != dom then d.ctxResult dom 2 n
    else if !d.portUp (d.ctxArg dom 19 18) then d.ctxResult dom 5 n
    else
      (d.modCtx n fun c => { c with homePort := d.ctxArg dom 19 18, vector := d.ctxArg dom 31 21, msixEn := d.ctxArg dom 20 20 == 1 }).ctxResult dom 0 n

/-- CTX_REHOME: the REHOME of a CTX_CMD write (R68, R69). -/
def devCtxRehome (w : RegWrite) (d : Dev) : Dev :=
  onRegister (.ctxRehome w) w (fun _ => isCtxCmd 3 w) (fun d => d.ctxRehome (pageOf w.reg) (w.fieldOf 31 16)) d

/-- Execute CTX_REHOME. -/
def execCtxRehome (w : RegWrite) (s : State) : Host.Outcome State Fault Refusal := whenLive (devCtxRehome w) s

/-- A CTX_CMD write of any operation: another one sets CODE 0x04 (R68). -/
def Dev.ctxCmd (d : Dev) (w : RegWrite) : Dev :=
  let dom := pageOf w.reg
  if isCtxCmd 1 w then d.ctxOpen dom
  else if isCtxCmd 2 w then d.ctxClose dom (w.fieldOf 31 16)
  else if isCtxCmd 3 w then d.ctxRehome dom (w.fieldOf 31 16)
  else if w.size == 8 || w.offset % 8 == 0 then d.ctxResult dom 4 (w.fieldOf 31 16)
  else d

/-! ### ABORT and the reset of command state (R90 to R94) -/

/-- Media operations of aborted commands: reads not on the media are dropped with their places in the queues, programs lose their
result (R267). -/
def Dev.abortMedia (d : Dev) (rs : List SlotRef) : Dev :=
  d.leaveMedia fun r _ => rs.contains r

/-- Whether a RELEASE or PUBLISH has issued its write: it then completes with that write's outcome (R125, R377). -/
def Cmd.writeIssued (k : Cmd) : Bool :=
  (cmdVerb k == some .release || cmdVerb k == some .publish) && k.started && (decide (0 < k.issued) || k.plan.isEmpty)

/-- Abort one command (R91, R401, R337): a WAITING one completes ABORTED; a RUNNING one issues no further step, and its issued steps
run to their end, but for one that waits for flash (R267). A committed MAP, UNMAP or LOAN_RENEW stands, and so does a RELEASE or
PUBLISH whose write was issued (R125). A MIGRATE whose offer is out asks the Ledger to abandon it (R163). DESIGN CHOICE (log 109): a
duplicate in flight is a WAITING command like any other, and ends with ABORTED and a record of its own. -/
def Dev.abortOne (d : Dev) (r : SlotRef) : Dev :=
  match d.ctx? r.ctx, d.slot? r with
  | none, _ => d
  | _, none => d
  | some c, some s =>
    match s.cmd with
    | none => d
    | some k =>
      if s.state == .waiting then d.complete r .aborted 0 0 0
      else if k.committed || k.writeIssued then d
      else
        let offering := k.remote.any fun a => a.tag == offerTag
        let (front, ctx) := d.frontOf c.num
        let d := if offering then d.sendLedger d.coll.master 4 c.domain ctx d.coll.geoId (fieldAt k.line 17 1) front (((c.session.map (·.offered))).getD 0) else d
        let d := d.cutForwarded r k
        let d := (if k.issued = 0 then d.detach r else d).setTxns (d.vitTxns.filter fun t => !((t.req == .engine r true || t.req == .engine r false) && !t.active))
        let early := offering || k.remote.any fun a => isStep a && a.index == StepKind.stage.code
        if k.started && k.plan.isEmpty then d.modCmd r fun k => { k with cut := if early then some (k.cut.getD .aborted) else k.cut }
        else
          ((d.dropSteps r fun st => st.parked || !st.cold.isEmpty).modCmd r fun k =>
            { k with cut := some (k.cut.getD .aborted), started := true, plan := k.plan.take k.issued }).conclude r

/-- The commands of a scope that an ABORT reaches: all but ABORTs (R90). -/
def Dev.abortScope (d : Dev) (p : Context → Nat → Bool) : List SlotRef :=
  d.ctxs.flatMap fun c => c.held.filterMap fun e =>
    if p c e.1 && !c.isGuest && cmdVerb e.2.2 != some .abort then some { ctx := c.num, slot := e.1 } else none

/-- Abort a list of commands: the WAITING ones first, so that none that an ordering verb holds ends otherwise (R123); then the others,
in the order of their slots. Nothing that they have queued leaves (R92, R320), but what an issued RELEASE or PUBLISH sends (R125). -/
def Dev.abortAll (d : Dev) (rs : List SlotRef) : Dev :=
  let stands (r : SlotRef) : Bool := (d.cmd? r).any fun k => k.committed || k.writeIssued
  let gone := rs.filter fun r => !stands r
  let waits := rs.filter fun r => (d.slot? r).any (·.state == .waiting)
  let runs := rs.filter fun r => !waits.contains r
  (waits ++ runs).foldl (fun d r => d.abortOne r) ((d.purge gone).abortMedia gone)

/-- Whether an ABORT of a domain lies wholly inside another's scope: the same slot, the same context, or the whole domain (R93). -/
def abortInside (a b : Cmd) : Bool :=
  let sa := fieldAt a.line 16 1; let sb := fieldAt b.line 16 1
  sb == 3 || (sa != 3 && fieldAt a.line 20 4 == fieldAt b.line 20 4 && (sb == 2 || (sa == 1 && fieldAt a.line 18 2 == fieldAt b.line 18 2)))

/-- Whether an ABORT that was accepted later lies inside an ABORT's scope and has not ended: it completes no later (R93). -/
def Dev.innerAbort (d : Dev) (c : Context) (k : Cmd) : Bool :=
  d.ctxs.any fun x => x.domain == c.domain && x.held.any fun e =>
    e.2.1.state == .running && cmdVerb e.2.2 == some .abort && e.2.2.duplicateOf.isNone && decide (k.order < e.2.2.order) && abortInside e.2.2 k

/-- An ABORT completes when every command of its scope has its record and no ABORT inside its scope is left (R91, R93): it counts
them. -/
def Dev.abortEnds (d : Dev) (r : SlotRef) : Dev :=
  match d.ctx? r.ctx, d.cmd? r with
  | some c, some k =>
    if k.started && (k.waits.all fun w => (d.cmd? w).isNone) && !d.innerAbort c k then
      let n := (k.waits.filter d.wasAborted).length
      d.complete r .ok (k.w0 + BitVec.ofNat 64 n) (k.w1 + BitVec.ofNat 64 (k.waits.length - n)) 0
    else d
  | _, _ => d

/-- ABORT (R90, R91): it stops its scope when it first runs, and ends when every command of the scope has its record;
the row runs again until then. -/
def devAbort (r : SlotRef) (d : Dev) : Dev :=
  match d.ctx? r.ctx, d.slot? r with
  | some c, some s =>
    match s.cmd with
    | none => d
    | some k =>
      if cmdVerb k != some .abort || s.state != .running then d
      else
        let scope := fieldAt k.line 16 1; let slot := fieldAt k.line 18 2; let ctx := fieldAt k.line 20 4
        let target := d.ctx? ctx
        let mine := target.any (·.domain == c.domain)
        if !k.started && scope != 3 && !mine then d.reject r .accessDenied
        else if !k.started && scope == 1 && target.any (fun t => decide (t.usable ≤ slot)) then d.reject r .badOperand
        else
          let d1 :=
            if k.started then d
            else
              let rs := d.abortScope fun x i => abortCovers c k x i
              (d.modCmd r fun k => { k with started := true, waits := rs }).abortAll rs
          (d1.abortEnds r).settle
  | _, _ => d

/-- Execute ABORT. -/
def execAbort (r : SlotRef) (s : State) : Host.Outcome State Fault Refusal := whenLive (devAbort r) s

/-- Begin a device-wide reset of command state (R94, R62): every command present is aborted, except ABORTs; ACTIVE is set, and
ABORTED counts those that end so at once, and then each that ends so as its steps retire. -/
def Dev.resetCommands (d : Dev) : Dev :=
  let rs := d.abortScope fun _ _ => true
  let d := ({ d with resetActive := true }.setField 0x3008 1 1 1).setField 0x3008 63 32 0
  let d := d.abortAll rs
  d.setField 0x3008 63 32 ((rs.filter d.wasAborted).length % 2 ^ 32)

/-- The reset of command state is over (R94): DONE is set, and the commands that waited run. -/
def Dev.resetEnds (d : Dev) : Dev :=
  (({ d with resetActive := false }).setField 0x3008 1 1 0).setField 0x3008 0 0 1

/-- CMD_RESET GO (R94): discarded while ACTIVE. -/
def Dev.cmdResetGo (d : Dev) : Dev := if d.resetActive then d else d.resetCommands

/-- CMD_RESET: the GO write of CMD_RESET (R94). -/
def devCmdReset (w : RegWrite) (d : Dev) : Dev :=
  onRegister (.cmdReset w) w (fun _ => w.reg == 0x3000 && w.sets 0) Dev.cmdResetGo d

/-- Execute CMD_RESET. -/
def execCmdReset (w : RegWrite) (s : State) : Host.Outcome State Fault Refusal := whenLive (devCmdReset w) s

/-- CMD_RESET_DONE (R94): once the aborted commands have their records, ABORTED counts those that ended so, DONE is set
and the commands that waited run. Commands accepted during the reset stay WAITING until here. The reset of a full image's load ends with the
load (R62). -/
def devCmdResetDone (d : Dev) : Dev :=
  if d.resetActive && !(d.load.phase != .idle && d.load.next.any (!·.partialLoad)) && (d.slotsWhere fun c s => !c.isGuest && s.state == .running && s.cmd.any fun k => cmdVerb k != some .abort).isEmpty then
    d.resetEnds.settle
  else d

/-- Execute CMD_RESET_DONE. -/
def execCmdResetDone (s : State) : Host.Outcome State Fault Refusal := whenLive devCmdResetDone s

end Sys2Proof.Machine
end

