-- ==== Sys2Proof/Machine/MemVerbs.lean ====
section
/-! DEFINITION. FILL, COPY, COMPARE, REDUCE, ATOMIC and ATOMIC_BATCH (R98 to R109), and PE reads (R114, R370). -/

namespace Sys2Proof.Machine

/-! ### FILL and COPY -/

/-- FILL (R99): at most 64 KiB a step (R103). -/
def devFill (r : SlotRef) (d : Dev) : Dev :=
  d.onReady r .fill fun c k =>
    let dst := fieldAt k.line 16 8; let len := fieldAt k.line 24 8; let w := fieldAt k.line 40 1
    let pat := slice k.line 32 w
    let plan := (k.spans c.domain dst len).map fun s =>
      { Step.nop with kind := .mover, free := true, writes := [{ sa := s.sa, bytes := (List.replicate (s.len / w) pat).flatten ++ pat.take (s.len % w) }], w0 := s.len }
    d.begin r plan 0 0 0

/-- Execute FILL. -/
def execFill (r : SlotRef) (s : State) : Host.Outcome State Fault Refusal := whenLive (devFill r) s

/-- Two span lists cut so that their pieces pair up, in order (fuel bounds the pieces). -/
def pairSpans : Nat → List Span → List Span → List (Span × Span)
  | 0, _, _ => []
  | _, [], _ => []
  | _, _, [] => []
  | n + 1, a :: as, b :: bs =>
    let m := min a.len b.len
    let rest (s : Span) (t : List Span) : List Span := if m < s.len then { sa := s.sa + m, len := s.len - m } :: t else t
    ({ sa := a.sa, len := m }, { sa := b.sa, len := m }) :: pairSpans n (rest a as) (rest b bs)

/-- The steps that move bytes from source spans to destination spans on movers (R103). -/
def moveSteps (src dst : List Span) : List Step :=
  (pairSpans (2 * (src.length + dst.length)) src dst).map fun p =>
    { Step.nop with kind := .mover, free := true, reads := [p.1], outs := [p.2], effects := [.copy p.1.sa p.2.sa p.1.len], w0 := p.1.len }

/-- COPY (R100): ranges that overlap in SA complete with BAD_OPERAND. -/
def devCopy (r : SlotRef) (d : Dev) : Dev :=
  d.onReady r .copy fun c k =>
    let len := fieldAt k.line 32 8
    let src := k.spans c.domain (fieldAt k.line 16 8) len
    let dst := k.spans c.domain (fieldAt k.line 24 8) len
    if src.any fun a => dst.any fun b => overlap a.sa a.len b.sa b.len then d.reject r .badOperand
    else d.begin r (moveSteps src dst) 0 0 0

/-- Execute COPY. -/
def execCopy (r : SlotRef) (s : State) : Host.Outcome State Fault Refusal := whenLive (devCopy r) s

/-! ### COMPARE -/

/-- COMPARE (R101, R103): at most 32 KiB of each range a step, on a scanner. -/
def devCompare (r : SlotRef) (d : Dev) : Dev :=
  d.onReady r .compare fun c k =>
    let plan := (pieces (fieldAt k.line 32 8) 32768).map fun p =>
      { Step.nop with
        kind := .scanner, free := true, effects := [.compare p.1 p.2]
        reads := k.spans c.domain (fieldAt k.line 16 8 + p.1) p.2 ++ k.spans c.domain (fieldAt k.line 24 8 + p.1) p.2 }
    d.begin r plan (BitVec.allOnes 64) 0 0

/-- Execute COMPARE. -/
def execCompare (r : SlotRef) (s : State) : Host.Outcome State Fault Refusal := whenLive (devCompare r) s

/-! ### REDUCE -/

/-- Spans grouped in order so that each group has at most `limit` bytes; the last group is open. -/
def groupSpans (limit : Nat) (ss : List Span) : List (List Span) :=
  (ss.foldl (fun (acc : List (List Span) × List Span × Nat) s =>
      if acc.2.2 + s.len ≤ limit ∨ acc.2.1 = [] then (acc.1, acc.2.1 ++ [s], acc.2.2 + s.len)
      else (acc.1 ++ [acc.2.1], [s], s.len)) ([], [], 0)) |> fun acc => acc.1 ++ [acc.2.1]

/-- Steps of at most 64 KiB that read spans, the last of which also does what `fin` does with `out` bytes (R84, R103): what the
earlier ones brought from other homes is still read by the last. -/
def Dev.readThen (d : Dev) (ss : List Span) (out : Nat) (fin : Step) : List Step :=
  let gs := groupSpans (65536 - out) ss
  let far := gs.dropLast.flatten.filter fun s => !d.isLocal s.sa
  gs.dropLast.map (fun g => { Step.nop with kind := fin.kind, free := fin.free, reads := g }) ++
    [{ fin with reads := gs.getLast?.getD [] ++ far, free := fin.free && decide (gs.length ≤ 1) }]

/-- Elements of each vector that one step of REDUCE takes: whole groups of 32, at most 64 KiB read and written together (R103). -/
def ReduceOps.perStep (o : ReduceOps) : Nat :=
  let group := o.m * (4 * elemBits o.fi + b2n (isMx o.fi)) + 4 * elemBits o.fo
  32 * max 1 (65536 / max 1 group)

/-- REDUCE (R102, R103): each step runs on one PE; under SCALAR the last one combines what all of them read. -/
def devReduce (r : SlotRef) (d : Dev) : Dev :=
  d.onReady r .reduce fun c k =>
    let o := reduceOps k.line
    if lineFlags k.line == 1 then
      let ss := (List.range o.m).flatMap fun j => (k.reduceSpans c.domain o j 0 o.n).flatten
      d.begin r (d.readThen ss 0 { Step.nop with kind := .pe, effects := [.reduceAll] }) 0 0 0
    else
      let plan := (pieces o.n o.perStep).flatMap fun p =>
        let out := k.spans c.domain (o.dst + p.1 * (elemBits o.fo / 8)) (p.2 * (elemBits o.fo / 8))
        d.readThen ((List.range o.m).flatMap fun j => (k.reduceSpans c.domain o j p.1 p.2).flatten) (p.2 * (elemBits o.fo / 8))
          { Step.nop with kind := .pe, free := true, outs := out, effects := [.reduce p.1 p.2] }
      d.begin r plan 0 0 0

/-- Execute REDUCE. -/
def execReduce (r : SlotRef) (s : State) : Host.Outcome State Fault Refusal := whenLive (devReduce r) s

/-! ### Atomics -/

/-- ATOMIC (R106): one step at the target's home. -/
def devAtomic (r : SlotRef) (d : Dev) : Dev :=
  d.onReady r .atomic fun c k =>
    match saOf k.caps c.domain (fieldAt k.line 16 8) with
    | none => d
    | some sa =>
      d.begin r
        [{ Step.nop with
          kind := .atomic
          outs := [{ sa := sa, len := fieldAt k.line 41 1 }]
          effects := [.atomic sa (fieldAt k.line 41 1) (fieldAt k.line 40 1) (BitVec.ofNat 64 (fieldAt k.line 24 8))
            (BitVec.ofNat 64 (fieldAt k.line 32 8)) (lineFlags k.line == 1)] }] 0 0 0

/-- Execute ATOMIC. -/
def execAtomic (r : SlotRef) (s : State) : Host.Outcome State Fault Refusal := whenLive (devAtomic r) s

/-- ATOMIC_BATCH (R107): at most 256 entries a step, each applied in entry order when its step runs (R108 leaves the
order of different words open: log 23). -/
def devAtomicBatch (r : SlotRef) (d : Dev) : Dev :=
  d.onReady r .atomicBatch fun c k =>
    let fetch := fieldAt k.line 32 8
    let plan := (pieces (fieldAt k.line 24 4) 256).map fun p =>
      { Step.nop with
        kind := .atomic
        reads := k.entrySpans c.domain p.1 p.2
        outs := if fetch = 0 then [] else k.spans c.domain (fetch + 8 * p.1) (8 * p.2)
        effects := [.entries p.1 p.2] }
    d.begin r plan 0 0 (BitVec.allOnes 64)

/-- Execute ATOMIC_BATCH. -/
def execAtomicBatch (r : SlotRef) (s : State) : Host.Outcome State Fault Refusal := whenLive (devAtomicBatch r) s

end Sys2Proof.Machine
end

