-- ==== Sys2Proof/Machine/Ordering.lean ====
section
/-! DEFINITION. The ordering verbs FENCE, FENCE_FULL, RELEASE and ACQUIRE (R116 to R126). -/

namespace Sys2Proof.Machine

/-- The commands an ordering verb covers that are not DONE (R116). -/
def covered (c : Context) (k : Cmd) : List Cmd :=
  (c.held.map fun e => e.2.2).filter fun x => decide (x.order < k.order)

/-- A command has retired every step (R117). -/
def stepsDone (k : Cmd) : Bool := k.started && k.plan.isEmpty

/-- FENCE (R117). -/
def devFence (r : SlotRef) (d : Dev) : Dev :=
  d.onReady r .fence fun c k =>
    let cs := covered c k
    if cs.all stepsDone then
      let bad := c.fails.any (fun o => decide (o < k.order)) || cs.any hasFailed
      (d.complete r (if bad then .priorFailed else .ok) 0 0 0).settle
    else d

/-- Execute FENCE. -/
def execFence (r : SlotRef) (s : State) : Host.Outcome State Fault Refusal := whenLive (devFence r) s

/-- FENCE_FULL (R118). -/
def devFenceFull (r : SlotRef) (d : Dev) : Dev :=
  d.onReady r .fenceFull fun c k =>
    if (covered c k).isEmpty then
      let bad := c.fails.any (fun o => decide (o < k.order))
      (d.complete r (if bad then .priorFailed else .ok) 0 0 0).settle
    else d

/-- Execute FENCE_FULL. -/
def execFenceFull (r : SlotRef) (s : State) : Host.Outcome State Fault Refusal := whenLive (devFenceFull r) s

/-- Whether a command of the epoch that a RELEASE or PUBLISH would close has failed (R120): accepted after the last
epoch-closing verb and before this one. -/
def epochFailed (c : Context) (k : Cmd) : Bool :=
  c.fails.any fun o => decide (c.lastClose < o) && decide (o < k.order)

/-- RELEASE (R119, R120): once every covered command is DONE, PRIOR_FAILED for a failed epoch, else the flag write is
issued as one atomic step at the flag's home; word 0 is the previous value. -/
def devRelease (r : SlotRef) (d : Dev) : Dev :=
  d.onReady r .release fun c k =>
    if !(covered c k).isEmpty then d
    else if epochFailed c k then d.reject r .priorFailed
    else
      match saOf k.caps c.domain (fieldAt k.line 16 8) with
      | none => d
      | some sa =>
        let op := if fieldAt k.line 32 1 = 1 then 0x0C else 0x01
        d.begin r
          [{ Step.nop with
            kind := .atomic
            outs := [{ sa := sa, len := 8 }]
            effects := [.atomic sa 8 op (BitVec.ofNat 64 (fieldAt k.line 24 8)) 0 true] }] 0 0 0

/-- Execute RELEASE. -/
def execRelease (r : SlotRef) (s : State) : Host.Outcome State Fault Refusal := whenLive (devRelease r) s

/-- Whether ACQUIRE's condition holds of a flag value (R121). -/
def acquireHolds (cond flag value : Nat) : Bool :=
  match cond with
  | 0 => true
  | 1 => flag == value
  | 2 => flag != value
  | 3 => decide (value ≤ flag)
  | _ => flag &&& value == value

/-- Lines of a domain's PE read caches that overlap store spans are invalidated (R122, R378). -/
def Dev.peInvalidate (d : Dev) (dom : Nat) (ss : List Span) : Dev :=
  { d with peCache := d.peCache.filter fun l => !(l.domain == dom && ss.any fun s => overlap l.addr 64 s.sa s.len) }

/-- Every line of a domain's PE read caches is invalidated. -/
def Dev.peInvalidateAll (d : Dev) (dom : Nat) : Dev :=
  { d with peCache := d.peCache.filter fun l => l.domain != dom }

/-- ACQUIRE ends with OK: invalidation in its scope, then the record (R122 steps 2 and 3). -/
def Dev.acquireDone (d : Dev) (r : SlotRef) (c : Context) (k : Cmd) (flag : Nat) : Dev :=
  let d := if fieldAt k.line 33 1 = 1 then
      d.peInvalidate c.domain (spansOf k.caps c.domain (fieldAt k.line 40 8) (fieldAt k.line 48 8))
    else d.peInvalidateAll c.domain
  (d.complete r .ok (BitVec.ofNat 64 flag) 0 0).settle

/-- One reading of ACQUIRE's flag at its home (R122 step 1): POISONED ends it; while its sector is under repair, or a host holds its
line modified, it waits; a wait limit of 0 is a single read. `fails` says that the flag's sector fails its check (R399). -/
def Dev.acquireRead (d : Dev) (r : SlotRef) (fails : Bool) : Dev :=
  d.onReady r .acquire fun c k =>
    if !d.current k then (d.stop r .staleXlate).settle
    else if fieldAt k.line 32 1 = 0 then d.acquireDone r c k 0
    else
      match saOf k.caps c.domain (fieldAt k.line 16 8) with
      | none => d
      | some sa =>
        let s : Span := { sa := sa, len := 8 }
        let here := d.isLocal sa
        if here && (d.underRepair s || (fails && !d.poisonedIn s)) then d.startRepair (sa / 32) (.command r)
        else if !(d.vitConflicts [s] []).isEmpty then d.vitEngine r (d.vitConflicts [s] [])
        else
          d.withRemote r k [s] fun d =>
            let flag := leNat (d.loadSpan k s)
            if d.badSpan k s then d.reject r .poisoned
            else if acquireHolds (fieldAt k.line 32 1) flag (fieldAt k.line 24 8) then d.acquireDone r c k flag
            else if fieldAt k.line 36 4 = 0 then (d.complete r .deadlineMissed 0 0 0).settle
            else d.modCmd r fun k => { k with fetched := [] }

/-- ACQUIRE: the first read of the flag. -/
def devAcquire (r : SlotRef) (fails : Bool) (d : Dev) : Dev := d.acquireRead r fails

/-- Execute ACQUIRE. -/
def execAcquire (r : SlotRef) (fails : Bool) (s : State) : Host.Outcome State Fault Refusal := whenLive (devAcquire r fails) s

/-- ACQUIRE_POLL: the flag is read again. -/
def devAcquirePoll (r : SlotRef) (fails : Bool) (d : Dev) : Dev := d.acquireRead r fails

/-- Execute ACQUIRE_POLL. -/
def execAcquirePoll (r : SlotRef) (fails : Bool) (s : State) : Host.Outcome State Fault Refusal := whenLive (devAcquirePoll r fails) s

/-- ACQUIRE_WAIT_LIMIT: the limit, counted from the tag, has passed (R121, R122): DEADLINE_MISSED. A limit of 0 is none: it asks for a
single read. -/
def devAcquireWaitLimit (r : SlotRef) (t : Nat) (d : Dev) : Dev :=
  let d := d.atTime t
  d.onReady r .acquire fun _ k =>
    if fieldAt k.line 36 4 ≠ 0 ∧ k.t0 + fieldAt k.line 36 4 * 1000 ≤ d.now then (d.complete r .deadlineMissed 0 0 0).settle else d

/-- Execute ACQUIRE_WAIT_LIMIT. -/
def execAcquireWaitLimit (r : SlotRef) (t : Nat) (s : State) : Host.Outcome State Fault Refusal := whenLive (devAcquireWaitLimit r t) s

end Sys2Proof.Machine
end

