-- ==== Sys2Proof/Machine/CheckVerbs.lean ====
section
/-! DEFINITION. SCAN_CHECK, CHECK_SAVE and CHECK_LOAD (R390 to R396). -/

namespace Sys2Proof.Machine

/-- Run a class 0x08 command once its context's running values have their 128 bytes of quota (R391). -/
def Dev.withRunning (d : Dev) (r : SlotRef) (c : Context) (f : Dev → Dev) : Dev :=
  if c.runningAlloc then f d
  else if d.dramRoom c.domain 128 then f (d.modCtx c.num fun c => { c with runningAlloc := true })
  else d.reject r .capacity

/-- A SCAN_CHECK of one mode that may begin, with its polynomial. -/
def Dev.onScan (d : Dev) (r : SlotRef) (mode : Nat) (f : Context → Cmd → CrcPoly → Dev) : Dev :=
  d.onReady r .scanCheck fun c k =>
    if fieldAt k.line 33 1 != mode then d
    else
      match crcPoly (fieldAt k.line 32 1) with
      | none => d
      | some p => f c k p

/-- SCAN_CHECK RUNNING (R393, R396): the running value and the words come with the last step. -/
def devScanCheckRunning (r : SlotRef) (d : Dev) : Dev :=
  d.onScan r 1 fun c k _ =>
    if fieldAt k.line 34 1 = 2 ∧ (c.value (fieldAt k.line 35 1)).poly ≠ fieldAt k.line 32 1 then d.reject r .badOperand
    else d.withRunning r c fun d =>
      d.begin r (d.readThen (k.scanRange c.domain) 0 { Step.nop with kind := .scanner, free := true, effects := [.scanRunning] }) 0 0 0

/-- Execute SCAN_CHECK RUNNING. -/
def execScanCheckRunning (r : SlotRef) (s : State) : Host.Outcome State Fault Refusal := whenLive (devScanCheckRunning r) s

/-- The steps of SCAN_CHECK BLOCKED and VERIFY (R396): whole blocks, of at most 64 KiB together. -/
def Cmd.blockSteps (k : Cmd) (dom : Nat) : List Step :=
  let blk := fieldAt k.line 36 4
  let arr := fieldAt k.line 48 8
  (pieces (fieldAt k.line 24 8 / blk) (65536 / blk)).map fun q =>
    let slots := k.spans dom (arr + 8 * q.1) (8 * q.2)
    let verify := fieldAt k.line 33 1 == 3
    { Step.nop with
      kind := .scanner, free := true
      reads := k.spans dom (fieldAt k.line 16 8 + q.1 * blk) (q.2 * blk) ++ if verify then slots else []
      outs := if verify then [] else slots
      effects := [.scanBlocks q.1 q.2] }

/-- SCAN_CHECK BLOCKED (R393, R396). -/
def devScanCheckBlocked (r : SlotRef) (d : Dev) : Dev :=
  d.onScan r 2 fun c k _ => d.withRunning r c fun d => d.begin r (k.blockSteps c.domain) 0 0 0

/-- Execute SCAN_CHECK BLOCKED. -/
def execScanCheckBlocked (r : SlotRef) (s : State) : Host.Outcome State Fault Refusal := whenLive (devScanCheckBlocked r) s

/-- SCAN_CHECK VERIFY (R393, R396): word 2 is all ones until a step has found a block that does not match. -/
def devScanCheckVerify (r : SlotRef) (d : Dev) : Dev :=
  d.onScan r 3 fun c k _ => d.withRunning r c fun d => d.begin r (k.blockSteps c.domain) 0 0 (BitVec.allOnes 64)

/-- Execute SCAN_CHECK VERIFY. -/
def execScanCheckVerify (r : SlotRef) (s : State) : Host.Outcome State Fault Refusal := whenLive (devScanCheckVerify r) s

/-- CHECK_SAVE (R394): one step. -/
def devCheckSave (r : SlotRef) (d : Dev) : Dev :=
  d.onReady r .checkSave fun c k => d.withRunning r c fun d =>
    d.begin r [{ Step.nop with writes := k.writesAt c.domain (fieldAt k.line 16 8) (c.value (fieldAt k.line 24 1)).record }] 0 0 0

/-- Execute CHECK_SAVE. -/
def execCheckSave (r : SlotRef) (s : State) : Host.Outcome State Fault Refusal := whenLive (devCheckSave r) s

/-- CHECK_LOAD (R394): one step. -/
def devCheckLoad (r : SlotRef) (d : Dev) : Dev :=
  d.onReady r .checkLoad fun c k => d.withRunning r c fun d =>
    d.begin r [{ Step.nop with reads := k.spans c.domain (fieldAt k.line 16 8) 32, effects := [.checkLoad] }] 0 0 0

/-- Execute CHECK_LOAD. -/
def execCheckLoad (r : SlotRef) (s : State) : Host.Outcome State Fault Refusal := whenLive (devCheckLoad r) s

end Sys2Proof.Machine
end

