-- ==== Sys2Proof/Machine/Context.lean ====
section
/-! DEFINITION. The context store: APPEND, SEAL, FORK, DROP, MIGRATE and FETCH_BLOCKS (chapter 06). -/

namespace Sys2Proof.Machine

/-! ### Sessions (R146, R147, R168, R171) -/

/-- Whether this member owns a session (R166): outside a collection it owns every session. -/
def Dev.owns (d : Dev) (s : Session) : Bool := !d.joined || s.owner == d.coll.geoId

/-- A command that finds its session claimed by no member is held; the time it first found so is kept, and the hold counted (R168). -/
def Dev.holdOrphan (d : Dev) (r : SlotRef) : Dev :=
  if (d.cmd? r).any fun k => k.orphan.isSome then d
  else
    let now := d.now
    (d.modCmd r fun k => { k with orphan := some now }).countPage (d.domainOf r) 0x90 1

/-- Run a class 0x03 verb on the context's session: BAD_OPERAND without one (R146); while MOVING or being rebuilt the command waits (R147,
R169), and while no member claims the session it is held (R168); a command on a session owned elsewhere is forwarded (R166). -/
def Dev.onSession (d : Dev) (r : SlotRef) (v : Verb) (f : Context → Cmd → Session → Dev) : Dev :=
  d.onReady r v fun c k =>
    match c.session with
    | none => d.reject r .badOperand
    | some s =>
      if !s.claimed then d.holdOrphan r
      else if s.state == .moving || s.rebuilding then d
      else if d.owns s then f c k s
      else d.forward r k s

/-- Run a verb that touches positions up to `hi` of the session of a context, or complete it with DATA_LOST (R171, R172). -/
def Dev.unlessLost (d : Dev) (r : SlotRef) (ctx : Nat) (s : Session) (hi : Nat) (f : Dev) : Dev :=
  match s.lostFrom with
  | some p => if p < hi then let w := d.kvLostWords ctx s p; (d.complete r .dataLost w.1 w.2.1 w.2.2).settle else f
  | none => f

/-- The layers a command names from its first layer and count (R156, R163). -/
def Session.named (s : Session) (first count : Nat) : List Nat :=
  (List.range s.layerCount).filter fun l => decide (first ≤ l) && (count == 0 || decide (l < first + count))

/-- Store for a block that a plan will fill: a frame and a summary of its own, given up again if no table takes it (R149, R151, R160). None
without quota or store (R165). -/
def Dev.newBlock (d : Dev) (dom format heads dim layer first : Nat) : Option (Nat × Dev) :=
  let b : Block :=
    { id := d.nextBlock, domain := dom, layer := layer, first := first, heads := heads, dim := dim, sealed := false, format := format, refs := 0
      pinned := false, recomputed := false, frameSa := 0, summarySa := 0, freeing := true }
  if !d.dramRoom dom (b.frame.len + b.summary.len) then none
  else
    match d.place (roundUp b.frame.len 65536) with
    | (none, _) => none
    | (some sa, d) =>
      let put (b : Block) : Dev := { d with nextBlock := d.nextBlock + 1, blocks := d.blocks ++ [b] }
      ((put { b with frameSa := sa, summarySa := sa }).placeSmall b.summary.len).map fun x =>
        (b.id, let e := put { b with frameSa := sa, summarySa := x }; { e with draws := e.draws + 1 })

/-- The store of a session's state and log (R173): none where the quota or the store has no room. -/
def Dev.placeSession (d : Dev) (dom : Nat) (s : Session) : Option (Session × Dev) :=
  if !d.dramRoom dom (s.stateBytes + s.logBytes) then none
  else
    match d.place s.stateBytes with
    | (none, _) => none
    | (some a, d) =>
      match (d.leave dom [⟨a, s.stateBytes⟩]).place s.logBytes with
      | (none, _) => none
      | (some b, e) => some ({ s with stateSa := a, logSa := b }, { e with leaving := d.leaving })

/-- A command holds store for a session that it will give a context: the quota lends it until then (R173). -/
def Dev.holdSpans (d : Dev) (r : SlotRef) (ss : List Span) : Dev :=
  d.modCmd r fun k => { k with freeing := ss, work := (ss.map (·.len)).foldl (· + ·) 0 }

/-! ### APPEND (R146, R153 to R155) -/

/-- The steps that write a block's frame and build its summary: one per head of the frame, then 16 keys of a head at a time; the last of
them enters the block in its layer's table (R154, R164). -/
def Dev.fillSteps (d : Dev) (ctx : Nat) (s : Session) (id : Nat) (first : List Step) (last : List Effect) : List Step :=
  match d.block? id with
  | none => []
  | some b =>
    let sums := (List.range b.heads).flatMap fun h => (List.range 4).map fun q =>
      ({ Step.nop with
        kind := .gallery, free := true, reads := [b.part h false, b.scaleSpan h false, s.codebookPart b.layer h]
        outs := b.codeSpan h (16 * q) 16 :: if q = 3 then [b.meanSpan h] else []
        effects := [.summarize id h q] } : Step)
    let _ := ctx
    first ++ match sums.reverse with
      | [] => []
      | x :: xs => xs.reverse ++ [{ x with free := false, effects := x.effects ++ last }]

/-- The steps that frame a block of 64 tokens of the intake (R149, R154). -/
def Dev.frameSteps (d : Dev) (ctx : Nat) (s : Session) (id : Nat) : List Step :=
  match d.block? id with
  | none => []
  | some b =>
    let rows : Span := { sa := (s.rowSpan b.layer b.first).sa, len := 64 * s.rowBytes }
    let frame := (List.range b.heads).map fun h =>
      ({ Step.nop with
        kind := .gallery, free := true, reads := [rows], outs := [b.part h false, b.part h true, b.scaleSpan h false, b.scaleSpan h true]
        effects := [.encodeHead id h] } : Step)
    d.fillSteps ctx s id frame [.enter ctx b.layer id]

/-- The plan of an APPEND while it is built: the device with reserved store, the steps so far, and whether a block that cannot get its
frame has ended it. -/
structure AppendPlan where
  dev : Dev
  steps : List Step
  ended : Bool

/-- A block of a layer gets its frame (R154); one that cannot ends the command with CAPACITY (R165, log 26). -/
def AppendPlan.frame (a : AppendPlan) (dom ctx : Nat) (s : Session) (l b : Nat) (before : List Step) : AppendPlan :=
  match a.dev.newBlock dom s.hotFormat s.heads s.dim l (64 * b) with
  | none => { a with ended := true }
  | some (id, d) => { dev := d, steps := a.steps ++ before ++ d.frameSteps ctx s id, ended := false }

/-- Cut `n` rows from position `p` into steps that stay within a block (R164). -/
def rowCuts (per : Nat) : Nat → Nat → Nat → Nat → List (Nat × Nat)
  | 0, _, _, _ => []
  | fuel + 1, p, i, n =>
    if n ≤ i then []
    else
      let m := min (min per (64 - (p + i) % 64)) (n - i)
      (i, m) :: rowCuts per fuel p (i + m) n

/-- The steps of an APPEND's rows (R154, R164), after the steps `first`, and whether its last step is followed by CAPACITY. A block whose 64
tokens an aborted APPEND left in the intake gets its frame first, so that the intake never needs more than two block buffers (log 26). -/
def Dev.appendPlan (d : Dev) (c : Context) (k : Cmd) (s : Session) (first : List Step) : AppendPlan :=
  let o := appendOps (cmdOps k)
  let start := (s.layer o.layer).n
  let framed := (s.layer o.layer).blocks.length
  let a : AppendPlan := { dev := d, steps := first, ended := false }
  let a := if 64 ≤ start - 64 * framed then a.frame c.domain c.num s o.layer framed [] else a
  (rowCuts (max 1 (65536 / (2 * max 1 (o.row s)))) o.n start 0 o.n).foldl (fun (a : AppendPlan) cut =>
    if a.ended then a
    else
      let (ks, vs, ids) := k.appendSpans c.domain s cut.1 cut.2
      let p := start + cut.1
      let st : Step :=
        { Step.nop with
          kind := .mover, reads := ks ++ vs ++ ids
          outs := { sa := (s.rowSpan o.layer p).sa, len := cut.2 * s.rowBytes } :: if o.layer = 0 && s.logSa != 0 then [s.logSpan p cut.2] else []
          effects := [.appendRows cut.1 cut.2] }
      if (p + cut.2) % 64 = 0 then a.frame c.domain c.num s o.layer (p / 64) [st] else { a with steps := a.steps ++ [st] }) a

/-- A plan that reserves store as it is built (APPEND, SEAL) begins: where CAPACITY ends it, the last step raises it, and without a step it comes at once. -/
def AppendPlan.begin (a : AppendPlan) (r : SlotRef) (w0 w2 : W64) : Dev :=
  if !a.ended then a.dev.begin r a.steps w0 0 w2
  else
    match a.steps.reverse with
    | [] => (a.dev.complete r .capacity w0 0 w2).settle
    | x :: xs => a.dev.begin r (xs.reverse ++ [{ x with raises := some .capacity }]) w0 0 w2

/-- The session an INIT creates (R146). -/
def initSession (o : List Byte) (g : Geom) (geo : Nat) : Session :=
  { state := .active, layerCount := g.layers, heads := g.heads, dim := g.dim, group := g.group, hotFormat := fieldAt o 55 1, limit := fieldAt o 56 4
    layers := List.replicate g.layers { n := 0, blocks := [] }, lostLen := 0, owner := geo, epoch := 0, claimed := true, target := geo, offered := 0
    stateSa := 0, logSa := 0, moved := none, rebuilding := false }

/-- APPEND with INIT (R146): the codebook is copied in steps of 64 KiB, the session appears with the last, then the rows. -/
def Dev.appendInit (d : Dev) (r : SlotRef) (c : Context) (k : Cmd) (g : Geom) : Dev :=
  let o := cmdOps k
  let s := initSession o g d.coll.geoId
  if c.session.isSome || fieldAt o 4 4 != 0 then d.reject r .badOperand
  else if s.limit < fieldAt o 8 4 then d.reject r .capacity
  else
    match d.placeSession c.domain s with
    | none => d.reject r .capacity
    | some (s, d) =>
      let (copies, _) := (k.spans c.domain (fieldAt o 64 8) s.codebookBytes).foldl (fun (acc : List Step × Nat) x =>
        (acc.1 ++ [{ Step.nop with kind := .mover, reads := [x], outs := [{ sa := acc.2, len := x.len }], effects := [.copy x.sa acc.2 x.len] }], acc.2 + x.len)) (([] : List Step), s.codebook.sa)
      let copies := match copies.reverse with
        | [] => []
        | x :: xs => xs.reverse ++ [{ x with effects := x.effects ++ [.openSession c.num s] }]
      ((d.holdSpans r s.spans).appendPlan c k s copies).begin r 0 0

/-- APPEND (R153, R154): word 0 is the layer's new length, word 1 the blocks filled. -/
def devAppend (r : SlotRef) (d : Dev) : Dev :=
  d.onReady r .append fun c k =>
    if lineFlags k.line = 1 then
      match initGeom k.desc with
      | some g => d.appendInit r c k g
      | none => d.reject r .badOperand
    else
      d.onSession r .append fun c k s =>
        let o := appendOps (cmdOps k)
        let n := (s.layer o.layer).n
        if s.layerCount ≤ o.layer || o.p != n then d.reject r .badOperand
        else if s.limit < o.p + o.n then d.reject r .capacity
        else if s.stateSa = 0 then d.reject r .capacity
        else d.unlessLost r r.ctx s (k.kvReach s) <| (d.appendPlan c k s []).begin r (BitVec.ofNat 64 n) 0

/-- Execute APPEND. -/
def execAppend (r : SlotRef) (s : State) : Host.Outcome State Fault Refusal := whenLive (devAppend r) s

/-! ### SEAL (R156, R157) -/

/-- The full blocks of a session's layer that lie wholly below a position. -/
def Dev.blocksBelow (d : Dev) (s : Session) (l p : Nat) : List Block := (d.layerBlocks s l).filter fun b => decide (b.first + 64 ≤ p)

/-- The steps that demote a block into the frame of another (R157): one per head, then its summary, the last of which puts the new frame
and summary in the old ones' place. -/
def Dev.demoteSteps (d : Dev) (ctx : Nat) (s : Session) (b : Block) (nid : Nat) : List Step :=
  match d.block? nid with
  | none => []
  | some nb =>
    let heads := (List.range b.heads).map fun h =>
      ({ Step.nop with
        kind := .gallery, free := true, reads := [b.part h false, b.part h true, b.scaleSpan h false, b.scaleSpan h true]
        outs := [nb.part h false, nb.part h true, nb.scaleSpan h false, nb.scaleSpan h true]
        effects := [.demoteHead b.id nid h] } : Step)
    d.fillSteps ctx s nid heads [.demoted b.id nid]

/-- SEAL (R156, R157): word 0 the blocks sealed, word 1 demoted, word 2 left because shared. -/
def devSeal (r : SlotRef) (d : Dev) : Dev :=
  d.onSession r .seal fun c k s =>
    let p := fieldAt k.line 16 4; let ls := s.named (fieldAt k.line 20 2) (fieldAt k.line 22 2)
    let demote := lineFlags k.line == 1
    if s.layerCount ≤ fieldAt k.line 20 2 || ls.any fun l => decide ((s.layer l).n < p) then d.reject r .badOperand
    else d.unlessLost r r.ctx s (k.kvReach s) <|
      let bs := ls.flatMap fun l => d.blocksBelow s l p
      let (a, kept) := bs.foldl (fun (acc : AppendPlan × Nat) b =>
        let (a, kept) := acc
        if a.ended then acc
        else
          let mark : List Step := if b.sealed then [] else [{ Step.nop with kind := .gallery, outs := [{ sa := b.summarySa, len := 64 }], effects := [.sealBlock b.id] }]
          let a := { a with steps := a.steps ++ mark }
          if !demote || b.format == 0x08 then (a, kept)
          else if d.shared b then (a, kept + 1)
          else
            match a.dev.newBlock c.domain 0x08 s.heads s.dim b.layer b.first with
            | none => ({ a with ended := true }, kept)
            | some (nid, d) => ({ a with dev := d, steps := a.steps ++ d.demoteSteps r.ctx s b nid }, kept)) (({ dev := d, steps := [], ended := false } : AppendPlan), 0)
      a.begin r 0 (BitVec.ofNat 64 kept)

/-- Execute SEAL. -/
def execSeal (r : SlotRef) (s : State) : Host.Outcome State Fault Refusal := whenLive (devSeal r) s

/-! ### FORK (R158 to R160) -/

/-- The steps of a FORK from a parent's session to a child whose state store is placed (R158, R164): references, each sealing its blocks;
the parent's tail as it stands now; codebook and log. `log` is where the parent's log lies. -/
def Dev.forkSteps (d : Dev) (r : SlotRef) (k : Cmd) (s child : Session) (p log : Nat) : List Step :=
  let ls := List.range s.layerCount
  let shared := ls.flatMap fun l => ((d.layerBlocks s l).take (p / 64)).map fun b => (l, b)
  let refs := (chunks 4096 shared).map fun bs =>
    ({ Step.nop with kind := .atomic, reads := bs.map fun b => { sa := b.2.summarySa, len := 64 }, effects := [.share r.ctx (bs.map fun b => (b.1, b.2.id))] } : Step)
  let tails := ls.filterMap fun l =>
    match d.tailRows k s l p with
    | [] => none
    | rows =>
      let at_ (t : Nat) : Span := child.rowSpan l (p / 64 * 64 + t)
      let bad := rows.zipIdx.flatMap fun x => if d.badSpans k x.1.2 then sectorsOf (at_ x.2) else []
      some ({ Step.nop with
        kind := .mover, free := true
        writes := rows.zipIdx.map fun x => { sa := (at_ x.2).sa, bytes := x.1.1 }
        poisons := bad.eraseDups
        effects := [.extend r.ctx l p], w1 := rows.length } : Step)
  let copy (a b n : Nat) : List Step := (stageSteps (cutSpans [{ sa := a, len := n }]) [{ sa := b, len := n }]).map fun x => { x with extra := false }
  let all := refs ++ tails ++ copy s.codebook.sa child.codebook.sa s.codebookBytes ++ if child.logSa = 0 then [] else copy log child.logSa (8 * p)
  match all with
  | [] => []
  | x :: xs => { x with effects := .openSession r.ctx child :: x.effects } :: xs

/-- FORK where the parent's session is here (R158): its child's store is placed and its steps begin. In the context of another front member
the child's store lies there already, and it is handed over at the end. -/
def Dev.forkFrom (d : Dev) (r : SlotRef) (c : Context) (k : Cmd) (pctx : Nat) (s : Session) (log : Nat) : Dev :=
  let p := fieldAt k.line 20 4
  let limit := if fieldAt k.line 24 4 = 0 then s.limit else fieldAt k.line 24 4
  let ls := List.range s.layerCount
  if ls.any (fun l => decide ((s.layer l).n < p)) || decide (limit < p) then d.reject r .badOperand
  else d.unlessLost r pctx s p <|
    let child : Session :=
      { s with state := .active, limit := limit, owner := d.coll.geoId, epoch := 0, offered := 0, claimed := true, target := d.coll.geoId, lostLen := 0
               stateSa := 0, logSa := 0, moved := none, layers := ls.map fun _ => { n := 0, blocks := [] } }
    let far := (ls.filterMap fun l => (d.blockAt s l (p / 64)).map Block.frame).filter fun x => !d.isLocal x.sa && p % 64 != 0
    d.withRemote r k (cutSpans far) fun d =>
      if c.isGuest then
        match k.staged with
        | some (_, base) =>
          let table := roundUp (64 + 8 * s.layerCount + 64 * (s.layerCount * (p / 64))) 65536
          let child := { child with stateSa := base + table }
          d.begin r (d.forkSteps r k s child p log ++ [{ Step.nop with extra := true, effects := [.handOver] }]) 0 0 0
        | none =>
          if !k.remote.isEmpty then d
          else d.askStep r .move (c.num / 65536 - 1) (c.num % 65536) (stepArgs [c.num / 65536 - 1, roundUp (64 + 8 * s.layerCount + 64 * (s.layerCount * (p / 64))) 65536 + child.stateBytes])
      else
        match d.placeSession c.domain child with
        | none => d.reject r .capacity
        | some (child, d) => (d.holdSpans r child.spans).begin r (d.forkSteps r k s child p log) 0 0 0

/-- FORK once the owner of its parent's session is known: here, `log` being where the parent's log lies, or at that member, where it is
sent (R158, R166). -/
def Dev.forkAt (d : Dev) (r : SlotRef) (c : Context) (k : Cmd) (pctx owner log : Nat) : Dev :=
  if owner = d.coll.geoId then
    match d.session? pctx with
    | none => d.holdOrphan r
    | some s => if s.state == .moving || s.rebuilding || !s.claimed then d else d.forkFrom r c k pctx s log
  else ((d.modCmd r fun k => { k with started := true, plan := [] }).sendRun r owner 0 |>.conclude r).settle

/-- The context here of a FORK's parent. -/
def Dev.parentCtx (d : Dev) (line : List Byte) : Nat :=
  if d.joined then d.ctxNum (fieldAt line 18 1) (fieldAt line 16 2) else fieldAt line 16 2

/-- FORK (R158): BAD_OPERAND on a context that holds a session or for a parent without one; ACCESS_DENIED for a parent of another domain;
TARGET_DEAD for a parent member that is not live. A parent fronted elsewhere is asked after at its front member first (log 11). -/
def devFork (r : SlotRef) (d : Dev) : Dev :=
  d.onReady r .fork fun c k =>
    let member := fieldAt k.line 18 1
    let pctx := d.parentCtx k.line
    if c.session.isSome then d.reject r .badOperand
    else if c.isGuest then
      match d.session? pctx with
      | some s => if s.state == .moving || s.rebuilding || !s.claimed then d else d.forkFrom r c k pctx s 0
      | none => d
    else if member != d.coll.geoId then
      (if !d.others.contains member then d.reject r .targetDead
       else if !k.remote.isEmpty then d
       else d.askStep r .log member (fieldAt k.line 16 2) [])
    else
      match d.ctx? pctx with
      | none => d.reject r .badOperand
      | some pc =>
        if pc.domain != c.domain then d.reject r .accessDenied
        else
          match pc.session with
          | none => d.reject r .badOperand
          | some s =>
            if !s.claimed then d.holdOrphan r
            else if s.state == .moving || s.rebuilding then d
            else d.forkAt r c k pctx (if d.owns s then d.coll.geoId else s.owner) s.logSa

/-- Execute FORK. -/
def execFork (r : SlotRef) (s : State) : Host.Outcome State Fault Refusal := whenLive (devFork r) s

/-! ### DROP (R161) -/

/-- A DROP of one mode that may begin, on a context with a session it may act on; OK and zero counts without one (R146). -/
def Dev.onDrop (d : Dev) (r : SlotRef) (mode : Nat) (f : Context → Cmd → Session → Dev) : Dev :=
  d.onReady r .drop fun c k =>
    if fieldAt k.line 16 1 != mode then d
    else if c.session.isNone then d.reject r .ok
    else d.onSession r .drop f

/-- The steps that release references, from each layer's end (R161, R164). -/
def releaseSteps (ctx : Nat) (xs : List (Nat × Nat)) : List Step :=
  (chunks 4096 xs).map fun g => { Step.nop with kind := .atomic, effects := [.release ctx g] }

/-- The last step of a plan does something more; without a step it is done at once. -/
def Dev.beginWith (d : Dev) (r : SlotRef) (steps : List Step) (last : Effect) : Dev :=
  match steps.reverse with
  | [] => (d.applyEffect r none last).begin r [] 0 0 0
  | x :: xs => d.begin r (xs.reverse ++ [{ x with effects := x.effects ++ [last] }]) 0 0 0

/-- DROP WHOLE: every reference released, from each layer's end, then the session returned to NONE. -/
def devDropWhole (r : SlotRef) (d : Dev) : Dev :=
  d.onDrop r 1 fun c _ s =>
    d.beginWith r (releaseSteps c.num ((List.range s.layerCount).flatMap fun l => (s.layer l).blocks.reverse.map fun b => (l, b))) (.closeSession c.num)

/-- Execute DROP WHOLE. -/
def execDropWhole (r : SlotRef) (s : State) : Host.Outcome State Fault Refusal := whenLive (devDropWhole r) s

/-- DROP TRUNCATE: every layer longer than p is cut to p; a LOST session cut at or below its first lost position is ACTIVE again. -/
def devDropTruncate (r : SlotRef) (d : Dev) : Dev :=
  d.onDrop r 2 fun c k s =>
    let p := fieldAt k.line 20 4
    let ls := (List.range s.layerCount).filter fun l => decide (p < (s.layer l).n)
    let gone := ls.flatMap fun l => ((s.layer l).blocks.drop (ceilDiv p 64)).reverse.map fun b => (l, b)
    let straddles := ls.filterMap fun l =>
      match (if p % 64 = 0 then none else d.blockAt s l (p / 64)) with
      | some b =>
        some ({ Step.nop with reads := [b.frame, b.scaleSpan 0 false, b.scaleSpan 0 true], outs := [{ sa := (s.rowSpan l (p / 64 * 64)).sa, len := p % 64 * s.rowBytes }]
                              effects := [.straddle c.num l p] } : Step)
      | none => none
    d.beginWith r (releaseSteps c.num gone ++ straddles) (.truncate c.num p)

/-- Execute DROP TRUNCATE. -/
def execDropTruncate (r : SlotRef) (s : State) : Host.Outcome State Fault Refusal := whenLive (devDropTruncate r) s

/-! ### MIGRATE (R163) -/

/-- A MIGRATE of one kind that may begin. -/
def Dev.onMigrate (d : Dev) (r : SlotRef) (kind : Nat) (f : Context → Cmd → Session → Dev) : Dev :=
  d.onReady r .migrate fun _ k => if fieldAt k.line 16 1 = kind then d.onSession r .migrate f else d

/-- The copies of a session to the store that its target has given it (R163, R164): state, then the blocks held once, of which the last step
counts each. -/
def Dev.moveSession (d : Dev) (s : Session) (base : Nat) (moved : List (Nat × Nat)) : List Step :=
  let copy (a b n : Nat) : List Step := (stageSteps (cutSpans [{ sa := a, len := n }]) [{ sa := b, len := n }]).map fun x => { x with extra := false }
  copy s.stateSa (base + s.imageTable) s.stateBytes ++ moved.flatMap fun m =>
    match d.block? m.1 with
    | none => []
    | some b =>
      let xs := copy b.frameSa (base + m.2) b.frame.len ++ copy b.summarySa (base + m.2 + roundUp b.frame.len 65536) b.summary.len
      xs.dropLast ++ (xs.drop (xs.length - 1)).map fun x => { x with w0 := 1 }

/-- MIGRATE to another member: store is asked of the target, then the session is copied and offered (R163, R166). A target that is not a
live member other than the owner gives TARGET_DEAD. -/
def devMigrateToMember (r : SlotRef) (d : Dev) : Dev :=
  d.onMigrate r 1 fun c k s =>
    let target := fieldAt k.line 17 1
    if !d.others.contains target then d.reject r .targetDead
    else if !k.remote.isEmpty then d
    else d.unlessLost r r.ctx s (k.kvReach s) <|
      let bs := (s.layers.flatMap (·.blocks)).filterMap d.block?
      let own := bs.filter fun b => !d.shared b
      let (moved, size) := d.imageLayout s (own.map (·.id))
      let (front, ctx) := d.frontOf c.num
      let d := d.modCmd r fun k =>
        { k with started := true, plan := [{ Step.nop with extra := true, effects := [.offer c.num target moved] }], w0 := 0, w1 := BitVec.ofNat 64 (bs.length - own.length), w2 := 0 }
      ((d.askStep r .move target ctx (stepArgs [front, size])).conclude r).settle

/-- Execute MIGRATE TO_MEMBER. -/
def execMigrateToMember (r : SlotRef) (s : State) : Host.Outcome State Fault Refusal := whenLive (devMigrateToMember r) s

/-- The target has given a MIGRATE its store: the copies go before the offer, which waits for them (R163). -/
def Dev.moveTo (d : Dev) (r : SlotRef) (target base : Nat) : Dev :=
  match d.session? r.ctx, d.cmd? r with
  | some s, some k =>
    let moved := (k.plan.flatMap fun st => st.effects.flatMap fun f => match f with
      | .offer _ _ m => m
      | _ => []).map id
    d.modCmd r fun k => { k with staged := some (target, base), plan := k.plan ++ d.moveSession s base moved }
  | _, _ => d

/-- The blocks of a MIGRATE's layer and block range. -/
def Dev.migrateRange (d : Dev) (k : Cmd) (s : Session) : List Block :=
  let fb := fieldAt k.line 24 4; let nb := fieldAt k.line 28 4
  (s.named (fieldAt k.line 20 2) (fieldAt k.line 22 2)).flatMap fun l =>
    let bs := (s.layer l).blocks.drop fb
    (if nb = 0 then bs else bs.take nb).filterMap d.block?

/-- A MIGRATE's plan begins; where a quota ends it, the last step raises CAPACITY. -/
def Dev.beginMoves (d : Dev) (r : SlotRef) (steps : List Step) (full : Bool) (skipped : Nat) : Dev :=
  let w := BitVec.ofNat 64 skipped
  if !full then d.begin r steps 0 w 0
  else
    match steps.reverse with
    | [] => (d.complete r .capacity 0 w 0).settle
    | x :: xs => d.begin r (xs.reverse ++ [{ x with raises := some .capacity }]) 0 w 0

/-- MIGRATE to flash (R163, R259, R261): each granule's program is queued at once; its step retires when the granule is
FLASH. CAPACITY without a flash tier or quota. -/
def devMigrateToFlash (r : SlotRef) (d : Dev) : Dev :=
  d.onMigrate r 2 fun c k s =>
    let bs := d.migrateRange k s
    if d.acc.state != .availableFull then d
    else if (d.nextChannel c.domain).isNone || decide (d.field 0x4020 23 16 < 2) then d.reject r .capacity
    else d.unlessLost r r.ctx s (k.kvReach s) <|
      let moves := bs.filter fun b => b.sealed && d.isLocal b.frameSa
      let room := (d.flashQuota c.domain - d.flashUse c.domain) / 65536
      let (d, plan, left) := moves.foldl (fun (acc : Dev × List Step × Option Nat) b =>
        match acc.2.2 with
        | none => acc
        | some left =>
          let fresh := b.granules.filter fun g => !((acc.1.granule? g).any fun x => x.residency != .dram)
          if left < fresh.length then (acc.1, acc.2.1, none)
          else
            let d := b.granules.foldl (fun d g =>
              match d.granule? g with
              | some x => if x.residency == .dram then d.demote g c.domain [r] else d.setGranule { x with dropping := x.residency == .both }
              | none => d.demote g c.domain [r]) acc.1
            let n := b.granules.length
            let steps := (List.range n).map fun i =>
              ({ Step.nop with kind := .mover, flash := (b.granules.drop i).take 1, w0 := if i + 1 = n then 1 else 0 } : Step)
            (d, acc.2.1 ++ steps, some (left - fresh.length))) (d, [], some room)
      d.dropReady.beginMoves r plan left.isNone (bs.length - moves.length)

/-- Execute MIGRATE TO_FLASH. -/
def execMigrateToFlash (r : SlotRef) (s : State) : Host.Outcome State Fault Refusal := whenLive (devMigrateToFlash r) s

/-- MIGRATE to DRAM (R163, R263): each granule is read from flash and becomes BOTH. -/
def devMigrateToDram (r : SlotRef) (d : Dev) : Dev :=
  d.onMigrate r 3 fun c k s =>
    let bs := d.migrateRange k s
    d.unlessLost r r.ctx s (k.kvReach s) <|
      let moves := bs.filter d.onFlash
      let (plan, used) := moves.foldl (fun (acc : List Step × Option Nat) b =>
        match acc.2 with
        | none => acc
        | some used =>
          let need := (b.granules.filter fun g => (d.granule? g).any fun x => x.residency == .flash).length * 65536
          if !d.dramRoom c.domain (used + need) then (acc.1, none)
          else
            let n := b.granules.length
            let steps := (List.range n).map fun i =>
              let rd : List Span := ((b.granules.drop i).take 1).map fun g => { sa := g * 65536, len := 65536 }
              ({ Step.nop with kind := .mover, reads := rd, effects := if i + 1 = n then [.toDram b.id] else [], w0 := if i + 1 = n then 1 else 0 } : Step)
            (acc.1 ++ steps, some (used + need))) (([] : List Step), some 0)
      d.beginMoves r plan used.isNone (bs.length - moves.length)

/-- Execute MIGRATE TO_DRAM. -/
def execMigrateToDram (r : SlotRef) (s : State) : Host.Outcome State Fault Refusal := whenLive (devMigrateToDram r) s

/-! ### FETCH_BLOCKS (R162) -/

/-- FETCH_BLOCKS (R162): word 0 the bytes written, word 1 the appended tokens covered. The log alone may be fetched of lost positions (R172);
for a session fronted elsewhere the log is that member's to write. -/
def devFetchBlocks (r : SlotRef) (d : Dev) : Dev :=
  d.onSession r .fetchBlocks fun c k s =>
    let o := fetchOps k.line
    if s.layerCount ≤ o.layer then d.reject r .badOperand
    else d.unlessLost r r.ctx s (k.kvReach s) <|
      let parts := d.fetchParts s o
      let body := fetchLen parts
      let covered := o.covered s
      let log := if bit o.parts 3 then 8 * covered else 0
      if o.len < body + log then d.reject r .badOperand
      else
        let total := body + if s.logSa = 0 then 0 else log
        let plan := (pieces total 65536).map fun p =>
          let b := min (p.1 + p.2) body - p.1
          let lo := max p.1 body - body
          let n := p.1 + p.2 - max p.1 body
          ({ Step.nop with
            kind := .mover, free := true
            reads := ((parts.filter fun x => overlap x.off x.len p.1 b).flatMap (d.fetchReads s o)) ++ if n = 0 then [] else [{ sa := (s.logSpan (64 * o.first) 0).sa + lo, len := n }]
            outs := k.spans c.domain (o.dst + p.1) p.2
            effects := (if b = 0 then [] else [.fetchOut p.1 b]) ++ if n = 0 then [] else [.fetchLog body lo n]
            w0 := p.2 } : Step)
        d.begin r plan 0 (BitVec.ofNat 64 covered) 0

/-- Execute FETCH_BLOCKS. -/
def execFetchBlocks (r : SlotRef) (s : State) : Host.Outcome State Fault Refusal := whenLive (devFetchBlocks r) s

end Sys2Proof.Machine
end

