-- ==== Sys2Proof/Machine/Collection.lean ====
section
/-! DEFINITION. The collection: formation, heartbeats, loss, master and deputy (R351 to R360), the Ledger (R166 to R169)
and replication (R355). -/

namespace Sys2Proof.Machine

/-! ### Messages -/

/-- Whether this member is the acting master of a formed collection. -/
def Dev.isMaster (d : Dev) : Bool := d.coll.state == .formed && d.coll.master == d.coll.geoId

/-- Bit `i` as a 16-bit member bitmap. -/
def memberBit (i : Nat) : W16 := BitVec.ofNat 16 (2 ^ i)

/-- The GEO_IDs of a bitmap. -/
def bitmapList (m : W16) : List Nat := (List.range 16).filter fun i => m.getLsbD i

/-- A MEMBER message (R364): subtype, destination FID, bitmap, epoch, payload. -/
def Dev.sendMember (d : Dev) (sub fid : Nat) (bitmap : W16) (epoch : W16) (payload : List Byte) : Dev :=
  let a := BitVec.ofNat 64 (sub + d.coll.geoId * 2 ^ 8 + bitmap.toNat * 2 ^ 16)
  d.sendFab 0x14 fid 0xFFFF 0 0 0 a (BitVec.ofNat 64 epoch.toNat) payload none

/-- A MEMBER message to every other live member. -/
def Dev.broadcastMember (d : Dev) (sub : Nat) (bitmap : W16) (epoch : W16) : Dev :=
  d.others.foldl (fun d m => d.sendMember sub (d.fidOf m) bitmap epoch []) d

/-- Change what this member knows of its collection. -/
def Dev.modColl (d : Dev) (f : Collection → Collection) : Dev := { d with coll := f d.coll }

/-- A member that is declared lost is answered FENCED and heard no further (R356), until it rejoins (R352). -/
def Dev.fromMember (d : Dev) (sender : Nat) (f : Dev → Dev) : Dev :=
  if d.coll.state == .formed && d.coll.lost.getLsbD sender && !d.coll.rejoining.getLsbD sender then d.sendMember 0x06 (d.fidOf sender) 0 0 [] else f d

/-! ### The Ledger (R166, R167, R357) -/

/-- The Ledger entry of a session. -/
def Dev.entry? (d : Dev) (m : LedgerMsg) : Option LedgerEntry :=
  d.coll.ledger.find? fun e => e.domain == m.domain && e.front == m.front && e.ctx == m.ctx

/-- What the Ledger holds of a session (R166): one that has never changed hands needs no entry, since its front member owns it at epoch 0. -/
def Dev.ledgerOf (d : Dev) (m : LedgerMsg) : LedgerEntry :=
  (d.entry? m).getD
    { domain := m.domain, front := m.front, ctx := m.ctx, owner := m.front, epoch := 0, source := m.front, lastOffered := 0, offer := none, unacked := [], reported := false }

/-- Enter or replace a Ledger entry. -/
def Dev.setEntry (d : Dev) (e : LedgerEntry) : Dev :=
  d.modColl fun c => { c with ledger := c.ledger.filter (fun x => !(x.domain == e.domain && x.front == e.front && x.ctx == e.ctx)) ++ [e] }

/-- A Ledger entry as 64 bytes of the mirror (log 28). -/
def LedgerEntry.record (e : LedgerEntry) : List Byte :=
  let (oe, os, od) := match e.offer with
    | some (ep, s, t, _) => (ep.toNat, s, t)
    | none => (0, 0, 0)
  natLe 2 1 ++ natLe e.owner 1 ++ natLe e.front 1 ++ natLe e.source 1 ++ natLe e.epoch.toNat 4 ++ natLe e.domain 2 ++ natLe e.ctx 2 ++
    natLe e.lastOffered.toNat 4 ++ natLe (b2n e.offer.isSome) 1 ++ natLe os 1 ++ natLe od 1 ++ [0] ++ natLe oe 4 ++
    natLe ((e.unacked.eraseDups.map fun i => 2 ^ i).foldl (· + ·) 0) 2 ++ natLe (b2n e.reported) 1 ++ List.replicate 37 0

/-- The entry that 64 bytes of the mirror hold; a pending offer counts from `now`. -/
def LedgerEntry.ofRecord (b : List Byte) (now : Nat) : LedgerEntry :=
  { domain := fieldAt b 8 2, front := fieldAt b 2 1, ctx := fieldAt b 10 2, owner := fieldAt b 1 1, epoch := BitVec.ofNat 32 (fieldAt b 4 4), source := fieldAt b 3 1
    lastOffered := BitVec.ofNat 32 (fieldAt b 12 4), offer := if fieldAt b 16 1 = 1 then some (BitVec.ofNat 32 (fieldAt b 20 4), fieldAt b 17 1, fieldAt b 18 1, now) else none
    unacked := (List.range 16).filter (bit (fieldAt b 24 2)), reported := fieldAt b 26 1 == 1 }

/-- The master's record of a Ledger change at the deputy (R357), as a REPL message; the deputy's acknowledgement is inside
the row that makes the change (log 28). -/
def Dev.mirror (d : Dev) (e : LedgerEntry) : Dev :=
  if d.coll.deputy = d.coll.geoId || d.others.isEmpty then d
  else d.sendFab 0x11 (d.fidOf d.coll.deputy) e.domain e.ctx 0 0 0 0 e.record none

/-- COMMIT of an entry to a list of members. -/
def Dev.sendCommit (d : Dev) (e : LedgerEntry) (src : Nat) (dest : List Nat) : Dev :=
  dest.foldl (fun d m => d.sendLedger m 3 e.domain e.ctx src e.owner e.front e.epoch) d

/-- ABANDON of an entry's pending offer to its source and target; the offer is void (R166). -/
def Dev.abandonOffer (d : Dev) (e : LedgerEntry) : Dev :=
  match e.offer with
  | none => d
  | some (ep, src, dst, _) =>
    let e' := { e with offer := none }
    [src, dst].foldl (fun d m => d.sendLedger m 4 e.domain e.ctx src dst e.front ep) ((d.setEntry e').mirror e')

/-- The Ledger commits an epoch that names an owner (R166): recorded, mirrored, then sent to source, target and front. -/
def Dev.commitEpoch (d : Dev) (e : LedgerEntry) (ep : W32) (src owner : Nat) : Dev :=
  let dest := [src, owner, e.front].eraseDups.filter fun m => !d.coll.lost.getLsbD m
  let e' := { e with owner := owner, epoch := ep, source := src, offer := none, unacked := dest }
  ((d.setEntry e').mirror e').sendCommit e' src dest

/-- The store that a moving session's copy lies in here. -/
def Dev.landing? (d : Dev) (m : LedgerMsg) : Option Landing :=
  d.landings.find? fun x => x.moves && x.domain == m.domain && x.front == m.front && x.ctx == m.ctx

/-- OFFER (R166): the Ledger records it; the target accepts where it holds the copy, whose writes it has acknowledged (log 11). -/
def devOffer (m : LedgerMsg) (t : Nat) (d : Dev) : Dev :=
  (d.atTime t).fromMember m.sender fun d =>
    let d :=
      if !d.isMaster then d
      else
        let e := { d.ledgerOf m with lastOffered := if (d.entry? m).isSome then (d.ledgerOf m).lastOffered else m.epoch - 1 }
        if newer m.epoch e.lastOffered then
          let e' := { e with lastOffered := m.epoch, offer := some (m.epoch, m.source, m.dest, d.now) }
          (d.setEntry e').mirror e'
        else d
    match d.landing? m with
    | some x =>
      if m.dest = d.coll.geoId && d.coll.state == .formed then
        { d with landings := replaceFirst (· == x) { x with accepted := true } d.landings }.sendLedger d.coll.master 2 m.domain m.ctx m.source m.dest m.front m.epoch
      else d
    | none => d

/-- Execute OFFER. -/
def execOffer (m : LedgerMsg) (t : Nat) (s : State) : Host.Outcome State Fault Refusal := whenLive (devOffer m t) s

/-- ACCEPT (R166, R357). -/
def devAccept (m : LedgerMsg) (d : Dev) : Dev :=
  d.fromMember m.sender fun d =>
    match d.entry? m with
    | some e =>
      match e.offer with
      | some (ep, src, dst, _) => if d.isMaster && ep == m.epoch && dst == m.dest then d.commitEpoch e ep src dst else d
      | none => d
    | none => d

/-- Execute ACCEPT. -/
def execAccept (m : LedgerMsg) (s : State) : Host.Outcome State Fault Refusal := whenLive (devAccept m) s

/-- A rebuilt span holds free bytes. -/
def Dev.fillFree (d : Dev) (s : Span) : Dev := { d.write s.sa (freeBytes d.draws s.len) with draws := d.draws + 1 }

/-- The blocks of a layer of a session that is rebuilt here (R169, R410): what the front member knows is its length, and their
contents are free (log 11). Without room the layer keeps its blocks up to there. -/
def Dev.rebuiltLayer (d : Dev) (dom : Nat) (s : Session) (l : Nat) : Dev × Layer :=
  (List.range ((s.layer l).n / 64)).foldl (fun (acc : Dev × Layer) b =>
    if acc.2.blocks.length < b then acc
    else
      match acc.1.newBlock dom s.hotFormat s.heads s.dim l (64 * b) with
      | none => acc
      | some (id, d) =>
        let d := d.modBlock id fun x => { x with refs := 1, freeing := false }
        ((d.block? id).elim d fun x => (d.fillFree x.frame).fillFree x.summary, { acc.2 with blocks := acc.2.blocks ++ [id] })) (d, { n := (s.layer l).n, blocks := [] })

/-- The state store of a session whose owner was lost, in this member's store: its contents are free (log 11). -/
def Dev.rebuiltState (d : Dev) (dom : Nat) (s : Session) : Session × Dev :=
  match (if d.dramRoom dom s.stateBytes then d.place s.stateBytes else (none, d)) with
  | (some sa, d) => ({ s with stateSa := sa }, d.fillFree { sa := sa, len := s.stateBytes })
  | (none, d) => ({ s with stateSa := 0 }, d)

/-- A session is rebuilt at its front member (R169): it stays claimed, and its commands wait until the rebuild ends. -/
def Dev.rebuildSession (d : Dev) (ctx dom : Nat) (s : Session) : Dev :=
  let (s, d) := d.rebuiltState dom s
  let (d, ls) := (List.range s.layerCount).foldl (fun (acc : Dev × List Layer) l =>
    let (d, x) := acc.1.rebuiltLayer dom s l
    (d, acc.2 ++ [x])) (d, [])
  d.modSession ctx fun _ => { s with layers := ls, rebuilding := true, state := match s.state with
    | .moving => .active
    | x => x }

/-- The MIGRATE of a context whose offer is out. -/
def Dev.offering (d : Dev) (ctx : Nat) : Option SlotRef :=
  (d.slotsWhere fun c s => c.num == ctx && s.cmd.any fun k => k.remote.any fun a => a.tag == offerTag).head?

/-- A command's offer is settled: it waits for the Ledger no longer. -/
def Dev.endOffer (d : Dev) (r : SlotRef) (f : Cmd → Cmd) : Dev :=
  ((d.modCmd r fun k => f { k with remote := k.remote.filter fun a => a.tag != offerTag }).conclude r).settle

/-- The number that an entry of `serving` awaits while a command runs for its front member: no fabric tag is so large. -/
def guestTag : Nat := 0x2_0000

/-- Commands that another member forwarded to a context here end unrun: their member is told NOT_OWNER (R167). -/
def Dev.evict (d : Dev) (num : Nat) : Dev :=
  match d.ctx? num with
  | none => d
  | some c =>
    c.held.foldl (fun d e =>
      match e.2.2.guest with
      | none => d
      | some (fid, tag) =>
        let r : SlotRef := { ctx := num, slot := e.1 }
        let (front, ctx) := d.frontOf num
        let d := { d.detach r with serving := d.serving.filter fun x => !(x.src == fid && x.tag == tag && x.await.contains (guestTag, 0)) }
        (d.modSlot r fun _ => Slot.fresh).sendLedger front 6 c.domain ctx d.coll.geoId front front 0) d

/-- The source gives its copy up (R166): the blocks whose frames went are released, those homed here that are shared keep their counts,
the references to blocks homed elsewhere went with the session, and the state store is freed. -/
def Dev.giveUp (d : Dev) (num : Nat) (s : Session) : Dev :=
  let ids := s.layers.flatMap (·.blocks)
  let sent := (s.moved.getD []).map Prod.fst
  let far := ids.filter fun id => (d.block? id).any fun b => !d.isLocal b.frameSa
  let d := (ids.filter sent.contains).foldl (fun d id => d.refBlock id false) d
  let d := d.leave ((d.ctx? num).elim 0xFFFF (·.domain)) (if s.stateSa = 0 then [] else [⟨s.stateSa, s.stateBytes⟩])
  { d with blocks := d.blocks.filter fun b => !far.contains b.id }.modSession num fun s =>
      { s with stateSa := 0, moved := none, layers := s.layers.map fun (l : Layer) => { l with blocks := [] } }

/-- What a COMMIT tells of a session (R166): its owner, its epoch, and that it is claimed. -/
def Session.committed (s : Session) (owner : Nat) (e : W32) : Session :=
  { s with owner := owner, epoch := e, claimed := true, target := owner, moved := none, state := match s.state with
    | .moving => .active
    | x => x }

/-- COMMIT at the member that it names as owner: the copy becomes its session (R166), or, where the source is lost, its front
member rebuilds it (R169); one that has it already claims it (R167). -/
def Dev.commitHere (d : Dev) (m : LedgerMsg) (num : Nat) : Dev :=
  let log := (d.session? num).elim 0 (·.logSa)
  match d.landing? m with
  | some x => d.installImage x num log m.epoch
  | none =>
    match d.session? num with
    | none => d
    | some s =>
      if s.owner = d.coll.geoId then d.modSession num fun s => s.committed d.coll.geoId m.epoch
      else if d.coll.lost.getLsbD m.source then
        d.rebuildSession num ((d.ctx? num).elim 0xFFFF (·.domain)) (s.committed d.coll.geoId m.epoch)
      else d

/-- COMMIT away from this member (R166): the source frees its copy and its MIGRATE completes OK; commands that were forwarded here go
back; the front member learns the owner. -/
def Dev.commitAway (d : Dev) (m : LedgerMsg) (num : Nat) : Dev :=
  match d.session? num with
  | none => d
  | some s =>
    let d := if s.owner = d.coll.geoId then d.giveUp num s else d
    let d := d.modSession num fun s => s.committed m.dest m.epoch
    let d := match d.offering num with
      | some r => d.endOffer r fun k => { k with cut := none, staged := none, w2 := BitVec.ofNat 64 m.epoch.toNat }
      | none => d
    if num < 65536 then d
    else ((d.evict num).modCtx num fun c => { c with session := none }).dropGuest num

/-- COMMIT (R166): answered COMMIT_ACK. One that is older than what the member knows changes nothing. -/
def devCommit (m : LedgerMsg) (d : Dev) : Dev :=
  d.fromMember m.sender fun d =>
    if d.coll.state != .formed then d
    else
      let num := d.ctxNum m.front m.ctx
      let d := d.sendLedger d.coll.master 5 m.domain m.ctx m.source m.dest m.front m.epoch
      if (d.session? num).any fun s => newer s.epoch m.epoch then d
      else if m.dest = d.coll.geoId then (d.commitHere m num).settle
      else (d.commitAway m num).settle

/-- Execute COMMIT. -/
def execCommit (m : LedgerMsg) (s : State) : Host.Outcome State Fault Refusal := whenLive (devCommit m) s

/-- ABANDON (R166): at the Ledger, a MIGRATE's request to void its pending offer; at the target, the copy is discarded; at the source,
the session is ACTIVE again and its MIGRATE ends, with TARGET_DEAD where it was not aborted (log 29). -/
def devAbandon (m : LedgerMsg) (d : Dev) : Dev :=
  d.fromMember m.sender fun d =>
    let pending := (d.entry? m).bind fun e => e.offer.bind fun o => if o.1 == m.epoch then some e else none
    match d.isMaster, pending with
    | true, some e => d.abandonOffer e
    | _, _ =>
      let num := d.ctxNum m.front m.ctx
      let d := if m.dest = d.coll.geoId then (d.landing? m).elim d d.dropLanding else d
      if m.source != d.coll.geoId then d.settle
      else
        let me := d.coll.geoId
        let d := d.modSession num fun s => if s.state == .moving && s.offered == m.epoch then { s with state := .active, target := me, moved := none } else s
        match d.offering num with
        | some r => d.endOffer r fun k => if k.cut.isSome then k else { k with raised := k.raised ++ [.targetDead] }
        | none => d.settle

/-- Execute ABANDON. -/
def execAbandon (m : LedgerMsg) (s : State) : Host.Outcome State Fault Refusal := whenLive (devAbandon m) s

/-- COMMIT_ACK (R166). -/
def devCommitAck (m : LedgerMsg) (d : Dev) : Dev :=
  d.fromMember m.sender fun d =>
    match d.entry? m with
    | some e => if d.isMaster && e.epoch == m.epoch then d.setEntry { e with unacked := e.unacked.filter (· != m.sender) } else d
    | none => d

/-- Execute COMMIT_ACK. -/
def execCommitAck (m : LedgerMsg) (s : State) : Host.Outcome State Fault Refusal := whenLive (devCommitAck m) s

/-- The front member and the context there of the session that a command needs an owner for: a FORK's is its parent's. -/
def Dev.sessionKey (d : Dev) (r : SlotRef) (k : Cmd) : Nat × Nat :=
  if cmdVerb k == some .fork then (fieldAt k.line 18 1, fieldAt k.line 16 2) else d.frontOf r.ctx

/-- A command that was forwarded begins again at its front member: its staging area is given up. -/
def Dev.unforward (d : Dev) (r : SlotRef) (k : Cmd) : Dev :=
  let d := k.staged.elim d fun x => d.tellStep .unstage x.1 (d.domainOf r) (r.ctx % 65536) [x.2]
  d.modCmd r fun k => { k with started := false, plan := [], issued := 0, staged := none, remote := k.remote.filter fun a => !(isStep a) }

/-- NOT_OWNER (R167, R168): the command that was forwarded is held and counted, and the Ledger is asked. -/
def devNotOwner (m : LedgerMsg) (r : SlotRef) (d : Dev) : Dev :=
  d.fromMember m.sender fun d =>
    match d.cmd? r with
    | none => d
    | some k =>
      if d.sessionKey r k != (m.front, m.ctx) || !(k.remote.any fun a => isStep a && a.home == m.sender) then d
      else
        let d := (d.unforward r k).modSession (d.ctxNum m.front m.ctx) fun s => { s with claimed := s.claimed && s.owner == d.coll.geoId }
        (d.holdOrphan r).sendLedger d.coll.master 7 m.domain m.ctx m.source m.dest m.front m.epoch

/-- Execute NOT_OWNER. -/
def execNotOwner (m : LedgerMsg) (r : SlotRef) (s : State) : Host.Outcome State Fault Refusal := whenLive (devNotOwner m r) s

/-- QUERY (R167): the Ledger answers with the owner and sends it COMMIT again; the session counts as reported. -/
def devQuery (m : LedgerMsg) (d : Dev) : Dev :=
  d.fromMember m.sender fun d =>
    if !d.isMaster then d
    else
      let e := { d.ledgerOf m with reported := true }
      ((d.setEntry e).sendLedger m.sender 8 e.domain e.ctx e.source e.owner e.front e.epoch).sendCommit e e.source [e.owner]

/-- Execute QUERY. -/
def execQuery (m : LedgerMsg) (s : State) : Host.Outcome State Fault Refusal := whenLive (devQuery m) s

/-- The FORKs here that wait for the owner of their parent's session. -/
def Dev.waitingForks (d : Dev) (m : LedgerMsg) : List SlotRef :=
  d.slotsWhere fun _ s => s.state == .running && s.cmd.any fun k =>
    cmdVerb k == some .fork && k.orphan.isSome && !k.started && fieldAt k.line 18 1 == m.front && fieldAt k.line 16 2 == m.ctx

/-- A FORK that waited goes to the owner that the Ledger names, where that is another member. -/
def Dev.answerFork (d : Dev) (m : LedgerMsg) (r : SlotRef) : Dev :=
  match d.ctx? r.ctx, d.cmd? r with
  | some c, some k => if c.isGuest || m.dest = d.coll.geoId then d else d.forkAt r c k (d.ctxNum m.front m.ctx) m.dest 0
  | _, _ => d

/-- ANSWER (R167): the front member learns the owner, to which the held commands are then forwarded; a FORK that is held here goes to
the owner of its parent's session. -/
def devAnswer (m : LedgerMsg) (d : Dev) : Dev :=
  d.fromMember m.sender fun d =>
    let d := if m.front != d.coll.geoId then d
      else d.modSession m.ctx fun s => if newer s.epoch m.epoch then s else { s with owner := m.dest, epoch := m.epoch, claimed := s.claimed || m.dest != d.coll.geoId }
    (d.waitingForks m).foldl (fun d r => d.answerFork m r) d

/-- Execute ANSWER. -/
def execAnswer (m : LedgerMsg) (s : State) : Host.Outcome State Fault Refusal := whenLive (devAnswer m) s

/-- OFFER_TIMEOUT (R166): 500 µs(L) after the Ledger's receipt of an offer without ACCEPT, ABANDON. -/
def devOfferTimeout (m : LedgerMsg) (t : Nat) (d : Dev) : Dev :=
  let d := d.atTime t
  match d.entry? m with
  | some e =>
    match e.offer with
    | some (_, _, _, t0) => if d.isMaster && decide (500000 + t0 ≤ d.now) then d.abandonOffer e else d
    | none => d
  | none => d

/-- Execute OFFER_TIMEOUT. -/
def execOfferTimeout (m : LedgerMsg) (t : Nat) (s : State) : Host.Outcome State Fault Refusal := whenLive (devOfferTimeout m t) s

/-- LEDGER_AUDIT (R167): COMMIT goes again to the owner and to those that have not acknowledged it. -/
def devLedgerAudit (t : Nat) (d : Dev) : Dev :=
  let d := d.atTime t
  if !d.isMaster then d
  else
    (d.coll.ledger.filter fun e => !e.unacked.isEmpty || e.reported).foldl
      (fun d e => (d.setEntry { e with reported := false }).sendCommit e e.source ((e.owner :: e.unacked).eraseDups.filter fun m => !d.coll.lost.getLsbD m)) d

/-- Execute LEDGER_AUDIT. -/
def execLedgerAudit (t : Nat) (s : State) : Host.Outcome State Fault Refusal := whenLive (devLedgerAudit t) s

/-- ORPHAN_TIMEOUT (R168): 2 ms(L) after a step found its session unclaimed. -/
def devOrphanTimeout (r : SlotRef) (t : Nat) (d : Dev) : Dev :=
  let d := d.atTime t
  match d.ctx? r.ctx, d.cmd? r with
  | some c, some k =>
    let unclaimed := if cmdVerb k == some .fork then !k.started && k.remote.isEmpty else c.session.any fun s => !s.claimed
    match k.orphan with
    | some t0 => if unclaimed && decide (2000000 + t0 ≤ d.now) then (d.complete r .orphanTimeout 0 0 0).settle else d
    | none => d
  | _, _ => d

/-- Execute ORPHAN_TIMEOUT. -/
def execOrphanTimeout (r : SlotRef) (t : Nat) (s : State) : Host.Outcome State Fault Refusal := whenLive (devOrphanTimeout r t) s

/-! ### Lost members (R169, R356, R380) -/

/-- A read of a command is answered with a failure: the steps that wait for its bytes end with it, a layer of STREAM is served from its
shadow or missed (R281, R369); a command that is not yet under way ends. -/
def Dev.readLost (d : Dev) (r : SlotRef) (sa len : Nat) (st : Status) : Dev :=
  match d.slot? r, d.cmd? r with
  | some s, some k =>
    if s.state == .waiting || !k.started then d.complete r st 0 0 0
    else ((k.plan.take k.issued).filter fun x => x.wants sa len).foldl (fun d x => d.sourceLost r x st) d
  | _, _ => d

/-- An access of a command cannot be served any more (R371, R380): the steps that wait for its data end, and a write or a STEP message
raises the status; an entry of an ATOMIC_BATCH counts as failed (R107). -/
def Dev.accessLost (d : Dev) (r : SlotRef) (a : RemoteAccess) (st : Status) : Dev :=
  match d.slot? r, d.cmd? r with
  | some s, some k =>
    let d := d.modCmd r fun k => { k with remote := k.remote.erase a }
    if s.state == .waiting then d.complete r st 0 0 0
    else if isStep a then
      if a.index = StepKind.unstage.code || a.index = StepKind.cut.code then d
      else ((d.raise r st).modCmd r fun k => { k with started := true, plan := k.plan.take k.issued }).conclude r
    else if a.isWrite then
      (if cmdVerb k == some .atomicBatch && a.index != 0 then d.entryFailed r (a.index - 1) st a.fetch else d.raise r st).conclude r
    else if a.tag = offerTag then (d.raise r st).conclude r
    else (d.readLost r a.sa a.len st).conclude r
  | _, _ => d

/-- Every access of a command that cannot be served any more. -/
def Dev.targetLost (d : Dev) (r : SlotRef) (gone : RemoteAccess → Bool) : Dev :=
  (((d.cmd? r).map (·.remote.filter gone)).getD []).foldl (fun d a => d.accessLost r a .targetDead) d

/-- A host access forwarded to a home that is gone: poison, or nothing for a write, with a fault record (R380, R360). -/
def Dev.hostTargetLost (d : Dev) (x : FabService) : Dev :=
  let d := { d with serving := d.serving.erase x }
  match x.answer with
  | some (.memData p h dpa _) =>
    (d.toPort p x.domain false 64 none (.memData p h dpa none)).fault (.domain x.domain) 0x01 (some .targetDead) x.domain 0xFFFF 0 h dpa 0 p
  | some (.ndr p h dpa c) => (d.emit (.ndr p h dpa c)).fault (.domain x.domain) 0x01 (some .targetDead) x.domain 0xFFFF 0 h dpa 0 p
  | _ => d

/-- Every host access forwarded to a home that is gone. -/
def Dev.hostTargetsLost (d : Dev) (gone : Nat → Bool) : Dev :=
  (d.serving.filter fun x => x.src == hostSource && x.home != d.coll.geoId && gone x.home).foldl (fun d x => d.hostTargetLost x) d

/-- Every command with an access in flight to a home that is gone (R360, R380). -/
def Dev.commandsLost (d : Dev) (gone : RemoteAccess → Bool) : Dev :=
  let rs := d.slotsWhere fun _ s => s.cmd.any fun k => k.remote.any gone
  (rs.foldl (fun d r => d.targetLost r gone) (d.hostTargetsLost fun h => gone { tag := 0, home := h, sa := 0, len := 0, isWrite := false, since := 0, index := 0, fetch := none, bytes := [] })).settle

/-- A session whose owner is lost in an uncoded collection (R169): it is this member's, and LOST from position 0; commands that were
forwarded end under R172, and a DROP is run here. -/
def Dev.ownerLost (d : Dev) (ctx : Nat) : Dev :=
  match d.ctx? ctx with
  | none => d
  | some c =>
    let d := c.held.foldl (fun d e =>
      if e.2.2.remote.any isStep then
        let r : SlotRef := { ctx := ctx, slot := e.1 }
        if cmdVerb e.2.2 == some .drop || !e.2.2.started then d.unforward r e.2.2
        else d.modCmd r fun k => { k with staged := none, plan := k.plan.take k.issued, remote := k.remote.filter fun a => !(isStep a) }
      else d) d
    let me := d.coll.geoId
    let d := (d.modSession ctx fun s => { s with owner := me, claimed := true }).loseSession ctx 0
    match d.session? ctx with
    | none => d
    | some s =>
      let (s, d) := d.rebuiltState c.domain s
      d.modSession ctx fun _ => { s with layers := s.layers.map fun (l : Layer) => { l with blocks := [] } }

/-- What a lost member held here goes: store given to it that it has not taken, its bindings to tables and its row locks, its requests
that wait, and the tables homed on it, which no one serves any more (R225). -/
def Dev.forgetMember (d : Dev) (m : Nat) : Dev :=
  let fid := d.fidOf m
  let d := (d.landings.filter fun x => x.member == m && !x.accepted).foldl Dev.dropLanding d
  Dev.grantLocks { d with
    rowLocks := d.rowLocks.filter fun x => x.fid != fid
    serving := d.serving.filter fun x => !(x.src == fid && x.req.isSome && x.answer.isNone)
    tables := d.tables.map fun t => { t with bindings := t.bindings.filter fun b => b.fid != fid } }

/-- Parity homes that are lost are awaited no more (R409): commands and answers go on without them. -/
def Dev.skipParity (d : Dev) (m : Nat) : Dev :=
  let gone (a : RemoteAccess) : Bool := a.home == m && a.isWrite && a.len == 0 && !(isStep a)
  let rs := d.slotsWhere fun _ s => s.cmd.any fun k => k.remote.any gone
  let d := rs.foldl (fun d r => (d.modCmd r fun k => { k with remote := k.remote.filter fun a => !gone a }).conclude r) d
  let hit (x : FabService) : Bool := x.answer.isSome && !(x.src == hostSource && x.home == m) && x.await.any fun t => t.2 == m
  (d.serving.filter hit).foldl (fun d x =>
    let y := { x with await := x.await.filter fun t => t.2 != m }
    if !y.await.isEmpty then { d with serving := replaceFirst (· == x) y d.serving }
    else
      let d := { d with serving := if x.src == hostSource then d.serving.erase x else replaceFirst (· == x) y d.serving }
      y.answer.elim d d.sendAnswer) d

/-- Requests kept here that read from a lost member of a coded collection are served anew (R409). -/
def Dev.readAgain (d : Dev) (m : Nat) : Dev :=
  let hit (x : FabService) : Bool := x.req.isSome && x.answer.isNone && x.await.any fun t => t.2 == m
  { d with serving := d.serving.map fun x => if hit x then { x with await := [], got := [] } else x }

/-- A member is lost, as every member sees it (R356, R169, R380): accesses that only it could answer fail. Uncoded, every access to it
fails, sessions it owned are LOST and so are the blocks homed on it; coded, its store waits for the rebuild, a command that waits for it
is DEGRADED, and what was forwarded to it begins again once a rebuilder claims the session. -/
def Dev.memberGone (d : Dev) (m : Nat) : Dev :=
  if d.coll.lost.getLsbD m then d
  else
    let d := d.modColl fun c => { c with lost := c.lost ||| memberBit m, rejoining := c.rejoining &&& ~~~(memberBit m) }
    let d := (d.fault .device 0x0A none 0xFFFF 0xFFFF 0 0xFFFF 3 m 0).forgetMember m
    let mine := (d.ctxs.filter fun c => !c.isGuest && c.session.any fun s => s.owner == m).map (·.num)
    if d.coll.planK != 0 then
      let mark (k : Cmd) : Cmd := if k.remote.any fun a => a.home == m && !a.isWrite then { k with degraded := true } else k
      let cs := d.ctxs.map fun (c : Context) => { c with slots := c.slots.map fun (s : Slot) => { s with cmd := s.cmd.map mark } }
      let d := mine.foldl (fun d n => (d.ctx? n).elim d fun c => c.held.foldl (fun d e =>
        if e.2.2.remote.any fun a => isStep a && a.home == m then d.unforward { ctx := n, slot := e.1 } e.2.2 else d) d) { d with ctxs := cs }
      ((d.skipParity m).readAgain m).commandsLost fun a => a.home == m && isStep a
    else
      let d := mine.foldl (fun d n => d.ownerLost n) d
      let gone := d.blocks.filter fun b => !b.freeing && !d.isLocal b.frameSa && d.homeOf b.frameSa == m
      (gone.foldl (fun d b => d.loseBlock b) d).commandsLost fun a => a.home == m

/-- The first live member after this one in the ring (R359). -/
def Dev.ringNext (d : Dev) : Option Nat :=
  let live := d.others
  match live.find? fun m => decide (d.coll.geoId < m) with
  | some m => some m
  | none => live.head?

/-- The master names a deputy and starts the copy of the mirror (R359): its Ledger entries follow. -/
def Dev.nameDeputy (d : Dev) : Dev :=
  match d.ringNext with
  | none => d.modColl fun c => { c with deputyValid := false, mirrorCopying := false }
  | some m =>
    let d := (d.modColl fun c => { c with deputy := m, deputyValid := false, mirrorCopying := true }).broadcastMember 0x07 (memberBit m) d.coll.epoch
    d.coll.ledger.foldl (fun d e => d.mirror e) d

/-- The master declares a member lost (R356): broadcast, its sessions reassigned (R169), a new deputy where it was the
deputy (R359). -/
def Dev.declareLost (d : Dev) (m : Nat) : Dev :=
  if !d.isMaster || m = d.coll.geoId || d.coll.lost.getLsbD m || !d.coll.members.getLsbD m then d
  else
    let wasDeputy := d.coll.deputy == m
    let d := (d.memberGone m).broadcastMember 0x05 (memberBit m) 0
    let mine := d.coll.ledger.filter fun e => e.owner == m
    let live := d.coll.geoId :: d.others
    let d := if d.coll.planK = 0 then d else
      mine.foldl (fun d e =>
        if live.contains e.front then d.commitEpoch e ((if newer e.lastOffered e.epoch then e.lastOffered else e.epoch) + 1) m e.front else d) d
    let d := d.modColl fun c => { c with rebuildTotal := if c.planK = 0 then 0 else c.rebuildTotal, rebuiltUnits := [] }
    if wasDeputy then d.nameDeputy else d

/-- The collection cannot reach a master (R360): ISOLATED or FAILED; every access to another member ends, and so does every command
that waits for the Ledger. -/
def Dev.cutOff (d : Dev) (st : CollState) : Dev :=
  let me := d.coll.geoId
  let d := (d.modColl fun c => { c with state := st }).commandsLost fun a => a.home != me && decide (a.home < 16)
  let held := d.slotsWhere fun _ s => s.state == .running && s.cmd.any fun k => k.orphan.isSome && !k.started
  (held.foldl (fun d r => d.complete r .targetDead 0 0 0) d).settle

/-- HB (R356, R358): a heartbeat of a lower epoch than ours from a claimed master is refused. -/
def devHb (sender : Nat) (epoch : W16) (t : Nat) (d : Dev) : Dev :=
  (d.atTime t).fromMember sender fun d =>
    if d.coll.state != .formed || newer d.coll.epoch epoch then d
    else d.modColl fun c => { c with lastHb := insertBy Prod.fst (sender, d.now) c.lastHb }

/-- Execute HB. -/
def execHb (sender : Nat) (epoch : W16) (t : Nat) (s : State) : Host.Outcome State Fault Refusal := whenLive (devHb sender epoch t) s

/-- HB_TIMER (R356): heartbeats to master and deputy, or from the master to every member. -/
def devHbTimer (t : Nat) (d : Dev) : Dev :=
  let d := d.atTime t
  if d.coll.state != .formed then d
  else
    let dest := if d.isMaster then d.others else d.others.filter fun m => m == d.coll.master || m == d.coll.deputy
    dest.foldl (fun d m => d.sendFab 0x13 (d.fidOf m) 0xFFFF 0 0 0 0 (BitVec.ofNat 64 d.coll.epoch.toNat) [] none) d

/-- Execute HB_TIMER. -/
def execHbTimer (t : Nat) (s : State) : Host.Outcome State Fault Refusal := whenLive (devHbTimer t) s

/-- When a member was last heard; the collection's formation where it was not. -/
def Dev.heard (d : Dev) (m : Nat) : Nat := ((d.coll.lastHb.find? (·.1 == m)).map Prod.snd).getD d.coll.formStart

/-- Whether direct links to a member exist and all are down (R356, R358). -/
def Dev.linksDownTo (d : Dev) (m : Nat) : Bool :=
  let ls := d.links.filter fun l => l.peerMember && l.peerFid == d.fidOf m
  !ls.isEmpty && ls.all fun l => l.state != .up

/-- HB_TIMEOUT (R356): the master declares a member lost 20 µs(L) after its last heartbeat, or when the direct links to
it are down. -/
def devHbTimeout (member t : Nat) (d : Dev) : Dev :=
  let d := d.atTime t
  if d.isMaster && (decide (20000 + d.heard member ≤ d.now) || d.linksDownTo member) then d.declareLost member else d

/-- Execute HB_TIMEOUT. -/
def execHbTimeout (member t : Nat) (s : State) : Host.Outcome State Fault Refusal := whenLive (devHbTimeout member t) s

/-- The deputy without its master (R358): it promotes itself or enters ISOLATED; without a whole mirror the collection
is FAILED (R359, R360). -/
def Dev.masterGone (d : Dev) : Dev :=
  let live := d.coll.geoId :: d.others
  let reach := (live.filter fun m => m == d.coll.geoId || decide (d.now < 20000 + d.heard m)).length
  let old := d.coll.master
  let ring := (bitmapList d.coll.members).find? (fun m => decide (old < m)) |>.getD ((bitmapList d.coll.members).headD 0)
  let tie := 2 * reach == live.length && ring == d.coll.geoId && d.pins.liveInQuiet
  if !d.coll.deputyValid then d.cutOff .failed
  else if decide (live.length < 2 * reach) || tie then
    let ep := d.coll.epoch + 1
    let d := (d.modColl fun c => { c with master := c.geoId, epoch := ep, deputyValid := false }).broadcastMember 0x04 0 ep
    let d := d.coll.ledger.foldl (fun d e => d.abandonOffer e) d
    (d.declareLost old).nameDeputy
  else d.cutOff .isolated

/-- Whether this member is the deputy of a formed collection. -/
def Dev.isDeputy (d : Dev) : Bool := d.coll.state == .formed && d.coll.deputy == d.coll.geoId && d.coll.master != d.coll.geoId

/-- MASTER_HB_TIMEOUT (R358). -/
def devMasterHbTimeout (t : Nat) (d : Dev) : Dev :=
  let d := d.atTime t
  if d.isDeputy && decide (20000 + d.heard d.coll.master ≤ d.now) then d.masterGone else d

/-- Execute MASTER_HB_TIMEOUT. -/
def execMasterHbTimeout (t : Nat) (s : State) : Host.Outcome State Fault Refusal := whenLive (devMasterHbTimeout t) s

/-- MASTER_LINKS_DOWN (R358): the row comes 2 µs(L) after the last direct link went down. -/
def devMasterLinksDown (t : Nat) (d : Dev) : Dev :=
  let d := d.atTime t
  if d.isDeputy && d.linksDownTo d.coll.master then d.masterGone else d

/-- Execute MASTER_LINKS_DOWN. -/
def execMasterLinksDown (t : Nat) (s : State) : Host.Outcome State Fault Refusal := whenLive (devMasterLinksDown t) s

/-- ISOLATION_TIMEOUT (R360). -/
def devIsolationTimeout (t : Nat) (d : Dev) : Dev :=
  let d := d.atTime t
  if d.coll.state == .formed && !d.isMaster && decide (200000 + d.heard d.coll.master ≤ d.now) then d.cutOff .isolated else d

/-- Execute ISOLATION_TIMEOUT. -/
def execIsolationTimeout (t : Nat) (s : State) : Host.Outcome State Fault Refusal := whenLive (devIsolationTimeout t) s

/-- MASTER_CHANGE (R358): a newer epoch installs the sender as master and its predecessor is gone. -/
def devMasterChange (m : MemberMsg) (d : Dev) : Dev :=
  d.fromMember m.sender fun d =>
    if d.coll.state == .formed && newer m.epoch d.coll.epoch then
      d.modColl fun c => { c with master := m.sender, epoch := m.epoch, deputyValid := false, lastHb := insertBy Prod.fst (m.sender, d.now) c.lastHb }
    else d

/-- Execute MASTER_CHANGE. -/
def execMasterChange (m : MemberMsg) (s : State) : Host.Outcome State Fault Refusal := whenLive (devMasterChange m) s

/-- MEMBER_LOST (R356, R380), from the acting master alone. -/
def devMemberLost (m : MemberMsg) (d : Dev) : Dev :=
  d.fromMember m.sender fun d =>
    if d.coll.state == .formed && m.sender == d.coll.master then
      ((bitmapList m.bitmap).filter (· != d.coll.geoId)).foldl (fun d i =>
        let d := d.memberGone i
        if d.coll.deputy == i then d.modColl fun c => { c with deputyValid := false } else d) d
    else d

/-- Execute MEMBER_LOST. -/
def execMemberLost (m : MemberMsg) (s : State) : Host.Outcome State Fault Refusal := whenLive (devMemberLost m) s

/-- FENCED (R356, R360): a member enters ISOLATED; the master declares lost the member that answered so. -/
def devFenced (m : MemberMsg) (d : Dev) : Dev :=
  if d.coll.state == .formed then (if d.isMaster then d.declareLost m.sender else d.cutOff .isolated)
  else if d.coll.state == .forming || d.coll.role = 1 then d.modColl fun c => { c with state := .isolated }
  else d

/-- Execute FENCED. -/
def execFenced (m : MemberMsg) (s : State) : Host.Outcome State Fault Refusal := whenLive (devFenced m) s

/-- DEPUTY (R359): the new deputy, whose mirror is being copied. -/
def devDeputy (m : MemberMsg) (d : Dev) : Dev :=
  d.fromMember m.sender fun d =>
    match bitmapList m.bitmap with
    | i :: _ =>
      if d.coll.state == .formed && m.sender == d.coll.master && !newer d.coll.epoch m.epoch then
        d.modColl fun c => { c with deputy := i, deputyValid := false, mirrorCopying := true }
      else d
    | [] => d

/-- Execute DEPUTY. -/
def execDeputy (m : MemberMsg) (s : State) : Host.Outcome State Fault Refusal := whenLive (devDeputy m) s

/-- MIRROR_COPY_DONE (R359). -/
def devMirrorCopyDone (d : Dev) : Dev :=
  if d.coll.mirrorCopying then d.modColl fun c => { c with mirrorCopying := false, deputyValid := true } else d

/-- Execute MIRROR_COPY_DONE. -/
def execMirrorCopyDone (s : State) : Host.Outcome State Fault Refusal := whenLive devMirrorCopyDone s

/-! ### Formation (R351, R352, R354, R405) -/

/-- The full image's serial, 0 without one. -/
def Dev.imageSerial (d : Dev) : W64 := (d.image.map (·.serial)).getD 0

/-- JOIN's payload (R364). -/
def Dev.joinPayload (d : Dev) : List Byte :=
  natLe d.imageSerial.toNat 8 ++ natLe d.fw.version.toNat 8 ++ natLe d.acc.reported 1 ++ List.replicate 15 0

/-- JOIN to the 16 FIDs of the group (R351 step 1). -/
def Dev.sendJoins (d : Dev) : Dev :=
  (List.range 16).foldl (fun d m => if m = d.coll.geoId then d else d.sendMember 0x01 (d.fidOf m) 0 0 d.joinPayload) d

/-- A link of a MEMBER is up: formation starts, or its JOIN also goes over the new link (R351). Under a GEO_ID conflict it does not
form. -/
def Dev.startForming (d : Dev) : Dev :=
  if d.coll.role != 1 || d.acc.geoConflict || d.upLinks.isEmpty then d
  else if d.coll.state == .standalone then (d.modColl fun c => { c with state := .forming, joins := [], acks := [], formStart := d.now, members := 0 }).sendJoins
  else if d.coll.state == .forming then d.sendJoins
  else d

/-- The coding plan of a member count (R405): a CODING record that covers it, else the default. -/
def Dev.planFor (d : Dev) (n : Nat) : Nat × Nat :=
  match d.image.bind fun i => i.coding.find? fun c => decide (c.lo ≤ n) && decide (n ≤ c.hi) with
  | some c => (c.k, c.m)
  | none => if n ≤ 3 then (0, 0) else if n ≤ 5 then (3, 1) else if n ≤ 9 then (4, 2) else (6, 4)

/-- The collection is formed (R351, R352): the member count and the plan are fixed. -/
def Dev.formedNow (d : Dev) (members : W16) (master : Nat) (epoch : W16) : Dev :=
  let ms := bitmapList members
  let (k, m) := d.planFor ms.length
  let dep := (ms.find? fun i => decide (master < i)).getD master
  (d.modColl fun c =>
    { c with state := .formed, members := members, lost := 0, rejoining := 0, master := master, epoch := epoch, deputy := dep
             deputyValid := dep != master, planK := k, planM := m, formStart := d.now }).checkFull

/-- A formation that failed (R351, R354). -/
def Dev.formFail (d : Dev) : Dev :=
  (({ d with acc := { d.acc with formFailed := true } }).modColl fun c => { c with state := .formFailed, members := 0 }).checkFull

/-- Whether a JOIN's image, firmware and variant agree with this member's (R351). -/
def Dev.agrees (d : Dev) (j : JoinHeard) : Bool :=
  j.serial == d.imageSerial && j.fwVersion == d.fw.version && j.variant == d.acc.reported

/-- The end of step 2 of R351: the lowest GEO_ID heard sends FORMED to the members that agree with it; one that differs
from the lowest reports that it is excluded. -/
def Dev.formRound (d : Dev) : Dev :=
  let low := (d.coll.joins.map (·.geo)).foldl min d.coll.geoId
  if low = d.coll.geoId then
    let ok := d.coll.joins.filter d.agrees
    let ms := ok.foldl (fun b j => b ||| memberBit j.geo) (memberBit d.coll.geoId)
    let n := (bitmapList ms).length
    if n % d.groupWidth != 0 then d.formFail
    else if ok.isEmpty then d.formedNow ms d.coll.geoId 1
    else
      let d := d.modColl fun c => { c with members := ms, acks := [], formStart := d.now }
      ok.foldl (fun d j => d.sendMember 0x02 (d.fidOf j.geo) ms 1 []) d
  else
    match d.coll.joins.find? (·.geo == low) with
    | some j => if d.agrees j then d else { d with acc := { d.acc with excluded := true } }
    | none => d

/-- A round that did not bring every acknowledgement: the master repeats from step 2 of R351, with the JOINs it has heard (DEDUCED,
log 125). -/
def Dev.formAgain (d : Dev) : Dev :=
  let d := d.modColl fun c => { c with acks := [], formStart := d.now, members := 0 }
  if d.field 0x7000 12 8 ≤ d.coll.joins.length + 1 then d.formRound else d

/-- The physical units of a member's store (R406). -/
def Dev.storeUnits (d : Dev) : Nat := d.storeBytes / 4096 * (d.coll.planK + d.coll.planM) / max 1 d.coll.planK

/-- A device rejoins into a lost member's place as a rebuild target (R352, R410); without coding there is nothing to rebuild, and it is
lost no more (DEDUCED, log 74). -/
def Dev.rejoins (d : Dev) (m : Nat) : Dev :=
  if d.coll.planK = 0 then d.modColl fun c => { c with lost := c.lost &&& ~~~(memberBit m) }
  else
    let total := d.storeUnits
    d.modColl fun c => { c with rejoining := c.rejoining ||| memberBit m, rebuildTarget := m, rebuildTotal := total, rebuiltUnits := [] }

/-- JOIN (R351, R352): collected during formation; a JOIN of this member's own GEO_ID is a conflict; after formation a lost member comes
back as a rebuild target, which the master answers; the master fences any other late device. -/
def devJoin (m : MemberMsg) (d : Dev) : Dev :=
  if d.coll.role != 1 then d
  else if m.sender = d.coll.geoId then
    ({ d with acc := { d.acc with geoConflict := true } }).modColl fun c => { c with state := if c.state == CollState.forming then CollState.standalone else c.state }
  else if d.coll.state == .formed then
    let late := d.coll.members.getLsbD m.sender && d.coll.lost.getLsbD m.sender
    let d := if late then d.rejoins m.sender else d
    if !d.isMaster then d
    else if late then d.sendMember 0x02 m.srcFid d.coll.members d.coll.epoch []
    else d.sendMember 0x06 m.srcFid 0 0 []
  else if d.coll.state == .forming then
    let j : JoinHeard := { geo := m.sender, serial := m.serial, fwVersion := m.fwVersion, variant := m.variant }
    let d := d.modColl fun c => { c with joins := c.joins.filter (fun x => x.geo != m.sender) ++ [j] }
    if d.coll.members = 0 && decide (d.field 0x7000 12 8 ≤ d.coll.joins.length + 1) then d.formRound else d
  else d

/-- Execute JOIN. -/
def execJoin (m : MemberMsg) (s : State) : Host.Outcome State Fault Refusal := whenLive (devJoin m) s

/-- Whether a FORMED repeats the round in which this member acknowledged its master, with no member lost since (R351 step 5). -/
def Dev.formsAgain (d : Dev) (m : MemberMsg) : Bool :=
  d.coll.state == .formed && d.coll.master == m.sender && m.sender != d.coll.geoId && d.coll.epoch == m.epoch && d.coll.lost == 0 &&
    m.bitmap.getLsbD d.coll.geoId

/-- FORMED (R351 step 4): acknowledged only when its sender is the lowest GEO_ID this member has heard; in a repeated round it is
acknowledged again. A member is FORMED once it has acknowledged (DEDUCED, log 125). A device that has heard no JOIN
comes late: the master of the formed collection takes it in as a rebuild target (R352; DEDUCED, log 74). -/
def devFormed (m : MemberMsg) (d : Dev) : Dev :=
  let late := d.coll.joins.isEmpty
  let low := (d.coll.joins.map (·.geo)).foldl min d.coll.geoId
  if d.coll.state == .forming && (late || low == m.sender) && m.bitmap.getLsbD d.coll.geoId then
    let d := (d.sendMember 0x03 (d.fidOf m.sender) 0 0 []).formedNow m.bitmap m.sender m.epoch
    if late then d.rejoins d.coll.geoId else d
  else if d.formsAgain m then (d.sendMember 0x03 (d.fidOf m.sender) 0 0 []).formedNow m.bitmap m.sender m.epoch
  else d

/-- Execute FORMED. -/
def execFormed (m : MemberMsg) (s : State) : Host.Outcome State Fault Refusal := whenLive (devFormed m) s

/-- FORMED_ACK (R351 step 5). -/
def devFormedAck (m : MemberMsg) (d : Dev) : Dev :=
  if d.coll.state != .forming || !d.coll.members.getLsbD m.sender then d
  else
    let d := d.modColl fun c => { c with acks := c.acks.filter (· != m.sender) ++ [m.sender] }
    if (bitmapList d.coll.members).all fun i => i == d.coll.geoId || d.coll.acks.contains i then
      d.formedNow d.coll.members d.coll.geoId 1
    else d

/-- Execute FORMED_ACK. -/
def execFormedAck (m : MemberMsg) (s : State) : Host.Outcome State Fault Refusal := whenLive (devFormedAck m) s

/-- FORM_WINDOW_EXPIRY (R351): FORM_MS has passed without EXPECT members, or 10 ms(L) without every acknowledgement;
after three failed rounds, FORM_FAILED. -/
def devFormWindowExpiry (t : Nat) (d : Dev) : Dev :=
  let d := d.atTime t
  if d.coll.state != .forming then d
  else if d.coll.members = 0 then
    if 1000000 * d.field 0x7000 47 32 + d.coll.formStart ≤ d.now then
      let low := (d.coll.joins.map (·.geo)).foldl min d.coll.geoId
      if low = d.coll.geoId then d.formRound
      else
        let d := d.formRound.modColl fun c => { c with rounds := c.rounds + 1, formStart := d.now }
        if 3 ≤ d.coll.rounds then d.formFail else d
    else d
  else if 10000000 + d.coll.formStart ≤ d.now then
    let d := d.modColl fun c => { c with rounds := c.rounds + 1 }
    if 3 ≤ d.coll.rounds then d.formFail else d.formAgain
  else d

/-- Execute FORM_WINDOW_EXPIRY. -/
def execFormWindowExpiry (t : Nat) (s : State) : Host.Outcome State Fault Refusal := whenLive (devFormWindowExpiry t) s

/-! ### Replication (R355) -/

/-- Where a table is homed on another member, or that its identifier is free again (R210; log 113); a table homed here stays. -/
def Dev.learnTable (d : Dev) (b : List Byte) (gone : Bool) : Dev :=
  let home := fieldAt b 1 1
  let t : Table := { domain := fieldAt b 4 2, id := fieldAt b 2 2, nextVersion := 1, versions := [], deleting := false, home := home, bindings := [] }
  match d.table? t.domain t.id with
  | none => if gone then d else { d with tables := d.tables ++ [t] }
  | some u =>
    if u.home = d.coll.geoId then d
    else if gone then (if u.home = home then { d with tables := d.tables.erase u } else d)
    else { d with tables := replaceFirst (· == u) { u with home := home } d.tables }

/-- Apply one 64-byte record to the replica: an extent's (log 18), a Ledger entry's at the deputy (R357, log 28), a table's home. -/
def Dev.applyRecord (d : Dev) (b : List Byte) : Dev :=
  let e : Extent :=
    { domain := fieldAt b 4 4, cva := fieldAt b 16 8, len := fieldAt b 24 8, sa := fieldAt b 32 8, rights := Rights.ofCode (fieldAt b 1 1),
      gen := BitVec.ofNat 32 (fieldAt b 8 4), loan := BitVec.ofNat 32 (fieldAt b 12 4), placement := Placement.ofCode (fieldAt b 2 1) }
  let same (x : Extent) : Bool := x.domain == e.domain && x.cva == e.cva
  match fieldAt b 0 1 with
  | 0 => ({ d with extents := d.extents.filter fun x => !same x }).xcDrop (d.extents.filter same)
  | 1 => { d with extents := d.extents.filter (fun x => !same x) ++ [e] }
  | 2 => d.setEntry (LedgerEntry.ofRecord b d.now)
  | 3 => d.learnTable b false
  | 4 => d.learnTable b true
  | _ => d

/-- REPL (R355, R370): the records apply, and fabric-cache lines of withdrawn extents go. -/
def devRepl (m : FabMsg) (d : Dev) : Dev :=
  d.fromMember (m.src % 16) fun d =>
    if d.coll.state == .formed then ((chunks 64 m.payload).foldl Dev.applyRecord d).settle else d

/-- Execute REPL. -/
def execRepl (m : FabMsg) (s : State) : Host.Outcome State Fault Refusal := whenLive (devRepl m) s

end Sys2Proof.Machine
end

