-- ==== Sys2Proof/Machine/Sha3.lean ====
section
/-! DEFINITION. SHA3-512, which R51, R52, R427, R429, R437 and R445 name without defining it: the sponge of Keccak-f[1600] with 72-byte
blocks, as FIPS 202 has it (PRESUMED, log 47). Its rotations and round constants are computed from the rules that define them. -/

namespace Sys2Proof.Machine

/-- A Keccak state: 25 words, the one of column x and row y at place x + 5y. -/
abbrev Sponge := List W64

/-- The word of a column and a row, both taken modulo 5. -/
def Sponge.at (s : Sponge) (col row : Nat) : W64 := at! s (col % 5 + 5 * (row % 5)) 0

/-- A state from its words. -/
def sponge (f : Nat → Nat → W64) : Sponge := (List.range 25).map fun i => f (i % 5) (i / 5)

/-- Each word with the parities of the columns beside it: the left one, and the right one turned by one bit. -/
def Sponge.mix (s : Sponge) : Sponge :=
  let parity (col : Nat) : W64 := (List.range 5).foldl (fun p row => p ^^^ s.at col row) 0
  sponge fun col row => s.at col row ^^^ (parity (col + 4) ^^^ (parity (col + 1)).rotateLeft 1)

/-- One step of the walk over the 24 words outside the origin, which begins at column 1 of row 0: from one place, as column and row, to
the next. -/
def walkNext (p : Nat × Nat) : Nat × Nat := (p.2, (2 * p.1 + 3 * p.2) % 5)

/-- Each word of the walk goes to the walk's next place, turned by the triangular number of its step. -/
def Sponge.walk (s : Sponge) : Sponge :=
  (List.range 24).foldl (fun out t =>
    let a := Nat.repeat walkNext t (1, 0)
    let b := walkNext a
    out.set (b.1 + 5 * b.2) ((s.at a.1 a.2).rotateLeft ((t + 1) * (t + 2) / 2 % 64))) s

/-- Each word with the next two of its row. -/
def Sponge.bend (s : Sponge) : Sponge := sponge fun col row => s.at col row ^^^ (s.at (col + 2) row &&& ~~~(s.at (col + 1) row))

/-- One step of the shift register behind the round constants: times x modulo x^8 + x^6 + x^5 + x^4 + 1. -/
def registerNext (r : Byte) : Byte := r <<< 1 ^^^ if r.getLsbD 7 then 0x71 else 0

/-- The constant of a round: the register's low bit after 7 * round + j steps stands at bit 2^j - 1. -/
def roundWord (round : Nat) : W64 :=
  (List.range 7).foldl (fun w j => if (Nat.repeat registerNext (7 * round + j) 1).getLsbD 0 then w ^^^ 1 <<< (2 ^ j - 1) else w) 0

/-- The permutation: 24 rounds. -/
def Sponge.permute (s : Sponge) : Sponge := (List.range 24).foldl (fun s n => s.mix.walk.bend.modify 0 (· ^^^ roundWord n)) s

/-- One block of 72 bytes goes in. -/
def Sponge.absorb (s : Sponge) (block : List Byte) : Sponge :=
  Sponge.permute (s.mapIdx fun i w => w ^^^ BitVec.ofNat 64 (fieldAt block (8 * i) 8))

/-- A message filled up to whole blocks: the suffix 01 and the padding's first 1 bit, zeros, and its last 1 bit. -/
def sha3Fill (m : List Byte) : List Byte :=
  let all := m ++ 0x06 :: List.replicate (71 - m.length % 72) 0
  all.modify (all.length - 1) (· ^^^ 0x80)

/-- SHA3-512 of bytes: 64 bytes. -/
def sha3_512 (m : List Byte) : List Byte :=
  (((chunks 72 (sha3Fill m)).foldl Sponge.absorb (List.replicate 25 0)).take 8).flatMap fun w => natLe w.toNat 8

end Sys2Proof.Machine
end

