-- ==== Sys2Proof/Machine/Image.lean ====
section
/-! DEFINITION. The structure image: its layout (R40 to R51) and its validation (R52 to R54), which answers the image to
commit or the code of the first check that fails. -/

namespace Sys2Proof.Machine

/-! ### Layout -/

/-- A section of the directory (R41). -/
structure Section where
  type : Nat
  flags : Nat
  off : Nat
  len : Nat
  reserved : Nat
deriving DecidableEq, Repr

/-- The directory's entries. -/
def sectionsOf (b : List Byte) : List Section :=
  (List.range (fieldAt b 14 2)).map fun i =>
    let o := 64 + 16 * i
    { type := fieldAt b o 2, flags := fieldAt b (o + 2) 2, off := fieldAt b (o + 4) 4, len := fieldAt b (o + 8) 4, reserved := fieldAt b (o + 12) 4 }

/-- The record size of a known section type (R42). -/
def recordSizeOf (type : Nat) : Option Nat :=
  match type with
  | 1 => some 64 | 2 => some 4 | 3 => some 16 | 4 => some 4 | 5 => some 8 | 6 => some 32 | 7 => some 16 | 8 => some 16
  | _ => none

/-- The whole records of the sections of a type; two sections of one type are refused at check 10 (R41). -/
def recordsOf (b : List Byte) (type : Nat) : List (List Byte) :=
  match recordSizeOf type with
  | some n => ((sectionsOf b).filter (·.type == type)).flatMap fun s => (List.range (s.len / n)).map fun i => slice b (s.off + n * i) n
  | none => []

/-- Whether a section type is present. -/
def hasSection (b : List Byte) (type : Nat) : Bool := (sectionsOf b).any (·.type == type)

/-- A DOMAINS record (R43). -/
def readDomain (r : List Byte) : DomainRec :=
  let f (o n : Nat) : Nat := fieldAt r o n
  { domain := f 0 2, management := bit (f 2 2) 0, wingLocal := bit (f 2 2) 1, homeWest := bit (f 2 2) 2, vitrineOk := bit (f 2 2) 3,
    tagPool := f 4 2, classMask := f 6 2, ctxCeiling := f 8 4, galCeiling := f 12 1, moverWeight := f 14 1, scannerWeight := f 15 1,
    xcEast := f 16 2, xcWest := f 18 2, portMask := f 20 1, linkMask := f 21 1, faultSlots := f 22 2, onfiMask := f 24 4,
    dramQuota := f 28 4, flashQuota := f 32 4 }

/-- A GALLERIES record (R44). -/
def readGallery (r : List Byte) : GalleryRec := { gallery := fieldAt r 0 1, early := bit (fieldAt r 1 1) 0, domain := fieldAt r 2 2 }

/-- A PIPELINES record (R45). -/
def readPipeline (r : List Byte) : PipelineRec :=
  { domain := fieldAt r 0 2, number := fieldAt r 2 1, galleries := fieldAt r 4 5, movers := fieldAt r 9 4, scanners := fieldAt r 13 1 }

/-- A ROUTES record (R46). -/
def readRoute (r : List Byte) : RouteRec := { domain := fieldAt r 0 2, cls := fieldAt r 2 1, pipeline := fieldAt r 3 1 }

/-- A HOST_GRANTS record (R47). -/
def readGrant (r : List Byte) : GrantRec := { host := fieldAt r 0 2, domain := fieldAt r 2 2, rights := fieldAt r 4 1 }

/-- A VITRINE record (R48). -/
def readVitrine (r : List Byte) : VitrineRec :=
  { region := fieldAt r 0 2, domain := fieldAt r 2 2, loan := fieldAt r 4 1 == 1, base := fieldAt r 8 8, len := fieldAt r 16 8 }

/-- The kind of point of a SHAPER record's code (R49). -/
def pointKindOf (n : Nat) : PointKind := if n = 1 then .cxl else if n = 2 then .zherek else .onfi

/-- A SHAPER record (R49). -/
def readShaper (r : List Byte) : ShaperRec :=
  { domain := fieldAt r 0 2, point := { kind := pointKindOf (fieldAt r 2 1), index := fieldAt r 3 1 }, rate := fieldAt r 4 4, burst := fieldAt r 8 4 }

/-- A CODING record (R50). -/
def readCoding (r : List Byte) : CodingRec := { lo := fieldAt r 0 1, hi := fieldAt r 1 1, k := fieldAt r 2 1, m := fieldAt r 3 1 }

/-- An image's header and records. -/
def readImage (b : List Byte) : Image :=
  { partialLoad := fieldAt b 10 1 == 2, domain := fieldAt b 12 2, serial := BitVec.ofNat 64 (fieldAt b 24 8),
    baseSerial := BitVec.ofNat 64 (fieldAt b 32 8), rollback := fieldAt b 40 4, variantMask := fieldAt b 44 4,
    digest := slice b (fieldAt b 20 4 + 8) 64, domains := (recordsOf b 1).map readDomain, galleries := (recordsOf b 2).map readGallery,
    pipelines := (recordsOf b 3).map readPipeline, routes := (recordsOf b 4).map readRoute, grants := (recordsOf b 5).map readGrant,
    vitrine := (recordsOf b 6).map readVitrine, shaper := (recordsOf b 7).map readShaper, coding := (recordsOf b 8).map readCoding }

/-! ### Checks 1 to 8 of R53 -/

/-- The length of a signature block (R51). -/
def sigLen : Nat := 7296

/-- The ASCII codes of a magic. -/
def ascii (s : String) : List Byte := s.toList.map fun c => BitVec.ofNat 8 c.toNat

/-- The form of a signature block at an offset (R51). -/
def sigForm (b : List Byte) (o : Nat) : Bool :=
  slice b o 4 == ascii "SIGB" && (fieldAt b (o + 4) 1 == 1 || fieldAt b (o + 4) 1 == 2) && zeros b (o + 5) (o + 8) && zeros b (o + 7291) (o + 7296)

/-- Check 1: header form and lengths (R40, R51, R53, R54): the code, or none. Which of the two codes a fault has that R54 lists under
neither, and which stands where an image has both, the spec leaves open (DESIGN CHOICE, log 120): a signature block that does not end the
image or overlaps the directory is BAD_LENGTH. -/
def checkForm (b : List Byte) : Option Nat :=
  let f (o n : Nat) : Nat := fieldAt b o n
  let kind := f 10 1; let n := f 14 2; let total := f 16 4; let sig := f 20 4
  let ss := sectionsOf b
  let covered (i : Nat) : Bool := ss.any fun s => decide (s.off ≤ i) && decide (i < s.off + s.len)
  if b.length < 64 then some 2
  else if slice b 0 8 != ascii "GLSTRUCT" || f 8 2 != 1 || (kind != 1 && kind != 2) || f 11 1 != 0 ||
      (if kind == 2 then decide (255 < f 12 2) else f 12 2 != 0xFFFF) || n == 0 || decide (32 < n) || sig % 64 != 0 ||
      (kind == 1 && f 32 8 != 0) || decide (64 < f 40 4) || decide (8 ≤ f 44 4) || !zeros b 56 64 then some 1
  else if 2 ^ 20 < total ∨ b.length < total ∨ sig + sigLen ≠ total ∨ sig < 64 + 16 * n then some 2
  else if ss.any fun s => s.off % 64 != 0 then some 1
  else if ss.any fun s => decide (total < s.off + s.len) then some 2
  else if !((b.take sig).zipIdx.drop (64 + 16 * n)).all fun p => p.1 == 0 || covered p.2 then some 1
  else if !sigForm b sig then some 1
  else none

/-- Check 2: the digest of the image up to its signature block (R51). -/
def digestOk (b : List Byte) : Bool :=
  let sig := fieldAt b 20 4
  sha3_512 (b.take sig) == slice b (sig + 8) 64

/-- Check 3: the key of a signature block against the fused hashes; once an owner is endorsed, only the owner's for a
structure image (R52). -/
def keyOk (fs : Fuses) (b : List Byte) (sig : Nat) : Bool :=
  let h := sha3_512 (slice b (sig + 72) 2592)
  if fieldAt b (sig + 4) 1 = 1 then fs.ownerHash.isNone && h == fs.vendorHash else fs.ownerHash == some h

/-- Check 4: the ML-DSA-87 signature over the digest (R51, log 9). -/
def signatureOk (b : List Byte) (sig : Nat) : Bool :=
  Config.mlDsaVerify (slice b (sig + 72) 2592) (slice b (sig + 2664) 4627) (slice b (sig + 8) 64)

/-- The serial that an image would replace, where one is in force (R40). -/
def Dev.serialBefore (d : Dev) (i : Image) : Option W64 :=
  if i.partialLoad then
    d.image.map fun _ => ((d.partials.find? (·.domain == i.domain)).map (·.serial)).getD 0
  else d.image.map (·.serial)

/-! ### Check 9: the envelope of a partial image (R42, R53, R57) -/

/-- Whether a partial image's DOMAINS record keeps every budget field (R43). -/
def DomainRec.sameBudget (x y : DomainRec) : Bool :=
  { x with wingLocal := y.wingLocal, homeWest := y.homeWest, classMask := y.classMask, faultSlots := y.faultSlots } == y

/-- A partial image stays within its envelope. -/
def Dev.inEnvelope (d : Dev) (b : List Byte) (i : Image) : Bool :=
  !(hasSection b 5 || hasSection b 7 || hasSection b 8) && i.domains.all (fun x => x.domain == i.domain && (d.domainRec x.domain).any fun y => x.sameBudget y) &&
    i.galleries.all (·.domain == i.domain) && i.pipelines.all (·.domain == i.domain) && i.routes.all (·.domain == i.domain) &&
    i.vitrine.all (·.domain == i.domain)

/-! ### Check 10: section form (R41 to R50) -/

/-- The directory of R41: whole records, no overlap with one another, the header or the directory, reserved bits, known or ignorable types, each once; the sections
that R42 requires. -/
def directoryOk (b : List Byte) (i : Image) : Bool :=
  let ss := sectionsOf b
  let ranges := (0, 64 + 16 * ss.length) :: ss.map fun s => (s.off, s.len)
  let known (s : Section) : Bool := match recordSizeOf s.type with
    | some n => s.len % n == 0
    | none => bit s.flags 0
  let need := if i.partialLoad then [1] else [1, 2, 3, 4, 5]
  ss.all (fun s => known s && decide (s.flags < 2) && s.reserved == 0 && decide (s.off + s.len ≤ fieldAt b 20 4)) && noRepeat (ss.map (·.type)) &&
    ((List.range ranges.length).all fun p => (List.range p).all fun q =>
      !overlap (at! ranges p (0, 0)).1 (at! ranges p (0, 0)).2 (at! ranges q (0, 0)).1 (at! ranges q (0, 0)).2) &&
    need.all (hasSection b) && (!i.partialLoad || i.domains.length == 1)

/-- Reserved bytes and fields of the records as they stand in the file. -/
def reservedOk (b : List Byte) : Bool :=
  (recordsOf b 1).all (fun r => decide (fieldAt r 2 2 < 16) && fieldAt r 13 1 == 0 && zeros r 36 64) &&
    (recordsOf b 2).all (fun r => decide (fieldAt r 1 1 < 2)) &&
    (recordsOf b 3).all (fun r => fieldAt r 3 1 == 0 && zeros r 14 16) &&
    (recordsOf b 5).all (fun r => zeros r 5 8) &&
    (recordsOf b 6).all (fun r => (fieldAt r 4 1 == 1 || fieldAt r 4 1 == 2) && zeros r 5 8 && zeros r 24 32) &&
    (recordsOf b 7).all (fun r => decide (1 ≤ fieldAt r 2 1) && decide (fieldAt r 2 1 ≤ 3) && zeros r 12 16) &&
    (recordsOf b 8).all (fun r => zeros r 4 16)

/-- The verb classes of a mask (R43): 1 to 8 and 15. -/
def classesOf (m : Nat) : List Nat := [1, 2, 3, 4, 5, 6, 7, 8, 15].filter (bit m)

/-- The ranges of a DOMAINS record. -/
def DomainRec.formOk (x : DomainRec) : Bool :=
  decide (x.domain ≤ 255) && x.classMask == ((classesOf x.classMask).map (2 ^ ·)).foldl (· + ·) 0 && decide (x.galCeiling ≤ 40) &&
    decide (1 ≤ x.moverWeight) && decide (x.moverWeight ≤ 15) && decide (1 ≤ x.scannerWeight) && decide (x.scannerWeight ≤ 15) &&
    decide (x.portMask < 16) && decide (16 ≤ x.faultSlots) && decide (x.faultSlots ≤ 4096)

/-- Whether a domain's queue set names a point (R43). -/
def DomainRec.names (x : DomainRec) (p : Point) : Bool :=
  match p.kind with
  | .cxl => bit x.portMask p.index
  | .zherek => bit x.linkMask p.index
  | .onfi => bit x.onfiMask p.index

/-- The points of a kind. -/
def pointsOfKind : PointKind → Nat
  | .cxl => 4 | .zherek => 8 | .onfi => 32

/-- Whether no two vitrine regions share an address. -/
def regionsApart : List VitrineRec → Bool
  | [] => true
  | v :: vs => vs.all (fun u => !overlap v.base v.len u.base u.len) && regionsApart vs

/-- Whether no two CODING records cover one member count. -/
def codingsApart : List CodingRec → Bool
  | [] => true
  | c :: cs => cs.all (fun x => decide (c.hi < x.lo) || decide (x.hi < c.lo)) && codingsApart cs

/-- The record rules of R43 to R50 on the image's own records; `regions` are the vitrine regions as they would stand. -/
def recordsOk (i : Image) (regions : List VitrineRec) : Bool :=
  let rc (dom : Nat) : Option DomainRec := i.domains.find? (·.domain == dom)
  let has (dom : Nat) : Bool := (rc dom).isSome
  i.domains.all DomainRec.formOk && noRepeat (i.domains.map (·.domain)) &&
    i.galleries.all (fun g => g.domain == 0xFFFF || has g.domain) &&
    i.pipelines.all (fun p => decide (p.number < 16) && has p.domain) && noRepeat (i.pipelines.map fun p => (p.domain, p.number)) &&
    i.routes.all (fun r => has r.domain) &&
    i.grants.all (fun g => decide (g.host < 4096) && decide (g.rights < 16) && has g.domain && (!bit g.rights 3 || (rc g.domain).any (·.management))) &&
    noRepeat (i.grants.map fun g => (g.host, g.domain)) &&
    i.vitrine.all (fun v => decide (v.region ≤ 255) && v.base % 0x20_0000 == 0 && v.len % 0x20_0000 == 0 && v.len != 0 && (rc v.domain).any (·.vitrineOk)) &&
    regionsApart regions &&
    i.domains.all (fun x => decide (((i.vitrine.filter (·.domain == x.domain)).map (·.len)).foldl (· + ·) 0 ≤ 2 ^ 30 * x.dramQuota)) &&
    i.shaper.all (fun s => decide (s.point.index < pointsOfKind s.point.kind) && (rc s.domain).any fun x => x.names s.point) &&
    noRepeat (i.shaper.map fun s => (s.domain, s.point)) &&
    i.coding.all (fun c => decide (1 ≤ c.lo) && decide (c.lo ≤ c.hi) && decide (c.hi ≤ 16) && decide (2 ≤ c.k) && decide (1 ≤ c.m) && decide (c.k + c.m ≤ c.lo)) &&
    codingsApart i.coding

/-! ### Checks 11 to 15 -/

/-- Check 11: every gallery and point named is one that the variant enables. -/
def variantOk (variant : Nat) (i : Image) : Bool :=
  let gal (g : Nat) : Bool := variantHas variant (.gallery g)
  i.galleries.all (fun g => gal g.gallery) && i.pipelines.all (fun p => ((List.range 40).filter (bit p.galleries)).all gal) &&
    i.domains.all (fun x =>
      ((List.range 4).all fun n => !bit x.portMask n || variantHas variant (.port n)) &&
        ((List.range 8).all fun n => !bit x.linkMask n || variantHas variant (.link n)) &&
        (List.range 32).all fun n => !bit x.onfiMask n || variantHas variant (.onfi n)) &&
    i.shaper.all fun s => variantHas variant (match s.point.kind with | .cxl => .port s.point.index | .zherek => .link s.point.index | .onfi => .onfi s.point.index)

/-- Check 12: the sums of R43 over domains, and the reservations at each point (R49). -/
def budgetsOk (i : Image) : Bool :=
  let sum (f : DomainRec → Nat) : Nat := (i.domains.map f).foldl (· + ·) 0
  decide (sum (·.tagPool) ≤ 4096) && decide (sum (·.ctxCeiling) ≤ 65536) && decide (sum (·.xcEast) ≤ 3840) && decide (sum (·.xcWest) ≤ 3840) &&
    allPoints.all fun p =>
      let r := ((i.shaper.filter (·.point == p)).map (·.rate)).foldl (· + ·) 0
      decide (10 * r ≤ (if p.kind == .onfi then 324 else 10800 : Nat))

/-- The galleries of a domain. -/
def Image.galleriesOf (i : Image) (dom : Nat) : List Nat := (i.galleries.filter (·.domain == dom)).map (·.gallery)

/-- Check 13: galleries (R44, R54); `now` is the image in force. A partial image without a GALLERIES section claims those of the full image
(log 119). -/
def galleriesOk (variant : Nat) (i : Image) (listed : Bool) (now full : Option Image) : Bool :=
  let claimed := if listed then i.galleries else full.elim [] fun f => f.galleries.filter (·.domain == i.domain)
  noRepeat (i.galleries.map (·.gallery)) &&
    (if i.partialLoad then
      claimed.all fun g => now.any fun f => f.galleries.any fun x => x.gallery == g.gallery && (x.domain == i.domain || x.domain == 0xFFFF)
    else (List.range 40).all fun g => !variantHas variant (.gallery g) || i.galleries.any (·.gallery == g)) &&
    i.domains.all fun x => decide ((i.galleriesOf x.domain).length ≤ x.galCeiling)

/-- Whether a pipeline holds every kind of engine a class needs (R46). -/
def PipelineRec.serves (p : PipelineRec) (cls : Nat) : Bool :=
  let g := p.galleries != 0; let m := p.movers != 0; let s := p.scanners != 0
  match cls with
  | 1 => g && m && s
  | 3 => g && m
  | 4 => g && m
  | 5 => g
  | 6 => g && m
  | 7 => m
  | 8 => s
  | _ => true

/-- Check 14: the pipelines and routes of the domains named, in the image as it would stand (R45, R46). -/
def routesOk (doms : List DomainRec) (i : Image) : Bool :=
  doms.all fun x =>
    let mine := i.galleriesOf x.domain
    let ps := i.pipelines.filter (·.domain == x.domain)
    let rs := i.routes.filter (·.domain == x.domain)
    ps.all (fun p => ((List.range 40).filter (bit p.galleries)).all mine.contains) && noRepeat (rs.map (·.cls)) &&
      rs.all (fun r => bit x.classMask r.cls && ps.any fun p => p.number == r.pipeline && p.serves r.cls) &&
      (classesOf x.classMask).all fun c => rs.any (·.cls == c)

/-- The first logical gallery of the west wing (R8). -/
def westGallery (variant : Nat) : Nat := if variant = 3 then 10 else if variant = 2 then 15 else 20

/-- Whether an egress point lies in the west wing (R18). -/
def westPoint (p : Point) : Bool := decide (pointsOfKind p.kind / 2 ≤ p.index)

/-- Check 15: no west unit is named (R455). -/
def westFree (variant : Nat) (i : Image) : Bool :=
  i.galleries.all (fun g => g.domain == 0xFFFF || decide (g.gallery < westGallery variant)) &&
    i.pipelines.all (fun p => p.galleries < 2 ^ westGallery variant && p.movers < 2 ^ 16 && p.scanners < 2 ^ 4) &&
    i.domains.all (fun x => x.portMask < 4 && x.linkMask < 16 && x.onfiMask < 2 ^ 16) && i.shaper.all fun s => !westPoint s.point

/-! ### The image as it would stand, and the whole validation -/

/-- The image in force with a domain's partial image taken back (R39): its records are the full image's again. A gallery that the full image
gives to it, and that another domain has claimed meanwhile, stays with that one. -/
def Image.without (now full : Image) (dom : Nat) : Image :=
  let put {α : Type} (f : α → Nat) (new old : List α) : List α := old.filter (fun x => f x != dom) ++ new.filter fun x => f x == dom
  let gal (g : GalleryRec) : GalleryRec :=
    let free := g.domain == dom || g.domain == 0xFFFF
    match full.galleries.find? fun x => x.gallery == g.gallery && x.domain == dom with
    | some x => if free then x else g
    | none => if g.domain = dom then { g with domain := 0xFFFF, early := false } else g
  { now with
    domains := now.domains.map fun x => if x.domain = dom then (full.domains.find? (·.domain == dom)).getD x else x
    galleries := now.galleries.map gal
    pipelines := put (·.domain) full.pipelines now.pipelines
    routes := put (·.domain) full.routes now.routes
    vitrine := put (·.domain) full.vitrine now.vitrine }

/-- A partial image laid over an image (R39, R57): what it has a section for is replaced for its domain; without a GALLERIES section the
domain holds what `base` gives it (DEDUCED from R39, log 119). -/
def Image.over (i : Image) (b : List Byte) (base : Image) : Image :=
  let d := i.domain
  let put {α : Type} (type : Nat) (dom : α → Nat) (new old : List α) : List α :=
    if hasSection b type then old.filter (fun x => dom x != d) ++ new else old
  let gal (g : GalleryRec) : GalleryRec := match i.galleries.find? (·.gallery == g.gallery) with
    | some n => n
    | none => if g.domain = d then { g with domain := 0xFFFF, early := false } else g
  { i with
    domains := base.domains.map fun x => if x.domain = d then (i.domains.headD x) else x
    galleries := if hasSection b 2 then base.galleries.map gal else base.galleries
    pipelines := put 3 (·.domain) i.pipelines base.pipelines
    routes := put 4 (·.domain) i.routes base.routes
    grants := base.grants
    vitrine := put 6 (·.domain) i.vitrine base.vitrine
    shaper := base.shaper
    coding := base.coding }

/-- The image as it would stand once an image of these bytes is committed (R39). -/
def Dev.wouldStand (d : Dev) (b : List Byte) (i : Image) : Image :=
  match d.image, d.full with
  | some now, some full => if i.partialLoad then i.over b (now.without full i.domain) else i
  | _, _ => i

/-- The checks of R53 in order, on the bytes of an image: the image to commit, or the code of the first failure (R54). Bytes fetched beyond
the header's total length are not looked at (DESIGN CHOICE, log 121). -/
def Dev.validate (d : Dev) (b : List Byte) : Except Nat Image :=
  match checkForm b with
  | some c => .error c
  | none =>
    let b := b.take (fieldAt b 16 4)
    let sig := fieldAt b 20 4
    let i := readImage b
    let v := d.acc.reported
    let whole := d.wouldStand b i
    if !digestOk b then .error 0x03
    else if !keyOk d.fuses b sig then .error 0x04
    else if !signatureOk b sig then .error 0x05
    else if i.rollback < d.fuses.rollback then .error 0x06
    else if (d.serialBefore i).any fun s => decide (i.serial.toNat ≤ s.toNat) then .error 0x0D
    else if v = 0 ∨ !bit i.variantMask (v - 1) then .error 0x07
    else if i.partialLoad && !(d.image.any fun f => f.serial == i.baseSerial) then .error 0x0C
    else if i.partialLoad && !d.inEnvelope b i then .error 0x0E
    else if !(directoryOk b i && reservedOk b && recordsOk i whole.vitrine) then .error 0x08
    else if !variantOk v i then .error 0x07
    else if !i.partialLoad && !budgetsOk i then .error 0x09
    else if !galleriesOk v i (hasSection b 2) d.image d.full then .error 0x0A
    else if !routesOk i.domains whole then .error 0x0B
    else if d.power.west != .on && !westFree v i then .error 0x11
    else .ok whole

end Sys2Proof.Machine
end

