-- ==== Sys2Proof/Machine/Firmware.lean ====
section
/-! DEFINITION. The boot flash and firmware: directory and slots (R426, R427), endorsement and rollback (R428, R429), staging and
its broadcast over a collection (R436 to R438, R448, R487). -/

namespace Sys2Proof.Machine

/-! ### The boot flash (R426) -/

/-- Bytes of the boot flash. -/
def Dev.bootRead (d : Dev) (off n : Nat) : List Byte := memRead d.bootFlash off n

/-- The CRC-64/NVME of bytes with the standard init (R388). -/
def crc64 (b : List Byte) : Nat :=
  match crcPoly 0x02 with
  | some p => crcOf p p.init b
  | none => 0

/-- Whether a directory passes its check. -/
def bootDirOk (b : List Byte) : Bool := slice b 0 8 == ascii "GLBOOTDR" && fieldAt b 56 8 == crc64 (b.take 56)

/-- The directory: the one at 0, or the copy where that fails. -/
def Dev.bootDir (d : Dev) : Option (List Byte) :=
  if bootDirOk (d.bootRead 0 64) then some (d.bootRead 0 64)
  else if bootDirOk (d.bootRead 0x1000 64) then some (d.bootRead 0x1000 64)
  else none

/-- The structure image that the directory names: as many bytes as its header says (R63, R439). -/
def Dev.bootImage (d : Dev) : Option (List Byte) :=
  d.bootDir.bind fun dir =>
    let o := fieldAt dir 24 8
    if o = 0 then none else some (d.bootRead o (max 64 (min (fieldAt (d.bootRead o 64) 16 4) (2 ^ 20 + 1))))

/-! ### Firmware images (R427) -/

/-- The greatest body of a firmware image. -/
def maxBody : Nat := 8 * 2 ^ 20

/-- The checks of R427 in order; the codes are those of R54. -/
def fwCheck (fs : Fuses) (b : List Byte) : Option Nat :=
  let f (o n : Nat) : Nat := fieldAt b o n
  let n := f 12 4
  let sig := 256 + n
  if b.length < 256 then some 2
  else if slice b 0 8 != ascii "GLFIRMWR" || f 8 2 != 1 || f 10 2 != 0 || decide (64 < f 24 4) || decide (8 ≤ f 28 4) || !zeros b 96 256 then some 1
  else if n % 64 ≠ 0 ∨ maxBody < n ∨ b.length < sig + sigLen then some 2
  else if !sigForm b sig || f (sig + 4) 1 != 1 then some 1
  else if sha3_512 (slice b 256 n) != slice b 32 64 || sha3_512 (b.take sig) != slice b (sig + 8) 64 then some 3
  else if sha3_512 (slice b (sig + 72) 2592) != fs.vendorHash then some 4
  else if !signatureOk b sig then some 5
  else if f 24 4 < fs.rollback then some 6
  else if fs.marked = 0 ∨ !bit (f 28 4) (fs.marked - 1) then some 7
  else none

/-- The image that a slot of the directory holds, as long as its header says. -/
def Dev.slotImage (d : Dev) (dir : List Byte) (slot : Nat) : List Byte :=
  let o := fieldAt dir (8 + 8 * slot) 8
  if o % 4096 ≠ 0 then [] else d.bootRead o (256 + min (fieldAt (d.bootRead o 256) 12 4) maxBody + sigLen)

/-- The preferred slot of a directory. -/
def preferredSlot (dir : List Byte) : Nat := if fieldAt dir 40 1 = 1 then 1 else 0

/-- The slot and image that the ROM runs: the preferred one, else the other, each under every check of R427. -/
def Dev.pickFirmware (d : Dev) : Option (Nat × List Byte) :=
  d.bootDir.bind fun dir =>
    [preferredSlot dir, 1 - preferredSlot dir].findSome? fun s =>
      let b := d.slotImage dir s
      if (fwCheck d.fuses b).isNone then some (s, b) else none

/-! ### ACC_CTRL (R428, R429, R447) -/

/-- RESULT of ACC_CTRL. -/
def Dev.accResult (d : Dev) (code : Nat) : Dev := d.setField 0x1008 15 8 code

/-- ROLLBACK_COMMIT (R428): in AVAILABLE_FULL, to a running level above the counter. -/
def Dev.rollbackCommit (d : Dev) : Dev :=
  if d.acc.state != .availableFull then d.accResult 2
  else if d.fw.rollback ≤ d.fuses.rollback then d.accResult 5
  else { d with fuses := { d.fuses with rollback := d.fw.rollback } }.accResult 1

/-- Whether an endorsement record passes (R429): its form, this device's identity, the vendor's signature. -/
def endorsementOk (fs : Fuses) (b : List Byte) : Bool :=
  slice b 0 8 == ascii "GLENDORS" && slice b 8 64 == sha3_512 Config.identityKey && zeros b 2664 2688 && sigForm b 2688 &&
    fieldAt b 2692 1 == 1 && sha3_512 (b.take 2688) == slice b 2696 64 && sha3_512 (slice b 2760 2592) == fs.vendorHash && signatureOk b 2688

/-- The endorsement record of the boot flash. -/
def Dev.endorsement (d : Dev) : Option (List Byte) :=
  d.bootDir.bind fun dir =>
    let o := fieldAt dir 32 8
    let b := d.bootRead o (2688 + sigLen)
    if o = 0 ∨ !endorsementOk d.fuses b then none else some b

/-- ENDORSE (R429): in AVAILABLE_FULL, the owner key's hash is fused, once. -/
def Dev.endorse (d : Dev) : Dev :=
  if d.acc.state != .availableFull then d.accResult 2
  else
    match d.endorsement with
    | none => d.accResult 3
    | some b =>
      if d.fuses.ownerHash.isSome then d.accResult 4
      else { d with fuses := { d.fuses with ownerHash := some (sha3_512 (slice b 72 2592)) } }.accResult 1

/-- A write to ACC_CTRL (R447): VALIDITY_H outside 0–168 discards it. -/
def Dev.accCtrl (d : Dev) (w : RegWrite) : Dev :=
  if 168 < bits (d.after w).toNat 47 32 then d.setField 0x1008 63 63 1
  else
    let d := d.plainWrite w
    let d := if w.sets 0 then d.rollbackCommit else d
    if w.sets 1 then d.endorse else d

/-- ENDORSE: an ACC_CTRL write with ENDORSE set. -/
def devEndorse (w : RegWrite) (d : Dev) : Dev := onRegister (.endorse w) w (fun _ => w.reg == 0x1008 && w.sets 1) (fun d => d.accCtrl w) d

/-- Execute ENDORSE. -/
def execEndorse (w : RegWrite) (s : State) : Host.Outcome State Fault Refusal := whenLive (devEndorse w) s

/-- ROLLBACK_COMMIT: an ACC_CTRL write with ROLLBACK_COMMIT set. -/
def devRollbackCommit (w : RegWrite) (d : Dev) : Dev :=
  onRegister (.rollbackCommit w) w (fun _ => w.reg == 0x1008 && w.sets 0) (fun d => d.accCtrl w) d

/-- Execute ROLLBACK_COMMIT. -/
def execRollbackCommit (w : RegWrite) (s : State) : Host.Outcome State Fault Refusal := whenLive (devRollbackCommit w) s

/-! ### Staging (R436 to R438, R448) -/

/-- The chunk index of an end marker and of a repair request (R436). -/
def endMarker : Nat := 0xFFFF_FFFF

/-- See `endMarker`. -/
def repairRequest : Nat := 0xFFFF_FFFE

/-- Change what is known of the firmware. -/
def Dev.modFw (d : Dev) (f : Firmware → Firmware) : Dev := { d with fw := f d.fw }

/-- The check of a chunk (R436): CRC-64/NVME with address and image tag folded in. -/
def chunkCheck (hdr data : List Byte) (tag : W32) (index : Nat) : Nat :=
  match crcPoly 0x02 with
  | some p => crcOf p (foldedSeed p (index * 4096) tag.toNat) (hdr ++ data)
  | none => 0

/-- Bytes 0 to 23 of a chunk's header. -/
def chunkHeader (tag : W32) (index count n : Nat) : List Byte :=
  ascii "GLFW" ++ natLe tag.toNat 4 ++ natLe index 4 ++ natLe count 4 ++ natLe n 4 ++ List.replicate 4 0

/-- One FW message (R364, R436) to an FID. -/
def Dev.sendFw (d : Dev) (fid : Nat) (index : Nat) (data : List Byte) : Dev :=
  let h := chunkHeader d.fw.tag index d.fw.count data.length
  d.sendFab 0x12 fid 0xFFFF 0 0 0 0 0 (h ++ natLe (chunkCheck h data d.fw.tag index) 8 ++ data) none

/-- FW_STATUS after staging has ended (R448): a code for the source's verification, DONE. -/
def Dev.endStaging (d : Dev) : Dev := (d.setField 0x1020 0 0 1).modFw fun f => { f with phase := 0, chunks := [], count := 0, rounds := 0, source := false }

/-- This member's bit of FAILED, and staging ends here (R437, R438). -/
def Dev.fwFailed (d : Dev) : Dev := (d.setField 0x1020 (48 + d.coll.geoId) (48 + d.coll.geoId) 1).endStaging

/-- A GO in FW_CTRL (R438, R448, R499): refused while staging runs; a bad length or address, a failed fetch, and a GO over the
Docent bus, end at once with SOURCE_FAULT or BAD_LENGTH; a verified image goes to every live member. `ok` and `image` are the
fetch's answer (log 3). -/
def Dev.fwCtrl (d : Dev) (w : RegWrite) (ok : Bool) (image : List Byte) : Dev :=
  if !w.sets 0 then d.plainWrite w
  else if d.fw.phase != 0 then d.setField 0x1020 1 1 1
  else
    let d := d.plainWrite w
    let n := d.field 0x1010 39 16
    let d := d.setField 0x1020 63 32 0
    let stop (d : Dev) (c : Nat) : Dev := (d.setField 0x1020 23 16 c).endStaging
    match w.src with
    | .docent => stop d 0x0F
    | .bar port _ =>
      if n = 0 ∨ 131190 < n then stop d 0x02
      else if (d.reg 0x1018).toNat % 64 ≠ 0 then stop d 0x0F
      else
        let d := d.toPort port 256 true 0 none (.fetch port (d.reg 0x1018).toNat (64 * n))
        if !ok then stop d 0x0F
        else
          let b := image.take (64 * n)
          match fwCheck d.fuses b with
          | some c => stop d c
          | none =>
            let b := b.take (256 + fieldAt b 12 4 + sigLen)
            let cs := (chunks 4096 b).zipIdx.map fun e => (e.2, e.1)
            let d := (d.setField 0x1020 23 16 0).modFw fun f =>
              { f with tag := BitVec.ofNat 32 (fieldAt b 32 4), count := cs.length, chunks := cs, rounds := 0, source := true, phase := 1 }
            let d := d.others.foldl (fun d m => (cs.foldl (fun (d : Dev) (c : Nat × List Byte) => d.sendFw (d.fidOf m) c.1 c.2) d).sendFw (d.fidOf m) endMarker []) d
            d.modFw fun f => { f with phase := if d.others.isEmpty then 3 else 2 }

/-- FW_STAGE_GO: an FW_CTRL write with GO. -/
def devFwStageGo (w : RegWrite) (ok : Bool) (image : List Byte) (d : Dev) : Dev :=
  onRegister (.fwStageGo w ok image) w (fun _ => w.reg == 0x1010 && w.sets 0) (fun d => d.fwCtrl w ok image) d

/-- Execute FW_STAGE_GO. -/
def execFwStageGo (w : RegWrite) (ok : Bool) (image : List Byte) (s : State) : Host.Outcome State Fault Refusal :=
  whenLive (devFwStageGo w ok image) s

/-- The chunks still missing. -/
def Dev.missingChunks (d : Dev) : List Nat := (List.range d.fw.count).filter fun i => !d.fw.chunks.any (·.1 == i)

/-- The image of the chunks held. -/
def Dev.assembled (d : Dev) : List Byte := (List.range d.fw.count).flatMap fun i => ((d.fw.chunks.find? (·.1 == i)).map (·.2)).getD []

/-- Every chunk is here (R437): the body's digest decides whether the slot is written. -/
def Dev.fwComplete (d : Dev) : Dev :=
  let b := d.assembled
  if sha3_512 (slice b 256 (fieldAt b 12 4)) == slice b 32 64 then d.modFw fun f => { f with phase := 3 } else d.fwFailed

/-- FW (R436, R437): a chunk whose check fails is discarded. The source answers a repair request with the chunks it names and an
end marker; a receiver keeps a chunk, and with the last one it checks the image. -/
def devFw (c : FwChunk) (d : Dev) : Dev :=
  let h := chunkHeader c.tag c.index.toNat c.count c.data.length
  if c.check.toNat != chunkCheck h c.data c.tag c.index.toNat || decide (4096 < c.data.length) then d
  else if d.fw.source then
    if c.index.toNat == repairRequest && c.tag == d.fw.tag then
      let want := ((List.range (c.data.length / 4)).map fun i => fieldAt c.data (4 * i) 4)
      let d := want.foldl (fun d i => match d.fw.chunks.find? (·.1 == i) with | some x => d.sendFw c.sender i x.2 | none => d) d
      d.sendFw c.sender endMarker []
    else d
  else if c.index.toNat == repairRequest || d.fw.phase == 3 then d
  else
    let d := if d.fw.tag == c.tag && d.fw.phase != 0 then d
      else (d.setField 0x1020 63 32 0).modFw fun f => { f with tag := c.tag, count := c.count, chunks := [], rounds := 0, src := c.sender, phase := 1 }
    if c.index.toNat == endMarker then d.modFw fun f => { f with phase := 2 }
    else if c.count ≤ c.index.toNat then d
    else
      let d := d.modFw fun f => { f with chunks := insertBy Prod.fst (c.index.toNat, c.data) f.chunks }
      if d.missingChunks.isEmpty && d.fw.phase == 2 then d.fwComplete else d

/-- Execute FW. -/
def execFw (c : FwChunk) (s : State) : Host.Outcome State Fault Refusal := whenLive (devFw c) s

/-- FW_REPAIR_TIMER (R437): 200 µs(L) after an end marker a receiver asks for what it lacks, at most three times; the source goes
on to its own slot after the third round. -/
def devFwRepairTimer (t : Nat) (d : Dev) : Dev :=
  let d := d.atTime t
  if d.fw.phase != 2 then d
  else if d.fw.source then
    if 3 ≤ d.fw.rounds + 1 then d.modFw fun f => { f with phase := 3 } else d.modFw fun f => { f with rounds := f.rounds + 1 }
  else if d.missingChunks.isEmpty then d.fwComplete
  else if 3 ≤ d.fw.rounds then d.fwFailed
  else (d.sendFw d.fw.src repairRequest ((d.missingChunks.take 1024).flatMap fun i => natLe i 4)).modFw fun f => { f with rounds := f.rounds + 1, phase := 1 }

/-- Execute FW_REPAIR_TIMER. -/
def execFwRepairTimer (t : Nat) (s : State) : Host.Outcome State Fault Refusal := whenLive (devFwRepairTimer t) s

/-- A directory that prefers a slot, with its check. -/
def preferSlot (dir : List Byte) (slot : Nat) : List Byte :=
  let b := dir.take 40 ++ natLe slot 1 ++ slice dir 41 15
  b ++ natLe (crc64 b) 8

/-- FW_SLOT_WRITE_DONE (R438, R487): the slot that is not running holds the image, then the directory copy and the directory prefer
it; a slot that fails its reading back leaves the directory as it is, and the member's bit shows it. -/
def devFwSlotWriteDone (ok : Bool) (d : Dev) : Dev :=
  if d.fw.phase != 3 then d
  else
    match d.bootDir with
    | none => d.fwFailed
    | some dir =>
      if !ok then d.fwFailed
      else
        let slot := 1 - d.fw.runningSlot
        let b := preferSlot dir slot
        let m := memWrite (memWrite (memWrite d.bootFlash (fieldAt dir (8 + 8 * slot) 8) d.assembled) 0x1000 b) 0 b
        let d := ({ d with bootFlash := m }.modFw fun f => { f with preferred := slot }).setField 0x1020 (32 + d.coll.geoId) (32 + d.coll.geoId) 1
        d.endStaging

/-- Execute FW_SLOT_WRITE_DONE. -/
def execFwSlotWriteDone (ok : Bool) (s : State) : Host.Outcome State Fault Refusal := whenLive (devFwSlotWriteDone ok) s

end Sys2Proof.Machine
end

