-- ==== Sys2Proof/Machine/Attend.lean ====
section
/-! DEFINITION. SELECT_ATTEND: near-memory attention (chapter 07). -/

namespace Sys2Proof.Machine

/-- What the sums of a SELECT_ATTEND may depend on (R142, R187): its queries, and the frames and summaries of its layer. -/
def Dev.attendKey (d : Dev) (dom : Nat) (k : Cmd) (s : Session) (a : Ask) : List Nat :=
  let bs := (d.layerBlocks s a.layer).take (a.blkLast + 1)
  d.sumKey dom k (k.spans dom a.query (a.q * a.hc * s.group * (s.dim * (elemBits a.fmt / 8))) ++ bs.flatMap fun b => [b.frame, b.summary])

/-- SELECT_ATTEND (R175 to R201): the query load begins, and each stage brings the next one's steps. -/
def devSelectAttend (r : SlotRef) (d : Dev) : Dev :=
  d.onSession r .selectAttend fun c k s =>
    let a := k.ask s
    if (s.layer a.layer).n < a.p0 + a.q then d.reject r .badOperand
    else d.unlessLost r r.ctx s (k.kvReach s) <|
      let run : AttendRun := { key := d.attendKey c.domain k s a, heads := (List.range a.hc).map fun i => { head := a.h0 + i, kept := [], chosen := [], flash := [] } }
      (d.modCmd r fun k => { k with attend := some run }).begin r (d.nextStage k c.domain s a run 0) 0 0 0

/-- Execute SELECT_ATTEND. -/
def execSelectAttend (r : SlotRef) (s : State) : Host.Outcome State Fault Refusal := whenLive (devSelectAttend r) s

end Sys2Proof.Machine
end

