-- ==== Sys2Proof/Machine/Embedding.lean ====
section
/-! DEFINITION. Embedding tables: GATHER, SCATTER_UPDATE, PUBLISH_TABLE and REHANG (chapter 08). -/

namespace Sys2Proof.Machine

/-! ### Ranges found when the verb runs (R205, R295; log 30) -/

/-- Translate ranges whose size the bound version or index gives, as operand ranges are (R293). -/
def Dev.late (d : Dev) (r : SlotRef) (c : Context) (ns : List Need) (f : Dev → Cmd → Dev) : Dev :=
  match d.cmd? r with
  | none => d
  | some k =>
    (d.capture r c k ns fun d => match d.cmd? r with
      | some k => f d k
      | none => d).settle

/-! ### Operand arrays -/

/-- The 32-bit words of an operand array, none where the sector is poisoned (R387). -/
def Dev.array32 (d : Dev) (dom : Nat) (k : Cmd) (cva n : Nat) : List (Option Nat) :=
  let bs := d.loadAll k (k.spans dom cva (4 * n))
  let clean := !d.badSpans k (k.spans dom cva (4 * n))
  (List.range n).map fun i => if clean || !d.badSpans k (k.spans dom (cva + 4 * i) 4) then some (fieldAt bs (4 * i) 4) else none

/-- A class 0x04 verb that binds to a version begins once it is bound (R208): where the table is homed elsewhere, that is when its home
has answered (R210). -/
def Dev.onBound (d : Dev) (r : SlotRef) (v : Verb) (f : Context → Cmd → Version → Dev) : Dev :=
  d.onReady r v fun c k => k.version.elim d (f c k)

/-! ### GATHER (R212 to R215, R223) -/

/-- A bag's term with its burst bytes (R223). -/
structure CutTerm where
  term : GatherTerm
  cost : Nat
deriving DecidableEq, Repr

/-- A bag of a GATHER: its terms, and whether an offset of it is poisoned. -/
structure Bag where
  number : Nat
  terms : List CutTerm
  bad : Bool
deriving DecidableEq, Repr

/-- Burst bytes of a number of bytes: whole 64-byte bursts (R223). -/
def bursts (n : Nat) : Nat := roundUp n 64

/-- Cut the terms of one bag that no step holds at the limits of 128 indices and 64 KiB (R223). -/
def cutTerms (ts : List CutTerm) : List (List CutTerm) :=
  (ts.foldl (fun (acc : List (List CutTerm) × Nat) t =>
    match acc.1.getLast? with
    | some xs =>
      if xs.length + 1 ≤ 128 ∧ acc.2 + t.cost ≤ 65536 then (acc.1.dropLast ++ [xs ++ [t]], acc.2 + t.cost) else (acc.1 ++ [[t]], t.cost)
    | none => ([[t]], t.cost)) (([] : List (List CutTerm)), 0)).1

/-- A bag in pieces, each of a step of its own. -/
def Bag.split (b : Bag) : List (List BagPiece) :=
  let ps := cutTerms b.terms
  (List.range ps.length).map fun i =>
    [{ bag := b.number, terms := (at! ps i []).map (·.term), first := i == 0, last := i + 1 == ps.length, size := b.terms.length, bad := b.bad }]

/-- Cut bags into steps (R223): whole bags in order, a larger bag split. -/
def gatherCuts (bags : List Bag) : List (List BagPiece) :=
  let flush (acc : List (List BagPiece)) (cur : List BagPiece) := if cur.isEmpty then acc else acc ++ [cur]
  let out := bags.foldl (fun (acc : List (List BagPiece) × List BagPiece × Nat × Nat) b =>
    let (done, cur, m, bytes) := acc
    let n := b.terms.length
    let total := (b.terms.map (·.cost)).foldl (· + ·) 0
    let piece : BagPiece := { bag := b.number, terms := b.terms.map (·.term), first := true, last := true, size := n, bad := b.bad }
    if 128 < n ∨ 65536 < total then (flush done cur ++ b.split, [], 0, 0)
    else if m + n ≤ 128 ∧ bytes + total ≤ 65536 then (done, cur ++ [piece], m + n, bytes + total)
    else (flush done cur, [piece], n, total)) ([], [], 0, 0)
  flush out.1 out.2.1

/-- The first malformed offset, by position (R213, R225): among those that can be read. -/
def badOffset (n b : Nat) (offs : List (Option Nat)) : Option Nat :=
  ((List.range (b + 1)).foldl (fun (acc : Option Nat × Nat) i =>
    match acc.1, at! offs i none with
    | none, some o => if (i == 0 && o != 0) || (i == b && o != n) || decide (o < acc.2) || decide (n < o) then (some i, acc.2) else (none, o)
    | _, _ => acc) (none, 0)).1

/-- The first index at or above a version's rows, by position (R225). -/
def badIndex (rows : Nat) (idx : List (Option Nat)) : Option Nat := idx.findIdx? fun i => i.any fun x => decide (rows ≤ x)

/-- The remap entries of rows, where a version has them (R207). -/
def Version.remapSpans (v : Version) (rows : List Nat) : List Span := if v.kind = 3 then rows.eraseDups.map v.remapSpan else []

/-- Burst bytes of a row and its remap entry (R206, R207, R223): none for a row that is not known. -/
def Dev.rowCost (d : Dev) (dom : Nat) (k : Cmd) (v : Version) (row : Option Nat) : Nat :=
  match row with
  | none => 0
  | some i =>
    if v.kind = 3 then
      let a := d.rowAt dom k v i
      64 + if a.spans.isEmpty then 0 else bursts (rowSize 2 a.format v.dim)
    else bursts (rowSize v.kind v.format v.dim)

/-- A step of GATHER: what it reads of the index array, and where the rows of bags that it ends go. A step with a piece of a split bag
keeps its place among the others (R213). -/
def Cmd.gatherStep (k : Cmd) (dom : Nat) (v : Version) (lo : Nat) (ps : List BagPiece) : Step :=
  let stride := k.outStride v
  { Step.nop with
    kind := .gallery, free := ps.all fun p => p.first && p.last
    reads := k.spans dom (fieldAt k.line 32 8 + 4 * lo) (4 * ((ps.map (·.terms.length)).foldl (· + ·) 0))
    outs := if bit (lineFlags k.line) 0 then [] else (ps.filter (·.last)).flatMap fun p => k.spans dom (fieldAt k.line 56 8 + p.bag * stride) stride
    effects := [.gather ps] }

/-- The steps of a GATHER whose operand arrays are read. -/
def Dev.gatherPlan (d : Dev) (dom : Nat) (k : Cmd) (v : Version) (idx ws offs : List (Option Nat)) : List Step :=
  let b := fieldAt k.line 20 4
  let bags := (List.range b).map fun j =>
    let (lo, hi, bad) : Nat × Nat × Bool := match at! offs j none, at! offs (j + 1) none with
      | some lo, some hi => (lo, hi, false)
      | some lo, none => (lo, lo, true)
      | none, some hi => (hi, hi, true)
      | none, none => (0, 0, true)
    let terms := (List.range (hi - lo)).map fun i =>
      let row := at! idx (lo + i) none
      ({ term := { row := row, weight := (at! ws (lo + i) none).map (BitVec.ofNat 32) }, cost := d.rowCost dom k v row } : CutTerm)
    ({ number := j, terms := terms, bad := bad } : Bag)
  ((gatherCuts bags).foldl (fun (acc : List Step × Nat) ps =>
    (acc.1 ++ [k.gatherStep dom v acc.2 ps], acc.2 + (ps.map (·.terms.length)).foldl (· + ·) 0)) (([] : List Step), 0)).1

/-- GATHER (R212 to R215, R223, R225): operand arrays are checked before any row is read. -/
def devGather (r : SlotRef) (d : Dev) : Dev :=
  d.onBound r .gather fun c k v =>
    let l := k.line
    let pool := k.pooling; let b := fieldAt l 20 4; let n := fieldAt l 24 4
    if k.counting && v.popCva == 0 then d.reject r .badOperand
    else
      d.late r c (if bit (lineFlags l) 0 then [] else [⟨fieldAt l 56 8, b * k.outStride v, true, 56⟩]) fun d k =>
        let arrays := k.spans c.domain (fieldAt l 32 8) (4 * n) ++
          (if pool = 0 then [] else k.spans c.domain (fieldAt l 40 8) (4 * (b + 1))) ++
          if pool = 3 then k.spans c.domain (fieldAt l 48 8) (4 * n) else []
        d.withRemote r k arrays fun d =>
          let idx := d.array32 c.domain k (fieldAt l 32 8) n
          let offs := if pool = 0 then (List.range (b + 1)).map some else d.array32 c.domain k (fieldAt l 40 8) (b + 1)
          let ws := if pool = 3 then d.array32 c.domain k (fieldAt l 48 8) n else []
          match (badOffset n b offs).orElse fun _ => badIndex v.rows idx with
          | some i => (d.complete r .badOperand 0 0 (BitVec.ofNat 64 i)).settle
          | none =>
            d.withRemote r k (arrays ++ v.remapSpans (idx.filterMap id)) fun d =>
              match d.cmd? r with
              | none => d
              | some k => d.begin r (d.gatherPlan c.domain k v idx ws offs) 0 0 (BitVec.ofNat 64 v.number.toNat)

/-- Execute GATHER. -/
def execGather (r : SlotRef) (s : State) : Host.Outcome State Fault Refusal := whenLive (devGather r) s

/-! ### SCATTER_UPDATE (R219 to R223) -/

/-- Rows grouped into applying steps of at most 64 KiB of row and state bursts, read and written: `per` bytes to a row (R223). -/
def groupRows (per : Nat) (rows : List Nat) : List (List Nat) := chunks (max 1 (65536 / per)) rows

/-- The combining and the applying steps of a SCATTER_UPDATE (R221, R223). -/
def Cmd.scatterPlan (k : Cmd) (dom : Nat) (v : Version) (idx : List (Option Nat)) (rows : List Nat) : List Step :=
  let n := fieldAt k.line 20 4
  let gb := v.dim * (elemBits (fieldAt k.line 19 1) / 8)
  let combine := (pieces n (max 1 (min 4096 (65536 / gb)))).map fun p =>
    let mine := (List.range p.2).filterMap fun i => (at! idx (p.1 + i) none).map fun row => (p.1 + i, row)
    { Step.nop with
      kind := .gallery
      reads := k.spans dom (fieldAt k.line 24 8 + 4 * p.1) (4 * p.2) ++ k.gradSpans dom v p.1 p.2
      effects := [.combine mine]
      raises := if mine.length < p.2 then some .poisoned else none }
  let per := 2 * (bursts (rowSize 1 v.format v.dim) + bursts (4 * stateWords v.stateKind v.dim))
  combine ++ (groupRows per rows).map fun rs => { Step.nop with kind := .gallery, free := true, effects := rs.map fun i => .row { row := i, phase := 0 } }

/-- SCATTER_UPDATE (R219, R221): every index is read before a row is changed, and the work area drawn from the quota. -/
def devScatterUpdate (r : SlotRef) (d : Dev) : Dev :=
  d.onBound r .scatterUpdate fun c k v =>
    let l := k.line
    let n := fieldAt l 20 4
    if v.kind != 1 then d.reject r .accessDenied
    else if v.stateKind != optState (fieldAt l 18 1) then d.reject r .badOperand
    else
      d.late r c [⟨fieldAt l 32 8, n * v.dim * (elemBits (fieldAt l 19 1) / 8), false, 32⟩] fun d k =>
        d.withRemote r k (k.spans c.domain (fieldAt l 24 8) (4 * n)) fun d =>
          let idx := d.array32 c.domain k (fieldAt l 24 8) n
          match badIndex v.rows idx with
          | some i => (d.complete r .badOperand 0 0 (BitVec.ofNat 64 i)).settle
          | none =>
            let work := n * 4 * v.dim
            if !d.dramRoom c.domain work then d.reject r .capacity
            else
              let good := idx.filterMap id
              let rows := sortOrd (fun a b => decide (a < b)) good.eraseDups
              (d.modCmd r fun k => { k with work := work }).begin r (k.scatterPlan c.domain v idx rows) 0
                (BitVec.ofNat 64 (good.length - rows.length)) (BitVec.ofNat 64 v.number.toNat)

/-- Execute SCATTER_UPDATE. -/
def execScatterUpdate (r : SlotRef) (s : State) : Host.Outcome State Fault Refusal := whenLive (devScatterUpdate r) s

/-! ### PUBLISH_TABLE (R209 to R211) -/

/-- A PUBLISH_TABLE of one mode that has its tag, and that has not gone to its table's home. -/
def Dev.onTable (d : Dev) (r : SlotRef) (mode : Nat) (f : Context → Cmd → Nat → Dev) : Dev :=
  d.onReady r .publishTable fun c k => if fieldAt k.line 18 1 = mode then f c k (fieldAt k.line 16 2) else d

/-- PUBLISH_TABLE ends after its one step (R223). -/
def Dev.endTable (d : Dev) (r : SlotRef) (st : Status) (w0 w1 : W32) : Dev :=
  ((d.modCmd r fun k => { k with retired := 1 }).complete r st (BitVec.ofNat 64 w0.toNat) (BitVec.ofNat 64 w1.toNat) 0).settle

/-- It goes to the table's home, with its descriptor (R210); the answer ends it. -/
def Dev.tableAway (d : Dev) (r : SlotRef) (home : Nat) (line desc : List Byte) : Dev :=
  ((d.modCmd r fun k => { k with started := true, retired := 1 }).askStep r .table home r.ctx (line ++ desc)).conclude r |>.settle

/-- A PUBLISH_TABLE is carried out at its table's home (R210): here by `f`, or there. -/
def Dev.atHome (d : Dev) (r : SlotRef) (dom id : Nat) (line desc : List Byte) (f : Dev → Dev × Status × W32 × W32) : Dev :=
  let home := d.tableHome dom id
  if home = d.coll.geoId then
    let (d, st, w0, w1) := f d
    d.endTable r st w0 w1
  else d.tableAway r home line desc

/-- Go on with the descriptor's version and bytes, or BAD_OPERAND; POISONED where its sector is (log 16). -/
def Dev.withDescriptor (d : Dev) (r : SlotRef) (dom : Nat) (k : Cmd) (f : Dev → List Byte → Version → Dev) : Dev :=
  let ss := k.spans dom (fieldAt k.line 32 8) 64
  d.withRemote r k ss fun d =>
    if d.badSpans k ss then d.reject r .poisoned
    else
      let b := d.loadAll k ss
      match versionOf b with
      | none => d.reject r .badOperand
      | some v => f d b v

/-- PUBLISH_TABLE CREATE (R209, R210). -/
def devCreate (r : SlotRef) (d : Dev) : Dev :=
  d.onTable r 1 fun c k id =>
    d.withDescriptor r c.domain k fun d b v => d.atHome r c.domain id k.line b fun d => d.createTable c.domain id v

/-- Execute PUBLISH_TABLE CREATE. -/
def execCreate (r : SlotRef) (s : State) : Host.Outcome State Fault Refusal := whenLive (devCreate r) s

/-- PUBLISH_TABLE PUBLISH_DESCRIPTOR (R203, R209, R210). -/
def devPublishDescriptor (r : SlotRef) (d : Dev) : Dev :=
  d.onTable r 2 fun c k id =>
    d.withDescriptor r c.domain k fun d b v => d.atHome r c.domain id k.line b fun d => d.publishDescriptor c.domain id k.line v

/-- Execute PUBLISH_TABLE PUBLISH_DESCRIPTOR. -/
def execPublishDescriptor (r : SlotRef) (s : State) : Host.Outcome State Fault Refusal := whenLive (devPublishDescriptor r) s

/-- PUBLISH_TABLE PUBLISH_STAGED (R209, R210). -/
def devPublishStaged (r : SlotRef) (d : Dev) : Dev :=
  d.onTable r 3 fun c k id => d.atHome r c.domain id k.line [] fun d => d.publishStaged c.domain id k.line

/-- Execute PUBLISH_TABLE PUBLISH_STAGED. -/
def execPublishStaged (r : SlotRef) (s : State) : Host.Outcome State Fault Refusal := whenLive (devPublishStaged r) s

/-- PUBLISH_TABLE WAIT_RECLAIM (R209 to R211): holds its tag until the target version is gone, which may be at once. -/
def devWaitReclaim (r : SlotRef) (d : Dev) : Dev :=
  d.onTable r 4 fun c k id =>
    let home := d.tableHome c.domain id
    if home = d.coll.geoId then (d.modCmd r fun k => { k with started := true, committed := true, retired := 1 }).settle
    else d.tableAway r home k.line []

/-- Execute PUBLISH_TABLE WAIT_RECLAIM. -/
def execWaitReclaim (r : SlotRef) (s : State) : Host.Outcome State Fault Refusal := whenLive (devWaitReclaim r) s

/-- Whether an access is one that asks a table's home. -/
def asksHome (a : RemoteAccess) : Bool := isStep a && a.index == StepKind.table.code

/-- The wait limit of a WAIT_RECLAIM passes first (R211): DEADLINE_MISSED, and nothing changes; a home elsewhere is asked for the
CURRENT version. -/
def devWaitReclaimLimit (r : SlotRef) (t : Nat) (d : Dev) : Dev :=
  let d := d.atTime t
  match d.ctx? r.ctx, d.cmd? r with
  | some c, some k =>
    let id := fieldAt k.line 16 2
    if cmdVerb k == some .publishTable && fieldAt k.line 18 1 == 4 && k.cut.isNone && decide (k.t0 + fieldAt k.line 28 4 * 1000 ≤ d.now) then
      if k.committed then (d.complete r .deadlineMissed (BitVec.ofNat 64 (d.currentOf c.domain id).toNat) 0 0).settle
      else if (k.remote.any asksHome) && k.raised.isEmpty then
        let d := d.modCmd r fun k => { k with raised := [.deadlineMissed], remote := k.remote.filter fun a => !asksHome a }
        ((d.askStep r .table (d.tableHome c.domain id) r.ctx (slice k.line 0 18 ++ [BitVec.ofNat 8 askCurrent] ++ k.line.drop 19)).conclude r).settle
      else d
    else d
  | _, _ => d

/-- Execute the wait limit of WAIT_RECLAIM. -/
def execWaitReclaimLimit (r : SlotRef) (t : Nat) (s : State) : Host.Outcome State Fault Refusal := whenLive (devWaitReclaimLimit r t) s

/-- PUBLISH_TABLE DELETE (R209, R210). -/
def devTableDelete (r : SlotRef) (d : Dev) : Dev :=
  d.onTable r 5 fun c k id => d.atHome r c.domain id k.line [] fun d => d.deleteTable c.domain id

/-- Execute PUBLISH_TABLE DELETE. -/
def execTableDelete (r : SlotRef) (s : State) : Host.Outcome State Fault Refusal := whenLive (devTableDelete r) s

/-! ### REHANG (R216 to R218) -/

/-- Place the parts of a new version: one span each of the sizes given; an empty part has none. -/
def Dev.placeAll (d : Dev) (r : SlotRef) : List Nat → Option Dev
  | [] => some d
  | 0 :: ns => Dev.placeAll d r ns
  | n :: ns =>
    match d.place n with
    | (some sa, d) => Dev.placeAll ((d.zeroRange sa n).modCmd r fun k => { k with freeing := k.freeing ++ [{ sa := sa, len := n }] }) r ns
    | (none, _) => none

/-- The sizes of a REHANG's parts (R206, R207): its classes, then its remap table, in whole 64 KiB. -/
def Cmd.rehangSizes (k : Cmd) (v : Version) : List Nat :=
  (List.range 3).map (fun i => roundUp (fieldAt k.line (32 + 4 * i) 4 * rowSize 2 (fieldAt k.line (18 + i) 1) v.dim) 65536) ++ [roundUp (4 * v.rows) 65536]

/-- The ranking and the encoding steps of a REHANG (R217, R223); with the last of them the version enters the catalogue. -/
def Cmd.rehangPlan (k : Cmd) (dom : Nat) (v : Version) : List Step :=
  let l := k.line
  let new := k.rehanged v
  let ranks := pieces v.rows 16384
  let rank := ranks.map fun p =>
    { Step.nop with kind := .gallery, reads := k.spans dom (new.popCva + 4 * p.1) (4 * p.2), effects := [.rank p.1 p.2 (p.1 + p.2 == v.rows)] }
  let encode := (List.range new.classes.length).flatMap fun cls =>
    match new.classes[cls]? with
    | none => []
    | some w =>
      let size := rowSize 2 w.format v.dim
      (pieces w.rows (max 1 (65536 / size))).map fun p =>
        { Step.nop with kind := .gallery, free := true, outs := [{ sa := w.sa + p.1 * size, len := p.2 * size }], effects := [.encodeRows cls p.1 p.2] }
  let all := rank ++ encode
  let pruned := v.rows - ((new.classes.map (·.rows)).foldl (· + ·) 0)
  let enter : Effect := .version dom (fieldAt l 16 2) new (lineFlags l == 1) (BitVec.ofNat 32 (fieldAt l 28 4)) ((k.rehangSizes v).foldl (· + ·) 0) pruned
  all.modify (all.length - 1) fun s => { s with free := false, effects := s.effects ++ [enter] }

/-- REHANG (R216, R217). Its store is placed as it begins and freed if it does not finish. -/
def devRehang (r : SlotRef) (d : Dev) : Dev :=
  d.onBound r .rehang fun c k v =>
    let l := k.line
    let pop := (k.rehanged v).popCva
    let sizes := k.rehangSizes v
    let bytes := sizes.foldl (· + ·) 0
    if decide (v.rows < ((List.range 3).map fun i => fieldAt l (32 + 4 * i) 4).foldl (· + ·) 0) || pop == 0 then d.reject r .badOperand
    else if (d.table? c.domain (fieldAt l 16 2)).any fun t => t.home == d.coll.geoId && decide (8 ≤ t.versions.length) then d.reject r .capacity
    else
      d.late r c [⟨pop, 4 * v.rows, false, 48⟩] fun d _ =>
        if !d.dramRoom c.domain bytes then d.reject r .capacity
        else
          match (d.modCmd r fun k => { k with work := bytes }).placeAll r sizes with
          | none => d.reject r .capacity
          | some d =>
            match d.cmd? r with
            | some k => d.begin r (k.rehangPlan c.domain v) 0 0 0
            | none => d

/-- Execute REHANG. -/
def execRehang (r : SlotRef) (s : State) : Host.Outcome State Fault Refusal := whenLive (devRehang r) s

end Sys2Proof.Machine
end

