-- ==== Sys2Proof/Machine/Search.lean ====
section
/-! DEFINITION. Vector search: SEARCH, INSERT, DELETE and COMPACT (chapter 09). -/

namespace Sys2Proof.Machine

/-! ### SEARCH (R233 to R240) -/

/-- A candidate: distance, entry, list and slot. -/
structure Candidate where
  dist : W32
  entry : Entry
  list : Nat
  slot : Nat
deriving DecidableEq, Repr

/-- What one query found. -/
structure QueryFound where
  probes : Nat
  widened : Bool
  scanned : Nat
  passing : List Candidate
  reranked : List Candidate
  results : List Candidate
  lost : Option (Nat × Nat)
  events : NumEvents
deriving DecidableEq, Repr

/-- Whether an entry's attribute word satisfies the filter (R237). -/
def passes (mode : Nat) (mask val : W64) (e : Entry) : Bool :=
  mode == 0 || (mode == 1 && e.attr &&& mask == val) || (mode == 2 && e.attr &&& mask != 0)

/-- The probe count of a query's last round. -/
def SearchRun.probes (run : SearchRun) (i : Nat) : Nat := ((at! run.rounds i []).getLast?.map Prod.snd).getD 0

/-- The snapshot of a list that a run has probed (R242). -/
def SearchRun.snap (run : SearchRun) (n : Nat) : ListSnap := (run.snaps.find? (·.list == n)).getD { list := n, gen := 0, set := 0, len := 0 }

/-- The candidates a query has found in a list (R236, R237): the passing entries below the snapshot's length whose scan
step found them without a tombstone. -/
def Index.found (x : Index) (run : SearchRun) (l : List Byte) (tabs : List (List W32)) (i n : Nat) : List Candidate :=
  let mode := fieldAt l 19 1
  let mask : W64 := BitVec.ofNat 64 (fieldAt l 40 8); let val : W64 := BitVec.ofNat 64 (fieldAt l 48 8)
  let es := (x.body (run.snap n)).2
  (List.range es.length).filterMap fun s => es[s]?.bind fun e =>
    if passes mode mask val e && !(run.dead.contains (i, n, s)) then some { dist := x.pq tabs e.codes, entry := e, list := n, slot := s } else none

/-- The exact distance of a candidate (R239), from its stored vector in the segment set of its list's snapshot, and its events. -/
def Index.exact (x : Index) (run : SearchRun) (q : List W32) (c : Candidate) : Option (Span × W32 × NumEvents) :=
  (x.recordAt (run.snap c.list).set c.entry.locator).map fun g =>
    let v := decodeScaled x.vecFormat x.dim g.2.2.bytes
    let y := distance run.key x.metric x.wide v q
    (x.recordSpan g.1 g.2.1, y, nanEvent (v ++ q) y)

/-- The candidates of query `i` in the order of their PQ distances, as its rounds stand (R235 to R239). -/
def Index.candidates (x : Index) (l : List Byte) (run : SearchRun) (i : Nat) : List Candidate :=
  let q := (queryVector run.key x.metric (at! run.queries i [])).1
  let tabs := x.tables run.key q
  let lists := (at! run.orders i []).take (run.probes i)
  sortOrd (fun a b => nearer (a.dist, a.entry.item.toNat) (b.dist, b.entry.item.toNat)) (lists.flatMap (x.found run l tabs i))

/-- The candidates that are re-ranked (R239). -/
def Index.toRerank (x : Index) (l : List Byte) (run : SearchRun) (i : Nat) : List Candidate := (x.candidates l run i).take (fieldAt l 28 2)

/-- What query `i` has found as its rounds stand (R235 to R239). -/
def Dev.foundOf (d : Dev) (x : Index) (l : List Byte) (run : SearchRun) (i : Nat) : QueryFound :=
  let q := (queryVector run.key x.metric (at! run.queries i [])).1
  let k := fieldAt l 22 2; let rr := fieldAt l 28 2
  let lists := (at! run.orders i []).take (run.probes i)
  let key2 (c : Candidate) : W32 × Nat := (c.dist, c.entry.item.toNat)
  let cands := x.candidates l run i
  let exacts := (cands.take (min rr cands.length)).map fun c => (c, x.exact run q c)
  let lost := exacts.findSome? fun e => match e.2 with
    | some (s, _, _) => if d.poisonedIn s then some (e.1.list, e.1.slot) else none
    | none => none
  let reranked := exacts.filterMap fun e => e.2.map fun v => { e.1 with dist := v.2.1 }
  let best := if rr = 0 then cands else sortOrd (fun a b => nearer (key2 a) (key2 b)) reranked
  { probes := run.probes i, widened := decide (1 < (at! run.rounds i []).length)
    scanned := (lists.map fun n => (run.snap n).len).foldl (· + ·) 0
    passing := cands, reranked := reranked, results := best.take k, lost := lost
    events := exacts.foldl (fun a e => match e.2 with
      | some v => a.plus v.2.2
      | none => a) .none }

/-- What every query has found. -/
def Dev.foundAll (d : Dev) (x : Index) (l : List Byte) (run : SearchRun) : List QueryFound :=
  (List.range run.queries.length).map (d.foundOf x l run)

/-- The record of one query (R240). -/
def QueryFound.record (f : QueryFound) (i k rr : Nat) : List Byte :=
  let odd := (f.passing ++ f.reranked).any fun c => isNan c.dist || isInf c.dist
  let flags := b2n (decide (f.passing.length < k)) + 2 * b2n f.widened + 4 * b2n (decide (0 < rr)) + 8 * b2n odd
  let one (j : Nat) : List Byte := match f.results[j]? with
    | some c => natLe c.entry.item.toNat 8 ++ natLe c.dist.toNat 4 ++ natLe c.list 4
    | none => natLe (2 ^ 64 - 1) 8 ++ natLe 0x7F80_0000 4 ++ natLe (2 ^ 32 - 1) 4
  let body := natLe f.results.length 4 ++ natLe f.probes 4 ++ natLe f.scanned 8 ++ natLe f.passing.length 4 ++ natLe flags 4 ++ natLe i 4 ++
    natLe 0 4 ++ (List.range k).flatMap one
  padTo body 64

/-- Where an index's centroids and codebook lie: behind its heads and map (R232). -/
def Index.centroidSa (x : Index) : Nat := x.metaSa + 32 * x.lists.length + 32 * x.capacity
def Index.codebookSa (x : Index) : Nat := x.centroidSa + 2 * x.lists.length * x.dim

/-- The steps that read centroids for `q` vectors (R250). -/
def Index.coarseSteps (x : Index) (q : Nat) : List Step :=
  (pieces x.lists.length (max 1 (32768 / x.dim))).flatMap fun p =>
    (List.range (ceilDiv q 32)).map fun _ =>
      { Step.nop with kind := .gallery, free := true, reads := [{ sa := x.centroidSa + 2 * x.dim * p.1, len := 2 * x.dim * p.2 }] }

/-- Steps of a gallery without reads, for stages that read nothing. -/
def idleSteps (n : Nat) : List Step := List.replicate n { Step.nop with kind := .gallery, free := true }

/-- The stages of a SEARCH in their order (R235): 0 codebook load, 1 tables, 2 coarse, 3 ranking, 4 its merges, 5 scan and widening,
6 selection, 7 re-ranking, 8 output. The first stages' steps: every gallery that takes part loads the codebook and makes the tables of
every query (R234). -/
def Index.loadSteps (x : Index) (gs : List Nat) : List Step :=
  gs.flatMap fun g => (pieces (2 * x.c * x.dim) 65536).map fun p =>
    { Step.nop with kind := .gallery, free := true, engine := some g, reads := [{ sa := x.codebookSa + p.1, len := p.2 }] }

/-- The tables stage (R235, R250): the queries come in with the first gallery's steps. -/
def Index.tableSteps (x : Index) (gs : List Nat) (dom : Nat) (k : Cmd) : List Step :=
  let qb := x.dim * (elemBits (fieldAt k.line 18 1) / 8)
  (List.range gs.length).flatMap fun i => (pieces (fieldAt k.line 20 2) (max 1 (1048576 / (x.c * x.dim)))).map fun p =>
    { Step.nop with
      kind := .gallery, free := true, engine := gs[i]?
      reads := k.spans dom (fieldAt k.line 32 8 + p.1 * qb) (p.2 * qb), effects := if i = 0 then [.queries p.1 p.2] else [] }

/-- The lists that query `i` probes in round `t` (R235, R238). -/
def SearchRun.probed (run : SearchRun) (t i : Nat) : List Nat :=
  match (at! run.rounds i [])[t]? with
  | some (lo, hi) => ((at! run.orders i []).drop lo).take (hi - lo)
  | none => []

/-- The lists that round `t` probes first have no entries to scan: their snapshots are taken as the round is planned (R242). -/
def SearchRun.snapEmpty (run : SearchRun) (x : Index) (t : Nat) : SearchRun :=
  let lists := ((List.range run.queries.length).flatMap (run.probed t)).eraseDups
  { run with snaps := run.snaps ++ ((lists.filter fun n => !(run.snaps.any (·.list == n))).map x.snapOf).filter fun s => s.len == 0 }

/-- The scan steps of round `t` (R235, R238, R250): list by list, for up to 32 queries that probe it. A list without a snapshot gets one,
and its steps their cut, as the first of them starts (R242). -/
def Index.scanRound (x : Index) (run : SearchRun) (t : Nat) : List Step :=
  (List.range x.lists.length).flatMap fun n =>
    let snap := (run.snaps.find? (·.list == n)).getD (x.snapOf n)
    (chunks 32 ((List.range run.queries.length).filter fun i => (run.probed t i).contains n)).flatMap fun g => x.scanSteps snap g

/-- The queries that widen after a round (R238). -/
def widens (l : List Byte) (f : QueryFound) : Bool :=
  decide (f.passing.length < fieldAt l 22 2) && decide (f.probes < fieldAt l 26 2)

/-- The run with one more round for the queries that widen (R238); a query that does not widen probes nothing more. -/
def SearchRun.widen (run : SearchRun) (l : List Byte) (fs : List QueryFound) : SearchRun :=
  let one (p : List (Nat × Nat) × QueryFound) : List (Nat × Nat) :=
    if widens l p.2 then p.1 ++ [(p.2.probes, min (2 * p.2.probes) (fieldAt l 26 2))] else p.1
  { run with rounds := (run.rounds.zip fs).map one }

/-- The re-ranking steps of a SEARCH (R239, R250): records of one query each. -/
def Index.rerankSteps (x : Index) (l : List Byte) (run : SearchRun) : List Step :=
  (List.range run.queries.length).flatMap fun i =>
    (chunks (max 1 (65536 / roundUp x.recordSize 64)) (x.toRerank l run i)).map fun cs =>
      { Step.nop with
        kind := .gallery, free := true
        reads := cs.filterMap fun c => (x.recordAt (run.snap c.list).set c.entry.locator).map fun g => x.recordSpan g.1 g.2.1 }

/-- The result records of a SEARCH (R240): one for each query, in their order. -/
def searchRecords (l : List Byte) (fs : List QueryFound) : List Byte :=
  (fs.zip (List.range fs.length)).flatMap fun p => p.1.record p.2 (fieldAt l 22 2) (fieldAt l 28 2)

/-- The steps that give a SEARCH's records out, 64 KiB each (R250); the last one counts and raises OK_SHORT. -/
def Cmd.searchOut (k : Cmd) (dom : Nat) (fs : List QueryFound) : List Step :=
  let l := k.line
  let out := fieldAt l 56 8
  let recs := searchRecords l fs
  let short := (fs.filter fun f => decide (f.passing.length < fieldAt l 22 2)).length
  let outs := (pieces recs.length 65536).map fun p =>
    let st := { Step.nop with kind := .gallery, free := true }
    if lineFlags l == 1 then { st with host := [{ addr := out + p.1, bytes := slice recs p.1 p.2 }] }
    else { st with writes := spread (k.spans dom (out + p.1) p.2) (slice recs p.1 p.2) }
  outs.modify (outs.length - 1) fun s => { s with free := false, effects := [.count dom 0xE8 short], raises := if 0 < short then some .okShort else none }

/-- SEARCH (R233 to R235, R252): its stages follow each other, each planned as the one before it is over. -/
def devSearch (r : SlotRef) (d : Dev) : Dev :=
  d.onReady r .search fun c k =>
    let l := k.line
    let qf := fieldAt l 18 1; let qn := fieldAt l 20 2; let np := fieldAt l 24 2; let mp := fieldAt l 26 2
    match d.index? c.domain (fieldAt l 16 2) with
    | none => d.reject r .badOperand
    | some x =>
      if decide (x.lists.length < np) || decide (x.lists.length < mp) ||
          decide (196608 < qn * ceilDiv x.subspaces 32 * x.c * 2) then d.reject r .badOperand
      else
        let qb := x.dim * (elemBits qf / 8)
        let stride := roundUp (32 + 16 * fieldAt l 22 2) 64
        d.late r c (⟨fieldAt l 32 8, qn * qb, false, 32⟩ :: if lineFlags l == 1 then [] else [⟨fieldAt l 56 8, qn * stride, true, 56⟩]) fun d k =>
          let run : SearchRun :=
            { stage := 0, key := d.sumKey c.domain k (k.spans c.domain (fieldAt l 32 8) (qn * qb)), queries := List.replicate qn [], orders := []
              rounds := List.replicate qn [(0, np)], snaps := [], dead := [], done := false }
          (d.modCmd r fun k => { k with search := some run }).begin r (x.loadSteps (d.searchGalleries c.domain (lineVerb l) r.ctx)) 0 0 0

/-- Execute SEARCH. -/
def execSearch (r : SlotRef) (s : State) : Host.Outcome State Fault Refusal := whenLive (devSearch r) s

/-- The rounds of a SEARCH and its re-ranking are over (R235, R239, R252): the records; a record that was lost ends it with
DATA_LOST and no output (R251). All or nothing is written. -/
def Dev.searchEnd (d : Dev) (r : SlotRef) (dom : Nat) (k : Cmd) (x : Index) (run : SearchRun) : Dev :=
  let l := k.line
  let fs := d.foundAll x l run
  let ended : SearchRun := { run with stage := 8, done := true }
  let d := d.countEvents dom (fs.foldl (fun a f => a.plus f.events) .none)
  match fs.findSome? (·.lost) with
  | some (n, slot) =>
    d.modCmd r fun k =>
      { k with search := some ended, lost := some (BitVec.ofNat 64 n, BitVec.ofNat 64 slot, BitVec.ofNat 64 (2 ^ 63 + fieldAt l 16 2)) }
  | none =>
    let short := (fs.filter fun f => decide (f.passing.length < fieldAt l 22 2)).length
    d.modCmd r fun y =>
      { y with search := some ended, plan := k.searchOut dom fs, w0 := BitVec.ofNat 64 short
               w1 := BitVec.ofNat 64 ((fs.map (·.scanned)).foldl (· + ·) 0), w2 := BitVec.ofNat 64 ((fs.map (·.probes)).foldl (· + ·) 0) }

/-- The stage after the one that is over, with its steps (R235, R250): the run, the steps, and the numeric events of what the stage that is
over has computed (R144). -/
def Dev.afterStage (d : Dev) (r : SlotRef) (dom : Nat) (k : Cmd) (x : Index) (run : SearchRun) : SearchRun × List Step × NumEvents :=
  let l := k.line
  let gs := d.searchGalleries dom (lineVerb l) r.ctx
  let qn := run.queries.length
  let q (xs : List W32) : List W32 × NumEvents := queryVector run.key x.metric xs
  let stage (n : Nat) : SearchRun := { run with stage := n }
  let round := (run.rounds.map List.length).foldl max 0
  match run.stage with
  | 0 => (stage 1, x.tableSteps gs dom k, .none)
  | 1 => (stage 2, x.coarseSteps qn, run.queries.foldl (fun a y => (a.plus (q y).2).plus (x.tableEvents run.key (q y).1)) .none)
  | 2 => (stage 3, idleSteps (ceilDiv x.lists.length 16384 * ceilDiv qn 8), run.queries.foldl (fun a y => a.plus (x.coarse run.key (q y).1).2) .none)
  | 3 => (stage 4, idleSteps (ceilDiv qn 8), .none)
  | 4 =>
    let run := { run with stage := 5, orders := run.queries.map fun y => x.ranked run.key (q y).1 }
    (run.snapEmpty x 0, x.scanRound run 0, .none)
  | 5 =>
    let fs := d.foundAll x l run
    if fs.any (widens l) then
      let next := run.widen l fs
      (next.snapEmpty x round, x.scanRound next round, .none)
    else (stage 6, idleSteps (ceilDiv qn 8), .none)
  | _ => (stage 7, x.rerankSteps l run, .none)

/-- A SEARCH with no step left goes on to its next stage, past stages that have no step (R235). A probe count doubles each time (R238), so
that 32 turns reach the end. -/
def Dev.searchOn (d : Dev) (r : SlotRef) (dom : Nat) (x : Index) : Nat → Dev
  | 0 => d
  | n + 1 =>
    match d.cmd? r with
    | none => d
    | some k =>
      match k.search with
      | none => d
      | some run =>
        if hasFailed k then d.modCmd r fun k => { k with search := some { run with done := true } }
        else if run.stage = 7 then d.searchEnd r dom k x run
        else
          let (run, steps, ev) := d.afterStage r dom k x run
          let d := (d.modCmd r fun k => { k with search := some run, plan := steps }).countEvents dom ev
          if steps.isEmpty then Dev.searchOn d r dom x n else d

/-- A SEARCH whose stage is over takes up the next one. -/
def Dev.nextRound (d : Dev) (r : SlotRef) : Dev :=
  match d.ctx? r.ctx, d.cmd? r with
  | some c, some k =>
    match d.index? c.domain (fieldAt k.line 16 2) with
    | some x => if k.searching && k.plan.isEmpty then ((d.searchOn r c.domain x 32).conclude r).settle else d
    | none => d
  | _, _ => d

/-- STEP_RETIRE: an issued step of a running command retires, the one at a place of its plan; `fails` are the sectors whose checks failed
(R84, R397). The last step of a stage of a SEARCH is followed by its next stage (R235). -/
def devStepRetire (r : SlotRef) (i : Nat) (fails : List Nat) (d : Dev) : Dev :=
  if (d.cmd? r).any fun k => k.search.isSome then (d.retireStep r i fails).nextRound r else d.retireStep r i fails

/-- Execute STEP_RETIRE. -/
def execStepRetire (r : SlotRef) (i : Nat) (fails : List Nat) (s : State) : Host.Outcome State Fault Refusal :=
  whenLive (devStepRetire r i fails) s

/-! ### INSERT (R228, R246, R247) -/

/-- The index that an INIT descriptor describes, yet without centroids and codebook (R228). -/
def initIndex (dom : Nat) (o : List Byte) (sa : Nat) : Index :=
  { domain := dom, id := fieldAt o 0 2, dim := fieldAt o 48 2, metric := fieldAt o 50 1, codeFormat := fieldAt o 51 1, subspaces := fieldAt o 52 2
    vecFormat := fieldAt o 54 1, flashOk := fieldAt o 55 1 == 1, capacity := fieldAt o 60 4, metaSa := sa, centroids := [], codebook := []
    lists := List.replicate (fieldAt o 56 4) IList.empty, segments := [], map := [], set := 0, unknown := false }

/-- The steps that insert the vectors of an INSERT (R247, R250): the assignment where it names no lists, then the encoding, each of at most
64 KiB of input, record and entry bytes. -/
def Cmd.insertPlan (k : Cmd) (dom : Nat) (x : Index) : List Step :=
  let o := insertOps k
  let n := fieldAt o 4 4
  let vb := x.dim * (elemBits (fieldAt o 2 1) / 8)
  let moved := vb + 8 + (if fieldAt o 24 8 = 0 then 0 else 8) + (if fieldAt o 32 8 = 0 then 0 else 4) + x.recordSize + x.entrySize
  let per := max 1 (min (1048576 / (x.c * x.dim)) (65536 / moved))
  (if fieldAt o 32 8 = 0 && n != 0 then x.coarseSteps n else []) ++
    (pieces n per).map fun p =>
      { Step.nop with kind := .gallery, reads := (k.insertSpans dom x p.1 p.2).flatten, effects := [.insertItems dom x.id p.1 p.2] }

/-- INSERT with INIT (R228): the centroids and codebook are copied and the index enters ahead of the first step. -/
def Dev.insertInit (d : Dev) (r : SlotRef) (c : Context) (k : Cmd) : Dev :=
  let o := k.desc
  let n := fieldAt o 4 4
  let x := initIndex c.domain o 0
  let cents := k.spans c.domain (fieldAt o 64 8) (2 * x.lists.length * x.dim)
  let book := k.spans c.domain (fieldAt o 72 8) (2 * x.c * x.dim)
  let vb := x.dim * (elemBits (fieldAt o 2 1) / 8)
  if (d.index? c.domain x.id).isSome then d.reject r .badOperand
  else d.late r c (if n = 0 then [] else [⟨fieldAt o 8 8, n * vb, false, 8⟩]) fun d k =>
    match d.takeStore c.domain (roundUp x.metaBytes 65536) with
    | none => d.reject r .capacity
    | some (sa, d) =>
      let span : Span := { sa := sa, len := roundUp x.metaBytes 65536 }
      let d := d.modCmd r fun k => { k with freeing := [span] }
      let copy : Step := { Step.nop with kind := .mover, extra := true, reads := cents ++ book, outs := [span], effects := [.index { x with metaSa := sa }] }
      d.begin r (copy :: k.insertPlan c.domain x) 0 0 (BitVec.allOnes 64)

/-- INSERT (R246, R247): flag [4] INIT, [5] REPLACE. -/
def devInsert (r : SlotRef) (d : Dev) : Dev :=
  d.onReady r .insert fun c k =>
    if lineExt k.line then d.insertInit r c k
    else
      let o := insertOps k
      match d.index? c.domain (fieldAt o 0 2) with
      | none => d.reject r .badOperand
      | some x =>
        d.late r c [⟨fieldAt o 8 8, fieldAt o 4 4 * (x.dim * (elemBits (fieldAt o 2 1) / 8)), false, 24⟩] fun d k =>
          d.begin r (k.insertPlan c.domain x) 0 0 (BitVec.allOnes 64)

/-- Execute INSERT. -/
def execInsert (r : SlotRef) (s : State) : Host.Outcome State Fault Refusal := whenLive (devInsert r) s

/-! ### DELETE (R244, R248) -/

/-- A DELETE of one mode that has its tag and whose index exists. -/
def Dev.onDelete (d : Dev) (r : SlotRef) (mode : Nat) (f : Context → Cmd → Index → Dev) : Dev :=
  d.onReady r .delete fun c k =>
    if fieldAt k.line 18 1 = mode then
      match d.index? c.domain (fieldAt k.line 16 2) with
      | some x => if x.unknown then d.reject r .badOperand else f c k x
      | none => d.reject r .badOperand
    else d

/-- The steps of DELETE ITEMS (R244, R250): 4,096 identifiers each. -/
def Cmd.deleteSteps (k : Cmd) (dom : Nat) (x : Index) : List Step :=
  (pieces (fieldAt k.line 20 4) 4096).map fun p =>
    { Step.nop with reads := k.spans dom (fieldAt k.line 24 8 + 8 * p.1) (8 * p.2), effects := [.deleteItems dom x.id p.1 p.2] }

/-- DELETE ITEMS (R244): up to 4,096 identifiers a step (R250). -/
def devDeleteItems (r : SlotRef) (d : Dev) : Dev :=
  d.onDelete r 1 fun c k x => d.begin r (k.deleteSteps c.domain x) 0 0 0

/-- Execute DELETE ITEMS. -/
def execDeleteItems (r : SlotRef) (s : State) : Host.Outcome State Fault Refusal := whenLive (devDeleteItems r) s

/-- DELETE INDEX (R248): the index is unknown from now on; its store goes with the last command that works on it. -/
def devDeleteIndex (r : SlotRef) (d : Dev) : Dev :=
  d.onDelete r 2 fun c k _ =>
    ((d.modIndex c.domain (fieldAt k.line 16 2) fun x => { x with unknown := true }).modCmd r fun k =>
      { k with started := true, committed := true }).settle

/-- Execute DELETE INDEX. -/
def execDeleteIndex (r : SlotRef) (s : State) : Host.Outcome State Fault Refusal := whenLive (devDeleteIndex r) s

/-! ### COMPACT (R245, R249) -/

/-- A COMPACT of one mode that has its tag. -/
def Dev.onCompact (d : Dev) (r : SlotRef) (mode : Nat) (f : Context → Cmd → Index → Dev) : Dev :=
  d.onReady r .compact fun c k =>
    if fieldAt k.line 18 1 = mode then
      match d.index? c.domain (fieldAt k.line 16 2) with
      | some x => f c k x
      | none => d.reject r .badOperand
    else d

/-- The steps that rewrite one list (R250): a chunk a step, then its records under FULL; the first takes the list's lock, and the swap is in
the last (R241, R245). -/
def Index.rewriteSteps (x : Index) (n : Nat) (full : Bool) : List Step :=
  let l := x.list n
  let chunks := l.chunks.map fun a => { Step.nop with kind := .gallery, reads := [({ sa := a, len := 65536 } : Span)] }
  let recs := if full then l.entries.filterMap fun e => (x.recordAt l.set e.locator).map fun g => x.recordSpan g.1 g.2.1 else []
  let moves := (Machine.chunks (max 1 (65536 / x.recordSize)) recs).map fun ss => { Step.nop with kind := .mover, reads := ss }
  let all := if l.chunks.isEmpty then [{ Step.nop with kind := .gallery }] else chunks ++ moves
  let locked := all.modify 0 fun s => { s with effects := [.lockList x.domain x.id n] }
  locked.modify (all.length - 1) fun s => { s with effects := s.effects ++ [.rewrite x.domain x.id n full] }

/-- COMPACT LISTS (R245, R249): each named list that holds tombstones. -/
def devCompactLists (r : SlotRef) (d : Dev) : Dev :=
  d.onCompact r 1 fun _ k x =>
    let first := fieldAt k.line 20 4; let n := fieldAt k.line 24 4
    let count := if n = 0 then x.lists.length - first else n
    if decide (x.lists.length ≤ first) || decide (x.lists.length < first + count) then d.reject r .badOperand
    else
      let named := ((List.range count).map (· + first)).filter fun i => (x.lists[i]?).any fun l => l.entries.any (·.tomb)
      d.begin r (named.flatMap fun i => x.rewriteSteps i false) 0 0 0

/-- Execute COMPACT LISTS. -/
def execCompactLists (r : SlotRef) (s : State) : Host.Outcome State Fault Refusal := whenLive (devCompactLists r) s

/-- COMPACT SEAL (R249). -/
def devCompactSeal (r : SlotRef) (d : Dev) : Dev :=
  d.onCompact r 2 fun _ _ x => d.begin r [{ Step.nop with effects := [.sealSegment x.domain x.id false] }] 0 0 0

/-- Execute COMPACT SEAL. -/
def execCompactSeal (r : SlotRef) (s : State) : Host.Outcome State Fault Refusal := whenLive (devCompactSeal r) s

/-- COMPACT FULL (R249): a new segment set, then every list with its records in it. -/
def devCompactFull (r : SlotRef) (d : Dev) : Dev :=
  d.onCompact r 3 fun _ _ x =>
    d.begin r ({ Step.nop with effects := [.sealSegment x.domain x.id true] } ::
      (List.range x.lists.length).flatMap fun i => x.rewriteSteps i true) 0 0 0

/-- Execute COMPACT FULL. -/
def execCompactFull (r : SlotRef) (s : State) : Host.Outcome State Fault Refusal := whenLive (devCompactFull r) s

end Sys2Proof.Machine
end

