-- ==== Sys2Proof/Machine/Stream.lean ====
section
/-! DEFINITION. Weight streaming: STREAM, its shadows, deadlines and wait bounds (R275 to R283). -/

namespace Sys2Proof.Machine

/-- A STREAM that has its tag, by whether it builds shadows. -/
def Dev.onStream (d : Dev) (r : SlotRef) (build : Bool) (f : Context → Cmd → Nat → Dev) : Dev :=
  d.onReady r .stream fun c k => if bit (lineFlags k.line) 1 = build then f c k (fieldAt k.desc 0 2) else d

/-- The steps of one layer: its bytes piece by piece, then its status word (R278, R282). -/
def Cmd.layerSteps (k : Cmd) (dom i : Nat) (host : Bool) : List Step :=
  let (src, dst, _, len, _) := streamEntry k.desc i
  let ss := k.spans dom src len
  let moves : List (Span × Nat) :=
    if host then (ss.foldl (fun (acc : List (Span × Nat) × Nat) s => (acc.1 ++ [(s, acc.2)], acc.2 + s.len)) (([] : List (Span × Nat)), dst)).1
    else
      let ds := k.spans dom dst len
      (pairSpans (2 * (ss.length + ds.length)) ss ds).map fun p => (p.1, p.2.sa)
  moves.map (fun m => moveStep i m.1 m.2 host false) ++ [statusStep [i] false]

/-- The layers of a STREAM as it starts (R278). -/
def Cmd.newLayers (k : Cmd) (now n : Nat) : List StreamLayer :=
  (List.range n).map fun i =>
    let (_, _, sh, len, dl) := streamEntry k.desc i
    { bytes := len, shadow := sh, shadowBytes := shadowSize (fieldAt k.desc 3 1) len, deadline := dl, state := .pending, failed := false
      copied := false, time := now, written := 0 }

/-- STREAM without BUILD_SHADOW (R278): every status word PENDING, then layer by layer. -/
def devStream (r : SlotRef) (d : Dev) : Dev :=
  d.onStream r false fun c k n =>
    let host := bit (lineFlags k.line) 0
    let arr := fieldAt k.desc 8 8
    let layers := k.newLayers d.now n
    let words := layers.flatMap fun x => x.word k.t0
    let first := if host then { Step.nop with host := [{ addr := arr, bytes := words }] }
      else { Step.nop with writes := spread (k.spans c.domain arr (16 * n)) words }
    let d := d.modCmd r fun k => { k with layers := layers }
    d.begin r (first :: (List.range n).flatMap fun i => k.layerSteps c.domain i host) 0 0 0

/-- Execute STREAM. -/
def execStream (r : SlotRef) (s : State) : Host.Outcome State Fault Refusal := whenLive (devStream r) s

/-- The shadow steps of a layer (R277, R282): at most 64 KiB of source each, on a gallery. -/
def Cmd.shadowSteps (k : Cmd) (dom i : Nat) : List Step :=
  let (src, _, _, len, _) := streamEntry k.desc i
  (pieces len 65536).map fun p =>
    { Step.nop with
      kind := .gallery, free := true, reads := k.spans dom (src + p.1) p.2, outs := (k.shadowParts dom i p.1 p.2).flatten
      effects := [.shadowPart i p.1 p.2] }

/-- STREAM with BUILD_SHADOW (R277). -/
def devStreamBuildShadow (r : SlotRef) (d : Dev) : Dev :=
  d.onStream r true fun c k n =>
    let layers := k.newLayers d.now n
    let d := d.modCmd r fun k => { k with layers := layers }
    d.begin r ((List.range n).flatMap fun i => k.shadowSteps c.domain i) 0 0 0

/-- Execute STREAM with BUILD_SHADOW. -/
def execStreamBuildShadow (r : SlotRef) (s : State) : Host.Outcome State Fault Refusal := whenLive (devStreamBuildShadow r) s

/-- A running STREAM's layer that is still PENDING at `late` µs after its deadline. -/
def Dev.onLate (d : Dev) (r : SlotRef) (i : Nat) (wait : Bool) (f : Dev) : Dev :=
  match d.cmd? r with
  | none => d
  | some k =>
    match k.layers[i]? with
    | none => d
    | some x =>
      let bound := if wait then fieldAt k.desc 4 4 else 0
      if cmdVerb k == some .stream && !bit (lineFlags k.line) 1 && k.started && k.cut.isNone && x.state == .pending && decide (k.t0 + (x.deadline + bound) * 1000 ≤ d.now) &&
          (fieldAt k.desc 2 1 == 1) == wait then (f.conclude r).settle
      else d

/-- A layer's deadline passes under SHADOW or FAIL (R280); under WAIT the transfer goes on. -/
def devStreamDeadline (r : SlotRef) (layer t : Nat) (d : Dev) : Dev :=
  let d := d.atTime t
  d.onLate r layer false (d.lateLayer r layer false)

/-- Execute the deadline of a layer. -/
def execStreamDeadline (r : SlotRef) (layer t : Nat) (s : State) : Host.Outcome State Fault Refusal := whenLive (devStreamDeadline r layer t) s

/-- The wait bound after a layer's deadline passes under WAIT (R280): MISSED, and the later layers ABANDONED. -/
def devStreamWaitBound (r : SlotRef) (layer t : Nat) (d : Dev) : Dev :=
  let d := d.atTime t
  d.onLate r layer true (d.missLayer r layer false)

/-- Execute the wait bound of a layer. -/
def execStreamWaitBound (r : SlotRef) (layer t : Nat) (s : State) : Host.Outcome State Fault Refusal := whenLive (devStreamWaitBound r layer t) s

end Sys2Proof.Machine
end

