-- ==== Sys2Proof/Machine/FabricVerbs.lean ====
section
/-! DEFINITION. The fabric verbs BULK_GET, BULK_PUT, PUBLISH and INVALIDATE (R375 to R379). -/

namespace Sys2Proof.Machine

/-- The far node, export number and offset of a BULK verb under kind 0x02 (R376). -/
def bulkFar (l : List Byte) : Nat × Nat × Nat := (fieldAt l 34 2, fieldAt l 36 1, fieldAt l 40 8)

/-- Bytes move between two ranges of a domain (R376); ranges that overlap are BAD_OPERAND. -/
def Dev.bulkMove (d : Dev) (r : SlotRef) (src dst : List Span) : Dev :=
  if src.any fun a => dst.any fun b => overlap a.sa a.len b.sa b.len then d.reject r .badOperand
  else d.begin r (moveSteps src dst) 0 0 0

/-- BULK_GET (R376): from a CVA of the domain, or from an export in steps of 64 KiB with one RD each; an answer that is not OK ends
its step with nothing written. -/
def devBulkGet (r : SlotRef) (d : Dev) : Dev :=
  d.onReady r .bulkGet fun c k =>
    let l := k.line
    let len := fieldAt l 24 8
    let dst := fieldAt l 16 8
    if fieldAt l 32 1 = 1 then d.bulkMove r (k.spans c.domain (fieldAt l 40 8) len) (k.spans c.domain dst len)
    else if !d.farPath then d.reject r .targetDead
    else
      let (fid, no, off) := bulkFar l
      d.begin r ((pieces len 65536).map fun p =>
        { Step.nop with
          kind := .mover, free := true, outs := k.spans c.domain (dst + p.1) p.2, w0 := p.2
          effects := [.exportRead fid no (off + p.1) p.2 (dst + p.1)] }) 0 0 0

/-- Execute BULK_GET. -/
def execBulkGet (r : SlotRef) (s : State) : Host.Outcome State Fault Refusal := whenLive (devBulkGet r) s

/-- BULK_PUT (R376): to a CVA of the domain, or to an export in steps of 64 KiB with one WR each. -/
def devBulkPut (r : SlotRef) (d : Dev) : Dev :=
  d.onReady r .bulkPut fun c k =>
    let l := k.line
    let len := fieldAt l 24 8
    let src := fieldAt l 16 8
    if fieldAt l 32 1 = 1 then d.bulkMove r (k.spans c.domain src len) (k.spans c.domain (fieldAt l 40 8) len)
    else if !d.farPath then d.reject r .targetDead
    else
      let (fid, no, off) := bulkFar l
      d.begin r ((pieces len 65536).map fun p =>
        let ss := k.spans c.domain (src + p.1) p.2
        { Step.nop with kind := .mover, free := true, reads := ss, effects := [.exportWrite fid no (off + p.1) ss] }) 0 0 0

/-- Execute BULK_PUT. -/
def execBulkPut (r : SlotRef) (s : State) : Host.Outcome State Fault Refusal := whenLive (devBulkPut r) s

/-- PUBLISH (R377): covered and checked for a failed epoch as RELEASE is, then one compare-and-publish at the home. -/
def devPublish (r : SlotRef) (d : Dev) : Dev :=
  d.onReady r .publish fun c k =>
    if !(covered c k).isEmpty then d
    else if epochFailed c k then d.reject r .priorFailed
    else
      match saOf k.caps c.domain (fieldAt k.line 16 8) with
      | none => d
      | some sa =>
        d.begin r
          [{ Step.nop with
            kind := .atomic
            outs := [{ sa := sa, len := 16 }]
            effects := [.publish sa (BitVec.ofNat 64 (fieldAt k.line 24 8)) (BitVec.ofNat 64 (fieldAt k.line 32 8))] }] 0 0 0

/-- Execute PUBLISH. -/
def execPublish (r : SlotRef) (s : State) : Host.Outcome State Fault Refusal := whenLive (devPublish r) s

/-- Drop this member's stale copies of a range (R378): scope [0] the fabric caches, [1] the domain's PE read caches. -/
def Dev.invalidateHere (d : Dev) (dom scope : Nat) (ss : List Span) : Dev :=
  let d := if bit scope 0 then
      { d with fabCache := d.fabCache.filter fun l => !(l.domain == dom && ss.any fun s => overlap l.addr l.bytes.length s.sa s.len) }
    else d
  if bit scope 1 then d.peInvalidate dom ss else d

/-- INVALIDATE (R378): under ALL_MEMBERS it waits for every live member's acknowledgement. -/
def devInvalidate (r : SlotRef) (d : Dev) : Dev :=
  d.onReady r .invalidate fun c k =>
    let cva := fieldAt k.line 16 8; let len := fieldAt k.line 24 8
    let d := d.invalidateHere c.domain (fieldAt k.line 32 1) (spansOf k.caps c.domain cva len)
    let d := if lineFlags k.line = 1 then
        d.others.foldl (fun d m =>
          if !d.reaches m then d.raise r .targetDead else
          let (tag, d) := d.freshTag
          let d := d.modCmd r fun k =>
            { k with remote := k.remote ++ [{ tag := tag, home := m, sa := 0, len := 1, isWrite := true, since := d.now, index := 0, fetch := none, bytes := [] }] }
          d.sendFab 0x05 (d.fidOf m) c.domain r.ctx tag 0 (BitVec.ofNat 64 cva) (BitVec.ofNat 64 len) [] (some r)) d
      else d
    d.begin r [] 0 0 0

/-- Execute INVALIDATE. -/
def execInvalidate (r : SlotRef) (s : State) : Host.Outcome State Fault Refusal := whenLive (devInvalidate r) s

end Sys2Proof.Machine
end

