-- ==== Sys2Proof/Machine/Host.lean ====
section
/-! DEFINITION. Host CXL.mem accesses and the Dynamic Capacity mailbox: the Registrar's checks (R302), reads and writes at
their home, forwarding (R369), and the commands of R303. -/

namespace Sys2Proof.Machine

/-! ### The Registrar (R302) -/

/-- What the Registrar finds for an access of a host identity at a DPA. -/
inductive Admission where
  | refused
  | fault (dom cva : Nat) (st : Status)
  | admitted (dom : Nat) (e : Extent) (sa : Nat)
deriving DecidableEq, Repr

/-- The checks of R302 after the aperture's: identity, an accepted window, right [1], extent and rights. -/
def Dev.registrar (d : Dev) (host dpa : Nat) (write : Bool) : Admission :=
  if !d.knows host then .refused
  else
    match d.windows.find? fun w => w.host == host && w.accepted && decide (w.dpa ≤ dpa) && decide (dpa < w.dpa + w.len) with
    | none => .refused
    | some w =>
      let cva := w.cva + (dpa - w.dpa)
      if !bit (d.rightsOf host w.domain) 1 then .refused
      else
        match findExtent d.extents w.domain cva with
        | none => .fault w.domain cva .xlateFault
        | some e =>
          if write && !e.rights.writes then .fault w.domain cva .accessDenied
          else .admitted w.domain e ((e.sa + (cva - e.cva)) / 64 * 64)

/-- The answer to a refused read: poison; to a refused write: its completion (R302). -/
def Dev.refuseHost (d : Dev) (a : MemAccess) (write : Bool) (dom : Nat) : Dev :=
  if write then d.emit (.ndr a.port a.host a.dpa 0) else d.toPort a.port dom false 64 none (.memData a.port a.host a.dpa none)

/-- Run an admitted access, or refuse it with its count or fault record (R302). -/
def Dev.admitHost (d : Dev) (a : MemAccess) (write : Bool) (f : Nat → Extent → Nat → Dev) : Dev :=
  match d.registrar a.host a.dpa write with
  | .refused => (d.count (portOff a.port 0x208) 1).refuseHost a write 256
  | .fault dom cva st => (d.accessFault dom 0xFFFF st a.host a.dpa cva a.port).refuseHost a write dom
  | .admitted dom e sa => f dom e sa

/-- Run an admitted read, or refuse it; the Registrar's last check is the shaper's room for the answer (R302, R316). -/
def Dev.admitRead (d : Dev) (i : Instr) (a : MemAccess) (f : Nat → Extent → Nat → Dev) : Dev :=
  match d.registrar a.host a.dpa false with
  | .admitted dom e sa => if d.portFull a.port dom then d.waitRoom i else f dom e sa
  | _ => d.admitHost a false f

/-! ### Reads and writes at the home -/

/-- A line read for a host at this member (R258, R386, R399, R403): held while its granule is only on flash or a sector is
under repair; then data, or poison. -/
def Dev.readLine (d : Dev) (h : HostWait) : Dev :=
  let line : Span := { sa := h.sa, len := 64 }
  if d.underRepair line then
    (sectorsOf line).foldl (fun d sec => if d.repairs.any (·.sector == sec) then d.startRepair sec (.hostRead h) else d) d
  else
    match d.granule? (h.sa / 65536) with
    | some g =>
      if g.residency == .flash then
        d.queueMedia { MediaOp.make .read g.number g.channel h.domain g.block [] with hosts := [h] }
      else
        (d.touch [g.number]).toPort h.a.port h.domain false 64 none (.memData h.a.port h.a.host h.a.dpa (d.lineData h.sa))
    | none => (d.touch [h.sa / 65536]).toPort h.a.port h.domain false 64 none (.memData h.a.port h.a.host h.a.dpa (d.lineData h.sa))

/-- Lines of every PE read cache that hold a written line are invalidated before the write completes (R113). -/
def Dev.peDropLine (d : Dev) (sa : Nat) : Dev :=
  { d with peCache := d.peCache.filter fun l => !overlap l.addr 64 sa 64 }

/-- A line written by a host at this member (R111, R113, R387, R408): held while a sector is under repair. -/
def Dev.writeLine (d : Dev) (h : HostWait) (en : BitVec 64) (data : List Byte) : Dev :=
  let line : Span := { sa := h.sa, len := 64 }
  if d.underRepair line then
    match (sectorsOf line).filter fun sec => d.repairs.any (·.sector == sec) with
    | sec :: _ => d.startRepair sec (.hostWrite h en data)
    | [] => d
  else
    let (d', ts) := ((d.peDropLine h.sa).writeEnabled h.sa en data).parityAfter d.mem h.sa 64 h.domain h.a.host none
    d'.answerAfter hostSource h.a.dpa h.domain ts (.ndr h.a.port h.a.host h.a.dpa 0)

/-! ### Accesses homed elsewhere (R369) -/

/-- The argument of a WR that writes some bytes of one sector (log 27): bit 63, and a bit for each byte of the sector. -/
def enableArg (en : BitVec 64) (half : Nat) : W64 := BitVec.ofNat 64 (2 ^ 63 + bits en.toNat (32 * half + 31) (32 * half))

/-- A host access waits for its home: the tags it awaits, the answer its port gives, and for a write the bytes that its home gets. -/
def Dev.forwarded (d : Dev) (home tag : Nat) (tags : List (Nat × Nat)) (dom : Nat) (m : OutMsg) (got : List (Nat × List Byte)) : Dev :=
  { d with serving := d.serving ++ [{ src := hostSource, tag := tag, home := home, since := d.now, lastHold := d.now, domain := dom, exportNo := none, await := tags, answer := some m, req := none, got := got }] }

/-- The home of a host access cannot be reached (R360, R380): poison or nothing, and a fault record. -/
def Dev.hostDead (d : Dev) (h : HostWait) (write : Bool) : Dev :=
  (d.accessFault h.domain 0xFFFF .targetDead h.a.host h.a.dpa 0 h.a.port).refuseHost h.a write h.domain

/-- A host read goes to its home as an RD. -/
def Dev.forwardRead (d : Dev) (h : HostWait) : Dev :=
  let home := d.homeOf h.sa
  if !d.reaches home then d.hostDead h false
  else
    let (tag, d) := d.freshTag
    (d.forwarded home tag [] h.domain (.memData h.a.port h.a.host h.a.dpa none) [(h.sa, [])]).sendFab 0x01 (d.fidOf home) h.domain 0xFFFF tag 0
      (BitVec.ofNat 64 h.sa) 64 [] none

/-- The enabled bytes of a line, one by one, with their store addresses. -/
def enabledBytes (en : BitVec 64) (sa : Nat) (data : List Byte) : List (Nat × List Byte) :=
  ((List.range 64).filter fun i => en.getLsbD i).map fun i => (sa + i, slice data i 1)

/-- The sectors of a line, 0 and 1, that a host write has bytes of. -/
def writtenHalves (en : BitVec 64) : List Nat := [0, 1].filter fun i => bits en.toNat (32 * i + 31) (32 * i) != 0

/-- One WR for each written sector of a line; the tags awaited. -/
def Dev.sendHalves (d : Dev) (home dom sa : Nat) (en : BitVec 64) (data : List Byte) : Dev × List (Nat × Nat) :=
  (writtenHalves en).foldl (fun (acc : Dev × List (Nat × Nat)) i =>
    let (tag, d) := acc.1.freshTag
    (d.sendFab 0x02 (d.fidOf home) dom 0xFFFF tag 0 (BitVec.ofNat 64 (sa + 32 * i)) (enableArg en i) (slice data (32 * i) 32) none, acc.2 ++ [(tag, home)])) (d, [])

/-- A host write goes to its home as one WR for each of its sectors, which the home writes whole (R111); it completes when all are
acknowledged. Copies in this member's caches follow it (R113, R370). -/
def Dev.forwardWrite (d : Dev) (h : HostWait) (en : BitVec 64) (data : List Byte) : Dev :=
  let home := d.homeOf h.sa
  if !d.reaches home then d.hostDead h true
  else if (writtenHalves en).isEmpty then d.emit (.ndr h.a.port h.a.host h.a.dpa 0)
  else
    let ws := enabledBytes en h.sa data
    let d := d.peDropLine h.sa
    let d := { d with fabCache := d.fabCache.map fun (l : CacheLine) => if overlap l.addr 256 h.sa 64 then ws.foldl (fun (l : CacheLine) (w : Nat × List Byte) => l.over w.1 w.2) l else l }
    let (d, tags) := d.sendHalves home h.domain h.sa en data
    d.forwarded home hostSource tags h.domain (.ndr h.a.port h.a.host h.a.dpa 0) ws

/-! ### HDM_READ and HDM_WRITE -/

/-- Whether CXL.mem accesses on a port are served (R424, R454). -/
def Dev.servesMem (d : Dev) (port : Nat) : Bool := d.portUp port && d.admits

/-- An admitted read: of a vitrine line it passes its order point without recording the reader (R336, log 34). -/
def Dev.hostRead (d : Dev) (h : HostWait) (vitrine : Bool) (fails : List Nat) : Dev :=
  if !d.isLocal h.sa then d.forwardRead h
  else
    let bad := fails.filter fun sec => (sectorsOf { sa := h.sa, len := 64 }).contains sec
    let d := bad.foldl (fun d sec => d.startRepair sec (if vitrine then .patrol else .hostRead h)) d
    if vitrine then d.vitArrive (h.sa / 64) h.domain (.snpCur h.a.port h.a.host h.a.dpa)
    else if bad.isEmpty then d.readLine h else d

/-- HDM_READ (R302): `fails` are the sectors of the line whose check fails. -/
def devHdmRead (a : MemAccess) (fails : List Nat) (d : Dev) : Dev :=
  if !d.servesMem a.port then d
  else if a.dpa < 0x1000_0000 then devSlotRead a.port a.host a.dpa d
  else d.admitRead (.hdmRead a fails) a fun dom e sa => d.hostRead { a := a, domain := dom, sa := sa } (e.rights == .vitrine) fails

/-- Execute HDM_READ. -/
def execHdmRead (a : MemAccess) (fails : List Nat) (s : State) : Host.Outcome State Fault Refusal :=
  whenLive (onTraffic (.hdmRead a fails) a.port (devHdmRead a fails)) s

/-- Whether a write covers part of a sector, whose old bytes it must read (R387). -/
def halfPart (en : BitVec 64) (half : Nat) : Bool :=
  let bs := (List.range 32).map fun i => en.getLsbD (32 * half + i)
  bs.any id && !bs.all id

/-- The sectors of a line that a write covers in part and whose check fails. -/
def failingParts (h : HostWait) (en : BitVec 64) (fails : List Nat) : List Nat :=
  ([0, 1].filter fun i => halfPart en i && fails.contains (h.sa / 32 + i)).map fun i => h.sa / 32 + i

/-- A line written by a host at this member: the old bytes of a sector whose check fails are repaired first (R387). -/
def Dev.writeHome (d : Dev) (h : HostWait) (en : BitVec 64) (data : List Byte) (fails : List Nat) : Dev :=
  match failingParts h en fails with
  | [] => d.writeLine h en data
  | sec :: rest => (rest.foldl (fun d x => d.startRepair x .patrol) d).startRepair sec (.hostWrite h en data)

/-- A write passes the order point of its vitrine line (R336); the line's repairs end before it is served (R399). -/
def Dev.writeOrdered (d : Dev) (h : HostWait) (en : BitVec 64) (data : List Byte) (fails : List Nat) : Dev :=
  ((failingParts h en fails).foldl (fun d x => d.startRepair x .patrol) d).vitArrive (h.sa / 64) h.domain (.write h.a.port h.a.host h.a.dpa en data)

/-- An admitted write: vitrine lines pass their order point (R336). -/
def Dev.hostWrite (d : Dev) (h : HostWait) (vitrine : Bool) (en : BitVec 64) (data : List Byte) (fails : List Nat) : Dev :=
  if !d.isLocal h.sa then d.forwardWrite h en data
  else if vitrine then d.writeOrdered h en data fails
  else d.writeHome h en data fails

/-- HDM_WRITE (R302): a write in the aperture is a submission line (R65). -/
def devHdmWrite (a : MemAccess) (en : BitVec 64) (data : List Byte) (fails : List Nat) (d : Dev) : Dev :=
  if !d.servesMem a.port then d
  else if a.dpa < 0x1000_0000 then
    (devSubmissionLine { port := a.port, host := a.host, offset := a.dpa, enables := en, data := data } d).emit (.ndr a.port a.host a.dpa 0)
  else d.admitHost a true fun dom e sa => d.hostWrite { a := a, domain := dom, sa := sa } (e.rights == .vitrine) en data fails

/-- Execute HDM_WRITE. -/
def execHdmWrite (a : MemAccess) (enables : BitVec 64) (data : List Byte) (fails : List Nat) (s : State) :
    Host.Outcome State Fault Refusal :=
  whenLive (onTraffic (.hdmWrite a enables data fails) a.port (devHdmWrite a enables data fails)) s

/-! ### Dynamic Capacity (R303) -/

/-- Whether a mailbox command of a host identity on a port is served. -/
def Dev.mailboxOk (d : Dev) (port host : Nat) : Bool := d.servesMem port && d.knows host

/-- ADD_DYNAMIC_CAPACITY_RESPONSE (R291, R303): the first response to an Add Capacity event. It names the accepted part of
the event's range, none with a length of 0: the oldest event then. The whole range admits the window; less rejects it. -/
def devAddDynamicCapacityResponse (port host dpa len : Nat) (d : Dev) : Dev :=
  if !d.mailboxOk port host then d
  else
    let named (e : DcEvent) : Bool := e.host == host && e.add && !e.answered &&
      (len == 0 || (decide (e.dpa ≤ dpa) && decide (dpa + len ≤ e.dpa + e.len)))
    match d.dcEvents.find? named with
    | none => d.emit (.mailbox port [])
    | some e =>
      let keep (d : Dev) : Dev :=
        { d with dcEvents := if e.retrieved then d.dcEvents.erase e else replaceFirst (· == e) { e with answered := true } d.dcEvents }
      let d := (keep d).emit (.mailbox port [])
      match d.windows.find? fun w => w.host == host && w.dpa == e.dpa && w.len == e.len && !w.accepted with
      | none => d
      | some w =>
        if dpa = e.dpa && len = e.len then
          { d with windows := replaceFirst (· == w) { w with accepted := true } d.windows }
        else
          let d := { d with windows := d.windows.filter (· != w) }.fault (.domain w.domain) 0x08 none w.domain 0xFFFF 0 host w.dpa w.cva w.region
          if len = 0 then d
          else (d.postEvent { e with add := false, forced := true, dpa := dpa, len := len, answered := false, retrieved := false }).eventIrqs

/-- Execute ADD_DYNAMIC_CAPACITY_RESPONSE. -/
def execAddDynamicCapacityResponse (port host dpa len : Nat) (s : State) : Host.Outcome State Fault Refusal :=
  whenLive (onTraffic (.addDynamicCapacityResponse port host dpa len) port (devAddDynamicCapacityResponse port host dpa len)) s

/-- RELEASE_DYNAMIC_CAPACITY (R303): the window that holds the DPA goes as under UNMAP WITHDRAW; the extent stays. -/
def devReleaseDynamicCapacity (port host dpa : Nat) (d : Dev) : Dev :=
  if !d.mailboxOk port host then d
  else
    let d := d.emit (.mailbox port [])
    match d.windows.find? fun w => w.host == host && w.accepted && decide (w.dpa ≤ dpa) && decide (dpa < w.dpa + w.len) with
    | none => d
    | some w => ((d.dropWindow w false).evictLines (d.cachedBy [w])).settle

/-- Execute RELEASE_DYNAMIC_CAPACITY. -/
def execReleaseDynamicCapacity (port host dpa : Nat) (s : State) : Host.Outcome State Fault Refusal :=
  whenLive (onTraffic (.releaseDynamicCapacity port host dpa) port (devReleaseDynamicCapacity port host dpa)) s

/-- GET_DYNAMIC_CAPACITY_EXTENT_LIST (R303): the start and length of each accepted window of the view, by rising DPA
(log 33). -/
def devGetDynamicCapacityExtentList (port host : Nat) (d : Dev) : Dev :=
  if !d.mailboxOk port host then d
  else
    let ws := sortOrd (fun (a b : Window) => decide (a.dpa < b.dpa)) (d.windows.filter fun w => w.host == host && w.accepted)
    d.emit (.mailbox port (ws.flatMap fun w => natLe w.dpa 8 ++ natLe w.len 8))

/-- Execute GET_DYNAMIC_CAPACITY_EXTENT_LIST. -/
def execGetDynamicCapacityExtentList (port host : Nat) (s : State) : Host.Outcome State Fault Refusal :=
  whenLive (onTraffic (.getDynamicCapacityExtentList port host) port (devGetDynamicCapacityExtentList port host)) s

/-- EVENT_RETRIEVAL (R303): the oldest event of the view leaves its log; an Add event waits on for its response. -/
def devEventRetrieval (port host : Nat) (d : Dev) : Dev :=
  if !d.mailboxOk port host then d
  else
    match d.dcEvents.find? fun e => e.host == host && !e.retrieved with
    | none => d.emit (.mailbox port [])
    | some e =>
      { d with dcEvents := if e.add && !e.answered then replaceFirst (· == e) { e with retrieved := true } d.dcEvents
                           else d.dcEvents.erase e }.emit (.mailbox port e.record)

/-- Execute EVENT_RETRIEVAL. -/
def execEventRetrieval (port host : Nat) (s : State) : Host.Outcome State Fault Refusal :=
  whenLive (onTraffic (.eventRetrieval port host) port (devEventRetrieval port host)) s

end Sys2Proof.Machine
end

