-- ==== Sys2Proof/Machine/Loss.lean ====
section
/-! DEFINITION. Whose data a sector of the store holds, and what the loss of a sector ends: sessions, index entries, and the
command whose step reads it (R170, R172, R225, R251, R281, R400, R402). -/

namespace Sys2Proof.Machine

/-! ### Whose data a sector holds -/

/-- Whether a sector lies in one of the spans. -/
def sectorIn (sec : Nat) (ss : List Span) : Bool := ss.any fun s => overlap (sec * 32) 32 s.sa s.len

/-- The blocks whose frame or summary holds a sector: a block homed elsewhere has an entry for each reference. -/
def Dev.sectorBlocks (d : Dev) (sec : Nat) : List Block := d.blocks.filter fun b => !b.freeing && sectorIn sec [b.frame, b.summary]

/-- The contexts whose session's intake, block tables or codebook holds a sector. -/
def Dev.sectorSessions (d : Dev) (sec : Nat) : List Context :=
  d.ctxs.filter fun c => c.session.any fun s => s.stateSa != 0 && sectorIn sec [⟨s.stateSa, s.stateBytes⟩]

/-- The index that holds a sector. -/
def Dev.sectorIndex (d : Dev) (sec : Nat) : Option Index := d.indexes.find? fun x => sectorIn sec x.spans

/-- The domain that owns a sector (R404). -/
def Dev.sectorOwner (d : Dev) (sec : Nat) : Option Nat :=
  let extent := (d.extents.find? fun e => sectorIn sec [⟨e.sa, e.len⟩]).map (·.domain)
  let block := (d.sectorBlocks sec).head?.map (·.domain)
  let session := (d.ctxs.find? fun c => c.session.any fun s => sectorIn sec s.spans).map (·.domain)
  let landing := (d.landings.find? fun x => sectorIn sec [⟨x.sa, x.len⟩]).map (·.domain)
  let table := (d.tables.find? fun t => t.versions.any fun v => sectorIn sec v.spans).map (·.domain)
  let vit := d.image.bind fun i => (i.vitrine.find? fun v => sectorIn sec [⟨v.base, v.len⟩]).map (·.domain)
  (((((extent.orElse fun _ => block).orElse fun _ => session).orElse fun _ => landing).orElse fun _ => table).orElse fun _ => (d.sectorIndex sec).map (·.domain)).orElse fun _ => vit

/-! ### Index entries and records (R251) -/

/-- An entry of a list's current or retained body, at its place. -/
structure EntryAt where
  list : Nat
  slot : Nat
  retained : Bool
  set : Nat
  sa : Nat
  entry : Entry
deriving DecidableEq, Repr

/-- The entries of an index, those of retained bodies after the current ones. -/
def Index.places (x : Index) : List EntryAt :=
  let of (l set : Nat) (old : Bool) (chunks : List Nat) (es : List Entry) : List EntryAt :=
    es.zipIdx.map fun e => { list := l, slot := e.2, retained := old, set := set, sa := (x.entrySpan chunks e.2).sa, entry := e.1 }
  let ls := x.lists.zipIdx
  (ls.flatMap fun l => of l.2 l.1.set false l.1.chunks l.1.entries) ++
    ls.flatMap fun l => l.1.retained.elim [] fun b => of l.2 l.1.set true b.1 b.2

/-- The entries whose bytes lie in a sector. -/
def Index.entriesAt (x : Index) (sec : Nat) : List EntryAt := x.places.filter fun e => sectorIn sec [⟨e.sa, x.entrySize⟩]

/-- The record of an entry. -/
def Index.recordOf (x : Index) (e : EntryAt) : Option (Segment × Nat × VecRecord) :=
  (x.recordAt e.set e.entry.locator).orElse fun _ => x.segments.findSome? fun g => x.recordAt g.set e.entry.locator

/-- The place that a DATA_LOST of class 0x05 names for a sector, and whether a record is lost: an entry in it, else the first entry
whose record is; none for a sector that holds neither. -/
def Index.lostPlace (x : Index) (sec : Nat) : Option (Nat × Nat × Bool) :=
  match x.entriesAt sec with
  | e :: _ => some (e.list, e.slot, false)
  | [] => x.places.findSome? fun e => (x.recordOf e).bind fun g => if sectorIn sec [x.recordSpan g.1 g.2.1] then some (e.list, e.slot, true) else none

/-- An entry is lost (R251): its tombstone bit is set and its identifier leaves the map. One of a retained body, which only running
searches read, loses its own tombstone bit alone (log 115). -/
def Index.loseEntry (x : Index) (e : EntryAt) : Index :=
  let kill (es : List Entry) : List Entry := es.modify e.slot fun z => { z with tomb := true }
  if e.retained then { x with lists := x.lists.modify e.list fun l => { l with retained := l.retained.map fun b => (b.1, kill b.2) } }
  else
    match x.map.find? fun m => m.item == e.entry.item && m.list == e.list && m.slot == e.slot with
    | some m => x.bury m
    | none => { x with lists := x.lists.modify e.list fun l => { l with entries := kill l.entries } }

/-- The index entries of a lost sector are lost. -/
def Dev.loseEntries (d : Dev) (sec : Nat) : Dev :=
  match d.sectorIndex sec with
  | none => d
  | some x => (x.entriesAt sec).foldl (fun d e => d.modIndex x.domain x.id fun y => y.loseEntry e) d

/-! ### KV (R170) -/

/-- What a lost sector ends of the KV store: each block in it, and from position 0 each session whose intake, tables or codebook lie in it. -/
def Dev.loseKv (d : Dev) (sec : Nat) : Dev :=
  let d := (d.sectorBlocks sec).foldl (fun d b => d.loseBlock b) d
  (d.sectorSessions sec).foldl (fun d c => d.loseSession c.num 0) d

/-! ### The command whose step reads it (R402) -/

/-- A DATA record in a domain's area (R413). -/
def Dev.dataFault (d : Dev) (dom ctx : Nat) (seq : W32) (host d0 d1 d2 : Nat) : Dev :=
  d.fault (.domain dom) 0x03 (some .dataLost) dom ctx seq host d0 d1 d2

/-- The CVA of a sector through the extents a command captured. -/
def Cmd.cvaOf (k : Cmd) (sec : Nat) : Nat :=
  match k.caps.find? fun e => sectorIn sec [⟨e.sa, e.len⟩] with
  | some e => e.cva + (max (sec * 32) e.sa - e.sa)
  | none => 0

/-- What a step reads and what it writes, with what it finds as it runs. -/
def Dev.stepReads (d : Dev) (r : SlotRef) (k : Cmd) (st : Step) : List Span := st.reads ++ (d.found r k st).reads
def Dev.stepWrites (d : Dev) (r : SlotRef) (k : Cmd) (st : Step) : List Span := st.written ++ (d.found r k st).writes

/-- The bytes of a sector that a step reads or writes (R402). -/
def Dev.bytesIn (d : Dev) (r : SlotRef) (k : Cmd) (st : Step) (sec : Nat) : Nat :=
  unionBytes (((d.stepReads r k st ++ d.stepWrites r k st).filter fun s => sectorIn sec [s]).map fun s => s.clip (sec * 32) 32)

/-- The first row of a command's version that a sector holds bytes of (R225). -/
def Dev.lostRow (d : Dev) (r : SlotRef) (k : Cmd) (sec : Nat) : Option Nat :=
  k.version.bind fun v => (List.range v.rows).find? fun i => let a := d.rowAt (d.domainOf r) k v i; sectorIn sec (a.remap ++ a.spans ++ d.stateSpans (d.domainOf r) v i)

/-- The less of two, where there are two. -/
def leastOf (a b : Option Nat) : Option Nat :=
  match a, b with
  | some x, some y => some (min x y)
  | some x, none => some x
  | none, y => y

/-- The result words of a command that a lost sector ends: by class (R172, R225, R251), else R402's. Where the spec states no value
for a word it is free (log 44). -/
def Dev.lostWords (d : Dev) (r : SlotRef) (k : Cmd) (n sec : Nat) : W64 × W64 × W64 :=
  let free := Config.freeNat d.draws
  let old := k.lost.elim 0 fun w => w.2.1.toNat
  let before := k.lost.map fun w => w.1.toNat
  let plain : W64 × W64 × W64 := (BitVec.ofNat 64 ((leastOf before (some (k.cvaOf sec))).getD free), BitVec.ofNat 64 (old + n), 0)
  match lineVerb k.line / 256 with
  | 0x03 =>
    match d.session? r.ctx with
    | some s => d.kvLostWords r.ctx s (s.lostFrom.getD free)
    | none => (BitVec.ofNat 64 free, BitVec.ofNat 64 (Config.freeNat (d.draws + 1)), BitVec.ofNat 64 (Config.freeNat (d.draws + 2)))
  | 0x04 => (BitVec.ofNat 64 ((leastOf before (d.lostRow r k sec)).getD free), BitVec.ofNat 64 (old + n), 0)
  | 0x05 =>
    match d.sectorIndex sec with
    | some x =>
      match x.lostPlace sec with
      | some p => (BitVec.ofNat 64 p.1, BitVec.ofNat 64 p.2.1, BitVec.ofNat 64 (x.id + b2n p.2.2 * 2 ^ 63))
      | none => (BitVec.ofNat 64 free, BitVec.ofNat 64 (Config.freeNat (d.draws + 1)), BitVec.ofNat 64 x.id)
    | none => plain
  | _ => plain

/-- Whether this member writes the record of a lost sector (R402, R409): it is the sector's home, or the home is lost. -/
def Dev.recordsLoss (d : Dev) (sec : Nat) : Bool := d.isLocal (sec * 32) || d.coll.lost.getLsbD (d.homeOf (sec * 32))

/-- The DATA record of a sector that a command loses (R251, R402, R413). -/
def Dev.lostRecord (d : Dev) (r : SlotRef) (dom : Nat) (k : Cmd) (sec n : Nat) : Dev :=
  match (if lineVerb k.line / 256 = 5 then (d.sectorIndex sec).bind fun x => (x.lostPlace sec).map fun p => (x.id, p) else none) with
  | some (id, p) => d.dataFault dom r.ctx (lineSeq k.line) k.host (sec * 32) (id * 2 ^ 32 + p.1) p.2.1
  | none => d.dataFault dom r.ctx (lineSeq k.line) k.host (sec * 32) (k.cvaOf sec) n

/-- A step writes nothing derived from what it cannot read (R400): it goes, or stays without an effect while other repairs hold it. -/
def Dev.emptyStep (d : Dev) (r : SlotRef) (st : Step) : Dev :=
  let held := d.repairs.any fun x => x.waiters.contains (.step r st.num)
  if !held then d.dropSteps r (·.num == st.num)
  else
    let bare : Step := { Step.nop with num := st.num, parked := st.parked, reads := st.reads, outs := st.outs, free := true, extra := true }
    (d.unlockStep r st).modCmd r fun k => { k with plan := k.plan.map fun (s : Step) => if s.num == st.num then bare else s }

/-- A command's step loses a sector (R402): the command ends with DATA_LOST once its issued steps have retired. A step that only
writes the sector in part goes on (R387), and so do the other rows of a SCATTER_UPDATE's step (R225); a layer of STREAM is served or
missed by its policy (R281). A DATA record is written, at the sector's home. -/
def Dev.loseStep (d : Dev) (r : SlotRef) (num sec : Nat) : Dev :=
  match d.ctx? r.ctx, d.cmd? r with
  | some c, some k =>
    match (k.plan.take k.issued).find? (·.num == num) with
    | none => d
    | some st =>
      let n := d.bytesIn r k st sec
      let d := if d.recordsLoss sec then d.lostRecord r c.domain k sec n else d
      match st.sourceOf? with
      | some i => ((d.sourceFailed r i .dataLost).conclude r).settle
      | none =>
        let w := d.lostWords r k n sec
        let d := { d with draws := d.draws + 3 }.modCmd r fun k => { k with lost := some w }
        let reads := sectorIn sec (d.stepReads r k st) && cmdVerb k != some .scatterUpdate
        ((if reads then d.emptyStep r st else d).conclude r).settle
  | _, _ => d

/-- A command that is still being decoded loses a sector of its descriptor. -/
def Dev.loseCommand (d : Dev) (r : SlotRef) (sec : Nat) : Dev :=
  match d.ctx? r.ctx, d.cmd? r with
  | some c, some k =>
    let d := if d.recordsLoss sec then d.lostRecord r c.domain k sec 32 else d
    (d.complete r .dataLost (BitVec.ofNat 64 (k.cvaOf sec)) 32 0).settle
  | _, _ => d

/-- A command loses a sector homed on another member (R402): its sessions learn what they lost (R170), and each issued step that
reads the sector loses it. -/
def Dev.loseRemote (d : Dev) (r : SlotRef) (sec : Nat) : Dev :=
  let d := d.loseKv sec
  match d.slot? r, d.cmd? r with
  | some s, some k =>
    if s.state == .waiting || !k.started then d.loseCommand r sec
    else ((k.plan.take k.issued).filter fun st => sectorIn sec (d.stepReads r k st ++ d.stepWrites r k st)).foldl (fun d st => d.loseStep r st.num sec) d
  | _, _ => d

end Sys2Proof.Machine
end

