-- ==== Sys2Proof/Machine/FabOps.lean ====
section
/-! DEFINITION. Fabric requests at their home: arrival and the gateway, what a request may act on, reads, writes, atomics,
publications, and the STEP messages of this model's firmware (R304, R356, R363, R364, R367, R369 to R374). -/

namespace Sys2Proof

open Sys2Proof.Machine

/-- EXPORT, HOST and the export number of a request's flags (R363). -/
def FabMsg.export? (m : FabMsg) : Bool := m.flags.getLsbD 0
def FabMsg.host? (m : FabMsg) : Bool := m.flags.getLsbD 1
def FabMsg.exportNo (m : FabMsg) : Nat := bits m.flags.toNat 13 8

/-- The length an RD asks for (R364). -/
def FabMsg.rdLen (m : FabMsg) : Nat := bits m.arg.toNat 16 0

/-- The status a response carries (R363); a code R95 does not list is taken as TARGET_DEAD. -/
def FabMsg.status (m : FabMsg) : Status := (Status.ofCode m.flags.toNat).getD .targetDead

/-- Whether an RD or WR may cross a FAR link (R373): whole aligned 256-byte units, at most 64 KiB, or a read within one unit. -/
def FabMsg.farOk (type : Nat) (m : FabMsg) : Bool :=
  let a := m.address.toNat % 256
  let whole (n : Nat) : Bool := a == 0 && n % 256 == 0 && decide (0 < n) && decide (n ≤ 65536)
  match type with
  | 0x01 => whole m.rdLen || (m.rdLen != 0 && decide (a + m.rdLen ≤ 256))
  | 0x02 => whole m.payload.length
  | _ => true

/-- The forms that a WR between members takes beside its plain one (log 27): a parity delta, whose argument is one above the parity
index; some bytes of one sector, bit 63 and a byte mask; poison for one sector, without a payload. -/
def FabMsg.plainWr (m : FabMsg) : Bool := m.export? || m.host? || (m.arg == 0 && !m.payload.isEmpty)

/-- The kind of a STEP message, and its 8-byte arguments. -/
def FabMsg.stepKind (m : FabMsg) : Option StepKind := StepKind.ofCode (fieldAt m.payload 0 8)
def FabMsg.stepArg (m : FabMsg) (i : Nat) : Nat := fieldAt m.payload (8 + 8 * i) 8

/-- An 8-byte word of an answer to a STEP message. -/
def FabMsg.word (m : FabMsg) (i : Nat) : Nat := fieldAt m.payload (8 * i) 8

end Sys2Proof

namespace Sys2Proof.Machine

/-! ### Arrival (R356, R364, R373) -/

/-- Whether a link is up. -/
def Dev.linkUp (d : Dev) (l : Nat) : Bool := d.upLinks.contains l

/-- This node's own FID. -/
def Dev.ownFid (d : Dev) : Nat := d.fidOf d.coll.geoId

/-- A message dropped under R364 or R373 is counted at its link (R382). -/
def Dev.dropMsg (d : Dev) (m : FabMsg) : Dev := d.count ((Block29.link m.link).base + 0x630) 1

/-- The response type of a request (R364). -/
def rspOf (type : Nat) : Nat := 0x80 + type

/-- A gateway passes a message on toward its destination (R373). -/
def Dev.passOn (d : Dev) (type : Nat) (m : FabMsg) (address arg : W64) (payload : List Byte) : Dev :=
  d.sendFabFrom m.src type m.dst m.domain m.ctx m.tag m.flags address arg payload none

/-- An answer of this node to a request, without payload. -/
def Dev.deny (d : Dev) (type : Nat) (m : FabMsg) (st : Status) : Dev :=
  d.sendFab (rspOf type) m.src m.domain m.ctx m.tag (BitVec.ofNat 16 st.code) 0 0 [] none

/-- A message for another node (R373): a gateway carries EXPORT reads and writes of whole 256-byte units, a narrower read
as the unit that contains it, and the answers; it denies other writes and atomics, and drops the rest. -/
def Dev.relay (d : Dev) (type : Nat) (m : FabMsg) : Dev :=
  let a := m.address.toNat
  let whole (n : Nat) : Bool := a % 256 == 0 && n % 256 == 0 && decide (0 < n) && decide (n ≤ 65536)
  if !(d.links.any fun l => l.far && l.state == .up) then d.dropMsg m
  else if type = 0x01 && m.export? then
    if whole m.rdLen then d.passOn type m m.address m.arg []
    else if m.rdLen != 0 && decide (a % 256 + m.rdLen ≤ 256) then
      let keep : FabService :=
        { src := m.src, tag := m.tag, home := farHome m.dst, since := d.now, lastHold := d.now, domain := m.domain, exportNo := none, await := [(m.tag, farHome m.dst)], answer := none, req := some (type, m), got := [] }
      { d with serving := d.serving ++ [keep] }.passOn type m (BitVec.ofNat 64 (a / 256 * 256)) 256 []
    else d.deny type m .accessDenied
  else if type = 0x02 && m.export? then
    if whole m.payload.length then d.passOn type m m.address m.arg m.payload else d.deny type m .accessDenied
  else if type = 0x03 then d.deny type m .accessDenied
  else if type = 0x81 || type = 0x82 || type = 0x8F then
    match d.serving.find? fun x => type == 0x81 && x.src == m.dst && x.tag == m.tag && x.home == farHome m.src with
    | some x =>
      let (off, len) := match x.req with
        | some (_, q) => (q.address.toNat % 256, q.rdLen)
        | none => (0, 256)
      { d with serving := d.serving.erase x }.passOn type m m.address m.arg (slice m.payload off len)
    | none => d.passOn type m m.address m.arg m.payload
  else d.dropMsg m

/-- Whether a message comes from this collection's group. -/
def Dev.fromGroup (d : Dev) (m : FabMsg) : Bool := m.src / 16 == d.field 0x7000 31 20

/-- A message arrives: on a link that is up, for this node or to be relayed; one that came over a FAR link must be of the
kinds and sizes R373 carries; a member declared lost is answered FENCED (R356); members are heard in a formed collection. -/
def Dev.arrive (d : Dev) (type : Nat) (m : FabMsg) (f : Dev → Dev) : Dev :=
  let far := d.links.any fun l => l.index == m.link && l.far
  let carried := ((type == 0x01 || type == 0x02) && m.export?) || type == 0x81 || type == 0x82 || type == 0x8F
  if !d.linkUp m.link then d
  else
  let d := d.ackSome m.link
  if m.dst != d.ownFid then d.relay type m
  else if far && !carried then (if type = 0x03 then d.deny type m .accessDenied else d.dropMsg m)
  else if far && !m.farOk type then d.deny type m .accessDenied
  else if d.fromGroup m then (if d.coll.state == .formed then d.fromMember (m.src % 16) f else d)
  else f d

/-! ### What a request reaches (R302, R304, R374) -/

/-- Whether extents cover a store range from `sa` on (fuel: their number and one more). -/
def saCovered (es : List Extent) : Nat → Nat → Nat → Bool
  | 0, _, _ => false
  | fuel + 1, sa, len =>
    match es.find? fun e => decide (e.sa ≤ sa) && decide (sa < e.sa + e.len) with
    | none => false
    | some e => if sa + len ≤ e.sa + e.len then true else saCovered es fuel (e.sa + e.len) (sa + len - (e.sa + e.len))

/-- Whether a range lies inside one of the spans. -/
def insideOf (ss : List Span) (sa len : Nat) : Bool := ss.any fun s => decide (s.sa ≤ sa) && decide (sa + len ≤ s.sa + s.len)

/-- Store of a domain on this member that no extent maps and that other members read (R158, R166, R173, R207; log 11): KV blocks,
sessions and their logs, rehanged versions. -/
def Dev.innerSpans (d : Dev) (dom : Nat) : List Span :=
  ((d.blocks.filter fun b => b.domain == dom && d.isLocal b.frameSa).flatMap fun b => [b.frame, b.summary]) ++
    ((d.ctxs.filter (·.domain == dom)).flatMap fun c => c.session.elim [] Session.spans) ++
    (d.tables.filter (·.domain == dom)).flatMap fun t => t.versions.flatMap Version.spans

/-- Store that this member has given to another (log 11). -/
def Dev.lentSpans (d : Dev) (fid dom : Nat) : List Span :=
  (d.landings.filter fun x => x.domain == dom && d.fidOf x.member == fid).map fun x => ⟨x.sa, x.len⟩

/-- What a request may act on: a status that denies it; nothing, for a host's refused access (R302); or store spans of a
domain, through an export or not. -/
inductive FabTarget where
  | deny (st : Status)
  | void
  | spans (dom : Nat) (ss : List Span) (exp : Option Nat)
deriving DecidableEq, Repr

/-- A CVA range of a domain with the checks of R293. -/
def Dev.rangeTarget (d : Dev) (dom cva len : Nat) (write : Bool) (exp : Option Nat) : FabTarget :=
  match cover d.extents dom cva len with
  | .error _ => .deny .xlateFault
  | .ok es => if write && es.any (fun e => !e.rights.writes) then .deny .accessDenied else .spans dom (d.liveSpans dom cva len) exp

/-- What an access of `len` bytes reaches: an export (R374; the message names no exporting domain: the first export of
that number that admits the peer, log 35), an agent's view (R302, R374), or the domain's replicated extents (R304). -/
def Dev.target (d : Dev) (m : FabMsg) (len : Nat) (write : Bool) : FabTarget :=
  let a := m.address.toNat
  if m.export? then
    match d.exports.find? fun x => x.number == m.exportNo && !x.clearing && m.src / 16 == x.peerGroup && (x.anyDomain || m.domain == x.peerDomain) with
    | none => .deny .accessDenied
    | some x =>
      if !bit x.rights (b2n write) || decide (x.len < a + len) then .deny .accessDenied
      else d.rangeTarget x.domain (x.cva + a) len write (some x.number)
  else if m.host? then
    if !(d.agentsOf m.ctx).contains m.src then .deny .accessDenied
    else
      match d.registrar m.ctx a write, d.registrar m.ctx (a + len - 1) write with
      | .admitted dom e sa, .admitted dom' _ _ =>
        if dom = dom' then d.rangeTarget dom (e.cva + (sa - e.sa) + a % 64) len write none else .void
      | _, _ => .void
  else if (d.domainRec m.domain).isNone then .deny .accessDenied
  else
    let es := d.extents.filter (·.domain == m.domain)
    let s : Span := { sa := a, len := len }
    let lent := d.fromGroup m && insideOf (d.lentSpans m.src m.domain ++ if write then [] else d.innerSpans m.domain) a len
    if lent then .spans m.domain [s] none
    else if !saCovered es (es.length + 1) a len then .deny .xlateFault
    else if write && !saCovered (es.filter (·.rights.writes)) (es.length + 1) a len then .deny .accessDenied
    else .spans m.domain [s] none

/-- A member's or agent's refused access is recorded for its domain (R302, R413). -/
def Dev.denyFault (d : Dev) (m : FabMsg) (st : Status) : Dev :=
  let host := if m.host? then m.ctx else 0xFFFF
  match (if m.host? then d.registrar m.ctx m.address.toNat true else .refused) with
  | .fault dom cva st => d.accessFault dom 0xFFFF st host m.address.toNat cva (256 + m.link)
  | _ =>
    if m.export? || m.host? || (d.domainRec m.domain).isNone || !(st == .xlateFault || st == .accessDenied) then d
    else d.accessFault m.domain m.ctx st host m.address.toNat 0 (256 + m.link)

/-! ### Serving (R367, R369, R371) -/

/-- An answer leaves on the queue of the domain it served; WR_ACK and INV_ACK do not pass the shaper (R314). -/
def Dev.sendBack (d : Dev) (dom : Nat) (x : OutMsg) : Dev :=
  match x with
  | .fabric type dst _ _ _ _ _ _ _ payload =>
    match d.route dst with
    | (some l, d) =>
      if type = 0x82 ∨ type = 0x85 then d.sendNow l x
      else d.enqueue { kind := .zherek, index := l } (if dom = 0xFFFF then 256 else dom) (granulesFor 256 payload.length true none d.now (some x))
    | (none, _) => d
  | _ => d.emit x

/-- The entry of `serving` for a request that arrives now. -/
def Dev.service (d : Dev) (m : FabMsg) (dom : Nat) (exp : Option Nat) : FabService :=
  { src := m.src, tag := m.tag, home := d.coll.geoId, since := d.now, lastHold := d.now, domain := dom, exportNo := exp, await := [], answer := none, req := none, got := [] }

/-- The answer to a request: kept for 1 ms(L) (R367), sent at once or after the writes it awaits (R408). -/
def Dev.respond (d : Dev) (type : Nat) (m : FabMsg) (dom : Nat) (exp : Option Nat) (ts : List (Nat × Nat)) (st : Status)
    (address arg : W64) (payload : List Byte) : Dev :=
  let x : OutMsg := .fabric (rspOf type) m.src d.ownFid m.domain m.ctx m.tag (BitVec.ofNat 16 st.code) address arg payload
  let d := { d with serving := d.serving ++ [{ d.service m dom exp with await := ts, answer := some x }] }
  if ts.isEmpty then d.sendBack dom x else d

/-- A failing answer. -/
def Dev.fail (d : Dev) (type : Nat) (m : FabMsg) (st : Status) : Dev := (d.denyFault m st).respond type m m.domain none [] st 0 0 []

/-- Whether a request must wait for a line that a host holds (R337). -/
def Dev.mustHold (d : Dev) (ss : List Span) (write : Bool) : Bool :=
  ss.any fun s => (d.vitLines s).any fun l => (d.dir l).any fun e => write || e.state == .modified

/-- A request is kept until what it waits for has come; its lines' snoops are queued (R335, R337). -/
def Dev.keepReq (d : Dev) (type : Nat) (m : FabMsg) (dom : Nat) (exp : Option Nat) (ss : List Span) (write : Bool)
    (got : List (Nat × List Byte)) : Dev :=
  let d := { d with serving := d.serving ++ [{ d.service m dom exp with req := some (type, m), got := got }] }
  let ls := ss.flatMap fun s => (d.vitLines s).filter fun l => (d.dir l).any fun e => write || e.state == .modified
  ls.foldl (fun d l =>
    if d.vitTxns.any fun t => t.line == l && t.req == .fabric m.src m.tag write then d
    else d.vitArrive l dom (.fabric m.src m.tag write)) d

/-- A request of an export or agent for store homed on another member: its pieces are read there first; those of a lost member are
decoded, and free here (R409, log 11). None where the request is answered, or kept until they have come. -/
def Dev.fetchFor (d : Dev) (type : Nat) (m : FabMsg) (dom : Nat) (exp : Option Nat) (ss : List Span) : Dev × Option (List (Nat × List Byte)) :=
  if ss.any fun s => !d.reaches (d.homeOf s.sa) then (d.fail type m .targetDead, none)
  else if ss.any fun s => !d.homeServes s.sa s.len && !d.canDecode s.sa s.len then (d.respond type m dom exp [] .dataLost 0 0 [], none)
  else
    let ask (acc : Dev × List (Nat × Nat) × List (Nat × List Byte)) (s : Span) : Dev × List (Nat × Nat) × List (Nat × List Byte) :=
      let (d, ts, got) := acc
      let (tag, d) := d.freshTag
      let home := d.homeOf s.sa
      if d.homeServes s.sa s.len then
        (d.sendFab 0x01 (d.fidOf home) dom 0xFFFF tag 0 (BitVec.ofNat 64 s.sa) (BitVec.ofNat 64 s.len) [] none, ts ++ [(tag, home)], got ++ [(tag, [])])
      else ({ d with draws := d.draws + 1 }, ts, got ++ [(tag, freeBytes d.draws s.len)])
    let (d, tags, got) := ss.foldl ask (d, [], [])
    if tags.isEmpty then (d, some got)
    else ({ d with serving := d.serving ++ [{ d.service m dom exp with await := tags, req := some (type, m), got := got }] }, none)

/-- The key, among what has come for a request, of a sector that was lost while the request waited (R399, R402). -/
def lostKey (sec : Nat) : Nat := 2 ^ 61 + sec

/-- The granules of a request's spans that only flash holds and whose read has not been delivered to it (R257). -/
def Dev.coldOf (d : Dev) (ss : List Span) (got : List (Nat × List Byte)) : List Nat :=
  ((ss.flatMap granulesOf).eraseDups).filter fun g => !(got.any (·.1 == farKey g)) && (d.granule? g).any (·.residency == .flash)

/-- Queue the flash reads that a request waits for (R257, log 98). -/
def Dev.askCold (d : Dev) (m : FabMsg) (gs : List Nat) : Dev :=
  gs.foldl (fun d g =>
    match d.granule? g with
    | none => d
    | some x => d.queueMedia { MediaOp.make .read g x.channel x.domain x.block [] with fabs := [(m.src, m.tag)] }) d

/-- A granule that a request waited for has been read for it. -/
def Dev.delivered (d : Dev) (src tag g : Nat) : Dev :=
  { d with serving := modifyAll (fun (x : FabService) => x.src == src && x.tag == tag) (fun x => { x with got := x.got ++ [(farKey g, [])] }) d.serving }

/-- Run a request on this member's spans of it once nothing holds it: sectors that fail their check or are under repair (R399), whose
old bytes a write reads where it covers them in part (R387); lines that hosts hold (R337); granules that only flash holds (R257). -/
def Dev.gate (d : Dev) (type : Nat) (m : FabMsg) (dom : Nat) (exp : Option Nat) (ss : List Span) (fails : List Nat)
    (got : List (Nat × List Byte)) (f : Dev → Dev) : Dev :=
  let here := ss.filter fun s => d.isLocal s.sa
  let write := type != 0x01
  let bad := fails.filter fun sec => sectorIn sec here && (!write || partly here sec)
  let held := (bad ++ d.repairsIn here).eraseDups
  if !held.isEmpty then (held.foldl (fun d sec => d.startRepair sec (.request m.src m.tag)) d).keepReq type m dom exp here write got
  else if d.mustHold here write then d.keepReq type m dom exp here write got
  else if !(d.coldOf here got).isEmpty then (d.askCold m (d.coldOf here got)).keepReq type m dom exp here write got
  else f d

/-- Whether a sector of a request's spans was lost while the request waited. -/
def lostIn (ss : List Span) (got : List (Nat × List Byte)) : Bool :=
  got.any fun g => decide (lostKey 0 ≤ g.1) && sectorIn (g.1 - lostKey 0) ss

/-- The bytes of spans: this member's, and in order the data fetched for the others. -/
def Dev.gather (d : Dev) (ss : List Span) (got : List (Nat × List Byte)) : List Byte :=
  (ss.foldl (fun (acc : List Byte × List (Nat × List Byte)) s =>
    if d.isLocal s.sa then (acc.1 ++ memRead d.mem s.sa s.len, acc.2)
    else
      match acc.2 with
      | (_, b) :: t => (acc.1 ++ b, t)
      | [] => acc) ([], got)).1

/-- RD at the home (R369). -/
def Dev.serveRd (d : Dev) (m : FabMsg) (fails : List Nat) (got : List (Nat × List Byte)) : Dev :=
  let len := m.rdLen
  if len = 0 ∨ 65536 < len then d.fail 0x01 m .badOperand
  else
    match d.target m len false with
    | .deny st => d.fail 0x01 m st
    | .void => d.respond 0x01 m 256 none [] .poisoned 0 0 []
    | .spans dom ss exp =>
      let here := ss.filter fun s => d.isLocal s.sa
      let far := ss.filter fun s => !d.isLocal s.sa
      let data := got.filter fun g => decide (g.1 < farKey 0)
      match (if !far.isEmpty && data.isEmpty then d.fetchFor 0x01 m dom exp far else (d, some data)) with
      | (d, none) => d
      | (d, some data) =>
        d.gate 0x01 m dom exp ss fails (data ++ got.filter fun g => decide (farKey 0 ≤ g.1)) fun d =>
          if lostIn here got then d.respond 0x01 m dom exp [] .dataLost 0 0 []
          else if d.poisonedAny here then d.respond 0x01 m dom exp [] .poisoned 0 0 []
          else (d.touch (here.flatMap granulesOf)).respond 0x01 m dom exp [] .ok 0 0 (d.gather ss data)

/-- A write of a served request to this member's store, with the acknowledgements it awaits (R408). -/
def putNoted (dom ctx : Nat) (d : Dev) (sa : Nat) (bs : List Byte) : Dev × List (Nat × Nat) :=
  (d.write sa bs).parityAfter d.mem sa bs.length dom ctx none

/-- Bytes written to a lost member's store (R409): the old value is decoded, and free here (log 11), and the live parity homes get what
changes; what is awaited. -/
def Dev.writeLost (d : Dev) (dom ctx sa : Nat) (bs : List Byte) (r : Option SlotRef) : Dev × List (Nat × Nat) :=
  let delta := (bs.zip (freeBytes d.draws bs.length)).map fun p => p.1 ^^^ p.2
  { d with draws := d.draws + 1 }.deltasFor (d.homeOf sa) (Machine.homeOf d.groupWidth sa).2 dom ctx delta r

/-- Write bytes over spans: here, with their parity deltas, or at another home by WR; what is awaited. -/
def Dev.putSpans (d : Dev) (dom ctx : Nat) (ss : List Span) (bs : List Byte) : Dev × List (Nat × Nat) :=
  let step (acc : Dev × List (Nat × Nat) × List Byte) (s : Span) : Dev × List (Nat × Nat) × List Byte :=
    let (d, ts, rest) := acc
    let b := rest.take s.len
    if d.isLocal s.sa then
      let (d', t) := putNoted dom ctx d s.sa b
      (d', ts ++ t, rest.drop s.len)
    else if !d.homeServes s.sa s.len then
      let (d', t) := d.writeLost dom ctx s.sa b none
      (d', ts ++ t, rest.drop s.len)
    else
      let home := d.homeOf s.sa
      let (tag, d) := d.freshTag
      (d.sendFab 0x02 (d.fidOf home) dom ctx tag 0 (BitVec.ofNat 64 s.sa) 0 b none, ts ++ [(tag, home)], rest.drop s.len)
  let (d, ts, _) := ss.foldl step (d, [], bs)
  (d, ts)

/-- Lines of every PE read cache that a host's write touches are invalidated before it completes (R113). -/
def Dev.peDropSpans (d : Dev) (ss : List Span) : Dev :=
  { d with peCache := d.peCache.filter fun l => !(ss.any fun s => overlap l.addr 64 s.sa s.len) }

/-- The bytes of a WR to spans, and what is awaited. -/
def Dev.takeWr (d : Dev) (m : FabMsg) (dom : Nat) (ss : List Span) : Dev × List (Nat × Nat) :=
  let a := m.address.toNat
  if m.plainWr then d.putSpans dom m.ctx ss m.payload
  else if m.payload.isEmpty then (d.poisonSector (a / 32), [])
  else
    let line := a / 64 * 64
    let en : BitVec 64 := BitVec.ofNat 64 (bits m.arg.toNat 31 0 * 2 ^ (a % 64))
    (d.writeEnabled line en (List.replicate (a % 64) 0 ++ m.payload ++ List.replicate 32 0)).parityAfter d.mem line 64 dom m.ctx none

/-- WR at the home (R369, R372, R387, R408). -/
def Dev.serveWr (d : Dev) (m : FabMsg) (fails : List Nat) (got : List (Nat × List Byte)) : Dev :=
  if !m.plainWr && m.arg != 0 && !m.arg.getLsbD 63 then (d.addParity m.address.toNat m.payload).respond 0x02 m m.domain none [] .ok 0 0 []
  else
    match d.target m (if m.plainWr then m.payload.length else 32) true with
    | .deny st => d.fail 0x02 m st
    | .void => (d.denyFault m .ok).respond 0x02 m 256 none [] .ok 0 0 []
    | .spans dom ss exp =>
      let whole : List Span := if m.plainWr then ss else if m.payload.isEmpty then [] else [⟨m.address.toNat + 1, 1⟩]
      if ss.any fun s => !d.isLocal s.sa && (!d.reaches (d.homeOf s.sa) || (!d.homeServes s.sa s.len && !d.canDecode s.sa s.len)) then
        d.fail 0x02 m .targetDead
      else
        d.gate 0x02 m dom exp whole fails got fun d =>
          let (d', ts) := (if m.host? then d.peDropSpans ss else d).takeWr m dom ss
          d'.respond 0x02 m dom exp ts (if lostIn ss got then .dataLost else .ok) 0 0 []

/-- The store address of an atomic or a PUB of `w` bytes at this home, its domain; none where it is refused. -/
def Dev.wordTarget (d : Dev) (m : FabMsg) (w : Nat) : Except Status (Nat × Nat) :=
  if m.export? then .error .accessDenied
  else
    match d.target m w true with
    | .deny st => .error st
    | .spans dom [s] _ => if !d.isLocal s.sa then .error .accessDenied else if s.sa % w = 0 then .ok (dom, s.sa) else .error .badOperand
    | _ => .error .accessDenied

/-- Run an atomic or a PUB on its word, which nothing holds and which reads good. -/
def Dev.onWord (d : Dev) (type : Nat) (m : FabMsg) (w : Nat) (fails : List Nat) (got : List (Nat × List Byte)) (f : Dev → Nat → Nat → Dev) : Dev :=
  match d.wordTarget m w with
  | .error st => d.fail type m st
  | .ok (dom, sa) =>
    let s : Span := { sa := sa, len := w }
    d.gate type m dom none [s] fails got fun d =>
      if lostIn [s] got then d.respond type m dom none [] .dataLost 0 0 []
      else if d.poisonedIn s then d.respond type m dom none [] .poisoned 0 0 []
      else f d dom sa

/-- ATOM at the home's atomic unit (R105, R108, R369); one on a row that another member's command has locked waits (R220, R222). -/
def Dev.serveAtom (d : Dev) (m : FabMsg) (fails : List Nat) (got : List (Nat × List Byte)) : Dev :=
  let b := m.payload
  let x := fieldAt b 8 8; let cmp := fieldAt b 16 8; let op := fieldAt b 24 1; let w := fieldAt b 25 1
  if b.length != 32 || !atomicOk op w then d.fail 0x03 m .badOperand
  else
    d.onWord 0x03 m w fails got fun d dom sa =>
      if d.rowLocked m.src sa w then d.keepReq 0x03 m dom none [] true got
      else
        let d := if m.host? then d.peDropSpans [⟨sa, w⟩] else d
        let cur := leNat (memRead d.mem sa w)
        let (new, wrote) := atomicResult op w cur (x % 2 ^ (8 * w)) (cmp % 2 ^ (8 * w))
        let (d, ts) := if wrote then putNoted dom m.ctx d sa (natLe new w) else (d, [])
        (d.countNan dom op cur x).respond 0x03 m dom none ts .ok (if op = 0x0D ∧ wrote then 1 else 0) (BitVec.ofNat 64 cur) []

/-- PUB at the record's home (R377). -/
def Dev.servePub (d : Dev) (m : FabMsg) (fails : List Nat) (got : List (Nat × List Byte)) : Dev :=
  if m.payload.length != 32 then d.fail 0x04 m .badOperand
  else
    d.onWord 0x04 m 16 fails got fun d dom sa =>
      let d := if m.host? then d.peDropSpans [⟨sa, 16⟩] else d
      let (st, bs, w0, w1) := publishResult (leNat (memRead d.mem sa 8)) (leNat (memRead d.mem (sa + 8) 8)) (fieldAt m.payload 0 8) (fieldAt m.payload 8 8)
      let (d, ts) := bs.elim (d, []) fun b => putNoted dom m.ctx d sa b
      d.respond 0x04 m dom none ts st (BitVec.ofNat 64 w0) (BitVec.ofNat 64 w1) []

/-- INV on the receiver (R378): the message has no scope, and lines of both caches go (log 36). -/
def Dev.serveInv (d : Dev) (m : FabMsg) : Dev :=
  let cva := m.address.toNat; let len := m.arg.toNat
  let ss := (d.extents.filter fun e => e.touches m.domain cva len).map fun e => e.part cva len
  (d.invalidateHere m.domain 3 ss).respond 0x05 m m.domain none [] .ok 0 0 []

/-! ### STEP (R166, R167, R210, R364; the payloads are this model's firmware's, log 11) -/

/-- The answer to a STEP message: a status and 8-byte words. -/
def Dev.stepAnswer (d : Dev) (m : FabMsg) (st : Status) (words : List Nat) : Dev := d.respond 0x06 m m.domain none [] st 0 0 (stepArgs words)

/-- A STEP message waits here. -/
def Dev.stepWait (d : Dev) (m : FabMsg) : Dev := d.keepReq 0x06 m m.domain none [] true []

/-- Store is given to another member: none without room. -/
def Dev.giveStore (d : Dev) (m : FabMsg) (front n : Nat) (moves : Bool) : Dev :=
  if moves && !d.dramRoom m.domain n then d.stepAnswer m .capacity []
  else
    match d.place n with
    | (none, d) => d.stepAnswer m .capacity []
    | (some sa, d) =>
      let x : Landing := { member := m.src % 16, domain := m.domain, front := front, ctx := m.ctx, sa := sa, len := n, moves := moves, accepted := false }
      { d with landings := d.landings ++ [x] }.stepAnswer m .ok [sa]

/-- The store given to a member at an address. -/
def Dev.landingAt (d : Dev) (m : FabMsg) (sa : Nat) : Option Landing := d.landings.find? fun x => x.domain == m.domain && d.fidOf x.member == m.src && x.sa == sa

/-- The slot of a context that a forwarded command takes: a FREE one, or one more. -/
def Context.guestSlot (c : Context) : Nat := ((List.range c.slots.length).find? fun i => (c.slots[i]?).any fun s => s.state == .free && s.cmd.isNone).getD c.slots.length

/-- A context that stands here for one that another member fronts. -/
def Dev.needGuest (d : Dev) (num dom : Nat) : Dev := if (d.ctx? num).isSome then d else { d with ctxs := d.ctxs ++ [Context.guest num dom] }

/-- A forwarded command begins here as a command of its front member's context (R166): NOT_OWNER where its session is not this member's (R167). -/
def Dev.serveRun (d : Dev) (m : FabMsg) : Dev :=
  let base := m.stepArg 0
  let line := slice m.payload 24 64
  let front := m.src % 16
  let key := if Verb.ofCode (lineVerb line) == some .fork then (fieldAt line 18 1, fieldAt line 16 2) else (front, m.ctx)
  let home := d.ctxNum key.1 key.2
  match (d.ctx? home).bind fun c => c.session.map fun s => (c, s) with
  | none => d.sendLedger front 6 m.domain key.2 d.coll.geoId key.1 key.1 0
  | some (hc, s) =>
    if !(s.claimed && d.owns s) then d.sendLedger front 6 m.domain key.2 d.coll.geoId key.1 key.1 0
    else if hc.domain != m.domain then d.stepAnswer m .accessDenied []
    else if m.stepArg 1 != 0 && (d.landingAt m base).isNone then d.stepAnswer m .badOperand []
    else
      let num := guestNum front m.ctx
      let d := d.needGuest num m.domain
      let desc := memRead d.mem base (m.stepArg 1)
      let k : Cmd :=
        { Cmd.fresh 0 0xFFFF d.order line d.now with
          desc := desc, caps := stagingCaps m.domain base (stagedRanges (some s.geom) line desc).1, guest := some (m.src, m.tag) }
      let i := ((d.ctx? num).map Context.guestSlot).getD 0
      let put (c : Context) : Context := { c with slots := (if i < c.slots.length then c.slots else c.slots ++ [Slot.fresh]).modify i fun _ => Slot.take .waiting .none line (some k) }
      Dev.settle { d.modCtx num put with order := d.order + 1, serving := d.serving ++ [{ d.service m m.domain none with await := [(guestTag, 0)] }] }

/-- A reference to a block homed here goes up or down for another member (R158, R159, R161): the answer says whether it has reached 0. -/
def Dev.serveRefs (d : Dev) (m : FabMsg) : Dev :=
  match d.blocks.find? fun b => b.domain == m.domain && b.summarySa == m.stepArg 1 && d.isLocal b.frameSa && !b.freeing with
  | none => d.stepAnswer m .badOperand []
  | some b =>
    let up := m.stepArg 0 == 1
    let d := (d.refBlock b.id up).modBlock b.id fun b => if up then { b with sealed := true } else b
    (d.stepAnswer m .ok [b2n ((d.block? b.id).any (·.freeing))]).settle

/-- Another member's command is told to end what runs here for it (R91). -/
def Dev.serveCut (d : Dev) (m : FabMsg) : Dev :=
  let rs := d.slotsWhere fun _ s => s.cmd.any fun k => k.guest == some (m.src, m.stepArg 0)
  (rs.foldl (fun d r => d.abortOne r) (d.stepAnswer m .ok [])).settle

/-- Where the log of a session fronted here lies, who owns it, and whether it is claimed (R158). -/
def Dev.serveLog (d : Dev) (m : FabMsg) : Dev :=
  match d.ctx? m.ctx with
  | none => d.stepAnswer m .badOperand []
  | some c =>
    if c.domain != m.domain then d.stepAnswer m .accessDenied []
    else
      match c.session with
      | none => d.stepAnswer m .badOperand []
      | some s => d.stepAnswer m .ok [s.logSa, if d.owns s then d.coll.geoId else s.owner, b2n s.claimed]

/-- A PUBLISH_TABLE that was sent to the table's home (R210). -/
def Dev.serveTable (d : Dev) (m : FabMsg) : Dev :=
  match d.tableStep m.domain (slice m.payload 8 64) (m.payload.drop 72) with
  | (d, some (st, w0, w1)) => (d.stepAnswer m st [w0.toNat, w1.toNat]).settle
  | (d, none) => d.stepWait m

/-- STEP at its receiver. -/
def Dev.serveStep (d : Dev) (m : FabMsg) : Dev :=
  let a := m.stepArg
  if !d.fromGroup m then d.fail 0x06 m .accessDenied
  else
    match m.stepKind with
    | none => d.stepAnswer m .noVerb []
    | some .run => d.serveRun m
    | some .stage => d.giveStore m (m.src % 16) (a 0) false
    | some .unstage => (((d.landingAt m (a 0)).elim d d.dropLanding).stepAnswer m .ok []).settle
    | some .move =>
      let old := d.landings.filter fun x => x.moves && !x.accepted && x.domain == m.domain && x.front == a 0 && x.ctx == m.ctx
      (old.foldl (fun d x => d.dropLanding x) d).giveStore m (a 0) (a 1) true
    | some .refs => d.serveRefs m
    | some .cut => d.serveCut m
    | some .log => d.serveLog m
    | some .lock =>
      if d.rowLocks.any fun x => overlap x.sa x.len (a 0) (a 1) then d.stepWait m
      else Dev.stepAnswer { d with rowLocks := d.rowLocks ++ [{ fid := m.src, sa := a 0, len := a 1 }] } m .ok []
    | some .unlock => (Dev.grantLocks { d with rowLocks := d.rowLocks.filter fun x => !(x.fid == m.src && x.sa == a 0) }).stepAnswer m .ok []
    | some .table => d.serveTable m
    | some .bind =>
      (match d.bindFor m.src m.domain (a 0) (a 1) with
       | (d, .ok v) => d.respond 0x06 m m.domain none [] .ok 0 0 v.record
       | (d, .error st) => d.stepAnswer m st [])
    | some .unbind => ((d.unbindFor m.src m.domain (a 0) (BitVec.ofNat 32 (a 1))).stepAnswer m .ok []).settle
    | some .enter =>
      let (d, st, n, old) := d.admitVersion m.domain (a 0) (versionOfRecord (m.payload.drop 48)) (a 1 == 1) (BitVec.ofNat 32 (a 2))
      (d.stepAnswer m st [n.toNat, old.toNat, a 3, a 4]).settle
    | some .free => (d.freeVersion m.domain (a 0) (a 1)).stepAnswer m .ok []
    | some .count => (if d.isLocal (a 0) then d.addCount (a 0) else d).stepAnswer m .ok []

/-! ### Requests -/

/-- Serve a request. -/
def Dev.serveReq (d : Dev) (type : Nat) (m : FabMsg) (fails : List Nat) (got : List (Nat × List Byte)) : Dev :=
  match type with
  | 0x01 => d.serveRd m fails got
  | 0x02 => d.serveWr m fails got
  | 0x03 => d.serveAtom m fails got
  | 0x04 => d.servePub m fails got
  | 0x05 => d.serveInv m
  | _ => d.serveStep m

/-- Requests kept here whose wait may be over are tried again (R335, R399). -/
def Dev.serveWaiting (d : Dev) : Dev :=
  let ready := d.serving.filter fun x => x.req.isSome && x.await.isEmpty && x.answer.isNone && decide (x.home < 16)
  ready.foldl (fun d x =>
    match x.req with
    | some (type, m) =>
      let late := { d with serving := d.serving.erase x }.serveReq type m [] x.got
      { late with serving := late.serving.map fun y => if y.src == x.src && y.tag == x.tag && y.req.isSome then { y with since := x.since, lastHold := x.lastHold } else y }
    | none => d) d

/-- A request that waited for a sector learns that it was lost (R402). -/
def Dev.requestLost (d : Dev) (src tag sec : Nat) : Dev :=
  { d with serving := modifyAll (fun (x : FabService) => x.src == src && x.tag == tag && x.req.isSome) (fun x => { x with got := x.got ++ [(lostKey sec, [])] }) d.serving }

/-- A request (R367): one that is being served waits; one answered within the last 1 ms(L) has its answer sent again. -/
def Dev.request (d : Dev) (type : Nat) (m : FabMsg) (fails : List Nat) : Dev :=
  d.arrive type m fun d =>
    let d := { d with serving := d.serving.filter fun x => x.answer.isNone || !x.await.isEmpty || x.src == hostSource || decide (d.now ≤ 1000000 + x.since) }
    match d.serving.find? fun x => x.src == m.src && x.tag == m.tag with
    | some x =>
      match x.answer with
      | some y => if x.await.isEmpty then d.sendBack x.domain y else d
      | none => d
    | none => d.serveReq type m fails []

end Sys2Proof.Machine
end

