-- ==== Sys2Proof/Machine/Fabric.lean ====
section
/-! DEFINITION. The fabric's message rows: requests, and responses at the requester (R363 to R365, R369 to R372, R377, R378, R402). -/

namespace Sys2Proof.Machine

/-! ### Request rows -/

/-- RD: `fails` are the sectors whose check fails as the request reads them. -/
def devRd (m : FabMsg) (fails : List Nat) (d : Dev) : Dev := d.request 0x01 m fails
/-- Execute RD. -/
def execRd (m : FabMsg) (fails : List Nat) (s : State) : Host.Outcome State Fault Refusal := whenLive (devRd m fails) s

/-- WR: `fails` are the sectors whose check fails as the request reads them. -/
def devWr (m : FabMsg) (fails : List Nat) (d : Dev) : Dev := d.request 0x02 m fails
/-- Execute WR. -/
def execWr (m : FabMsg) (fails : List Nat) (s : State) : Host.Outcome State Fault Refusal := whenLive (devWr m fails) s

/-- ATOM: `fails` are the sectors whose check fails as the request reads them. -/
def devAtom (m : FabMsg) (fails : List Nat) (d : Dev) : Dev := d.request 0x03 m fails
/-- Execute ATOM. -/
def execAtom (m : FabMsg) (fails : List Nat) (s : State) : Host.Outcome State Fault Refusal := whenLive (devAtom m fails) s

/-- PUB: `fails` are the sectors whose check fails as the request reads them. -/
def devPub (m : FabMsg) (fails : List Nat) (d : Dev) : Dev := d.request 0x04 m fails
/-- Execute PUB. -/
def execPub (m : FabMsg) (fails : List Nat) (s : State) : Host.Outcome State Fault Refusal := whenLive (devPub m fails) s

/-- INV. -/
def devInv (m : FabMsg) (d : Dev) : Dev := d.request 0x05 m []
/-- Execute INV. -/
def execInv (m : FabMsg) (s : State) : Host.Outcome State Fault Refusal := whenLive (devInv m) s

/-- STEP; an unlocked row lets waiting requests go on. -/
def devStep (m : FabMsg) (d : Dev) : Dev := (d.request 0x06 m []).serveWaiting
/-- Execute STEP. -/
def execStep (m : FabMsg) (s : State) : Host.Outcome State Fault Refusal := whenLive (devStep m) s

/-! ### Responses (R369 to R372, R377, R378) -/

/-- Whether an access of a command is to the node that a message comes from. -/
def Dev.isFrom (d : Dev) (home : Nat) (m : FabMsg) : Bool := home == farHome m.src || (decide (home < 16) && d.fidOf home == m.src)

/-- The access of a command that a response answers. -/
def Dev.accessOf (d : Dev) (m : FabMsg) : Option (SlotRef × Cmd × RemoteAccess) :=
  d.ctxs.findSome? fun c => c.held.findSome? fun e =>
    (e.2.2.remote.find? fun a => a.tag == m.tag && d.isFrom a.home m).map fun a => (({ ctx := c.num, slot := e.1 } : SlotRef), e.2.2, a)

/-- Whether an entry of `serving` awaits a response. -/
def FabService.awaits (x : FabService) (d : Dev) (m : FabMsg) : Bool := x.await.any fun t => t.1 == m.tag && d.isFrom t.2 m

/-- A command's access is answered. -/
def Dev.answered (d : Dev) (r : SlotRef) (a : RemoteAccess) : Dev := d.modCmd r fun k => { k with remote := k.remote.erase a }

/-- 256-byte lines that a PE read brought whole enter the fabric cache of its wing, the oldest going first (R370). -/
def Dev.fillFab (d : Dev) (dom wing sa : Nat) (bs : List Byte) : Dev :=
  let first := ceilDiv sa 256
  let n := (sa + bs.length) / 256 - first
  let new := (List.range n).map fun i =>
    ({ owner := wing, domain := dom, addr := (first + i) * 256, bytes := slice bs ((first + i) * 256 - sa) 256 } : CacheLine)
  let keep := d.fabCache.filter fun l => !(new.any fun x => x.owner == l.owner && x.domain == l.domain && x.addr == l.addr)
  let all := keep ++ new
  let excess := (all.filter (·.owner == wing)).length - 16384
  { d with fabCache := (all.filter (·.owner == wing)).drop excess ++ all.filter (·.owner != wing) }

/-- A read goes out again for a part of what it asked (R369): `index` 1 while a lost sector is being found. -/
def Dev.askPart (d : Dev) (r : SlotRef) (a : RemoteAccess) (index : Nat) (s : Span) : Dev :=
  let (tag, d) := d.freshTag
  let b : RemoteAccess := { a with tag := tag, sa := s.sa, len := s.len, since := d.now, index := index }
  (d.modCmd r fun k => { k with remote := k.remote ++ [b] }).sendFab 0x01 (d.fidOf a.home) (d.domainOf r) r.ctx tag 0 (BitVec.ofNat 64 s.sa)
    (BitVec.ofNat 64 s.len) [] (some r)

/-- The two halves of a read of more than one sector, cut between sectors. -/
def RemoteAccess.halves (a : RemoteAccess) : List Span :=
  let first := a.sa / 32
  let n := (sectorsOf { sa := a.sa, len := a.len }).length
  if n < 2 then [] else
    let mid := (first + n / 2) * 32
    [⟨a.sa, mid - a.sa⟩, ⟨mid, a.sa + a.len - mid⟩]

/-- A sector that a command asked for reads as poison at its home (R387). -/
def Dev.spoil (d : Dev) (r : SlotRef) (a : RemoteAccess) : Dev :=
  d.modCmd r fun k => { k with spoiled := k.spoiled ++ [a.sa / 32], fetched := k.fetched ++ [(a.sa, List.replicate a.len 0)] }

/-- A command that is still being decoded goes on. -/
def Dev.goOn (d : Dev) (r : SlotRef) : Dev := if (d.slot? r).any fun s => s.state == .waiting then (d.decode r false).settle else d

/-- Data or a failure for a command's read. The answer POISONED or DATA_LOST names no sector: the reader asks again for the halves of
what it read until it has found the sectors (DESIGN CHOICE, log 56); one of those found poisoned after DATA_LOST is taken as lost. -/
def Dev.readBack (d : Dev) (m : FabMsg) (r : SlotRef) (k : Cmd) (a : RemoteAccess) : Dev :=
  let d := d.answered r a
  let sector := decide (a.home < 16) && (m.status == .poisoned || m.status == .dataLost)
  let index := if m.status == .dataLost then 1 else a.index
  if m.status == .ok then
    let bs := m.payload.take a.len
    let dom := d.domainOf r
    let d := d.modCmd r fun k => { k with fetched := k.fetched ++ [(a.sa, bs)] }
    (if k.onPes && a.home < 16 then d.fillFab dom (d.wingOf dom (lineVerb k.line)) a.sa bs else d).goOn r
  else if !sector then (d.readLost r a.sa a.len m.status).settle
  else
    match a.halves with
    | [] => if index = 1 then ((d.spoil r a).loseRemote r (a.sa / 32)).settle else (d.spoil r a).goOn r
    | ss => ss.foldl (fun d s => d.askPart r a index s) d

/-- Data for a request of an export or agent that was read here for it, or its failure. -/
def Dev.fetchedFor (d : Dev) (m : FabMsg) (x : FabService) : Dev :=
  if m.status != .ok then
    match x.req with
    | some (type, q) => { d with serving := d.serving.erase x }.respond type q x.domain x.exportNo [] m.status 0 0 []
    | none => d
  else
    let y := { x with await := x.await.filter (·.1 != m.tag), got := x.got.map fun g => if g.1 == m.tag then (g.1, m.payload) else g }
    { d with serving := replaceFirst (· == x) y d.serving }.serveWaiting

/-- RD_DATA (R369): to the waiting step, to the host whose read was forwarded, or to a request served through here. -/
def devRdData (m : FabMsg) (d : Dev) : Dev :=
  d.arrive 0x81 m fun d =>
    match d.accessOf m with
    | some (r, k, a) => if a.isWrite then d else d.readBack m r k a
    | none =>
      match d.serving.find? fun x => x.src == hostSource && x.tag == m.tag && d.fidOf x.home == m.src && x.home != d.coll.geoId && x.await.isEmpty with
      | some x =>
        let d := { d with serving := d.serving.erase x }
        match x.answer with
        | some (.memData p h dpa _) =>
          d.toPort p x.domain false 64 none (.memData p h dpa (if m.status == .ok then some (m.payload.take 64) else none))
        | _ => d
      | none => (d.serving.find? fun x => x.awaits d m && x.req.isSome).elim d fun x => d.fetchedFor m x

/-- Execute RD_DATA. -/
def execRdData (m : FabMsg) (s : State) : Host.Outcome State Fault Refusal := whenLive (devRdData m) s

/-- The status of an answer still to be sent, where one of its writes failed. -/
def failAnswer (st : Status) (x : Option OutMsg) : Option OutMsg :=
  x.map fun y => match y with
    | .fabric t dst src dom ctx tag _ a b p => .fabric t dst src dom ctx tag (BitVec.ofNat 16 st.code) a b p
    | z => z

/-- An answer that waits for a write is sent once none is missing (R408). -/
def Dev.ackedFor (d : Dev) (x : FabService) (tag : Nat) (st : Status) : Dev :=
  let y := { x with await := x.await.filter (·.1 != tag), since := d.now, answer := if st == .ok then x.answer else failAnswer st x.answer }
  if !y.await.isEmpty then { d with serving := replaceFirst (· == x) y d.serving }
  else
    let d := { d with serving := if x.src == hostSource then d.serving.erase x else replaceFirst (· == x) y d.serving }
    y.answer.elim d fun z => d.sendBack y.domain z

/-- An acknowledgement for an answer that waits for it. -/
def Dev.acked (d : Dev) (m : FabMsg) : Dev := (d.serving.find? fun x => x.awaits d m && x.answer.isSome).elim d fun x => d.ackedFor x m.tag m.status

/-- A command's write is answered: a failure is raised; the command may then be complete (R96, R110). -/
def Dev.writeBack (d : Dev) (st : Status) (r : SlotRef) (a : RemoteAccess) (f : Dev → Dev) : Dev :=
  let d := d.answered r a
  let d := if st == .ok then d else d.raise r st
  ((f d).conclude r).settle

/-- WR_ACK (R372). A sector that a partial write found lost ends the command with DATA_LOST (R387, R402). -/
def devWrAck (m : FabMsg) (d : Dev) : Dev :=
  d.arrive 0x82 m fun d =>
    match d.accessOf m with
    | some (r, k, a) =>
      if !a.isWrite then d
      else if m.status != .dataLost then d.writeBack m.status r a id
      else
        let w := d.lostWords r k (min 32 a.len) (a.sa / 32)
        let d := { d with draws := d.draws + 3 }.answered r a
        ((d.modCmd r fun k => { k with lost := some w }).conclude r).settle
    | none => d.acked m

/-- Execute WR_ACK. -/
def execWrAck (m : FabMsg) (s : State) : Host.Outcome State Fault Refusal := whenLive (devWrAck m) s

/-- What a command wrote at its home is also written over this member's fabric-cache lines (R370). -/
def Dev.fabWrote (d : Dev) (sa : Nat) (bs : List Byte) : Dev :=
  { d with fabCache := d.fabCache.map fun (l : CacheLine) => if overlap l.addr 256 sa bs.length then l.over sa bs else l }

/-- The cached lines after an atomic at another home (R370). -/
def Dev.fabAtomic (d : Dev) (a : RemoteAccess) (old : Nat) : Dev :=
  let (new, wrote) := atomicResult (fieldAt a.bytes 24 1) a.len (old % 2 ^ (8 * a.len)) (fieldAt a.bytes 8 a.len) (fieldAt a.bytes 16 a.len)
  if wrote then d.fabWrote a.sa (natLe new a.len) else d

/-- An atomic of a command is answered with a status, the fetched value, and whether a CAS wrote (R106, R107, R369): the result words of
ATOMIC and RELEASE, an entry of ATOMIC_BATCH, any other row's or count's. -/
def Dev.atomBack (d : Dev) (r : SlotRef) (k : Cmd) (a : RemoteAccess) (st : Status) (old : W64) (wrote : Bool) : Dev :=
  let d := if st == .ok then d.fabAtomic a old.toNat else d
  if cmdVerb k == some .atomicBatch then
    let d := d.answered r a
    let d := if st == .ok then d.entryDone r old.toNat a.fetch else d.entryFailed r (a.index - 1) st a.fetch
    (d.conclude r).settle
  else
    let fetch := cmdVerb k == some .release || lineFlags k.line == 1
    let mine := cmdVerb k == some .release || cmdVerb k == some .atomic
    d.writeBack st r a fun d => if mine then d.modCmd r fun k => { k with w0 := if fetch then old else 0, w1 := if wrote then 1 else 0 } else d

/-- ATOM_RSP (R106, R107, R369). -/
def devAtomRsp (m : FabMsg) (d : Dev) : Dev :=
  d.arrive 0x83 m fun d =>
    match d.accessOf m with
    | none => d
    | some (r, k, a) => if !a.isWrite then d else d.atomBack r k a m.status m.arg (m.address.getLsbD 0)

/-- Execute ATOM_RSP. -/
def execAtomRsp (m : FabMsg) (s : State) : Host.Outcome State Fault Refusal := whenLive (devAtomRsp m) s

/-- A PUBLISH's record step is answered (R377). -/
def Dev.pubBack (d : Dev) (r : SlotRef) (a : RemoteAccess) (st : Status) (version value : W64) : Dev :=
  let d := if st == .ok then d.fabWrote a.sa (natLe version.toNat 8 ++ slice a.bytes 8 8) else d
  d.writeBack st r a fun d => d.modCmd r fun k => { k with w0 := version, w1 := value }

/-- PUB_RSP (R377). -/
def devPubRsp (m : FabMsg) (d : Dev) : Dev :=
  d.arrive 0x84 m fun d =>
    match d.accessOf m with
    | some (r, k, a) => if cmdVerb k == some .publish then d.pubBack r a m.status m.address m.arg else d
    | none => d

/-- Execute PUB_RSP. -/
def execPubRsp (m : FabMsg) (s : State) : Host.Outcome State Fault Refusal := whenLive (devPubRsp m) s

/-- INV_ACK (R378). -/
def devInvAck (m : FabMsg) (d : Dev) : Dev :=
  d.arrive 0x85 m fun d =>
    match d.accessOf m with
    | some (r, k, a) => if cmdVerb k == some .invalidate then d.writeBack m.status r a id else d
    | none => d

/-- Execute INV_ACK. -/
def execInvAck (m : FabMsg) (s : State) : Host.Outcome State Fault Refusal := whenLive (devInvAck m) s

/-! ### Answers to STEP messages (R155, R158, R166, R210, R222, R364; log 11) -/

/-- A session of this member's context is given up with every reference that it holds (R160). -/
def Dev.discardSession (d : Dev) (ctx : Nat) : Dev :=
  match d.session? ctx with
  | none => d
  | some s =>
    ((s.layers.flatMap (·.blocks)).foldl (fun d id => match d.block? id with
      | some b => if d.isLocal b.frameSa then d.refBlock id false else d.modBlock id fun b => { b with freeing := true }
      | none => d) d).closeSession ctx

/-- The steps that copy a parent's log entries to a child's (R155, R158, R164). -/
def forkLog (p parent child : Nat) : List Step :=
  (stageSteps (cutSpans [{ sa := parent, len := 8 * p }]) [{ sa := child, len := 8 * p }]).map fun x => { x with extra := false }

/-- The owner of its parent's session has made a FORK's child (R158): it takes its place in its context, with a log of its own, whose
entries come from the member that holds the parent's log. -/
def Dev.childBack (d : Dev) (r : SlotRef) (c : Context) (k : Cmd) : Dev :=
  match d.landings.find? fun x => x.moves && x.domain == c.domain && x.front == d.coll.geoId && x.ctx == c.num with
  | none => d
  | some x =>
    let d := d.installImage x c.num 0 0
    let p := fieldAt k.line 20 4
    let n := ((d.session? c.num).map Session.logBytes).getD 0
    match (if d.dramRoom c.domain n then d.place n else (none, d)) with
    | (none, d) => (d.discardSession c.num).raise r .capacity
    | (some sa, d) =>
      let d := d.modSession c.num fun s => { s with logSa := sa }
      if p = 0 then d
      else if fieldAt k.line 18 1 != d.coll.geoId then d.askStep r .log (fieldAt k.line 18 1) (fieldAt k.line 16 2) []
      else d.modCmd r fun k => { k with plan := forkLog p (((d.session? (fieldAt k.line 16 2)).map (·.logSa)).getD 0) sa }

/-- A child that its maker could not complete leaves the store it was to come to. -/
def Dev.childFailed (d : Dev) (c : Context) : Dev :=
  (d.landings.filter fun x => x.moves && !x.accepted && x.domain == c.domain && x.front == d.coll.geoId && x.ctx == c.num).foldl Dev.dropLanding d

/-- What the front member keeps of its session follows what the owner did (R155, R161). -/
def Dev.followOwner (d : Dev) (r : SlotRef) (k : Cmd) (n : Nat) (ok : Bool) : Dev :=
  match cmdVerb k with
  | some .append => d.modSession r.ctx fun s => s.follow k n
  | some .drop => if !ok then d else if fieldAt k.line 16 1 = 1 then d.closeSession r.ctx else d.truncateSession r.ctx (fieldAt k.line 20 4)
  | _ => d

/-- The steps that follow the owner's answer: an APPEND's log entries are written whatever ended it (R155). -/
def Dev.planOutputs (d : Dev) (r : SlotRef) (k : Cmd) (n : Nat) (ok : Bool) : Dev :=
  match d.session? r.ctx with
  | none => d
  | some s =>
    let append := cmdVerb k == some .append
    if !ok && !append then d
    else
      let steps := d.stageOutputs r k s (if append then n else k.w0.toNat)
      d.modCmd r fun k => { k with plan := k.plan ++ steps, issued := if append then k.issued + steps.length else k.issued }

/-- The owner has run a forwarded command (R166): its status, words and steps are the command's, and what it wrote leaves its staging area. -/
def Dev.runBack (d : Dev) (m : FabMsg) (r : SlotRef) (c : Context) : Dev :=
  let st := m.status
  let full := m.payload.length == 48
  let take (k : Cmd) : Cmd :=
    { k with
      w0 := BitVec.ofNat 64 (m.word 0), w1 := BitVec.ofNat 64 (m.word 1), w2 := BitVec.ofNat 64 (m.word 2), retired := k.retired + m.word 3
      degraded := k.degraded || m.word 4 == 1, raised := if st == .ok then k.raised else k.raised ++ [st] }
  let d := d.modCmd r take
  let d := match d.cmd? r with
    | none => d
    | some k =>
      if cmdVerb k == some Verb.fork then (if st.isFailure then d.childFailed c else d.childBack r c k)
      else if !full then d
      else (d.followOwner r k (m.word 5) (!st.isFailure)).planOutputs r k (m.word 5) (!st.isFailure)
  (d.conclude r).settle

/-- Store for a forwarded command's operands is there, or not. -/
def Dev.stageBack (d : Dev) (m : FabMsg) (r : SlotRef) (k : Cmd) (a : RemoteAccess) : Dev :=
  let d :=
    if m.status != .ok then d.raise r m.status
    else if k.cut.isSome then d.modCmd r fun k => { k with staged := some (a.home, m.word 0) }
    else d.stageInputs r a.home (m.word 0)
  (d.conclude r).settle

/-- Store for a session that moves, or for a FORK's child, is there, or not. -/
def Dev.moveBack (d : Dev) (m : FabMsg) (r : SlotRef) (k : Cmd) (a : RemoteAccess) : Dev :=
  if cmdVerb k == some .fork then
    if m.status != .ok then (d.complete r m.status 0 0 0).settle
    else devFork r (d.modCmd r fun k => { k with staged := some (a.home, m.word 0) })
  else
    let d :=
      if m.status != .ok then (d.raise r m.status).modCmd r fun k => { k with plan := [] }
      else if k.cut.isSome then d.modCmd r fun k => { k with staged := some (a.home, m.word 0) }
      else d.moveTo r a.home (m.word 0)
    (d.conclude r).settle

/-- The front member of a FORK's parent says where its log is and who owns its session; once the child is here, the entries follow. -/
def Dev.logBack (d : Dev) (m : FabMsg) (r : SlotRef) (c : Context) (k : Cmd) : Dev :=
  if k.started then
    let d :=
      if m.status != .ok then d.raise r m.status
      else (d.session? r.ctx).elim d fun s => d.modCmd r fun k => { k with plan := k.plan ++ forkLog (fieldAt k.line 20 4) (m.word 0) s.logSa }
    (d.conclude r).settle
  else if m.status != .ok then (d.complete r m.status 0 0 0).settle
  else if m.word 2 = 0 then d.holdOrphan r
  else d.forkAt r c k (d.parentCtx k.line) (m.word 1) (m.word 0)

/-- A row's lock is granted by its home, or not (R220). A step that no longer waits for it gives it up. -/
def Dev.lockBack (d : Dev) (m : FabMsg) (r : SlotRef) (k : Cmd) (a : RemoteAccess) : Dev :=
  let sa := fieldAt a.bytes 8 8
  let dom := d.domainOf r
  let waits (u : RowUpdate) : Bool := u.phase == 1 && (k.version.bind fun v => d.headerOf dom k v u.row).any (·.sa == sa)
  let hit := (k.plan.take k.issued).findSome? fun st => st.effects.findSome? fun f => match f with
    | .row u => if waits u then some (st.num, u.row) else none
    | _ => none
  match hit with
  | some (n, row) => if m.status == .ok then d.setPhase r n row 2 else (d.raise r m.status).setPhase r n row 4
  | none => if m.status == .ok then d.tellStep .unlock a.home dom 0 [sa] else d

/-- A table's home has bound a command (R208, R210), or not. -/
def Dev.bindBack (d : Dev) (m : FabMsg) (r : SlotRef) (k : Cmd) : Dev :=
  if m.status != .ok then (d.complete r m.status 0 0 0).settle
  else
    let v := versionOfRecord m.payload
    d.modCmd r fun k' => { k' with table := (bindingOf k).map fun b => (b.1, v.number), version := some v }

/-- A table's home has entered a REHANG's version (R216): this member, which holds its store, keeps it under its number. -/
def Dev.enterBack (d : Dev) (m : FabMsg) (r : SlotRef) (k : Cmd) : Dev :=
  let n : W32 := BitVec.ofNat 32 (m.word 0)
  let d := match bindingOf k, k.version with
    | some (id, _), some v =>
      if m.status == Status.ok || m.status == Status.conflict then d.keepVersion (d.domainOf r) id { k.rehanged v with number := n } else d
    | _, _ => d
  ((d.versionEntered r m.status n (BitVec.ofNat 32 (m.word 1)) (m.word 2) (m.word 3)).conclude r).settle

/-- STEP_RSP (R364): the answer to a command's STEP message, by its kind. -/
def devStepRsp (m : FabMsg) (d : Dev) : Dev :=
  d.arrive 0x86 m fun d =>
    match d.accessOf m with
    | none => d
    | some (r, k, a) =>
      if !(isStep a) then d
      else
        let d := d.answered r a
        match d.ctx? r.ctx, StepKind.ofCode a.index with
        | some c, some .run => d.runBack m r c
        | some _, some .stage => d.stageBack m r k a
        | some _, some .move => d.moveBack m r k a
        | some c, some .log => d.logBack m r c k
        | some _, some .lock => d.lockBack m r k a
        | some _, some .bind => d.bindBack m r k
        | some _, some .enter => d.enterBack m r k
        | some _, some .refs =>
          let d := if m.status == .ok then d else d.raise r m.status
          ((d.modCmd r fun k => if m.word 0 = 1 && cmdVerb k == some .drop then { k with w1 := k.w1 + 1 } else k).conclude r).settle
        | some _, some .table =>
          let d := if m.status == .ok then d else d.raise r m.status
          ((d.modCmd r fun k => { k with w0 := BitVec.ofNat 64 (m.word 0), w1 := BitVec.ofNat 64 (m.word 1) }).conclude r).settle
        | _, _ => d

/-- Execute STEP_RSP. -/
def execStepRsp (m : FabMsg) (s : State) : Host.Outcome State Fault Refusal := whenLive (devStepRsp m) s

/-- HOLD (R371): the access is in service; its timeout starts again. -/
def devHold (m : FabMsg) (t : Nat) (d : Dev) : Dev :=
  (d.atTime t).arrive 0x8F m fun d =>
    let now := d.now
    match d.accessOf m with
    | some (r, _, a) => d.modCmd r fun k => { k with remote := replaceFirst (· == a) { a with since := now } k.remote }
    | none =>
      { d with serving := d.serving.map fun x =>
          if x.awaits d m || (x.src == hostSource && x.tag == m.tag && d.fidOf x.home == m.src) then { x with since := now } else x }

/-- Execute HOLD. -/
def execHold (m : FabMsg) (t : Nat) (s : State) : Host.Outcome State Fault Refusal := whenLive (devHold m t) s

/-- HOLD_TIMER (R371): a HOLD for each request not answered within 100 µs(L) of its arrival or of the last HOLD. -/
def devHoldTimer (t : Nat) (d : Dev) : Dev :=
  let d := (d.atTime t).serveWaiting
  let due (x : FabService) : Bool := x.src != hostSource && decide (x.home < 16) && (x.req.isSome || !x.await.isEmpty) && decide (100000 + x.lastHold ≤ d.now)
  let now := d.now
  let who := d.serving.filter due
  let d := { d with serving := d.serving.map fun x => if due x then { x with lastHold := now } else x }
  who.foldl (fun d x =>
    let (dom, ctx) := match x.req, x.answer with
      | some (_, m), _ => (m.domain, m.ctx)
      | none, some (.fabric _ _ _ dom ctx _ _ _ _ _) => (dom, ctx)
      | _, _ => (x.domain, 0xFFFF)
    d.sendFab 0x8F x.src dom ctx x.tag 0 0 0 [] none) d

/-- Execute HOLD_TIMER. -/
def execHoldTimer (t : Nat) (s : State) : Host.Outcome State Fault Refusal := whenLive (devHoldTimer t) s

/-- A served request whose own access to another member has no answer ends with TARGET_DEAD (R371). -/
def Dev.servedLost (d : Dev) (x : FabService) (tag : Nat) : Dev :=
  match x.req with
  | some (type, q) => { d with serving := d.serving.erase x }.respond type q x.domain x.exportNo [] .targetDead 0 0 []
  | none => if x.answer.isSome then d.ackedFor x tag .targetDead else d

/-- Whether an access waits for the store of a lost member of a coded collection: it is held, and no time ends it (R380). -/
def Dev.heldForRebuild (d : Dev) (home : Nat) : Bool := d.coll.planK != 0 && decide (home < 16) && d.coll.lost.getLsbD home

/-- FAB_TIMEOUT (R371): neither response nor HOLD for TIMEOUT_US: the step ends with TARGET_DEAD, a host access as under
R380. The report to the master has no message in R364 (log 37). -/
def devFabTimeout (tag t : Nat) (d : Dev) : Dev :=
  let d := d.atTime t
  let old (since : Nat) : Bool := decide (since + d.field 0x7018 31 0 * 1000 ≤ d.now)
  let gone (a : RemoteAccess) : Bool := a.tag == tag && old a.since && !d.heldForRebuild a.home
  let rs := d.slotsWhere fun _ s => s.cmd.any fun k => k.remote.any gone
  let late (x : FabService) : Bool := (x.tag == tag && x.src == hostSource || x.await.any fun a => a.1 == tag) && old x.since && !d.heldForRebuild x.home
  let hosts := d.serving.filter fun x => x.src == hostSource && x.home != d.coll.geoId && late x
  let served := d.serving.filter fun x => x.src != hostSource && decide (x.home < 16) && late x
  let d := rs.foldl (fun d r => d.targetLost r gone) d
  let d := hosts.foldl (fun d x => d.hostTargetLost x) d
  (served.foldl (fun d x => d.servedLost x tag) d).settle

/-- Execute FAB_TIMEOUT. -/
def execFabTimeout (tag t : Nat) (s : State) : Host.Outcome State Fault Refusal := whenLive (devFabTimeout tag t) s

/-- EVENT (R303, R364): it is for an agent; a member takes nothing from it. -/
def devEvent (m : FabMsg) (d : Dev) : Dev := d.arrive 0x15 m id

/-- Execute EVENT. -/
def execEvent (m : FabMsg) (s : State) : Host.Outcome State Fault Refusal := whenLive (devEvent m) s

/-- CREDIT (R365): for class c, headers returned at 2c and slots at 2c + 1. -/
def devCredit (link : Nat) (returns : List Nat) (d : Dev) : Dev :=
  if !d.linkUp link then d
  else
    let add (xs : List Nat) (off : Nat) : List Nat := (List.range 4).map fun c => at! xs c 0 + at! returns (2 * c + off) 0
    { d with links := modifyAll (·.index == link) (fun l => { l with headerCredits := add l.headerCredits 0, dataCredits := add l.dataCredits 1 }) d.links }

/-- Execute CREDIT. -/
def execCredit (link : Nat) (returns : List Nat) (s : State) : Host.Outcome State Fault Refusal := whenLive (devCredit link returns) s

end Sys2Proof.Machine
end

