-- ==== Sys2Proof/Machine/Vitrine.lean ====
section
/-! DEFINITION. Host requests to vitrine lines, the answers of holders, and the loss of a holder by timeout (R336 to R345). -/

namespace Sys2Proof.Machine

/-- What an answered snoop lets go on: requests that waited for the line, and whatever follows. -/
def Dev.afterSnoop (d : Dev) : Dev := d.serveWaiting.settle

/-- A host read request at a vitrine line's order point (R336), held there while a sector that fails its check is repaired (R403); to
other memory it is a plain read (R115, log 34). -/
def Dev.vitRequest (d : Dev) (i : Instr) (a : MemAccess) (q : VitReq) (fails : List Nat) : Dev :=
  if !d.servesMem a.port then d
  else if a.dpa < 0x1000_0000 then devSlotRead a.port a.host a.dpa d
  else
    d.admitRead i a fun dom e sa =>
      if e.rights == .vitrine && d.isLocal sa then
        let bad := fails.filter fun sec => (sectorsOf { sa := sa, len := 64 }).contains sec
        ((bad.foldl (fun d sec => d.startRepair sec .patrol) d).vitArrive (sa / 64) dom q).afterSnoop
      else d.hostRead { a := a, domain := dom, sa := sa } false fails

/-- MEMRD_SNPCUR (R336): data, the requester not recorded. -/
def devMemrdSnpcur (a : MemAccess) (fails : List Nat) (d : Dev) : Dev := d.vitRequest (.memrdSnpcur a fails) a (.snpCur a.port a.host a.dpa) fails
/-- Execute MEMRD_SNPCUR. -/
def execMemrdSnpcur (a : MemAccess) (fails : List Nat) (s : State) : Host.Outcome State Fault Refusal :=
  whenLive (onTraffic (.memrdSnpcur a fails) a.port (devMemrdSnpcur a fails)) s

/-- MEMRD_SNPDATA (R336): data and Cmp-S; the requester is a sharer. -/
def devMemrdSnpdata (a : MemAccess) (fails : List Nat) (d : Dev) : Dev := d.vitRequest (.memrdSnpdata a fails) a (.snpData a.port a.host a.dpa) fails
/-- Execute MEMRD_SNPDATA. -/
def execMemrdSnpdata (a : MemAccess) (fails : List Nat) (s : State) : Host.Outcome State Fault Refusal :=
  whenLive (onTraffic (.memrdSnpdata a fails) a.port (devMemrdSnpdata a fails)) s

/-- MEMRD_SNPINV (R336): the other holders are invalidated; data and Cmp-E; the requester is the owner. -/
def devMemrdSnpinv (a : MemAccess) (fails : List Nat) (d : Dev) : Dev := d.vitRequest (.memrdSnpinv a fails) a (.snpInv a.port a.host a.dpa true) fails
/-- Execute MEMRD_SNPINV. -/
def execMemrdSnpinv (a : MemAccess) (fails : List Nat) (s : State) : Host.Outcome State Fault Refusal :=
  whenLive (onTraffic (.memrdSnpinv a fails) a.port (devMemrdSnpinv a fails)) s

/-- MEMINV_SNPINV (R336): as MEMRD_SNPINV, without data; to other memory it is only completed. -/
def devMeminvSnpinv (a : MemAccess) (d : Dev) : Dev :=
  if !d.servesMem a.port then d
  else
    d.admitHost a true fun dom e sa =>
      if e.rights == .vitrine && d.isLocal sa then (d.vitArrive (sa / 64) dom (.snpInv a.port a.host a.dpa false)).afterSnoop
      else d.emit (.ndr a.port a.host a.dpa 0)
/-- Execute MEMINV_SNPINV. -/
def execMeminvSnpinv (a : MemAccess) (s : State) : Host.Outcome State Fault Refusal :=
  whenLive (onTraffic (.meminvSnpinv a) a.port (devMeminvSnpinv a)) s

/-- Whether a host is recorded as the owner of a line (R332). -/
def Dev.ownsLine (d : Dev) (line host : Nat) : Bool :=
  (d.dir line).any fun e => e.state == .modified && e.holders.contains host

/-- The line whose copy a host must give back because the window by which it reached it has gone (R346). -/
def Dev.withdrawnLine (d : Dev) (a : MemAccess) : Option VitTxn :=
  d.vitTxns.find? fun t => match t.req with
    | .withdraw ps => ps.contains (a.host, a.dpa / 64 * 64) && d.ownsLine t.line a.host
    | _ => false

/-- An owner's writeback (R336, R339): the store is written, and the line goes I, or S with the owner. -/
def Dev.hostWriteBack (d : Dev) (h : HostWait) (en : BitVec 64) (data : List Byte) (metaS : Bool) (fails : List Nat) : Dev :=
  let d := d.writeHome h en data fails
  if metaS then d.dirShare (h.sa / 64) h.domain h.a.host else d.dirDrop (h.sa / 64)

/-- VITRINE_MEMWR (R336, R339, R340): the owner's writeback is applied even while the line's transaction is active, and
leaves I, or S with the owner; any other write is queued as a non-holder's. A writeback of a line whose window has gone
is applied too (log 96). -/
def devVitrineMemwr (a : MemAccess) (en : BitVec 64) (data : List Byte) (metaS : Bool) (fails : List Nat) (d : Dev) : Dev :=
  if !d.servesMem a.port then d
  else
    match d.withdrawnLine a with
    | some t => d.hostWriteBack { a := a, domain := t.domain, sa := t.line * 64 } en data metaS fails
    | none =>
    d.admitHost a true fun dom e sa =>
      let h : HostWait := { a := a, domain := dom, sa := sa }
      if e.rights == .vitrine && d.isLocal sa then
        if d.ownsLine (sa / 64) a.host then
          d.hostWriteBack h en data metaS fails
        else (d.writeOrdered h en data fails).afterSnoop
      else d.hostWrite h false en data fails
/-- Execute VITRINE_MEMWR. -/
def execVitrineMemwr (a : MemAccess) (enables : BitVec 64) (data : List Byte) (metaS : Bool) (fails : List Nat) (s : State) :
    Host.Outcome State Fault Refusal :=
  whenLive (onTraffic (.vitrineMemwr a enables data metaS fails) a.port (devVitrineMemwr a enables data metaS fails)) s

/-- MEMCLNEVCT (R336): a holder leaves the entry; from any other host it is ignored; its Cmp is returned. -/
def devMemclnevct (a : MemAccess) (d : Dev) : Dev :=
  if !d.servesMem a.port then d
  else
    match d.registrar a.host a.dpa false with
    | .admitted dom e sa =>
      if e.rights == .vitrine && d.isLocal sa then (d.vitArrive (sa / 64) dom (.clean a.port a.host a.dpa)).afterSnoop
      else d.emit (.ndr a.port a.host a.dpa 0)
    | .refused => (d.count (portOff a.port 0x208) 1).emit (.ndr a.port a.host a.dpa 0)
    | .fault dom cva st => (d.accessFault dom 0xFFFF st a.host a.dpa cva a.port).emit (.ndr a.port a.host a.dpa 0)
/-- Execute MEMCLNEVCT. -/
def execMemclnevct (a : MemAccess) (s : State) : Host.Outcome State Fault Refusal :=
  whenLive (onTraffic (.memclnevct a) a.port (devMemclnevct a)) s

/-- The transaction that awaits a holder's answer on a line. -/
def Dev.awaits (d : Dev) (line host : Nat) : Option VitTxn :=
  d.vitTxns.find? fun t => t.line == line && t.active && t.awaiting.contains host

/-- A holder that keeps what it has: the only holder of its line stays the owner, a writeback or not (R336). -/
def Dev.dirKeep (d : Dev) (line host : Nat) : Dev :=
  { d with directory := modifyAll (fun e => e.line == line && e.holders == [host]) (fun (e : DirEntry) => { e with state := .modified }) d.directory }

/-- BIRSP (R336, R339): the holder keeps nothing, a shared copy, or what it has; the last answer lets the transaction
proceed. -/
def devBirsp (host line : Nat) (ans : BiAnswer) (d : Dev) : Dev :=
  match d.awaits line host with
  | none => d
  | some t =>
    let d := match ans with
      | .rspI => d.dirRemove line host
      | .rspS => d.dirShare line t.domain host
      | .rspE => d.dirKeep line host
    (d.vitAnswered line host).afterSnoop
/-- Execute BIRSP. -/
def execBirsp (host line : Nat) (ans : BiAnswer) (s : State) : Host.Outcome State Fault Refusal := whenLive (devBirsp host line ans) s

/-- BICONFLICT (R338): acknowledged behind the responses to the host that were issued before. -/
def devBiconflict (port host line : Nat) (d : Dev) : Dev :=
  if !d.servesMem port then d
  else
    let dom := match d.vitTxns.find? (·.line == line), d.dir line with
      | some t, _ => t.domain
      | none, some e => e.domain
      | none, none => 256
    d.toPort port dom false 0 none (.ndr port host (line * 64) 3)
/-- Execute BICONFLICT. -/
def execBiconflict (port host line : Nat) (s : State) : Host.Outcome State Fault Refusal := whenLive (devBiconflict port host line) s

/-- BI_TIMEOUT (R343 to R345): a BISnp unanswered for BI_TIMEOUT loses the host for its lines of the domain. -/
def devBiTimeout (host line t : Nat) (d : Dev) : Dev :=
  let d := d.atTime t
  match d.awaits line host with
  | none => d
  | some x =>
    if x.since + d.field 0x6000 31 0 * 1000 ≤ d.now then (d.vitLose x.domain host 2 fun _ => true).afterSnoop else d
/-- Execute BI_TIMEOUT. -/
def execBiTimeout (host line t : Nat) (s : State) : Host.Outcome State Fault Refusal := whenLive (devBiTimeout host line t) s

/-- A host identity lost with every port that carried it, for its lines in every domain (R343). -/
def Dev.hostLost (d : Dev) (host : Nat) : Dev :=
  let doms := ((d.directory.filter fun e => e.broad || e.holders.contains host).map (·.domain) ++
    (d.windows.filter fun w => w.host == host && (d.extents.any fun e => e.rights == .vitrine && e.touches w.domain w.cva w.len)).map (·.domain)).eraseDups
  (doms.foldl (fun d dom => d.vitLose dom host 3 fun _ => true) d).afterSnoop

/-- Memory accesses of a port that goes down are dropped unanswered (R477). -/
def Dev.dropAccesses (d : Dev) (port : Nat) : Dev :=
  let mine (q : VitReq) : Bool := match q with
    | .snpCur p _ _ => p == port
    | .snpData p _ _ => p == port
    | .snpInv p _ _ _ => p == port
    | .write p _ _ _ _ => p == port
    | .clean p _ _ => p == port
    | _ => false
  let waits (w : RepairWaiter) : Bool := match w with
    | .hostRead h => h.a.port != port
    | .hostWrite h _ _ => h.a.port != port
    | _ => true
  let answers (x : FabService) : Bool := x.src == hostSource && (match x.answer with
    | some (.memData p _ _ _) => p == port
    | some (.ndr p _ _ _) => p == port
    | _ => false)
  let ts := d.vitTxns.map fun (t : VitTxn) => if mine t.req then { t with req := .dropped } else t
  let rs := d.repairs.map fun (x : Repair) => { x with waiters := x.waiters.filter waits }
  let ms := d.media.map fun (m : MediaOp) => { m with hosts := m.hosts.filter fun h => h.a.port != port }
  let ss := d.serving.filter fun (x : FabService) => !answers x
  let ws := d.readWaits.filter fun i => !(senderOf i).any fun x => x.1 == port
  { d with readWaits := ws, vitTxns := ts, repairs := rs, media := ms, serving := ss }.vitPump

/-- Completion records and data in the queues of a port that goes down (R88): records are held and reported, data of
commands that still run raises TARGET_DEAD, fault records are counted lost (R415), the rest goes. -/
def Dev.holdQueued (d : Dev) (port : Nat) : Dev :=
  let p : Point := { kind := .cxl, index := port }
  let gs := (d.points.filter (·.point == p)).flatMap fun e => e.queues.flatMap fun q => q.posted
  let d := { d with points := d.points.map fun (e : EgPoint) => if e.point == p then { e with queues := e.queues.map fun (q : Queue) => { q with mem := [], posted := [] } } else e }
  let lost (g : EgGranule) : Option (Nat × FaultRecord) := match g.msg with
    | some (.ownedWord _ addr f) => some (addr, f)
    | _ => none
  let d := d.losePosted (gs.filterMap lost)
  gs.foldl (fun d g =>
    match g.cmd, g.msg with
    | some r, some (.record _ addr verb own rc) =>
      match d.ctx? r.ctx with
      | none => d
      | some c =>
        (d.modSlot r fun s => if own && s.state == .done && s.seq == rc.seq then { s with held := true } else s).fault (.domain c.domain) 0x02
          (some rc.status) c.domain c.num rc.seq 0xFFFF (apertureOf c.num r.slot) addr verb
    | some r, some (.write _ _ _) => if (d.cmd? r).isSome then d.raise r .targetDead else d
    | _, _ => d) d

/-- A port goes down: its accesses, its queued records, and the identities it alone carried (R88, R343, R477). -/
def Dev.portLost (d : Dev) (port : Nat) : Dev :=
  let d := (d.dropAccesses port).holdQueued port
  let hosts := ((d.carried.filter (·.1 == port)).map Prod.snd).eraseDups
  let d := { d with carried := d.carried.filter (·.1 != port) }
  let gone := hosts.filter fun h => !(d.carried.any fun x => x.2 == h)
  gone.foldl (fun d h => d.hostLost h) d

/-- CXL_PORT_DOWN (R343): a trained port loses its link without PERST_N. -/
def devCxlPortDown (port : Nat) (d : Dev) : Dev :=
  if !d.portUp port then d
  else ({ d with ports := modifyAll (·.index == port) (fun p => { p with link := .down }) d.ports }.portLost port).settle
/-- Execute CXL_PORT_DOWN. -/
def execCxlPortDown (port : Nat) (s : State) : Host.Outcome State Fault Refusal := whenLive (devCxlPortDown port) s

/-- L1_ENTRY (R452): a trained port enters L1. -/
def devL1Entry (port : Nat) (d : Dev) : Dev :=
  { d with ports := modifyAll (fun p => p.index == port && p.perstReleased && p.link == .l0) (fun p => { p with link := .l1 }) d.ports }
/-- Execute L1_ENTRY. -/
def execL1Entry (port : Nat) (s : State) : Host.Outcome State Fault Refusal := whenLive (devL1Entry port) s

/-- L1_EXIT (R452, R459): the port is in L0; an entry is undone, or a sleeping device wakes. -/
def devL1Exit (port : Nat) (d : Dev) : Dev :=
  if d.ports.any fun p => p.index == port && p.perstReleased && p.link == .l1 then ((d.toL0 port).wakeBy 1).1 else d
/-- Execute L1_EXIT. -/
def execL1Exit (port : Nat) (s : State) : Host.Outcome State Fault Refusal := whenLive (devL1Exit port) s

end Sys2Proof.Machine
end

