-- ==== Sys2Proof/Machine/Exports.lean ====
section
/-! DEFINITION. The exports of a domain (R374, R383). -/

namespace Sys2Proof.Machine

/-- EXP_STATUS of a domain after an operation: CODE and DONE (R383). -/
def Dev.expResult (d : Dev) (dom code : Nat) : Dev :=
  (d.setField (pageOff dom 0x218) 15 8 code).setField (pageOff dom 0x218) 0 0 1

/-- Whether a write reaches the OP field of EXP_CTRL and its operation is `op` (R383, R492). -/
def isExpOp (op : Nat) (w : RegWrite) : Bool :=
  match blockOf w.reg with
  | .page dom => w.reg == pageOff dom 0x210 && (w.size == 8 || w.offset % 8 == 0) && w.fieldOf 3 0 == op
  | _ => false

/-- A field of a domain's EXP_CTRL. -/
def Dev.expCtl (d : Dev) (dom hi lo : Nat) : Nat := d.field (pageOff dom 0x210) hi lo

/-- SET: an export of a range that is wholly mapped in the domain; a misaligned range, a length of zero or no right is
BAD_ARG (R383). -/
def Dev.expSet (d : Dev) (dom : Nat) : Dev :=
  let cva := d.field (pageOff dom 0x200) 56 0
  let len := d.field (pageOff dom 0x208) 39 0
  let rights := d.expCtl dom 9 8
  let n := d.expCtl dom 15 10
  if cva % 65536 != 0 || len % 65536 != 0 || len = 0 || rights = 0 then d.expResult dom 2
  else if (cover d.extents dom cva len).toOption.isNone then d.expResult dom 1
  else
    let x : ExportEntry :=
      { domain := dom, number := n, cva := cva, len := len, rights := rights, peerGroup := d.expCtl dom 63 52,
        peerDomain := d.expCtl dom 47 40, anyDomain := d.expCtl dom 39 39 == 1, clearing := false }
    { d with exports := d.exports.filter (fun (e : ExportEntry) => !(e.domain == dom && e.number == n)) ++ [x] }.expResult dom 0

/-- Whether a request in service holds an export (R374). -/
def Dev.exportHeld (d : Dev) (dom n : Nat) : Bool :=
  d.serving.any fun x => x.exportNo == some n && x.domain == dom && (x.answer.isNone || !x.await.isEmpty)

/-- The end of a CLEAR: the export is gone and DONE is set (R374). -/
def Dev.expCleared (d : Dev) (dom : Nat) : Dev :=
  { d with exports := d.exports.filter fun (e : ExportEntry) => !(e.domain == dom && e.clearing) }.expResult dom 0

/-- CLEAR: the export admits no further request, and goes once no request holds it (R374). -/
def Dev.expClear (d : Dev) (dom : Nat) : Dev :=
  let n := d.expCtl dom 15 10
  let d := d.setField (pageOff dom 0x218) 0 0 0
  let d := { d with exports := modifyAll (fun (e : ExportEntry) => e.domain == dom && e.number == n) (fun (e : ExportEntry) => { e with clearing := true }) d.exports }
  if d.exportHeld dom n then d else d.expCleared dom

/-- A write to EXP_CTRL: its fields, then its operation; while a CLEAR runs another OP is discarded (R383). -/
def Dev.expCtrl (d : Dev) (w : RegWrite) : Dev :=
  let dom := pageOf w.reg
  if w.size != 8 && w.offset % 8 != 0 then d.plainWrite w
  else if d.exports.any fun e => e.domain == dom && e.clearing then d.setField (pageOff dom 0x218) 1 1 1
  else
    let d := d.plainWrite w
    match w.fieldOf 3 0 with
    | 1 => d.expSet dom
    | 2 => d.expClear dom
    | _ => d.expResult dom 2

/-- EXPORT_SET: an EXP_CTRL write whose operation is SET. -/
def devExportSet (w : RegWrite) (d : Dev) : Dev := onRegister (.exportSet w) w (fun _ => isExpOp 1 w) (fun d => d.expCtrl w) d

/-- Execute EXPORT_SET. -/
def execExportSet (w : RegWrite) (s : State) : Host.Outcome State Fault Refusal := whenLive (devExportSet w) s

/-- EXPORT_CLEAR: an EXP_CTRL write whose operation is CLEAR. -/
def devExportClear (w : RegWrite) (d : Dev) : Dev := onRegister (.exportClear w) w (fun _ => isExpOp 2 w) (fun d => d.expCtrl w) d

/-- Execute EXPORT_CLEAR. -/
def execExportClear (w : RegWrite) (s : State) : Host.Outcome State Fault Refusal := whenLive (devExportClear w) s

/-- EXPORT_CLEAR_DRAINED (R374): no request holds the export that the domain is clearing. -/
def devExportClearDrained (domain : Nat) (d : Dev) : Dev :=
  match d.exports.find? fun e => e.domain == domain && e.clearing with
  | some e => if d.exportHeld domain e.number then d else d.expCleared domain
  | none => d

/-- Execute EXPORT_CLEAR_DRAINED. -/
def execExportClearDrained (domain : Nat) (s : State) : Host.Outcome State Fault Refusal := whenLive (devExportClearDrained domain) s

end Sys2Proof.Machine
end

