-- ==== Sys2Proof/Machine/Shaper.lean ====
section
/-! DEFINITION. The egress shaper: credits and tiers (R315 to R319), gate lists (R321, R322), telemetry (R324, R325). -/

namespace Sys2Proof.Machine

/-! ### Points and rates -/

/-- An egress point's state. -/
def Dev.point? (d : Dev) (p : Point) : Option EgPoint := d.points.find? (·.point == p)

/-- Change an egress point. -/
def Dev.modPoint (d : Dev) (p : Point) (f : EgPoint → EgPoint) : Dev := { d with points := modifyAll (·.point == p) f d.points }

/-- The domains' reservations at a point, in kB/s (R49). -/
def EgPoint.reserved (e : EgPoint) : Nat :=
  ((e.queues.filter (·.domain != 256)).map fun q => 100000 * q.reserve).foldl (· + ·) 0

/-- The reservations in force at a rate (R317, R319): scaled to 0.9 of it where they exceed that; the system queue has a
tenth. -/
def EgPoint.atRate (e : EgPoint) (rate : Nat) : EgPoint :=
  let sum := e.reserved
  let limit := rate * 900
  let beyond := decide (limit < sum)
  let f (q : Queue) : Nat :=
    if q.domain = 256 then rate * 100 else if beyond then 100000 * (q.reserve * limit) / sum else 100000 * q.reserve
  { e with rate := rate, scaled := beyond, queues := e.queues.map fun (q : Queue) => { q with applied := f q } }

/-- A point's rate changes: its reservations are scaled or restored, and each domain whose reservation is scaled gets an
EVENT record of kind 3 naming SHAPE_STATUS (R319, R413). -/
def Dev.setRate (d : Dev) (p : Point) (rate : Nat) : Dev :=
  match d.point? p with
  | none => d
  | some e =>
    let e' := e.atRate rate
    let d := d.modPoint p fun _ => e'
    let kind := match p.kind with | .cxl => 1 | .zherek => 2 | .onfi => 3
    if e'.scaled then
      (e'.queues.filter fun q => q.domain != 256 && decide (0 < q.reserve)).foldl (fun d q =>
        d.fault (.domain q.domain) 0x07 none q.domain 0xFFFF 0 0xFFFF (p.base + 0x400) 3 (kind * 256 + p.index)) d
    else d

/-- The queues of a point under an image (R43, R49, R319): one for each domain whose queue set names it, kept with what it
holds; the credit of a domain whose record changed is 0, and what a domain without a queue had there goes to the system
queue (log 14). -/
def EgPoint.reload (e : EgPoint) (img : Image) (enabled : Bool) : EgPoint :=
  let names (r : DomainRec) : Bool := match e.point.kind with
    | .cxl => bit r.portMask e.point.index
    | .zherek => bit r.linkMask e.point.index
    | .onfi => bit r.onfiMask e.point.index
  let doms := sortOrd (fun a b => decide (a < b)) ((img.domains.filter fun r => enabled && names r).map (·.domain))
  let make (dom : Nat) : Queue :=
    let rc := img.shaper.find? fun x => x.domain == dom && x.point == e.point
    let reserve := (rc.map (·.rate)).getD 0
    let burst := (rc.map (·.burst)).getD 0 * 1024
    match e.queues.find? (·.domain == dom) with
    | some q => if q.reserve = reserve ∧ q.burst = burst then q else { q with reserve := reserve, burst := burst, credit := 0 }
    | none => { Queue.system with domain := dom, reserve := reserve, burst := burst }
  let gone := e.queues.filter fun q => q.domain != 256 && !doms.contains q.domain
  let sys := (e.queues.find? (·.domain == 256)).getD Queue.system
  let sys := gone.foldl (fun (s : Queue) q => { s with mem := s.mem ++ q.mem, posted := s.posted ++ q.posted }) sys
  { e with queues := doms.map make ++ [sys] }

/-- Every point takes the queues and reservations of the image in force (R319). -/
def Dev.reloadShaper (d : Dev) : Dev :=
  match d.image with
  | none => d
  | some img =>
    let d := { d with points := d.points.map fun (e : EgPoint) => e.reload img (d.pointEnabled e.point) }
    d.points.foldl (fun d e => d.setRate e.point e.rate) d

/-! ### Gates (R321, R322) -/

/-- A domain's gate group (R327). -/
def Dev.gateGroup (d : Dev) (dom : Nat) : Nat := d.field (0x5000 + 8 * (dom / 16)) (4 * (dom % 16) + 2) (4 * (dom % 16))

/-- The gate groups of all domains as they stand. -/
def Dev.gateGroups (d : Dev) : List Nat := (List.range 256).map d.gateGroup

/-- Entry `i` of a gate list of a point: the groups it opens and its duration (R326). -/
def Dev.gateEntry (d : Dev) (p : Point) (list i : Nat) : Nat × Nat :=
  let v := (d.reg (p.base + 0x480 + 0x80 * list + 8 * i)).toNat
  (bits v 39 32, bits v 31 0)

/-- Whether the entry `i` of the active list opens a queue; the system queue is never gated (R321). -/
def Dev.opens (d : Dev) (e : EgPoint) (dom i : Nat) : Bool :=
  dom == 256 || e.activeLen == 0 || bit (d.gateEntry e.point e.activeList i).1 (at! e.groups dom 0)

/-- How long from now a queue's gate stays open; none where it never closes (R318, R321). -/
def Dev.openFor (d : Dev) (e : EgPoint) (dom : Nat) : Option Nat :=
  let n := e.activeLen
  if dom = 256 ∨ n = 0 ∨ (List.range n).all (d.opens e dom) then none
  else
    let later := ((List.range n).map fun k => (e.entry + 1 + k) % n).takeWhile (d.opens e dom)
    some ((e.entryEnd - d.now) + (later.map fun i => (d.gateEntry e.point e.activeList i).2).foldl (· + ·) 0)

/-! ### Credits (R317) -/

/-- The cap of a queue's credit in bytes. -/
def Queue.cap (q : Queue) (g : Nat) : Nat := if q.domain = 256 ∨ q.burst = 0 then g else q.burst

/-- When a queue's oldest granule came. -/
def Queue.since (q : Queue) : Option Nat :=
  match q.mem.head?, q.posted.head? with
  | some a, some b => some (min a.enq b.enq)
  | some a, none => some a.enq
  | none, some b => some b.enq
  | none, none => none

/-- A queue's credit at time `t`: frozen while its gate is closed; from the time it holds work, up to its cap; an empty
queue loses what is positive and recovers what is negative. -/
def Queue.advance (q : Queue) (g : Nat) (isOpen : Bool) (t : Nat) : Queue :=
  if t ≤ q.upd then q
  else if !isOpen then { q with upd := t }
  else
    let start := max q.upd (q.since.getD t)
    let idle : Int :=
      if q.upd < start then (if 0 < q.credit then 0 else min 0 (q.credit + (q.applied * (start - q.upd) : Nat))) else q.credit
    let credit : Int := if start < t then min ((1000000 * q.cap g : Nat) : Int) (idle + (q.applied * (t - start) : Nat)) else idle
    { q with credit := credit, upd := t }

/-- Every credit of a point brought up to a time. -/
def Dev.creditsTo (d : Dev) (e : EgPoint) (t : Nat) : EgPoint :=
  { e with queues := e.queues.map fun (q : Queue) => q.advance (granuleOf e.point.kind) (d.opens e q.domain e.entry) t }

/-- A queue after it sends a granule of `n` bytes at a rate until `stop`: under tier 1 its credit falls at R - r. -/
def Queue.charge (q : Queue) (n rate : Nat) (tier1 : Bool) (stop : Nat) : Queue :=
  let full := rate * 1000
  { q with credit := if tier1 then q.credit - (1000000 * (n * (full - q.applied)) / full : Nat) else q.credit, upd := stop }

/-! ### The choice of the next granule (R315, R318) -/

/-- The granule a queue would send, and the queue without it: two lanes alternate while both hold work (R315). -/
def Queue.next (q : Queue) : Option (EgGranule × Queue) :=
  match q.mem, q.posted with
  | [], [] => none
  | g :: ms, [] => some (g, { q with mem := ms, lastPosted := false })
  | [], g :: ps => some (g, { q with posted := ps, lastPosted := true })
  | g :: ms, h :: ps => if q.lastPosted then some (g, { q with mem := ms, lastPosted := false }) else some (h, { q with posted := ps, lastPosted := true })

/-- The message that a queue's next granule belongs to. -/
def Queue.headMsg (q : Queue) : Option OutMsg := ((q.mem ++ q.posted).find? (·.msg.isSome)).bind (·.msg)

/-- Whether a link has the credits of a queue's next granule (R318, R365). -/
def Link.affords (l : Link) (q : Queue) (g : EgGranule) : Bool :=
  let (cls, _, _) := ((q.headMsg).map OutMsg.spends).getD (0, 0, 0)
  decide (0 < at! l.headerCredits cls 0) && (g.bytes == 0 || decide (0 < at! l.dataCredits cls 0)) && decide (l.replay.length < 255)

/-- Whether a point can send a queue's next granule: its port, link or channel is in service, and the partner's credits
allow it (R318, R366). -/
def Dev.canSend (d : Dev) (e : EgPoint) (q : Queue) (g : EgGranule) : Bool :=
  match e.point.kind with
  | .cxl => d.ports.any fun p => p.index == e.point.index && p.perstReleased && p.link == .l0
  | .zherek => d.links.any fun l => l.index == e.point.index && l.state == .up && l.affords q g
  | .onfi => d.channels.any fun c => c.index == e.point.index && c.usable && !c.off

/-- The time a granule takes at a rate in MB/s, in ns. -/
def sendTime (bytes rate : Nat) : Nat := ceilDiv (bytes * 1000) rate

/-- Whether a queue may send now: its gate is open and its next granule ends before the gate closes (R318). -/
def Dev.mayPick (d : Dev) (e : EgPoint) (q : Queue) : Bool :=
  match q.next with
  | none => false
  | some (g, _) =>
    d.opens e q.domain e.entry && d.canSend e q g &&
      match d.openFor e q.domain with
      | none => true
      | some t => decide (sendTime g.bytes e.rate ≤ t)

/-- Round-robin in ascending domain number, after the domain served last. -/
def roundRobin (last : Nat) (qs : List Queue) : List Queue :=
  let s := sortOrd (fun (a b : Queue) => decide (a.domain < b.domain)) qs
  s.filter (fun q => decide (last < q.domain)) ++ s.filter fun q => decide (q.domain ≤ last)

/-- The queue that sends next, and whether under tier 1 (R318); a queue without a reservation has no credit (R317). -/
def Dev.pick (d : Dev) (e : EgPoint) : Option (Queue × Bool) :=
  let ready := e.queues.filter (d.mayPick e)
  match (roundRobin e.last1 (ready.filter fun q => decide (0 < q.applied) && decide (0 ≤ q.credit))).head? with
  | some q => some (q, true)
  | none => (roundRobin e.last2 ready).head?.map fun q => (q, false)

/-- A point's state after a queue has sent: the queue, and who was served last in which tier. -/
def EgPoint.served (e : EgPoint) (q : Queue) (tier1 : Bool) : EgPoint :=
  { e with
    queues := modifyAll (·.domain == q.domain) (fun _ => q) e.queues
    last1 := if tier1 then q.domain else e.last1
    last2 := if tier1 then e.last2 else q.domain }

/-- A granule that leaves on a link is a slot of a frame; the last of its message carries the header (R362, R365). -/
def Dev.linkGranule (d : Dev) (link : Nat) (q : Queue) (g : EgGranule) : Dev :=
  let (cls, _, _) := ((q.headMsg).map OutMsg.spends).getD (0, 0, 0)
  let ms := match g.msg with
    | some m => [m]
    | none => []
  { d with links := modifyAll (·.index == link) (fun (l : Link) => (l.spend cls (b2n g.msg.isSome) (b2n (decide (0 < g.bytes)))).frame ms) d.links }

/-- The media operation that a queue's next granule at a channel stands for: the domain's oldest that waits there. -/
def Dev.opOf (d : Dev) (e : EgPoint) (dom : Nat) : Option MediaOp :=
  let mine (m : MediaOp) : Bool :=
    if e.queues.any (fun q => q.domain == m.domain && q.domain != 256) then m.domain == dom else dom == 256
  let shared (m : MediaOp) : Bool := m.kind == .read &&
    d.media.any fun x => x.onMedia && x.kind == .read && x.granule == m.granule && x.domain == m.domain
  d.media.find? fun m => m.channel == e.point.index && m.kind != .erase && !m.onMedia && mine m && !shared m

/-- A channel's turn (R263, R273, R314): the chosen domain's oldest operation goes to the media if the governor admits it;
otherwise it is held and the channel sends nothing. -/
def Dev.channelTurn (d : Dev) (e : EgPoint) (q : Queue) (tier1 : Bool) (stop : Nat) : Dev :=
  let gone := e.served (q.charge 65536 e.rate tier1 stop) tier1
  if d.media.any fun m => m.channel == e.point.index && m.held && !m.onMedia then d.modPoint e.point fun _ => e
  else
    match d.opOf e q.domain with
    | none => (d.modPoint e.point fun _ => gone).popQueue e.point q.domain
    | some m =>
      if !d.mayIssue m then d.modPoint e.point fun _ => e
      else if d.mediaAdmits m then (d.modPoint e.point fun _ => gone).putOnMedia m
      else (d.modPoint e.point fun _ => e).tryMedia m

/-- SHAPER_GRANULE (R318): a granule ends at a point, and the next is chosen and sent. -/
def devShaperGranule (p : Point) (t : Nat) (d : Dev) : Dev :=
  let d := d.atTime t
  match d.point? p with
  | none => d
  | some e =>
    if e.rate = 0 then d
    else
      let e := d.creditsTo e d.now
      match d.pick e with
      | none => d.modPoint p fun _ => e
      | some (q, tier1) =>
        match q.next with
        | none => d
        | some (g, q') =>
          let stop := d.now + sendTime g.bytes e.rate
          if p.kind == .onfi then d.channelTurn e q tier1 stop
          else
            let d := d.modPoint p fun _ => e.served (q'.charge g.bytes e.rate tier1 stop) tier1
            let d := if p.kind == .zherek then d.linkGranule p.index q g else d
            match g.msg with
            | some m => d.emit m
            | none => d

/-! ### Gate lists -/

/-- A takeover (R322): the lists exchange roles, the new one starts at its entry 0, ARM clears and TOOK_OVER is set; the old
list's length becomes the pending one's (log 41). -/
def Dev.takeOver (d : Dev) (p : Point) : Dev :=
  match d.point? p with
  | none => d
  | some e =>
    let c := p.base + 0x408
    let e := d.creditsTo e d.now
    let list := 1 - e.activeList
    let e' := { e with activeList := list, activeLen := d.field c 12 8, entry := 0, groups := d.gateGroups, entryEnd := d.now + (d.gateEntry p list 0).2 }
    ((((d.modPoint p fun _ => e').setField c 12 8 e.activeLen).setField c 0 0 0).setField c 1 1 1)

/-- A write to GATE_CTRL (R322): a change of PEND_LEN while ARM is set is discarded; setting ARM after TIME has passed
takes over at once. A length above 16 is no length (log 41). -/
def Dev.gateCtrl (d : Dev) (p : Point) (w : RegWrite) : Dev :=
  let c := p.base + 0x408
  let old := d.reg c
  let v := d.after w
  let len := bits v.toNat 12 8
  let keep := bits old.toNat 12 8
  let armed := old.toNat % 2 == 1
  let bad := len != keep && (armed || decide (16 < len))
  let d := d.setReg c (putField v 12 8 (if bad then keep else len))
  let d := if bad && armed then d.setField c 63 63 1 else d
  if !armed && d.field c 0 0 = 1 && decide ((d.reg (p.base + 0x410)).toNat ≤ d.now) then d.takeOver p else d

/-- A write to GATE_TAKEOVER: discarded while ARM is set (R322). -/
def Dev.gateTime (d : Dev) (p : Point) (w : RegWrite) : Dev :=
  if d.field (p.base + 0x408) 0 0 = 1 then d.setField (p.base + 0x408) 63 63 1 else d.plainWrite w

/-- A write to GATE_ENTRY: to the active list discarded (R322); a duration below 100 ns is out of range (R326, log 41). -/
def Dev.gateEntryWrite (d : Dev) (p : Point) (w : RegWrite) : Dev :=
  let list := (w.reg - (p.base + 0x480)) / 0x80
  if (d.point? p).any (·.activeList == list) then d.setField (p.base + 0x408) 63 63 1
  else if (w.size == 8 || w.offset % 8 == 0) && decide (bits (d.after w).toNat 31 0 < 100) then d
  else d.plainWrite w

/-- The egress point whose unit block an offset lies in. -/
def pointOf (off : Nat) : Option Point :=
  match blockOf off with
  | .port i => some { kind := .cxl, index := i }
  | .link i => some { kind := .zherek, index := i }
  | .onfi i => some { kind := .onfi, index := i }
  | _ => none

/-- A write in a unit block's shaper registers (R326). -/
def Dev.shaperWrite (d : Dev) (p : Point) (w : RegWrite) : Dev :=
  let rel := w.reg - p.base
  if rel = 0x408 then d.gateCtrl p w
  else if rel = 0x410 then d.gateTime p w
  else if 0x480 ≤ rel ∧ rel < 0x580 then d.gateEntryWrite p w
  else d.plainWrite w

/-- Whether a write names GATE_CTRL, reaches ARM and would leave it as said. -/
def armsTo (d : Dev) (w : RegWrite) (arm : Bool) : Bool :=
  match pointOf w.reg with
  | some p => w.reg == p.base + 0x408 && (w.size == 8 || w.offset % 8 == 0) && w.sets 0 == arm && d.field (p.base + 0x408) 0 0 == b2n (!arm)
  | none => false

/-- The GATE_CTRL write of a point. -/
def Dev.gateCtrlOf (d : Dev) (w : RegWrite) : Dev :=
  match pointOf w.reg with
  | some p => d.gateCtrl p w
  | none => d

/-- GATE_ARM: a GATE_CTRL write that sets ARM (R322). -/
def devGateArm (w : RegWrite) (d : Dev) : Dev := onRegister (.gateArm w) w (fun d => armsTo d w true) (fun d => d.gateCtrlOf w) d

/-- Execute GATE_ARM. -/
def execGateArm (w : RegWrite) (s : State) : Host.Outcome State Fault Refusal := whenLive (devGateArm w) s

/-- GATE_DISARM: a GATE_CTRL write that clears ARM, which cancels the takeover (R322). -/
def devGateDisarm (w : RegWrite) (d : Dev) : Dev := onRegister (.gateDisarm w) w (fun d => armsTo d w false) (fun d => d.gateCtrlOf w) d

/-- Execute GATE_DISARM. -/
def execGateDisarm (w : RegWrite) (s : State) : Host.Outcome State Fault Refusal := whenLive (devGateDisarm w) s

/-- GATE_TAKEOVER: TIME is reached with ARM set (R322). -/
def devGateTakeover (p : Point) (t : Nat) (d : Dev) : Dev :=
  let d := d.atTime t
  if d.pointEnabled p && d.field (p.base + 0x408) 0 0 = 1 && decide ((d.reg (p.base + 0x410)).toNat ≤ d.now) then d.takeOver p else d

/-- Execute GATE_TAKEOVER. -/
def execGateTakeover (p : Point) (t : Nat) (s : State) : Host.Outcome State Fault Refusal := whenLive (devGateTakeover p t) s

/-- GATE_ENTRY_BOUNDARY (R321, R322): the running entry's time is over and the next one starts, with the gate groups as
they now stand. -/
def devGateEntryBoundary (p : Point) (t : Nat) (d : Dev) : Dev :=
  let d := d.atTime t
  match d.point? p with
  | none => d
  | some e =>
    if e.activeLen = 0 || decide (d.now < e.entryEnd) then d
    else
      let e := d.creditsTo e e.entryEnd
      let i := (e.entry + 1) % e.activeLen
      d.modPoint p fun _ => { e with entry := i, groups := d.gateGroups, entryEnd := e.entryEnd + (d.gateEntry p e.activeList i).2 }

/-- Execute GATE_ENTRY_BOUNDARY. -/
def execGateEntryBoundary (p : Point) (t : Nat) (s : State) : Host.Outcome State Fault Refusal := whenLive (devGateEntryBoundary p t) s

/-! ### Telemetry (R324, R325) -/

/-- The bin of a head delay (R324). -/
def delayBin (ns : Nat) : Nat := ([1000, 2000, 4000, 8000, 16000, 64000, 256000].filter fun x => decide (x ≤ ns)).length

/-- A queue's depth in bytes. -/
def Queue.depth (q : Queue) : Nat := ((q.mem ++ q.posted).map (·.bytes)).foldl (· + ·) 0

/-- A queue's head delay at a time. -/
def Queue.delay (q : Queue) (t : Nat) : Nat :=
  match q.since with
  | some x => t - x
  | none => 0

/-- One sample added to a set of statistics; counts and sums stop at their greatest value. -/
def Telemetry.add (s : Telemetry) (depth delay : Nat) : Telemetry :=
  { maxBytes := max s.maxBytes depth, maxNs := max s.maxNs delay, count := min countMax (s.count + 1), sum := min countMax (s.sum + delay),
    bins := s.bins.modify (delayBin delay) fun x => min countMax (x + 1) }

/-- The counts of a set of statistics, in the order of their registers (R327). -/
def Telemetry.counts (s : Telemetry) : List Nat := s.count :: s.sum :: s.bins

/-- The registers of a set whose counts a sample saturates (R324): their offsets from TELEM_SAMPLES. -/
def Telemetry.fills (s s' : Telemetry) : List Nat :=
  ((List.range 10).filter fun i => at! s.counts i 0 != countMax && at! s'.counts i 0 == countMax).map (8 * ·)

/-- TELEM_SAMPLE (R324): every queue of every point is sampled at one instant into both of its sets. -/
def devTelemSample (t : Nat) (d : Dev) : Dev :=
  let d := d.atTime t
  let sample (q : Queue) : Queue :=
    { q with globalStats := q.globalStats.add q.depth (q.delay d.now), domainStats := q.domainStats.add q.depth (q.delay d.now) }
  let qs := d.points.flatMap (·.queues)
  let d' := { d with points := d.points.map fun (e : EgPoint) => { e with queues := e.queues.map sample } }
  qs.foldl (fun d q =>
    let q' := sample q
    let d := (q.globalStats.fills q'.globalStats).foldl (fun d o => d.saturated (0x5110 + o)) d
    if q.domain = 256 then d
    else (q.domainStats.fills q'.domainStats).foldl (fun d o => d.saturated (pageOff q.domain (0x158 + o))) d) d'

/-- Execute TELEM_SAMPLE. -/
def execTelemSample (t : Nat) (s : State) : Host.Outcome State Fault Refusal := whenLive (devTelemSample t) s

/-- The point that a TELEM_SEL value names. -/
def selPoint (v : Nat) : Option Point :=
  match bits v 41 40 with
  | 0 => some { kind := .cxl, index := bits v 39 32 }
  | 1 => some { kind := .zherek, index := bits v 39 32 }
  | 2 => some { kind := .onfi, index := bits v 39 32 }
  | _ => none

/-- A count as its snapshot register shows it: OVERFLOW once it has saturated (R324, R327). -/
def snapCount (n : Nat) : W64 := BitVec.ofNat 64 (b2n (n == countMax) * 2 ^ 63 + n)

/-- The twelve snapshot registers of a queue (R327). -/
def snapshot (q : Queue) (s : Telemetry) (t : Nat) : List W64 :=
  let sat (n : Nat) : Nat := min n 0xFFFF_FFFF
  BitVec.ofNat 64 (2 ^ 63 + min s.maxBytes 0x7FFF_FFFF * 2 ^ 32 + sat q.depth) :: BitVec.ofNat 64 (sat s.maxNs * 2 ^ 32 + sat (q.delay t)) ::
    s.counts.map snapCount

/-- Set registers in a row from an offset. -/
def Dev.setRow (d : Dev) (off : Nat) (vs : List W64) : Dev := ((List.range vs.length).zip vs).foldl (fun d e => d.setReg (off + 8 * e.1) e.2) d

/-- A write to TELEM_SEL, device-global or of a page (R325): the named queue's statistics are latched, and with CLEAR reset;
a queue that is not there latches zeros. -/
def Dev.telemSel (d : Dev) (w : RegWrite) : Dev :=
  let d := d.plainWrite w
  let v := (d.reg w.reg).toNat
  let page := match blockOf w.reg with
    | .page dom => some dom
    | _ => none
  let dom := page.getD (if bits v 15 0 = 0xFFFF then 256 else bits v 15 0)
  let base := match page with
    | some dm => pageOff dm 0x148
    | none => 0x5100
  let found := match selPoint v with
    | some p => if d.pointEnabled p && !(page.isNone && bits v 15 0 == 256) then (d.point? p).bind fun e => (e.queues.find? (·.domain == dom)).map fun q => (p, q) else none
    | none => none
  match found with
  | none => d.setRow base (List.replicate 12 0)
  | some (p, q) =>
    let d := d.setRow base (snapshot q (if page.isSome then q.domainStats else q.globalStats) d.now)
    if w.sets 63 then
      let clear (x : Queue) : Queue := if page.isSome then { x with domainStats := Telemetry.zero } else { x with globalStats := Telemetry.zero }
      d.modPoint p fun e => { e with queues := modifyAll (·.domain == q.domain) clear e.queues }
    else d

/-- Whether an offset is a TELEM_SEL. -/
def isTelemSel (off : Nat) : Bool :=
  match blockOf off with
  | .page dom => off == pageOff dom 0x140
  | _ => off == 0x5088

/-- TELEM_SEL_WRITE (R325). -/
def devTelemSelWrite (w : RegWrite) (d : Dev) : Dev := onRegister (.telemSelWrite w) w (fun _ => isTelemSel w.reg) (fun d => d.telemSel w) d

/-- Execute TELEM_SEL_WRITE. -/
def execTelemSelWrite (w : RegWrite) (s : State) : Host.Outcome State Fault Refusal := whenLive (devTelemSelWrite w) s

end Sys2Proof.Machine
end

