-- ==== Sys2Proof/Machine/Tiers.lean ====
section
/-! DEFINITION. Demotion, flash reads and the Conservator's upkeep of the media (R257 to R274). -/

namespace Sys2Proof.Machine

/-! ### Blocks of the media (R270) -/

/-- Change the Conservator's record of a block, which starts erased, with no cycles and no reads. -/
def Dev.modFlash (d : Dev) (ch n : Nat) (f : FlashBlock → FlashBlock) : Dev :=
  let mine (b : FlashBlock) : Bool := b.channel == ch && b.number == n
  if d.flash.any mine then { d with flash := modifyAll mine f d.flash }
  else { d with flash := d.flash ++ [f { channel := ch, number := n, erased := true, cycles := 0, reads := 0, lastPatrol := d.now, retired := false }] }

/-- A MEDIA record (R413): channel, block and kind; the chip enable and LUN of the block are free (log 42). -/
def Dev.mediaFault (d : Dev) (ch blk kind : Nat) : Dev := d.fault .device 0x09 none 0xFFFF 0xFFFF 0 0xFFFF (ch % 256 + 256 * (Config.dieOf ch blk % 32)) blk kind

/-- Operations suspended on a channel resume once no read is on their die (R266). -/
def Dev.resumeMedia (d : Dev) (ch : Nat) : Dev :=
  let reading (m : MediaOp) : Bool := d.media.any fun x => x.onMedia && x.kind == .read && x.die == m.die
  { d with media := modifyAll (fun (m : MediaOp) => m.channel == ch && m.suspended && !reading m) (fun (m : MediaOp) => { m with suspended := false }) d.media }

/-- The granules with a flash copy on a block. -/
def Dev.onBlockOf (d : Dev) (ch blk : Nat) : List Granule :=
  d.granules.filter fun g => g.channel == ch && g.block == blk && g.residency != .dram

/-- Granules move to other blocks of their channel, as internal traffic (R270, R271). -/
def Dev.relocateAll (d : Dev) (gs : List Granule) : Dev :=
  gs.foldl (fun d g =>
    if d.media.any fun m => m.kind == .program && m.granule == g.number && !m.discard then d
    else d.queueMedia (MediaOp.make .program g.number g.channel 256 (d.blockFor g.channel) [])) d

/-- The valid granules of a block move to other blocks (R270, R271). -/
def Dev.relocate (d : Dev) (ch blk : Nat) : Dev := d.relocateAll (d.onBlockOf ch blk)

/-- The reserve left, % of good blocks (R270, R274): a retired block lowers it, by how much the size of the media says (log 42). -/
def Dev.useReserve (d : Dev) : Dev :=
  { d.setField 0x4020 23 16 (min (d.field 0x4020 23 16) (Config.freeNat d.draws)) with draws := d.draws + 1 }

/-- A block is retired: it takes no program and is never erased, and a MEDIA record says why (R270). -/
def Dev.retireBlock (d : Dev) (ch blk kind : Nat) : Dev :=
  ((d.modFlash ch blk fun b => { b with retired := true }).useReserve).mediaFault ch blk kind

/-- A block that holds no valid granule any more is erased, unless it is retired (R270). -/
def Dev.eraseEmpty (d : Dev) (ch blk : Nat) : Dev :=
  let off := d.blockInUse ch blk || (d.flash.any fun b => b.channel == ch && b.number == blk && b.retired) ||
    d.media.any fun m => m.kind != .read && m.channel == ch && m.block == blk
  if off then d else d.queueErase (MediaOp.make .erase 0 ch 256 blk [])

/-- Remove a media operation; what it suspended resumes. -/
def Dev.endMedia (d : Dev) (m : MediaOp) : Dev := { d with media := d.media.erase m }.resumeMedia m.channel

/-! ### Programs and erases -/

/-- A program did not give a verified copy (R259, R270): its block is retired, and it starts again on another one. -/
def Dev.programFailed (d : Dev) (m : MediaOp) : Dev :=
  let d := d.retireBlock m.channel m.block 1
  if m.discard then d
  else if m.domain = 256 then d.queueMedia (MediaOp.make .program m.granule m.channel 256 (d.blockFor m.channel) [])
  else d.demote m.granule m.domain m.cmds

/-- A verified copy lies on a block (R259, R270): the granule is BOTH and its DRAM copy droppable, or, where a copy was moved, its old
block is empty. -/
def Dev.programmed (d : Dev) (m : MediaOp) : Dev :=
  let here (g : Granule) : Granule := { g with channel := m.channel, block := m.block }
  match d.granule? m.granule with
  | some g =>
    if g.residency == .dram then
      (if m.domain = 256 then d.eraseEmpty m.channel m.block else ((d.setGranule { here g with residency := .both, dropping := true }).dropReady).settle)
    else (d.setGranule (here g)).eraseEmpty g.channel g.block
  | none =>
    if m.domain = 256 then d.eraseEmpty m.channel m.block
    else
      ((d.setGranule { number := m.granule, domain := m.domain, residency := .both, channel := m.channel, block := m.block, lastRead := 0, dropping := true }).dropReady).settle

/-- FLASH_PROGRAM_DONE (R259, R260, R267, R270): a void result is discarded, and its block erased. -/
def devFlashProgramDone (granule : Nat) (programOk verified : Bool) (d : Dev) : Dev :=
  match d.media.find? fun m => m.kind == .program && m.granule == granule && m.onMedia with
  | none => d
  | some m =>
    let d := d.endMedia m
    if !programOk || !verified then d.programFailed m
    else
      let d := d.modFlash m.channel m.block fun b => { b with erased := false }
      if m.discard then d.eraseEmpty m.channel m.block else d.programmed m

/-- Execute FLASH_PROGRAM_DONE. -/
def execFlashProgramDone (granule : Nat) (programOk verified : Bool) (s : State) : Host.Outcome State Fault Refusal :=
  whenLive (devFlashProgramDone granule programOk verified) s

/-- WEAR_PCT (R274): the cycles of the most worn block as a percentage of the rated ones (DEDUCED: a die is as worn as its most worn block). -/
def Dev.showWear (d : Dev) : Dev :=
  d.setField 0x4020 31 24 (min 255 ((d.flash.map fun b => b.cycles * 100 / max 1 (Config.ratedCycles b.channel)).foldl max (d.field 0x4020 31 24)))

/-- A block has been erased once more (R270): at its rated cycles it is worn out and retired. -/
def Dev.erasedOnce (d : Dev) (ch blk : Nat) : Dev :=
  let d := (d.modFlash ch blk fun b => { b with cycles := b.cycles + 1, reads := 0, erased := true }).showWear
  if d.flash.any fun b => b.channel == ch && b.number == blk && decide (max 1 (Config.ratedCycles ch) ≤ b.cycles) then d.retireBlock ch blk 4 else d

/-- FLASH_ERASE_DONE (R270). -/
def devFlashEraseDone (channel block : Nat) (ok : Bool) (d : Dev) : Dev :=
  match d.media.find? fun m => m.kind == .erase && m.channel == channel && m.block == block && m.onMedia with
  | none => d
  | some m => if ok then (d.endMedia m).erasedOnce channel block else (d.endMedia m).retireBlock channel block 2

/-- Execute FLASH_ERASE_DONE. -/
def execFlashEraseDone (channel block : Nat) (ok : Bool) (s : State) : Host.Outcome State Fault Refusal :=
  whenLive (devFlashEraseDone channel block ok) s

/-- GOVERNOR_RELEASE (R273): held reads go before held programs and erases, in queue order. -/
def devGovernorRelease (d : Dev) : Dev := d.runMedia

/-- Execute GOVERNOR_RELEASE. -/
def execGovernorRelease (s : State) : Host.Outcome State Fault Refusal := whenLive devGovernorRelease s

/-! ### Reads (R256 to R258, R262) -/

/-- A domain's TIER_CTRL field (R264). -/
def Dev.tierField (d : Dev) (dom hi lo : Nat) : Nat := d.field (pageOff dom 0x100) hi lo

/-- A granule that was filled is retained in DRAM as BOTH where PROMOTE is set and the quota has or gets room (R257). -/
def Dev.retain (d : Dev) (g dom : Nat) : Dev :=
  if d.tierField dom 1 1 = 0 then d
  else
    let d' := d.makeRoom dom 65536
    if d'.dramRoom dom 65536 then d'.promote g else d'

/-- The sectors of a fill that fail their check in what a reader asked for enter the ladder for it (R256, R399). -/
def Dev.climbFor (d : Dev) (w : RepairWaiter) (secs : List Nat) : Dev := secs.foldl (fun d sec => d.startRepair sec w) d

/-- A granule has been read for a command (R257): the steps that waited for it have it in their engines' buffers. -/
def Dev.fillCmd (d : Dev) (g : Nat) (fails : List Nat) (r : SlotRef) : Dev :=
  match d.cmd? r with
  | none => d
  | some k =>
    let hit := (k.plan.take k.issued).filter fun s => s.cold.contains g
    let fill (s : Step) : Step := if s.cold.contains g then { s with cold := s.cold.erase g, warm := s.warm ++ [g] } else s
    hit.foldl (fun d s => d.climbFor (.step r s.num) (fails.filter fun sec => sectorIn sec (d.stepReads r k s)))
      (d.modCmd r fun k => { k with plan := k.plan.map fill })

/-- A host read whose granule has been filled is answered, or held by the ladder (R258, R403). -/
def Dev.fillHost (d : Dev) (fails : List Nat) (h : HostWait) : Dev :=
  match fails.filter fun sec => sectorIn sec [⟨h.sa, 64⟩] with
  | [] => d.toPort h.a.port h.domain false 64 none (.memData h.a.port h.a.host h.a.dpa (d.lineData h.sa))
  | secs => d.climbFor (.hostRead h) secs

/-- The sectors of a granule whose check fails (R256); where LDPC could not correct and the row names none, one of them, which is free
(log 43). -/
def Dev.fillFails (d : Dev) (g : Nat) (ok : Bool) (fails : List Nat) : List Nat :=
  let own := fails.filter fun sec => sec / 2048 == g
  if own.isEmpty && !ok then [g * 2048 + Config.freeNat d.draws % 2048] else own

/-- The block of a read: it is counted; one with an uncorrectable read is retired once its other granules move, one read too often is
emptied (R270). -/
def Dev.blockRead (d : Dev) (m : MediaOp) (ok : Bool) : Dev :=
  let d := d.modFlash m.channel m.block fun b => { b with reads := b.reads + 1 }
  if !ok then ((d.retireBlock m.channel m.block 3).relocateAll ((d.onBlockOf m.channel m.block).filter fun g => g.number != m.granule))
  else if d.flash.any fun b => b.channel == m.channel && b.number == m.block && decide (d.field 0x4018 31 16 * 1000 ≤ b.reads) then
    d.relocate m.channel m.block
  else d

/-- A fill reaches all that waited for it: steps, hosts and requests; every sector that fails its check is repaired, and a granule that
is whole may be retained (R256 to R258). -/
def Dev.filled (d : Dev) (m : MediaOp) (fails : List Nat) : Dev :=
  let d := m.cmds.foldl (fun d r => d.fillCmd m.granule fails r) (d.climbFor .patrol fails)
  let keeps := !m.hosts.isEmpty || !m.fabs.isEmpty || m.cmds.any fun r => (d.cmd? r).any fun k => cmdVerb k != some .stream
  let d := if m.discard then d else d.touch [m.granule]
  let d := if keeps && fails.isEmpty && !m.discard then d.retain m.granule m.domain else d
  let d := m.hosts.foldl (fun d h => d.fillHost fails h) d
  m.fabs.foldl (fun d x => (d.climbFor (.request x.1 x.2) fails).delivered x.1 x.2 m.granule) d

/-- FLASH_READ_DONE (R257, R258, R262, R270): `ok` says that LDPC corrected every codeword, `fails` are the sectors that fail their check. -/
def devFlashReadDone (granule : Nat) (ok : Bool) (fails : List Nat) (t : Nat) (d : Dev) : Dev :=
  let d := d.atTime t
  match d.media.find? fun m => m.kind == .read && m.granule == granule && m.onMedia with
  | none => d
  | some m =>
    let bad := d.fillFails granule ok fails
    ((({ d with draws := d.draws + 1 }.endMedia m).filled m bad).blockRead m ok).serveWaiting

/-- Execute FLASH_READ_DONE. -/
def execFlashReadDone (granule : Nat) (ok : Bool) (fails : List Nat) (t : Nat) (s : State) : Host.Outcome State Fault Refusal :=
  whenLive (devFlashReadDone granule ok fails t) s

/-- The cycles of a block lie 10% below the mean of its die (R270). -/
def Dev.underworn (d : Dev) (ch blk : Nat) : Bool :=
  let die := d.flash.filter fun b => b.channel == ch && Config.dieOf ch b.number == Config.dieOf ch blk && !b.retired
  let sum := (die.map (·.cycles)).foldl (· + ·) 0
  (d.flash.find? fun b => b.channel == ch && b.number == blk).any fun b => decide (b.cycles * die.length * 10 < sum * 9)

/-- FLASH_PATROL (R270, R452): a powered channel's block is patrol-read; a marginal one is relocated, and so are the granules of a little
worn block that nothing has read since its last patrol (DEDUCED: those are its cold data; log 42). -/
def devFlashPatrol (channel block : Nat) (marginal : Bool) (t : Nat) (d : Dev) : Dev :=
  let d := d.atTime t
  if d.channels.any fun c => c.index == channel && c.usable && !c.off then
    let last := ((d.flash.find? fun b => b.channel == channel && b.number == block).map (·.lastPatrol)).getD d.now
    let d := d.modFlash channel block fun b => { b with reads := b.reads + 1, lastPatrol := d.now }
    if marginal then d.relocate channel block
    else if d.underworn channel block then d.relocateAll ((d.onBlockOf channel block).filter fun g => decide (g.lastRead ≤ last))
    else d
  else d

/-- Execute FLASH_PATROL. -/
def execFlashPatrol (channel block : Nat) (marginal : Bool) (t : Nat) (s : State) : Host.Outcome State Fault Refusal :=
  whenLive (devFlashPatrol channel block marginal t) s

/-! ### Automatic demotion (R263) -/

/-- A domain's eligible granules with their residency and last read: sealed, in DRAM or BOTH, not read for AGE_S; in order
of least recent read, then of SA. -/
def Dev.eligibleGranules (d : Dev) (dom : Nat) : List (Nat × Residency × Nat) :=
  let gs := ((d.sealedSpans.filter (·.1 == dom)).flatMap fun e => granulesOf e.2).eraseDups
  let all := gs.map fun g => match d.granule? g with
    | some x => (g, x.residency, x.lastRead)
    | none => (g, .dram, 0)
  let old (e : Nat × Residency × Nat) : Bool := e.2.1 != .flash && decide (1000000000 * d.tierField dom 47 32 + e.2.2 ≤ d.now)
  sortOrd (fun a b => decide (a.2.2 < b.2.2) || (a.2.2 == b.2.2 && decide (a.1 < b.1))) (all.filter old)

/-- Whether a domain's DRAM usage is above a percentage of its quota. -/
def Dev.usageOver (d : Dev) (dom pct less : Nat) : Bool := decide (pct * d.dramQuota dom < (d.dramUse dom - less) * 100)

/-- Whether the flash tier takes new demotions: in service (R441), with reserve left (R270). -/
def Dev.flashOpen (d : Dev) : Bool := d.acc.state == .availableFull && decide (2 ≤ d.field 0x4020 23 16)

/-- The BOTH granules of a list lose their DRAM copies, oldest first, until a domain's usage is no longer above LOW_PCT (R263). -/
def Dev.dropBoth (d : Dev) (dom : Nat) (gs : List (Nat × Residency × Nat)) : Dev :=
  (gs.filter (·.2.1 == .both)).foldl (fun d e =>
    if d.usageOver dom (d.tierField dom 23 16) 0 then
      match d.granule? e.1 with
      | some x => (d.setGranule { x with dropping := true }).dropReady
      | none => d
    else d) d

/-- The DRAM granules of a list are demoted, oldest first, as far as the flash quota takes them and until the usage, less what
the programs under way will free, is no longer above LOW_PCT (R263). -/
def Dev.demoteDown (d : Dev) (dom : Nat) (gs : List (Nat × Residency × Nat)) : Dev :=
  let under := (d.media.filter fun m => m.kind == .program && m.domain == dom && !m.discard).map (·.granule)
  let room := (d.flashQuota dom - d.flashUse dom) / 65536 - under.length
  let new := (gs.filter fun e => e.2.1 == .dram && !under.contains e.1).take room
  (new.foldl (fun (acc : Dev × Nat) e =>
    if acc.1.usageOver dom (d.tierField dom 23 16) acc.2 then (acc.1.demote e.1 dom [], acc.2 + 65536) else acc) (d, 65536 * under.length)).1

/-- TIER_CHECK (R263): from HIGH_PCT on, BOTH granules are dropped, then DRAM granules demoted, until usage is at LOW_PCT. -/
def devTierCheck (domain t : Nat) (d : Dev) : Dev :=
  let d := d.atTime t
  if (d.domainRec domain).isNone || d.tierField domain 0 0 = 0 || !d.flashOpen then d
  else if decide (d.dramUse domain * 100 < d.tierField domain 31 24 * d.dramQuota domain) then d
  else
    let gs := d.eligibleGranules domain
    ((d.dropBoth domain gs).demoteDown domain gs).settle

/-- Execute TIER_CHECK. -/
def execTierCheck (domain t : Nat) (s : State) : Host.Outcome State Fault Refusal := whenLive (devTierCheck domain t) s

/-! ### TIER_CTRL and MEDIA_GOV (R264, R274) -/

/-- A write to TIER_CTRL: discarded with REFUSED in TIER_STATUS where LOW_PCT ≥ HIGH_PCT, HIGH_PCT > 100 or AGE_S = 0. -/
def Dev.tierCtrl (d : Dev) (w : RegWrite) : Dev :=
  let ok (v : W64) : Bool := decide (bits v.toNat 23 16 < bits v.toNat 31 24) && decide (bits v.toNat 31 24 ≤ 100) && bits v.toNat 47 32 != 0
  d.rangedWrite w ok (some (w.reg + 8, 63))

/-- TIER_CTRL_WRITE. -/
def devTierCtrlWrite (w : RegWrite) (d : Dev) : Dev :=
  onRegister (.tierCtrlWrite w) w (fun _ => match blockOf w.reg with | .page dom => w.reg == pageOff dom 0x100 | _ => false) (fun d => d.tierCtrl w) d

/-- Execute TIER_CTRL_WRITE. -/
def execTierCtrlWrite (w : RegWrite) (s : State) : Host.Outcome State Fault Refusal := whenLive (devTierCtrlWrite w) s

/-- A write to MEDIA_GOV: discarded with REFUSED where CEILING_W is outside 50–1,000. -/
def Dev.mediaGov (d : Dev) (w : RegWrite) : Dev :=
  d.rangedWrite w (fun v => decide (50 ≤ bits v.toNat 11 0) && decide (bits v.toNat 11 0 ≤ 1000)) (some (0x4000, 63))

/-- MEDIA_GOV_WRITE. -/
def devMediaGovWrite (w : RegWrite) (d : Dev) : Dev := onRegister (.mediaGovWrite w) w (fun _ => w.reg == 0x4000) (fun d => d.mediaGov w) d

/-- Execute MEDIA_GOV_WRITE. -/
def execMediaGovWrite (w : RegWrite) (s : State) : Host.Outcome State Fault Refusal := whenLive (devMediaGovWrite w) s

end Sys2Proof.Machine
end

