-- ==== Sys2Proof/Machine/PageRegs.lean ====
section
/-! DEFINITION. Writes to a domain page: the one place that says what each register of it does (R417, R467, chapter 19),
used by the rows of single registers and by the writes that an image load holds (R30, R58). -/

namespace Sys2Proof.Machine

/-! ### Fault areas (R417) -/

/-- The area whose FAULT_BASE, FAULT_CTRL and FAULT_STATUS lie at an offset. -/
def areaAt (off : Nat) : Option FaultArea :=
  match blockOf off with
  | .page dm => if pageOff dm 0x300 ≤ off ∧ off ≤ pageOff dm 0x310 then some (.domain dm) else none
  | .global => if 0x8000 ≤ off ∧ off ≤ 0x8010 then some .device else none
  | _ => none

/-- A write to FAULT_CTRL (R417): ENABLE set from 0 clears NEXT, and for the device area takes up SLOTS, whose values
outside 16–4,096 are discarded. -/
def Dev.faultCtrl (d : Dev) (a : FaultArea) (w : RegWrite) : Dev :=
  let c := areaBase a + 8
  let old := d.reg c
  let v := d.after w
  let slots := bits v.toNat 44 32
  let v := if a == .device && (decide (slots < 16) || decide (4096 < slots)) then putField v 44 32 (bits old.toNat 44 32) else v
  let d := d.setReg c v
  if old.toNat % 2 = 0 && v.toNat % 2 == 1 then
    let d := d.setField (c + 8) 43 32 0
    if a == .device then d.setArea { d.areaState a with slots := bits v.toNat 44 32 } else d
  else d

/-- A write to FAULT_STATUS: clearing OVERFLOW clears VALID in FIRST and LATEST (R415). -/
def Dev.faultStatus (d : Dev) (a : FaultArea) (w : RegWrite) : Dev :=
  let b := areaBase a
  let had := d.field (b + 0x10) 63 63
  let d := d.plainWrite w
  if had = 1 && d.field (b + 0x10) 63 63 = 0 then (d.setField (b + 0xA0) 15 15 0).setField (b + 0xB8) 15 15 0 else d

/-- A write to one of an area's three registers. -/
def Dev.faultWrite (d : Dev) (a : FaultArea) (w : RegWrite) : Dev :=
  if w.reg = areaBase a + 8 then d.faultCtrl a w
  else if w.reg = areaBase a + 0x10 then d.faultStatus a w
  else d.plainWrite w

/-! ### Pages -/

/-- A write to GAL_POWER (R467): RETAIN_US outside 50–65,535 discards it. -/
def Dev.galPower (d : Dev) (w : RegWrite) : Dev := d.rangedWrite w (fun v => decide (50 ≤ bits v.toNat 31 16)) none

/-- A write to a register of a domain page. -/
def Dev.pageWrite (d : Dev) (w : RegWrite) : Dev :=
  let rel := w.reg - pageOff (pageOf w.reg) 0
  match areaAt w.reg with
  | some a => d.faultWrite a w
  | none =>
    if rel = 0x048 then d.ctxCmd w
    else if rel = 0x100 then d.tierCtrl w
    else if rel = 0x140 then d.telemSel w
    else if rel = 0x210 then d.expCtrl w
    else if rel = 0x240 then d.galPower w
    else d.plainWrite w

/-- Whether a write names FAULT_CTRL of an area and would set ENABLE from 0. -/
def Dev.enablesFaults (d : Dev) (w : RegWrite) : Bool :=
  match areaAt w.reg with
  | some a => w.reg == areaBase a + 8 && d.field w.reg 0 0 == 0 && (d.after w).toNat % 2 == 1
  | none => false

/-- FAULT_ENABLE: a FAULT_CTRL write that sets ENABLE from 0 (R417). -/
def devFaultEnable (w : RegWrite) (d : Dev) : Dev :=
  onRegister (.faultEnable w) w (fun d => d.enablesFaults w)
    (fun d => match areaAt w.reg with | some a => d.faultCtrl a w | none => d) d

/-- Execute FAULT_ENABLE. -/
def execFaultEnable (w : RegWrite) (s : State) : Host.Outcome State Fault Refusal := whenLive (devFaultEnable w) s

end Sys2Proof.Machine
end

