-- ==== Sys2Proof/Machine/Imaging.lean ====
section
/-! DEFINITION. Loading a structure image (R55 to R64): the start of a load, the end of its fetch, quiesce, wipe, commit. -/

namespace Sys2Proof.Machine

/-! ### The end of a load -/

/-- IMG_STATUS after a load, DONE set (R55), and the DEVICE record of its end (R413), whose detail 1 no rule states for
an image: it is free (log 44). -/
def Dev.endLoad (d : Dev) (code dom : Nat) : Dev :=
  let d := ((d.setField 0x2010 55 48 code).setField 0x2010 47 32 dom).setField 0x2010 0 0 1
  let d := { d with load := ImageLoad.idle }
  { d with draws := d.draws + 1 }.fault .device 0x0A none 0xFFFF 0xFFFF 0 0xFFFF 4 (Config.freeNat d.draws % 2 ^ 64) code

/-- The domain that a rejected image names: none for a full one (R55). -/
def namedDomain (b : List Byte) : Nat := if fieldAt b 10 1 = 2 then fieldAt b 12 2 else 0xFFFF

/-! ### Commit -/

/-- Galleries that an image assigns are powered on, zeroed; the others are off (R21, R449, R451). -/
def Dev.powerGalleries (d : Dev) : Dev :=
  let assigned (g : Nat) : Bool := d.image.any fun i => i.galleries.any fun x => x.gallery == g && x.domain != 0xFFFF
  { d with galleries := d.galleries.map fun x =>
      match x.logical with
      | some g => if x.state != .joined || !assigned g then x.turnOff else if x.power == .off then { x with power := .on } else x
      | none => x }

/-- A domain that a new full image omits loses its contexts; its loans end as expired ones, its other extents are withdrawn and freed, and
what its verbs built goes, pinned blocks too (R62, R159). -/
def Dev.dropDomain (d : Dev) (dom : Nat) : Dev :=
  let d := ((d.ctxs.filter (·.domain == dom)).map (·.num)).foldl (fun d n => d.dropSession n) d
  let d := { d with ctxs := d.ctxs.filter (·.domain != dom) }
  let d := (d.loans.filter fun l => l.domain == dom && !l.gone).foldl (fun d l => d.expireLoan l) d
  let (d, _, _, spans) := d.withdraw dom [(0, 2 ^ 64)]
  let d := d.leave dom spans
  let ts := d.tables.filter (·.domain == dom)
  let xs := d.indexes.filter (·.domain == dom)
  let pinned := d.blocks.filter fun b => b.domain == dom && d.isLocal b.frameSa && !b.freeing
  let lent := (d.landings.filter (·.domain == dom)).map fun x => (⟨x.sa, x.len⟩ : Span)
  let d := ((ts.flatMap fun t => t.versions.flatMap Version.spans) ++ xs.flatMap Index.spans ++ (pinned.flatMap fun b => [b.frame, b.summary]) ++ lent).foldl Dev.wipeSpan d
  { d with
    blocks := d.blocks.filter fun b => b.domain != dom || b.freeing
    landings := d.landings.filter (·.domain != dom)
    tables := d.tables.filter (·.domain != dom)
    indexes := d.indexes.filter (·.domain != dom)
    exports := d.exports.filter (fun (e : ExportEntry) => e.domain != dom)
    windows := d.windows.filter (·.domain != dom)
    loans := d.loans.filter (·.domain != dom)
    peCache := d.peCache.filter (·.domain != dom)
    fabCache := d.fabCache.filter (·.domain != dom) }

/-- A domain's page takes its reset values (R496). Records that await their owned-word reads are still written, since what governs them was
fixed at their faults (R414; DEDUCED, log 117). -/
def Dev.resetPage (d : Dev) (dom : Nat) : Dev :=
  { d with
    regs := d.regs.filter fun e => decide (blockOf e.1 ≠ .page dom)
    faults := modifyAll (fun (f : FaultAreaState) => f.area == .domain dom) (fun f => { f with afterLoss := false }) d.faults }

/-- The commit of a full image (R62, R496): omitted domains go, the pages of domains added or omitted are reset, partial
images are dropped. -/
def Dev.commitFull (d : Dev) (i : Image) : Dev :=
  let old := (d.image.map fun f => f.domains.map (·.domain)).getD []
  let new := i.domains.map (·.domain)
  let d := (old.filter fun x => !new.contains x).foldl (fun d x => d.dropDomain x) d
  let d := (old.filter (fun x => !new.contains x) ++ new.filter fun x => !old.contains x).foldl (fun d x => d.resetPage x) d
  { d with image := some i, full := some i, partials := [] }.resetEnds

/-- The commit of a partial image (R58): the domain's records change as one, and the held writes are applied, each against
the new limits; the commands that wait are to resume in order of acceptance. -/
def Dev.commitPartial (d : Dev) (i : Image) : Dev :=
  let whole := match d.image with
    | some f => { i with partialLoad := false, domain := f.domain, serial := f.serial, baseSerial := f.baseSerial, rollback := f.rollback,
                         variantMask := f.variantMask, digest := f.digest }
    | none => i
  let held := d.load.held
  let resume (s : Slot) : Slot := { s with cmd := s.cmd.map fun k => { k with resume := s.state == .waiting } }
  let d := { d with
    ctxs := d.ctxs.map fun (c : Context) => if c.domain = i.domain then { c with slots := c.slots.map resume } else c
    image := some whole
    partials := d.partials.filter (·.domain != i.domain) ++ [{ domain := i.domain, serial := i.serial, digest := i.digest }] }
  held.foldl (fun d w => d.withinLimit i.domain w fun d => d.pageWrite w) d

/-- The vitrine extents of domains that stay which lie on what an image removes of a region (R347). -/
def Dev.cutVitrine (d : Dev) (new : Image) : List Extent :=
  d.extents.filter fun e => e.rights == .vitrine && new.domains.any (·.domain == e.domain) &&
    (d.vitRecord e.sa).any fun v => !(new.vitrine.any fun x => x.region == v.region && x.domain == v.domain &&
      decide (x.base ≤ e.sa) && decide (e.sa + e.len ≤ x.base + x.len))

/-- The directory entries of some lines keep the policy of the record in force (R347). -/
def Dev.keepPolicy (d : Dev) (es : List Extent) : Dev :=
  let f (x : DirEntry) : DirEntry :=
    if es.any fun e => overlap (x.line * 64) 64 e.sa e.len then { x with kept := (d.vitRecord (x.line * 64)).map (·.loan) } else x
  { d with directory := d.directory.map f }

/-- At a commit the extents on removed parts of vitrine regions are deaccessioned (R346, R347, log 97). -/
def Dev.shrinkVitrine (d : Dev) (new : Image) : Dev × List Span :=
  let es := d.cutVitrine new
  ((es.map (·.domain)).eraseDups).foldl (fun (a : Dev × List Span) dom =>
    let (d, _, _, spans) := a.1.withdraw dom ((es.filter (·.domain == dom)).map fun e => (e.cva, e.len))
    (d, a.2 ++ spans)) (d.keepPolicy es, [])

/-- The directory entries beyond the shares of the image in force are evicted, those granted least recently first (R334,
R347). -/
def Dev.trimDirectory (d : Dev) : Dev :=
  let free := d.directory.filter fun e => !(d.vitTxns.any fun t => t.line == e.line && t.req.evicts)
  let owners := ((free.map fun e => (e.domain, e.west)).eraseDups)
  owners.foldl (fun d o =>
    let mine := sortOrd (fun (a b : DirEntry) => decide (a.granted < b.granted)) (free.filter fun e => (e.domain, e.west) == o)
    (mine.take (mine.length - d.vitShare o.1)).foldl (fun d e => d.vitArrive e.line e.domain .evict) d) d

/-- Commit (R58, R62): the records replace the old ones, queues and galleries follow, the load ends ACCEPTED and what waited
runs. -/
def Dev.commitImage (d : Dev) : Dev :=
  match d.load.next with
  | none => d
  | some i =>
    let (d, spans) := d.shrinkVitrine i
    let d := ((if i.partialLoad then d.commitPartial i else d.commitFull i).freeSpans spans).trimDirectory
    (((if i.partialLoad then d else d.reloadShaper).powerGalleries).endLoad 0 (if i.partialLoad then i.domain else 0xFFFF)).settle

/-! ### Quiesce and wipe -/

/-- Whether what the load quiesces still runs (R58, R62): the domain's commands that hold tags; for a full image every
command but an ABORT. -/
def Dev.quiesced (d : Dev) : Bool :=
  match d.load.next with
  | none => false
  | some i =>
    (d.slotsWhere fun c s => s.state == .running && s.cmd.any fun k =>
      if i.partialLoad then c.domain == i.domain && k.tagged else cmdVerb k != some .abort).isEmpty

/-- The galleries that leave a domain (R61). -/
def leavers (old new : Image) : List Nat :=
  (old.galleries.filter fun g => g.domain != 0xFFFF && !(new.galleries.any fun x => x.gallery == g.gallery && x.domain == g.domain)).map (·.gallery)

/-- Quiesced: wipe the galleries that leave, or commit where none does. -/
def Dev.toWipe (d : Dev) : Dev :=
  if !d.quiesced then d
  else
    match d.image, d.load.next with
    | some f, some i =>
      let gs := leavers f i
      if gs.isEmpty then { d with load := { d.load with phase := .committing } }.commitImage
      else { d with load := { d.load with phase := .wiping, wiping := gs } }
    | _, _ => { d with load := { d.load with phase := .committing } }.commitImage

/-- The commands of the loading domain that still run, aborted (R58). -/
def Dev.abortLoading (d : Dev) : Dev :=
  match d.loadingDomain with
  | none => d
  | some dom =>
    let run (c : Context) (i : Nat) : Bool := c.domain == dom && (d.slot? { ctx := c.num, slot := i }).any fun s => s.state == .running && s.cmd.any (·.tagged)
    d.abortAll (d.abortScope run)

/-- A validated image is loaded: a partial one quiesces its domain until the drain limit, a full one resets the command
state of the device (R58, R62). DRAIN_LIMIT is read at this moment,
which R58 leaves open (DESIGN CHOICE, log 123). -/
def Dev.loadValidated (d : Dev) (i : Image) : Dev :=
  let limit := d.field 0x2000 15 8
  let d := { d with load := { d.load with phase := .quiescing, next := some i, drainEnd := 1000000 * limit + d.now } }
  let d := if !i.partialLoad then d.resetCommands else if limit = 0 then d.abortLoading else d
  d.toWipe

/-! ### Rows -/

/-- A GO in IMG_CTRL (R55, R56): refused while a load is in progress; a bad length, source or address, and a host-memory
load over the Docent bus, end at once. -/
def Dev.imgCtrl (d : Dev) (w : RegWrite) : Dev :=
  if !w.sets 0 then d.plainWrite w
  else if d.load.phase != .idle then d.setField 0x2010 5 5 1
  else
    let d := d.plainWrite w
    let n := d.field 0x2000 39 16
    let src := d.field 0x2000 7 4
    let addr := (d.reg 0x2008).toNat
    if w.src = .docent ∧ src = 0 then d.endLoad 0x0F 0xFFFF
    else if n = 0 ∨ 16384 < n then d.endLoad 0x02 0xFFFF
    else if 1 < src ∨ addr % 64 ≠ 0 then d.endLoad 0x0F 0xFFFF
    else
      match w.src with
      | .docent => { d with load := { d.load with phase := .fetching, length := 64 * n, spi := some addr } }
      | .bar port _ =>
        let d := { d with load := { d.load with phase := .fetching, length := 64 * n, spi := if src = 1 then some addr else none } }
        if src = 0 then d.toPort port 256 true 0 none (.fetch port addr (64 * n)) else d

/-- IMG_GO: an IMG_CTRL write with GO. -/
def devImgGo (w : RegWrite) (d : Dev) : Dev := onRegister (.imgGo w) w (fun _ => w.reg == 0x2000 && w.sets 0) (fun d => d.imgCtrl w) d

/-- Execute IMG_GO. -/
def execImgGo (w : RegWrite) (s : State) : Host.Outcome State Fault Refusal := whenLive (devImgGo w) s

/-- IMAGE_FETCH_DONE (R53 to R55): the fetch failed, or the image is validated and rejected or loaded; one from the boot flash is read at
IMG_SRC's offset. After a failed fetch, whose domain no image tells, IMG_STATUS shows domain 0xFFFF (DESIGN CHOICE, log 122). -/
def devImageFetchDone (ok : Bool) (image : List Byte) (d : Dev) : Dev :=
  if d.load.phase != .fetching then d
  else if !ok then d.endLoad 0x0F 0xFFFF
  else
    let b := d.load.spi.elim (image.take d.load.length) fun a => memRead d.bootFlash a d.load.length
    match d.validate b with
    | .error c => d.endLoad c (namedDomain b)
    | .ok i => d.loadValidated i

/-- Execute IMAGE_FETCH_DONE. -/
def execImageFetchDone (ok : Bool) (image : List Byte) (s : State) : Host.Outcome State Fault Refusal :=
  whenLive (devImageFetchDone ok image) s

/-- QUIESCE_DRAINED (R58): the last running command has completed. -/
def devQuiesceDrained (t : Nat) (d : Dev) : Dev :=
  let d := d.atTime t
  if d.load.phase == .quiescing then d.toWipe else d

/-- Execute QUIESCE_DRAINED. -/
def execQuiesceDrained (t : Nat) (s : State) : Host.Outcome State Fault Refusal := whenLive (devQuiesceDrained t) s

/-- DRAIN_LIMIT_EXPIRY (R58): the commands of the domain that still run are aborted. -/
def devDrainLimitExpiry (t : Nat) (d : Dev) : Dev :=
  let d := d.atTime t
  if d.load.phase == .quiescing && decide (d.load.drainEnd ≤ d.now) then (d.abortLoading).toWipe else d

/-- Execute DRAIN_LIMIT_EXPIRY. -/
def execDrainLimitExpiry (t : Nat) (s : State) : Host.Outcome State Fault Refusal := whenLive (devDrainLimitExpiry t) s

/-- GALLERY_WIPE_DONE (R61): the gallery holds zeros and its PE read caches nothing; after the last one the image commits. -/
def devGalleryWipeDone (gallery : Nat) (d : Dev) : Dev :=
  if d.load.phase != .wiping || !d.load.wiping.contains gallery then d
  else
    let left := d.load.wiping.filter (· != gallery)
    let physical := (d.galleries.filter fun g => g.logical == some gallery).map (·.physical)
    let d := { d with load := { d.load with wiping := left }, peCache := d.peCache.filter fun l => !physical.contains (l.owner / 34)
                      galleries := d.galleries.map fun (g : Gallery) => if g.logical == some gallery then { g with words := [] } else g }
    if left.isEmpty then { d with load := { d.load with phase := .committing } }.commitImage else d

/-- Execute GALLERY_WIPE_DONE. -/
def execGalleryWipeDone (gallery : Nat) (s : State) : Host.Outcome State Fault Refusal := whenLive (devGalleryWipeDone gallery) s

end Sys2Proof.Machine
end

