-- ==== Sys2Proof/Machine/Links.lean ====
section
/-! DEFINITION. Zherek links: training, replay, retrain and loss (R361 to R368, R382). -/

namespace Sys2Proof.Machine

/-- The width and lanes that can be made of the lanes in a mask (R368): eight, an aligned four, an aligned pair, or none;
the lowest-numbered group first. -/
def lanesOf (m : Nat) : Nat × Nat :=
  let has (lo n : Nat) : Bool := (List.range n).all fun i => bit m (lo + i)
  if has 0 8 then (8, 0xFF)
  else if has 0 4 then (4, 0x0F)
  else if has 4 4 then (4, 0xF0)
  else
    match [0, 2, 4, 6].find? fun lo => has lo 2 with
    | some lo => (2, 3 * 2 ^ lo)
    | none => (0, 0)

/-- The messages that a link still has to deliver, in order: those of the frames not acknowledged, then those queued, each
with its domain's queue. -/
def Dev.undelivered (d : Dev) (l : Nat) : List (Nat × OutMsg) :=
  let dom (m : OutMsg) : Nat := match m with
    | .fabric _ _ _ dm _ _ _ _ _ _ => if dm = 0xFFFF then 256 else dm
    | _ => 256
  let sent := ((d.link? l).map fun x => x.replay.flatMap (·.msgs)).getD []
  let queued := ((d.point? { kind := .zherek, index := l }).map fun e => e.queues.flatMap fun q => q.posted.filterMap fun g => g.msg.map fun m => (q.domain, m)).getD []
  sent.map (fun m => (dom m, m)) ++ queued

/-- Put granules in front of a queue. -/
def Dev.enqueueFirst (d : Dev) (p : Point) (dom : Nat) (gs : List EgGranule) : Dev :=
  d.modPoint p fun e =>
    let q := if e.queues.any (·.domain == dom) then dom else 256
    { e with queues := modifyAll (·.domain == q) (fun x => { x with posted := gs ++ x.posted }) e.queues }

/-- The traffic of a link that is down moves to the replacing links, in its order and before any newer message; with no
link up it stays (R367). -/
def Dev.moveTraffic (d : Dev) (l : Nat) : Dev :=
  if d.upLinks.isEmpty then d
  else
    let ms := d.undelivered l
    let d := d.modLink l fun x => { x with replay := [] }
    let d := d.modPoint { kind := .zherek, index := l } fun e => { e with queues := e.queues.map fun (q : Queue) => { q with posted := [] } }
    ms.reverse.foldl (fun d (e : Nat × OutMsg) =>
      match e.2 with
      | .fabric _ dst _ _ _ _ _ _ _ payload =>
        match d.linkFor dst with
        | some l' => d.enqueueFirst { kind := .zherek, index := l' } e.1 (granulesFor 256 payload.length true none d.now (some e.2))
        | none => d
      | _ => d) d

/-- The identities of agents whose links are all down, and that no CXL port carries (R343, R374). -/
def Dev.agentsLost (d : Dev) (fid : Nat) : Dev :=
  if d.links.any fun l => l.state == .up && l.peerFid == fid then d
  else
    let hosts := ((List.range 64).filterMap fun i =>
      let v := (d.reg (0x7100 + 8 * i)).toNat
      if bit v 63 && bits v 15 0 == fid then some (bits v 43 32) else none).eraseDups
    (hosts.filter fun h => !(d.carried.any fun x => x.2 == h)).foldl (fun d h => d.hostLost h) d

/-- A link goes down: DOWN_EVENT and a DEVICE record of kind 2; its traffic moves, and agents that only it reached are lost
(R366, R367, R374, R382, R413). -/
def Dev.linkGone (d : Dev) (l : Nat) : Dev :=
  match d.link? l with
  | none => d
  | some x =>
    if x.state == .down then d
    else
      let d := (d.modLink l fun x => { x with state := .down, ts1 := 0, ts2 := 0, width := 0, lanes := 0, awaitSeq := none }).setField (linkOff l 0x608) 0 0 1
      let d := (d.fault .device 0x0A none 0xFFFF 0xFFFF 0 0xFFFF 2 l 0).moveTraffic l
      if x.peerMember then d else d.agentsLost x.peerFid

/-- Resend the frames from a position of the replay buffer on (R366): counted, and after eight resends of one SEQ the link
retrains. -/
def Dev.replayFrom (d : Dev) (l n : Nat) : Dev :=
  match d.link? l with
  | none => d
  | some x =>
    let again := x.replay.drop n
    if again.isEmpty then d
    else
      let d := d.modLink l fun x => { x with replay := x.replay.take n ++ again.map fun f => { f with resent := f.resent + 1 } }
      let d := (again.flatMap (·.msgs)).foldl (fun d m => d.emit m) (d.count (linkOff l 0x620) again.length)
      if again.any fun f => decide (8 ≤ f.resent + 1) then
        (d.modLink l fun x => { x with replay := x.replay.map fun f => { f with resent := 0 } }).retrainLink l
      else d

/-- Whether a link takes part in training: enabled, working, not held down, its wing not gated (R382, R430, R453). -/
def Dev.linkWorks (d : Dev) (l : Nat) : Bool :=
  (d.power.west == .on || decide (l < 4)) && d.links.any fun x => x.index == l && !x.disabled && x.offered != 0 && x.unit != .disabled && x.unit != .failed

/-- TS1 (R368, R452, R459): a link that is up or down starts training, a QUIET one also wakes the device; eight in a row
with the same content are answered with TS2. -/
def devTs1 (m : TrainMsg) (d : Dev) : Dev :=
  match d.link? m.link with
  | none => d
  | some x =>
    if !d.linkWorks m.link then d
    else
      let d := match x.state with
        | .quiet => (((d.wakeBy 2).1).setReg 0xA040 (d.reg 0xA040 &&& ~~~(BitVec.ofNat 64 (2 ^ (32 + m.link))))).retrainLink m.link
        | .up => d.retrainLink m.link
        | .down => d.train m.link
        | .training => d
      let d := d.modLink m.link fun x =>
        let same := x.peerLanes == m.lanes && x.peerFid == m.fid && x.peerMember == m.member
        { x with ts1 := if same then x.ts1 + 1 else 1, peerLanes := m.lanes, peerFid := m.fid, peerMember := m.member, lastDecode := d.now }
      if (d.link? m.link).any fun x => x.ts1 == 8 then d.emit (.control m.link 2 x.offered) else d

/-- Execute TS1. -/
def execTs1 (m : TrainMsg) (s : State) : Host.Outcome State Fault Refusal := whenLive (devTs1 m) s

/-- TS2 (R368): after eight in a row the width is fixed; with fewer than two lanes the link is down. -/
def devTs2 (m : TrainMsg) (d : Dev) : Dev :=
  if !(d.link? m.link).any fun x => x.state == .training then d
  else
    let d := d.modLink m.link fun x => { x with ts2 := x.ts2 + 1, peerLanes := m.lanes, peerFid := m.fid, peerMember := m.member, lastDecode := d.now }
    match d.link? m.link with
    | none => d
    | some x =>
      if x.ts2 != 8 then d
      else
        let (w, ls) := lanesOf (x.offered &&& m.lanes)
        if w = 0 then d.linkGone m.link
        else (d.modLink m.link fun x => { x with width := w, lanes := ls }).emit (.control m.link 3 w)

/-- Execute TS2. -/
def execTs2 (m : TrainMsg) (s : State) : Host.Outcome State Fault Refusal := whenLive (devTs2 m) s

/-- CONFIG (R365, R368): the partner's credits; the link is up at its width, the frames kept are resent, and a MEMBER
forms. -/
def devConfig (link depth width : Nat) (credits : List Nat) (d : Dev) : Dev :=
  match d.link? link with
  | none => d
  | some x =>
    if x.state != .training || decide (x.ts2 < 8) || x.width != width || depth = 0 then d
    else
      let hs := (List.range 4).map fun c => at! credits (2 * c) 0
      let ds := (List.range 4).map fun c => at! credits (2 * c + 1) 0
      let d := d.modLink link fun x => { x with state := .up, headerCredits := hs, dataCredits := ds, lastDecode := d.now, awaitSeq := none }
      let d := (d.setRate { kind := .zherek, index := link } (15000 * width)).replayFrom link 0
      d.startForming

/-- Execute CONFIG. -/
def execConfig (link depth width : Nat) (credits : List Nat) (s : State) : Host.Outcome State Fault Refusal :=
  whenLive (devConfig link depth width credits) s

/-- NAK (R366): every frame before the named one has arrived; the others are resent. -/
def devNak (link seq : Nat) (d : Dev) : Dev :=
  match d.link? link with
  | none => d
  | some x =>
    if x.state != .up then d
    else
      match x.replay.findIdx? (·.seq == seq) with
      | none => d
      | some n => (d.modLink link fun x => { x with replay := x.replay.drop n, ackSeq := (seq + 511) % 512, lastDecode := d.now }).replayFrom link 0

/-- Execute NAK. -/
def execNak (link seq : Nat) (s : State) : Host.Outcome State Fault Refusal := whenLive (devNak link seq) s

/-- ALIGN (R368): lane deskew; like any frame it shows that the link decodes. -/
def devAlign (link : Nat) (d : Dev) : Dev := d.modLink link fun x => { x with lastDecode := d.now }

/-- Execute ALIGN. -/
def execAlign (link : Nat) (s : State) : Host.Outcome State Fault Refusal := whenLive (devAlign link) s

/-- RETRAIN (R368): both sides return to TS1. -/
def devRetrain (link : Nat) (d : Dev) : Dev :=
  if (d.link? link).any fun x => x.state == .up || x.state == .training then d.retrainLink link else d

/-- Execute RETRAIN. -/
def execRetrain (link : Nat) (s : State) : Host.Outcome State Fault Refusal := whenLive (devRetrain link) s

/-- DOWN (R368): the partner has shut the link down. -/
def devDown (link : Nat) (d : Dev) : Dev := (d.linkGone link).settle

/-- Execute DOWN. -/
def execDown (link : Nat) (s : State) : Host.Outcome State Fault Refusal := whenLive (devDown link) s

/-- FRAME_DISCARD (R366, R382): an uncorrectable codeword is counted, and a NAK names the frame's SEQ. -/
def devFrameDiscard (link seq : Nat) (d : Dev) : Dev :=
  if (d.link? link).any fun x => x.state == .up then
    ((d.count (linkOff link 0x618) 1).modLink link fun x => { x with awaitSeq := some (x.awaitSeq.getD seq) }).emit (.control link 4 seq)
  else d

/-- Execute FRAME_DISCARD. -/
def execFrameDiscard (link seq : Nat) (s : State) : Host.Outcome State Fault Refusal := whenLive (devFrameDiscard link seq) s

/-- REPLAY_TIMEOUT (R366): ACK has not advanced for 4 µs(L); everything not acknowledged is resent. -/
def devReplayTimeout (link t : Nat) (d : Dev) : Dev :=
  let d := d.atTime t
  if (d.link? link).any fun x => x.state == .up then d.replayFrom link 0 else d

/-- Execute REPLAY_TIMEOUT. -/
def execReplayTimeout (link t : Nat) (s : State) : Host.Outcome State Fault Refusal := whenLive (devReplayTimeout link t) s

/-- LINK_DOWN (R366): no frame has decoded for 1 µs. -/
def devLinkDown (link : Nat) (d : Dev) : Dev :=
  if (d.link? link).any fun x => x.state == .up then (d.linkGone link).settle else d

/-- Execute LINK_DOWN. -/
def execLinkDown (link : Nat) (s : State) : Host.Outcome State Fault Refusal := whenLive (devLinkDown link) s

/-- LINK_TRAIN_TIMEOUT (R368): not up 5 ms(L) after training started. -/
def devLinkTrainTimeout (link t : Nat) (d : Dev) : Dev :=
  let d := d.atTime t
  if (d.link? link).any fun x => x.state == .training && decide (5000000 + x.retrainStart ≤ d.now) then (d.linkGone link).settle else d

/-- Execute LINK_TRAIN_TIMEOUT. -/
def execLinkTrainTimeout (link t : Nat) (s : State) : Host.Outcome State Fault Refusal := whenLive (devLinkTrainTimeout link t) s

/-! ### ZK_LINK_CTRL (R382) -/

/-- The link whose ZK_LINK_CTRL an offset names. -/
def linkCtrlOf (off : Nat) : Option Nat :=
  match blockOf off with
  | .link l => if off == linkOff l 0x600 then some l else none
  | _ => none

/-- A write to ZK_LINK_CTRL: setting DISABLE sends DOWN and holds the link down, clearing it lets it train; RETRAIN sends
RETRAIN and restarts training. -/
def Dev.zkCtrl (d : Dev) (l : Nat) (w : RegWrite) : Dev :=
  let was := d.field (linkOff l 0x600) 0 0
  let d := d.plainWrite w
  let now := d.field (linkOff l 0x600) 0 0
  if now = 1 then
    if was = 1 then d else (((d.emit (.control l 7 0)).modLink l fun x => { x with disabled := true }).linkGone l).settle
  else
    let d := d.modLink l fun x => { x with disabled := false }
    if w.sets 1 && d.linkWorks l then (d.emit (.control l 6 0)).retrainLink l
    else if was = 1 && d.linkWorks l then d.train l
    else d

/-- The ZK_LINK_CTRL write of whichever link a write names. -/
def Dev.zkCtrlOf (d : Dev) (w : RegWrite) : Dev :=
  match linkCtrlOf w.reg with
  | some l => d.zkCtrl l w
  | none => d

/-- LINK_RETRAIN: a ZK_LINK_CTRL write with RETRAIN set. -/
def devLinkRetrain (w : RegWrite) (d : Dev) : Dev :=
  onRegister (.linkRetrain w) w (fun _ => (linkCtrlOf w.reg).isSome && w.sets 1) (fun d => d.zkCtrlOf w) d

/-- Execute LINK_RETRAIN. -/
def execLinkRetrain (w : RegWrite) (s : State) : Host.Outcome State Fault Refusal := whenLive (devLinkRetrain w) s

/-- LINK_DISABLE: a ZK_LINK_CTRL write with DISABLE set. -/
def devLinkDisable (w : RegWrite) (d : Dev) : Dev :=
  onRegister (.linkDisable w) w (fun _ => (linkCtrlOf w.reg).isSome && w.sets 0) (fun d => d.zkCtrlOf w) d

/-- Execute LINK_DISABLE. -/
def execLinkDisable (w : RegWrite) (s : State) : Host.Outcome State Fault Refusal := whenLive (devLinkDisable w) s

end Sys2Proof.Machine
end

