-- ==== Sys2Proof/Machine/Accession.lean ====
section
/-! DEFINITION. Accession (chapter 16): power-up and RESET_N, the ROM, screens and variant, lanes and ports, the boot image, store,
galleries, engines and media; Curator pairs that halt (R22, R23). -/

namespace Sys2Proof.Machine

/-! ### Power-up and reset (R422, R423, R475) -/

/-- Input levels of the pins, which no reset changes (R477, R479). -/
def Pins.inputs (p : Pins) (now : Nat) : Pins :=
  { liveOut := false, liveIn := p.liveIn, liveInQuiet := false, liveInEdge := now, vrGood := p.vrGood, tripN := false, tapIr := p.tapIr }

/-- Ports after reset keep the level of their PERST_N. -/
def keepPerst (old new : List Port) : List Port :=
  new.map fun p => { p with perstReleased := old.any fun q => q.index == p.index && q.perstReleased }

/-- POWER_UP (R423, R473, R482): the local time counter starts at 0; fuses, boot flash and the Conservator's records remain,
and so do the failures that the next accession counts (R433, log 101). -/
def devPowerUp (d : Dev) : Dev :=
  { Dev.reset with draws := d.draws, fuses := d.fuses, bootFlash := d.bootFlash, flash := d.flash, out := d.out
                   acc := { Accession.reset with lateGalleries := d.acc.lateGalleries, lateStacks := d.acc.lateStacks }
                   ports := keepPerst d.ports Dev.reset.ports, pins := { d.pins.inputs 0 with tapIr := 0x01 } }

/-- Execute POWER_UP. -/
def execPowerUp (s : State) : Host.Outcome State Fault Refusal := always devPowerUp s

/-- RESET_N_ASSERT (R423, R474, R475, R496): everything is as after power-up but what R423 lists, the Docent address, and the
media power enables; a load that had not committed is abandoned (R63), a rail fault makes the next accession cold (R472). -/
def devResetNAssert (d : Dev) : Dev :=
  if !d.acc.powered then d
  else
    let hours := d.field 0x1008 47 32
    let d' : Dev :=
      { Dev.reset with
        now := d.now, draws := d.draws, fuses := d.fuses, bootFlash := d.bootFlash, flash := d.flash, out := d.out
        ports := keepPerst d.ports Dev.reset.ports, pins := d.pins.inputs d.now
        load := { ImageLoad.idle with abandoned := d.load.phase != .idle || d.load.abandoned }
        acc := { Accession.reset with passRecords := d.acc.passRecords && !d.power.railFault, passes := d.acc.passes, accessions := d.acc.accessions,
                                       lateGalleries := d.acc.lateGalleries, lateStacks := d.acc.lateStacks }
        channels := Dev.reset.channels.map fun (c : OnfiChannel) => { c with mpe := d.channels.any fun x => x.index == c.index && x.mpe }
        docent := { Dev.reset.docent with address := d.docent.address } }
    d'.setField 0x1008 47 32 hours

/-- Execute RESET_N_ASSERT. -/
def execResetNAssert (s : State) : Host.Outcome State Fault Refusal := always devResetNAssert s

/-- Accession refuses ready (R434). -/
def Dev.refuse (d : Dev) (code : Nat) : Dev := { d with acc := { d.acc with state := .refused, refusal := code } }

/-- RESET_N_RELEASE (R349, R422, R476, R484): the straps are sampled, and accession starts, warm where every rail stayed in range
and the pass records hold; a reserved ROLE refuses. -/
def devResetNRelease (geoId role : Nat) (d : Dev) : Dev :=
  if !d.acc.powered || !d.acc.resetLow then d
  else
    let warm := decide (0 < d.acc.accessions) && d.acc.passRecords
    let geo := geoId % 16
    let role := role % 4
    let d : Dev :=
      { d with
        acc := { d.acc with resetLow := false, warm := warm, passRecords := true, accessions := d.acc.accessions + 1, releaseTime := d.now, phase := 1 }
        coll := { Collection.reset with geoId := if role = 0 then 0 else geo, role := role }
        docent := { d.docent with address := 0x40 + geo } }
    if 2 ≤ role then d.refuse 4 else d

/-- Execute RESET_N_RELEASE. -/
def execResetNRelease (geoId role : Nat) (s : State) : Host.Outcome State Fault Refusal := always (devResetNRelease geoId role) s

/-! ### Curator pairs (R22, R23) -/

/-- Whether a pair serves: it works, and its wing is not gated (R453). -/
def Dev.pairServes (d : Dev) (p : Nat) : Bool := d.pairs.any fun x => x.index == p && x.works && (d.power.west == .on || decide (p < 2))

/-- The next serving pair after one, in the order 0, 1, 2, 3, 0 (R22); while the west wing is gated only east pairs serve. -/
def Dev.nextPair (d : Dev) (p : Nat) : Option Nat := [1, 2, 3].findSome? fun k => if d.pairServes ((p + k) % 4) then some ((p + k) % 4) else none

/-- A pair's roles pass to another. -/
def Dev.passRoles (d : Dev) (src dst : Nat) : Dev :=
  let rs := (d.pairs.filter (·.index == src)).flatMap (·.roles)
  { d with pairs := d.pairs.map fun p => if p.index = src then { p with roles := [] } else if p.index = dst then { p with roles := p.roles ++ rs } else p }

/-- A pair no longer works: its roles go to the next one that serves, if there is one. -/
def Dev.dropPair (d : Dev) (p : Nat) : Dev :=
  let d := { d with pairs := modifyAll (·.index == p) (fun (x : Pair) => { x with works := false }) d.pairs }
  match d.nextPair p with
  | some q => d.passRoles p q
  | none => d

/-- With no working pair every slot that holds a new command completes with TARGET_DEAD (R23). -/
def Dev.starve (d : Dev) : Dev :=
  if d.workingPairs = 0 then
    (d.slotsWhere fun _ s => s.state == .waiting).foldl (fun d r => d.complete r .targetDead 0 0 0) d
  else d

/-- PAIR_HALT (R22, R23, R443): a DEVICE record of kind 1, the roles pass on; with fewer than two working pairs AVAILABLE_FULL is
withdrawn. -/
def devPairHalt (pair : Nat) (d : Dev) : Dev :=
  if !d.pairServes pair then d
  else
    let d := ((d.dropPair pair).noteFault (.pair pair)).fault .device 0x0A none 0xFFFF 0xFFFF 0 0xFFFF 1 pair 0
    ((d.checkFull).starve).settle

/-- Execute PAIR_HALT. -/
def execPairHalt (pair : Nat) (s : State) : Host.Outcome State Fault Refusal := whenLive (devPairHalt pair) s

/-! ### The ROM (R426, R427, R430, R443) -/

/-- Whether the fuses leave a pair both its cores (R430). -/
def Fuses.pairOk (fs : Fuses) (p : Nat) : Bool := !bit fs.badCores (2 * p) && !bit fs.badCores (2 * p + 1)

/-- ROM_BOOT_DONE: `passingPairs` is the self-tests' result, `flash` what the boot flash was found to hold where it has been
programmed from outside since it was last read (log 3). Pairs pass their self-test or skip it on the fast path; the first slot that
passes R427 runs. -/
def devRomBootDone (passingPairs : Nat) (flash : List (Nat × List Byte)) (d : Dev) : Dev :=
  if d.acc.state != .booting || d.acc.phase != 1 then d
  else
    let d := { d with bootFlash := flash.foldl (fun (m : List Host.Cell) (e : Nat × List Byte) => memWrite m e.1 e.2) d.bootFlash }
    let pick := d.pickFirmware
    let digest := (pick.map fun (x : Nat × List Byte) => slice x.2 32 64).getD []
    let works (p : Nat) : Bool := d.fuses.pairOk p && (bit passingPairs p || d.fastPath (.pair p) digest)
    if !([0, 1, 2, 3].any works) then d.refuse 2
    else
      match pick with
      | none => d.refuse 1
      | some (slot, b) =>
        let d := { d with
          fw := { Firmware.reset with version := BitVec.ofNat 64 (fieldAt b 16 8), rollback := fieldAt b 24 4, digest := digest, runningSlot := slot,
                                      preferred := (d.bootDir.map preferredSlot).getD 0 }
          pairs := d.pairs.map fun (p : Pair) => { p with works := works p.index, roles := [p.index] }
          acc := { d.acc with phase := 3 } }
        let d := ([0, 1, 2, 3].filter fun p => !works p).foldl (fun (d : Dev) p => d.dropPair p) d
        ([0, 1, 2, 3].filter fun p => works p && !d.fastPath (.pair p) digest).foldl (fun (d : Dev) p => d.notePass (.pair p)) d

/-- Execute ROM_BOOT_DONE. -/
def execRomBootDone (passingPairs : Nat) (flash : List (Nat × List Byte)) (s : State) : Host.Outcome State Fault Refusal :=
  whenLive (devRomBootDone passingPairs flash) s

/-! ### Screens, variant and maps (R430 to R432) -/

/-- The state and source of a unit after the screens: disabled by the fuses, failed by a screen, or to be tested (R430, R444). -/
def screened (fused failed : Bool) : UnitState × Nat :=
  if fused then (.disabled, 1) else if failed then (.failed, 2) else (.pending, 0)

/-- A gallery after its quick screen (R430): at most 2 of its 34 physical PEs may have failed, those that failed late in the last
accession counted in (R433). -/
def Dev.screenGallery (d : Dev) (res : ScreenResult) (g : Gallery) : Gallery :=
  let fused := at! d.fuses.badPes g.physical 0
  let seen := Nat.lor (at! res.failedPes g.physical 0) (((d.acc.lateGalleries.find? (·.1 == g.physical)).map (·.2)).getD 0)
  let all := Nat.lor fused seen % 2 ^ 34
  let st := screened (bit d.fuses.badGalleries g.physical || decide (2 < popCount fused 34)) (bit res.failedGalleries g.physical || decide (2 < popCount all 34))
  { g with failed := all, state := st.1, source := b2n (fused != 0 || st.1 == .disabled) + 2 * b2n (seen != 0 || st.1 == .failed) }

/-- The lanes of a port that the fuses leave (R430). -/
def Fuses.cxlLanes (fs : Fuses) (p : Nat) : Nat := Nat.xor 0xFFFF (Nat.land 0xFFFF (at! fs.badCxlLanes p 0))

/-- The lanes of a link that the fuses leave (R430). -/
def Fuses.zkLanes (fs : Fuses) (l : Nat) : Nat := Nat.xor 0xFF (Nat.land 0xFF (at! fs.badZkLanes l 0))

/-- The units after the screens, before the variant is fixed. How many post-package repairs a stack took is free (R430, R444, log 90);
the late failures of the last accession have been counted (R433, log 101). -/
def Dev.screenUnits (d : Dev) (res : ScreenResult) : Dev :=
  let fs := d.fuses
  let stack (x : Stack) : Stack :=
    let st := screened (bit fs.badStacks x.physical || at! fs.badDram x.physical 0 != 0) (bit res.failedStacks x.physical || bit d.acc.lateStacks x.physical)
    { x with state := st.1, source := st.2, repairs := if st.1 == .disabled then 0 else Config.freeNat (d.draws + x.physical) % 2 ^ 16 }
  let port (x : Port) : Port :=
    let st := screened (bit fs.badPorts x.index || decide (popCount (fs.cxlLanes x.index) 16 < 4)) (bit res.failedPorts x.index)
    { x with state := st.1, source := st.2 }
  let link (x : Link) : Link :=
    let st := screened (bit fs.badLinks x.index || decide (popCount (fs.zkLanes x.index) 8 < 2)) (bit res.failedLinks x.index)
    { x with unit := st.1, source := st.2 }
  { d with
    draws := d.draws + 8, acc := { d.acc with lateGalleries := [], lateStacks := 0 }
    galleries := d.galleries.map (d.screenGallery res), stackUnits := d.stackUnits.map stack, ports := d.ports.map port, links := d.links.map link
    channels := d.channels.map fun (x : OnfiChannel) => { x with unit := (screened (bit fs.badChannels x.index) (bit res.failedChannels x.index)).1 } }

/-- Working galleries and stacks per wing that a variant needs (R431). -/
def galleryFloor (v : Nat) : Nat := if v = 3 then 10 else if v = 2 then 15 else 20

/-- See `galleryFloor`. -/
def stackFloor (v : Nat) : Nat := if v = 3 then 2 else if v = 2 then 3 else 4

/-- Whether the units meet a variant's floor (R431). -/
def Dev.meetsFloor (d : Dev) (v : Nat) : Bool :=
  let gal (east : Bool) : Nat := (d.galleries.filter fun g => g.state == .pending && decide (g.physical < 20) == east).length
  let stk (east : Bool) : Nat := (d.stackUnits.filter fun x => x.state == .pending && decide (x.physical < 4) == east).length
  decide (galleryFloor v ≤ gal true) && decide (galleryFloor v ≤ gal false) && decide (stackFloor v ≤ stk true) && decide (stackFloor v ≤ stk false) &&
    d.ports.all (fun p => !variantHas v (.port p.index) || p.state == .pending) && d.links.all (fun l => !variantHas v (.link l.index) || l.unit == .pending) &&
    d.channels.all (fun c => !variantHas v (.onfi c.index) || c.unit == .pending)

/-- The mapping table of a gallery's NI (R19, R432): logical PE i is the i-th working physical one; those after the 32nd are spares. -/
def workingPes (failed : Nat) : List Nat := ((List.range 34).filter fun p => !bit failed p).take 32

/-- The NI of a gallery has its table (R20, R432). -/
def Gallery.mapPes (g : Gallery) : Gallery := { g with niMap := workingPes g.failed }

/-- The working galleries of one wing take logical numbers from `base` in ascending order; beyond `n` they are disabled (R432). -/
def numberGalleries (n base : Nat) (gs : List Gallery) : List Gallery :=
  (gs.foldl (fun (acc : List Gallery × Nat) g =>
    if g.state != .pending then (acc.1 ++ [g], acc.2)
    else if acc.2 < n then (acc.1 ++ [{ g with logical := some (base + acc.2) }.mapPes], acc.2 + 1)
    else (acc.1 ++ [{ g with state := .disabled }], acc.2)) ([], 0)).1

/-- The working stacks of one wing likewise (R432). -/
def numberStacks (n base : Nat) (xs : List Stack) : List Stack :=
  (xs.foldl (fun (acc : List Stack × Nat) x =>
    if x.state != .pending then (acc.1 ++ [x], acc.2)
    else if acc.2 < n then (acc.1 ++ [{ x with logical := some (base + acc.2) }], acc.2 + 1)
    else (acc.1 ++ [{ x with state := .disabled }], acc.2)) ([], 0)).1

/-- A channel that is disabled has no power (R7, R430). -/
def OnfiChannel.gate (c : OnfiChannel) : OnfiChannel := if c.unit == .disabled then { c with off := true, mpe := false } else c

/-- The maps of a variant, and its disabled units, which have no power (R7, R432). -/
def Dev.mapUnits (d : Dev) (v : Nat) : Dev :=
  { d with
    galleries := numberGalleries (galleryFloor v) 0 (d.galleries.filter (·.physical < 20)) ++
      numberGalleries (galleryFloor v) (galleryFloor v) (d.galleries.filter fun g => decide (20 ≤ g.physical))
    stackUnits := numberStacks (stackFloor v) 0 (d.stackUnits.filter (·.physical < 4)) ++ numberStacks (stackFloor v) 4 (d.stackUnits.filter fun x => decide (4 ≤ x.physical))
    ports := d.ports.map fun (p : Port) => if variantHas v (.port p.index) then p else { p with state := .disabled }
    links := d.links.map fun (l : Link) => if variantHas v (.link l.index) then l else { l with unit := .disabled }
    channels := d.channels.map fun (c : OnfiChannel) => (if variantHas v (.onfi c.index) then c else { c with unit := .disabled }).gate }

/-- Ports with a valid pass record skip their near-end tests (R443). -/
def Dev.fastPorts (d : Dev) : Dev :=
  { d with ports := d.ports.map fun (p : Port) =>
      if p.state == .pending && d.fastPath (.port p.index) d.fw.digest then { p with state := .joined, nearLanes := d.fuses.cxlLanes p.index } else p }

/-- SCREENS_DONE (R431 to R434): the highest variant whose floor is met, at or below the marked one, and the logical maps. -/
def devScreensDone (res : ScreenResult) (d : Dev) : Dev :=
  if d.acc.state != .booting || d.acc.phase != 3 then d
  else
    let d := d.screenUnits res
    match [1, 2, 3].find? fun v => decide (d.fuses.marked ≤ v) && d.meetsFloor v with
    | none => d.refuse 3
    | some v =>
      (({ d with acc := { d.acc with reported := v, degraded := v != d.fuses.marked, phase := 5 } }).mapUnits v).fastPorts

/-- Execute SCREENS_DONE. -/
def execScreensDone (res : ScreenResult) (s : State) : Host.Outcome State Fault Refusal := whenLive (devScreensDone res) s

/-! ### Lanes and ports (R435, R477) -/

/-- The widest CXL width that a count of lanes allows. -/
def cxlWidth (n : Nat) : Nat := if 16 ≤ n then 16 else if 8 ≤ n then 8 else if 4 ≤ n then 4 else 0

/-- The rate of a CXL port at a width, in MB/s (R4). -/
def cxlRate (width : Nat) : Nat := 7500 * width

/-- Change a port. -/
def Dev.modPort (d : Dev) (p : Nat) (f : Port → Port) : Dev := { d with ports := modifyAll (·.index == p) f d.ports }

/-- A lane window of a CXL port ends (R431, R435): near-end qualification decides whether it works; far-end qualification narrows a
trained port to the lanes left. -/
def Dev.cxlLanes (d : Dev) (p : Nat) (farEnd : Bool) (mask : Nat) : Dev :=
  match d.ports.find? (·.index == p) with
  | none => d
  | some x =>
    let ok := Nat.land mask (Nat.land (d.fuses.cxlLanes p) (if farEnd || x.state == .joined then x.nearLanes else 0xFFFF))
    let n := popCount ok 16
    let fail (d : Dev) : Dev := (((if x.link == .down then d else d.portLost p).modPort p fun x => { x with state := .failed, source := Nat.lor x.source 16, width := 0, link := .down }).degrade).noteFault (.port p)
    if !farEnd then
      if x.state == .joined then (if n < 4 then fail d else d.modPort p fun x => { x with nearLanes := ok })
      else if x.state != .pending then d
      else if n < 4 then fail d
      else (d.modPort p fun x => { x with state := .joined, nearLanes := ok }).notePass (.port p)
    else if x.state != .joined then d
    else
      let d := d.modPort p fun x => { x with nearLanes := ok, farLanes := ok }
      if n < 4 then fail d
      else if cxlWidth n < x.width then (d.modPort p fun x => { x with width := cxlWidth n }).setRate { kind := .cxl, index := p } (cxlRate (cxlWidth n))
      else d

/-- A lane window of a Zherek link ends (R368, R431, R435): as for a port; a working link trains on its lanes, and trains again
where far-end qualification loses one. -/
def Dev.zkLanes (d : Dev) (l : Nat) (farEnd : Bool) (mask : Nat) : Dev :=
  match d.links.find? (·.index == l) with
  | none => d
  | some x =>
    let ok := Nat.land mask (Nat.land (d.fuses.zkLanes l) (if farEnd || x.unit == .joined then x.nearLanes else 0xFF))
    let fail (d : Dev) : Dev := ((d.modLink l fun x => { x with unit := .failed, source := Nat.lor x.source 16, offered := 0 }).linkGone l).degrade
    if !farEnd then
      if x.unit != .pending && x.unit != .joined then d
      else if (lanesOf ok).1 = 0 then fail d
      else
        let d := d.modLink l fun x => { x with unit := .joined, nearLanes := ok, offered := ok }
        if x.disabled || x.state != .down then d else d.train l
    else if x.unit != .joined then d
    else
      let d := d.modLink l fun x => { x with nearLanes := ok, farLanes := ok, offered := ok }
      if (lanesOf ok).1 = 0 then fail d
      else if x.state == .up && Nat.land x.lanes ok != x.lanes then d.retrainLink l
      else d

/-- LANE_QUALIFIED. -/
def devLaneQualified (u : LaneUnit) (farEnd : Bool) (lanes : Nat) (d : Dev) : Dev :=
  if d.acc.phase < 5 then d
  else
    (match u with
    | .cxl p => d.cxlLanes p farEnd lanes
    | .zherek l => if d.acc.phase < 7 then d else d.zkLanes l farEnd lanes).checkFull.settle

/-- Execute LANE_QUALIFIED. -/
def execLaneQualified (u : LaneUnit) (farEnd : Bool) (lanes : Nat) (s : State) : Host.Outcome State Fault Refusal :=
  whenLive (devLaneQualified u farEnd lanes) s

/-- CXL_PORT_TRAINED (R424, R435, R436): a working port whose PERST_N is released comes to L0 at a width its lanes allow; in REFUSED
a port trains too. -/
def devCxlPortTrained (port width : Nat) (d : Dev) : Dev :=
  match d.ports.find? (·.index == port) with
  | none => d
  | some x =>
    let lanes := if x.state == .joined then x.nearLanes else d.fuses.cxlLanes port
    let works := x.state == .joined || (d.acc.state == .refused && x.state != .disabled && x.state != .failed)
    let gated := d.power.west != .on && decide (2 ≤ port)
    if !works || gated || !x.perstReleased || x.link != .down || cxlWidth width != width || width = 0 || decide (popCount lanes 16 < width) then d
    else
      let d := d.modPort port fun x => { x with link := .l0, width := width }
      d.setRate { kind := .cxl, index := port } (cxlRate width)

/-- Execute CXL_PORT_TRAINED. -/
def execCxlPortTrained (port width : Nat) (s : State) : Host.Outcome State Fault Refusal := whenLive (devCxlPortTrained port width) s

/-- PERST_N_ASSERT (R88, R343, R477): only that port's front end resets; it is down. -/
def devPerstNAssert (port : Nat) (d : Dev) : Dev :=
  let d := d.modPort port fun x => { x with perstReleased := false }
  if d.live && d.ports.any (fun x => x.index == port && x.link != .down) then
    ((d.portLost port).modPort port fun x => { x with link := .down, width := 0 }).settle
  else d

/-- Execute PERST_N_ASSERT. -/
def execPerstNAssert (port : Nat) (s : State) : Host.Outcome State Fault Refusal := always (devPerstNAssert port) s

/-- PERST_N_RELEASE (R477): the port may train. -/
def devPerstNRelease (port : Nat) (d : Dev) : Dev := d.modPort port fun x => { x with perstReleased := true }

/-- Execute PERST_N_RELEASE. -/
def execPerstNRelease (port : Nat) (s : State) : Host.Outcome State Fault Refusal := always (devPerstNRelease port) s

/-! ### The boot image (R63, R64, R439) -/

/-- Whether the image marks a gallery EARLY (R44). -/
def Dev.isEarly (d : Dev) (logical : Option Nat) : Bool :=
  d.image.any fun i => i.galleries.any fun g => g.early && logical == some g.gallery

/-- EARLY galleries with a valid pass record join without a test (R443). -/
def Dev.fastGalleries (d : Dev) : Dev :=
  { d with galleries := d.galleries.map fun (g : Gallery) =>
      if g.state == .pending && d.isEarly g.logical && d.fastPath (.gallery g.physical) d.fw.digest then { g with state := .joined, fast := true } else g }

/-- A boot image that passed comes into force, with its queues; the load ends ACCEPTED. -/
def Dev.bootInForce (d : Dev) (i : Image) : Dev := ({ d with image := some i, full := some i }.reloadShaper).endLoad 0 0xFFFF

/-- BOOT_IMAGE_LOAD (R63, R64, R439): the boot flash's image is validated and loaded, or IMAGE_ABSENT is set; IMG_STATUS then tells
of a load that the reset abandoned (log 46). AVAILABLE_PARTIAL is reached, and LIVE_OUT toggles. -/
def devBootImageLoad (t : Nat) (d : Dev) : Dev :=
  if d.acc.state != .booting || d.acc.phase != 5 then d
  else
    let d := d.atTime t
    let cut := d.load.abandoned
    let d := { d with load := ImageLoad.idle }
    let absent (d : Dev) (code : Nat) : Dev := { d with acc := { d.acc with imageAbsent := true, bootResult := code } }
    let d := match d.bootImage with
      | none => absent d 0
      | some b =>
        match d.validate b with
        | .error c => absent (d.endLoad c (namedDomain b)) c
        | .ok i => d.bootInForce i
    let d := if cut then (d.setField 0x2010 55 48 0x10).setField 0x2010 0 0 1 else d
    let d := { d with acc := { d.acc with state := .availablePartial, phase := 7, partialTime := d.now - d.acc.releaseTime }
                      pins := { d.pins with liveOut := true } }
    ((d.fastGalleries).powerGalleries).checkFull.settle

/-- Execute BOOT_IMAGE_LOAD. -/
def execBootImageLoad (t : Nat) (s : State) : Host.Outcome State Fault Refusal := whenLive (devBootImageLoad t) s

/-! ### Store, galleries, engines, media (R433, R440 to R442) -/

/-- A stack after the march of one increment (R430, R440): it has joined, and may have taken more repairs (log 90). -/
def Stack.marched (x : Stack) (free : Nat) : Stack :=
  if x.state == .pending || x.state == .joined then { x with state := .joined, repairs := (x.repairs + free) % 2 ^ 16 } else x

/-- A stack has failed beyond repair (R433): the joining stops, and the next accession counts the stack as failed; which one it is
the row does not say (log 101). -/
def Dev.stopDram (d : Dev) : Dev :=
  let on := ((d.stackUnits.filter fun x => x.state == .pending || x.state == .joined).map (·.physical))
  let which := at! on (Config.freeNat d.draws % on.length) 0
  { d with draws := d.draws + 1, acc := { d.acc with dramStopped := true, lateStacks := Nat.lor d.acc.lateStacks (2 ^ which) } }

/-- DRAM_INCREMENT_JOINED (R433, R440): the next increment joins, all zeros with good checks; one that fails beyond repair stops the
joining. -/
def devDramIncrementJoined (pass : Bool) (d : Dev) : Dev :=
  if d.acc.phase < 5 || decide (128 ≤ d.acc.increments) || d.acc.dramStopped then d
  else if !pass then (d.stopDram.degrade).checkFull.settle
  else
    ({ d with
      draws := d.draws + 8, acc := { d.acc with increments := d.acc.increments + 1 }
      stackUnits := d.stackUnits.map fun (x : Stack) => x.marched (Config.freeNat (d.draws + x.physical)) }).checkFull.settle

/-- Execute DRAM_INCREMENT_JOINED. -/
def execDramIncrementJoined (pass : Bool) (s : State) : Host.Outcome State Fault Refusal := whenLive (devDramIncrementJoined pass) s

/-- GALLERY_TEST_DONE (R430, R433, R441, R443): with at most two failed PEs the gallery joins, new failures mapped onto its spares;
else it is retired; the next accession counts the failures (R433, log 101). A gallery that is not EARLY is tested after the engines. -/
def devGalleryTestDone (gallery failedPes : Nat) (d : Dev) : Dev :=
  match d.galleries.find? (·.physical == gallery) with
  | none => d
  | some g =>
    if g.logical.isNone || g.state != .pending || !(d.acc.enginesTested || d.acc.phase == 5 || d.isEarly g.logical) then d
    else
      let all := Nat.lor g.failed failedPes % 2 ^ 34
      let worse := all != g.failed
      let ok := decide (popCount all 34 ≤ 2)
      let tested (x : Gallery) : Gallery :=
        { x with failed := all, state := if ok then .joined else .retired, source := if worse then Nat.lor x.source 4 else x.source
                 niMap := if ok then workingPes all else x.niMap, remapped := x.remapped || (ok && worse) }
      let d := { d with galleries := modifyAll (fun (x : Gallery) => x.physical == gallery) tested d.galleries }
      let late (d : Dev) : Dev := { d with acc := { d.acc with lateGalleries := (gallery, all) :: d.acc.lateGalleries.filter (·.1 != gallery) } }
      let d := if worse then late d.degrade else d
      let d := if ok then d.notePass (.gallery gallery) else d.noteFault (.gallery gallery)
      (d.powerGalleries).checkFull.settle

/-- Execute GALLERY_TEST_DONE. -/
def execGalleryTestDone (gallery failedPes : Nat) (s : State) : Host.Outcome State Fault Refusal := whenLive (devGalleryTestDone gallery failedPes) s

/-- ENGINE_TEST_DONE (R431, R433, R441): failed movers and scanners are retired; galleries that are not EARLY may join. -/
def devEngineTestDone (failedMovers failedScanners : Nat) (d : Dev) : Dev :=
  if d.acc.phase != 7 || d.acc.enginesTested then d
  else
    let d := { d with acc := { d.acc with enginesTested := true, failedMovers := failedMovers % 2 ^ 32, failedScanners := failedScanners % 2 ^ 8 } }
    let new := decide (Nat.land d.acc.failedMovers (Nat.xor (2 ^ 32 - 1) (d.fuses.badMovers % 2 ^ 32)) ≠ 0) ||
      decide (Nat.land d.acc.failedScanners (Nat.xor 255 (d.fuses.badScanners % 256)) ≠ 0)
    ((if new then d.degrade else d).checkFull).settle

/-- Execute ENGINE_TEST_DONE. -/
def execEngineTestDone (failedMovers failedScanners : Nat) (s : State) : Host.Outcome State Fault Refusal :=
  whenLive (devEngineTestDone failedMovers failedScanners) s

/-- Change a channel. -/
def Dev.modChannel (d : Dev) (c : Nat) (f : OnfiChannel → OnfiChannel) : Dev := { d with channels := modifyAll (·.index == c) f d.channels }

/-- ONFI_CHANNEL_TRAINED (R435, R452): at 2,400 MT/s or more the channel is in service at the rate reached, its reservations scaled
to it, and what waited for it runs; below, it has failed. -/
def devOnfiChannelTrained (channel rate : Nat) (d : Dev) : Dev :=
  match d.channels.find? (·.index == channel) with
  | none => d
  | some x =>
    if d.acc.phase != 7 || !(x.unit == UnitState.pending || (x.unit == .joined && x.off && x.mpe)) then d
    else if rate < 2400 then
      ((d.modChannel channel fun x => { x with unit := .failed, usable := false, rate := 0, off := false }).degrade).checkFull.settle
    else
      let d := d.modChannel channel fun x => { x with unit := .joined, usable := true, rate := rate, off := false, draining := false, mpe := true }
      (((d.setRate { kind := .onfi, index := channel } rate).runMedia).checkFull).settle

/-- Execute ONFI_CHANNEL_TRAINED. -/
def execOnfiChannelTrained (channel rate : Nat) (s : State) : Host.Outcome State Fault Refusal := whenLive (devOnfiChannelTrained channel rate) s

/-- A channel whose media do not qualify (R265): unusable, with a MEDIA record of kind 5, whose block no rule states (log 44). -/
def Dev.unusableChannel (d : Dev) (c : Nat) : Dev :=
  let d := d.modChannel c fun x => { x with unit := .unusable, usable := false }
  let n := Config.freeNat d.draws % 2 ^ 64
  { d with draws := d.draws + 1 }.mediaFault c n 5

/-- CONSERVATOR_READY (R265, R270, R442): the media are known, and the flash tier serves from AVAILABLE_FULL on. -/
def devConservatorReady (res : ConservatorResult) (t : Nat) (d : Dev) : Dev :=
  let d := d.atTime t
  if d.acc.phase != 7 || d.acc.conservator then d
  else
    let d := { d with channels := d.channels.map fun (x : OnfiChannel) => { x with dies := at! res.dies x.index 0 } }
    let d := ((d.channels.filter fun x => x.unit != UnitState.disabled && x.unit != .failed && bit res.unusable x.index).map (·.index)).foldl (fun d c => d.unusableChannel c) d
    let d := d.setReg 0x4020 (BitVec.ofNat 64 (res.usableGiB % 2 ^ 32 * 2 ^ 32 + res.wearPct % 256 * 2 ^ 24 + res.reservePct % 256 * 2 ^ 16))
    ({ d with acc := { d.acc with conservator := true } }.checkFull).runMedia.settle

/-- Execute CONSERVATOR_READY. -/
def execConservatorReady (res : ConservatorResult) (t : Nat) (s : State) : Host.Outcome State Fault Refusal := whenLive (devConservatorReady res t) s

end Sys2Proof.Machine
end

