-- ==== Sys2Proof/Machine/Power.lean ====
section
/-! DEFINITION. Power (chapter 17, R472): requests and refusers, entry, commit and wake timer, the west wing, links and channels,
galleries, voltage and pace, trip and rail fault. -/

namespace Sys2Proof.Machine

/-- Change the power state. -/
def Dev.modPower (d : Dev) (f : Power → Power) : Dev := { d with power := f d.power }

/-! ### Refusers (R455) -/

/-- The codes of PWR_CTRL's REQUEST (R466). -/
def reqSleep : Nat := 1
/-- See `reqSleep`. -/
def reqWake : Nat := 2
/-- See `reqSleep`. -/
def reqOffReady : Nat := 3
/-- See `reqSleep`. -/
def reqForce : Nat := 4
/-- See `reqSleep`. -/
def reqGate : Nat := 5
/-- See `reqSleep`. -/
def reqUngate : Nat := 6

/-- Whether a request is valid in the present state, with no other in progress (refuser STATE). -/
def Dev.requestValid (d : Dev) (req : Nat) : Bool :=
  let still := d.power.device == .active && d.power.phase == .none && (d.power.west == .on || d.power.west == .gated)
  if req = reqWake then d.power.device == .sleep || (d.power.device == .active && d.power.phase != .none)
  else if req = reqGate then still && d.power.west == .on
  else if req = reqUngate then still && d.power.west == .gated
  else still

/-- Refuser COMMANDS: the lowest domain with a command WAITING or RUNNING. -/
def Dev.busyDomain (d : Dev) : Option Nat :=
  (sortOrd (fun (a b : Nat) => decide (a < b)) ((d.ctxs.filter fun c => c.slots.any fun s => s.state == .waiting || s.state == .running).map (·.domain))).head?

/-- Refuser PORT. -/
def Dev.portRefuses (d : Dev) (req : Nat) : Option Nat :=
  ((d.ports.filter fun p => if req = reqSleep then p.link == .l0 else decide (2 ≤ p.index) && p.link != .down).map (·.index)).head?

/-- Refuser GALLERY: the lowest west gallery that the image assigns. -/
def Dev.westAssigned (d : Dev) : Option Nat :=
  d.image.bind fun i =>
    (sortOrd (fun (a b : Nat) => decide (a < b)) ((i.galleries.filter fun g => g.domain != 0xFFFF && decide (westGallery d.acc.reported ≤ g.gallery)).map (·.gallery))).head?

/-- Refuser ENGINE: the lowest domain with a routed pipeline whose movers or scanners, where its class needs them (R46), are all
in the west. -/
def Dev.westEngines (d : Dev) : Option Nat :=
  d.image.bind fun i =>
    let bad (r : RouteRec) : Bool := i.pipelines.any fun p => p.domain == r.domain && p.number == r.pipeline &&
      (([1, 3, 4, 6, 7].contains r.cls && p.movers != 0 && p.movers % 2 ^ 16 == 0) || ([1, 8].contains r.cls && p.scanners != 0 && p.scanners % 2 ^ 4 == 0))
    (sortOrd (fun (a b : Nat) => decide (a < b)) ((i.routes.filter bad).map (·.domain))).head?

/-- Refuser CHANNEL: the lowest west channel with a flash copy or in a domain's mask. -/
def Dev.westChannels (d : Dev) : Option Nat :=
  ((List.range 32).filter fun c => decide (16 ≤ c)).find? fun c =>
    d.granules.any (fun g => g.channel == c && g.residency != .dram) || d.image.any fun i => i.domains.any fun x => bit x.onfiMask c

/-- The first refuser of a request, with its index. -/
def Dev.refuser (d : Dev) (req : Nat) : Option (Nat × Nat) :=
  let on (reqs : List Nat) (code : Nat) (x : Option Nat) : Option (Nat × Nat) := if reqs.contains req then x.map fun i => (code, i) else none
  let busy := d.acc.state != .availableFull || d.load.phase != .idle || d.fw.phase != 0 || d.resetActive
  [if d.requestValid req then none else some (1, 0),
   if busy then some (2, 0) else none,
   on [reqSleep, reqOffReady] 3 d.busyDomain,
   on [reqSleep, reqOffReady, reqGate] 4 (if d.coll.state == .formed then some d.coll.geoId else none),
   on [reqSleep, reqGate] 5 (d.portRefuses req),
   on [reqGate] 6 (((d.links.filter fun l => decide (4 ≤ l.index) && l.state != .down).map (·.index)).head?),
   on [reqGate] 7 d.westAssigned,
   on [reqGate] 8 d.westEngines,
   on [reqGate] 9 d.westChannels].findSome? id

/-- A refused request (R455): counted and noted, nothing else. -/
def Dev.refuseRequest (d : Dev) (req code index : Nat) : Dev :=
  (d.count 0xA018 1).setReg 0xA020 (BitVec.ofNat 64 (req * 2 ^ 32 + code * 2 ^ 24 + index % 2 ^ 16))

/-! ### Entry (R457, R458) -/

/-- Entry begins (R457): admission stops, and what the Conservator had suspended resumes. -/
def Dev.enter (d : Dev) (req : Nat) : Dev :=
  { d with power := { d.power with phase := .drain, request := req }, media := d.media.map fun (m : MediaOp) => { m with suspended := false } }

/-- A mode a pair of the west hands its roles to: the east pair named, or the other where that has halted (R453). -/
def Dev.eastPair (d : Dev) (p : Nat) : Nat :=
  if d.pairs.any fun x => x.index == p && x.works then p else if d.pairs.any fun x => x.index == 1 - p && x.works then 1 - p else p

/-- The west wing begins to gate (R453): pair 2's roles pass to pair 1 and pair 3's to pair 0. -/
def Dev.gateWing (d : Dev) : Dev :=
  let d := (d.passRoles 2 (d.eastPair 1)).passRoles 3 (d.eastPair 0)
  d.modPower fun p => { p with west := .gating }

/-- A request that no refuser stops. -/
def Dev.accept (d : Dev) (req : Nat) : Dev :=
  if req = reqSleep ∨ req = reqOffReady then d.enter req
  else if req = reqForce then d.cmdResetGo.enter req
  else if req = reqWake then (d.wakeBy 5).1
  else if req = reqGate then d.gateWing
  else if req = reqUngate then d.modPower fun p => { p with west := .ungating }
  else d

/-- A request is checked when its write arrives (R455). -/
def Dev.powerRequest (d : Dev) (req : Nat) : Dev :=
  match d.refuser req with
  | some (code, i) => d.refuseRequest req code i
  | none => (d.accept req).settle

/-- Whether a value of PWR_CTRL is in range (R466). -/
def pwrCtrlOk (v : W64) (req : Nat) : Bool :=
  let fixed := bits v.toNat 25 16
  decide (700 ≤ fixed) && decide (fixed ≤ 850) && fixed % 5 == 0 && decide (bits v.toNat 9 8 ≤ 2) && decide (req ≤ 6)

/-- A write to PWR_CTRL (R466). -/
def Dev.pwrCtrl (d : Dev) (w : RegWrite) : Dev :=
  let req := w.fieldOf 3 0
  if !pwrCtrlOk (d.after w) req then d.setField 0xA000 63 63 1
  else
    let d := d.plainWrite w
    if req = 0 then d else d.powerRequest req

/-- A write to PWR_CTRL that requests one thing. -/
def requests (w : RegWrite) (req : Nat) : Bool := w.reg == 0xA000 && w.fieldOf 3 0 == req

/-- SLEEP. -/
def devSleep (w : RegWrite) (d : Dev) : Dev := onRegister (.sleep w) w (fun _ => requests w reqSleep) (fun d => d.pwrCtrl w) d

/-- Execute SLEEP. -/
def execSleep (w : RegWrite) (s : State) : Host.Outcome State Fault Refusal := whenLive (devSleep w) s

/-- WAKE (R459): the write itself is the wake. -/
def devWake (w : RegWrite) (d : Dev) : Dev :=
  let d := match w.src with
    | .bar port _ => if d.portUp port then d.toL0 port else d
    | .docent => d
  d.onWrite w fun d => if requests w reqWake then d.pwrCtrl w else d

/-- Execute WAKE. -/
def execWake (w : RegWrite) (s : State) : Host.Outcome State Fault Refusal := whenLive (devWake w) s

/-- OFF_READY. -/
def devOffReady (w : RegWrite) (d : Dev) : Dev := onRegister (.offReady w) w (fun _ => requests w reqOffReady) (fun d => d.pwrCtrl w) d

/-- Execute OFF_READY. -/
def execOffReady (w : RegWrite) (s : State) : Host.Outcome State Fault Refusal := whenLive (devOffReady w) s

/-- OFF_READY_FORCE (R456). -/
def devOffReadyForce (w : RegWrite) (d : Dev) : Dev := onRegister (.offReadyForce w) w (fun _ => requests w reqForce) (fun d => d.pwrCtrl w) d

/-- Execute OFF_READY_FORCE. -/
def execOffReadyForce (w : RegWrite) (s : State) : Host.Outcome State Fault Refusal := whenLive (devOffReadyForce w) s

/-- SLEEP_DRAIN_DONE (R457): no media operation and no command is in flight any more. -/
def devSleepDrainDone (d : Dev) : Dev :=
  if d.power.phase == .drain && d.media.all (!·.onMedia) && (d.slotsWhere fun _ s => s.state == .running).isEmpty then
    d.modPower fun p => { p with phase := .park }
  else d

/-- Execute SLEEP_DRAIN_DONE. -/
def execSleepDrainDone (s : State) : Host.Outcome State Fault Refusal := whenLive devSleepDrainDone s

/-- The earliest of some times. -/
def earliest (ts : List Nat) : Option Nat :=
  match ts with
  | [] => none
  | t :: rest => some (rest.foldl min t)

/-- When the wake timer is armed for (R460): the earliest loan expiry, patrol and takeover. When the next DRAM patrol is due within
its period no rule states: that is free (log 7). -/
def Dev.wakeDue (d : Dev) : Nat :=
  let hour := 3600000000000
  let loans := (d.loans.filter (!·.gone)).filterMap (·.expiry)
  let blocks := (d.flash.filter fun b => d.granules.any fun g => g.channel == b.channel && g.block == b.number && g.residency != .dram).map
    fun b => b.lastPatrol + d.field 0x4018 47 32 * hour
  let dram := d.now + Config.freeNat d.draws % (d.field 0x8100 47 32 * hour + 1)
  let gates := (allPoints.filter fun p => d.field (p.base + 0x408) 0 0 == 1).map fun p => (d.reg (p.base + 0x410)).toNat
  (earliest (dram :: (loans ++ blocks ++ gates))).getD 0

/-- SLEEP_PARK_DONE (R454, R457, R462, R473): galleries retain, links are QUIET, or DOWN for OFF_READY; COMMIT lowers VDD_CORE to
0.60 V and arms the wake timer. -/
def devSleepParkDone (d : Dev) : Dev :=
  if d.power.phase != .park then d
  else
    let off := d.power.request != reqSleep
    let live := (d.links.filter fun l => l.state == .up || l.state == .training).map (·.index)
    let d := live.foldl (fun (d : Dev) l => (d.emit (.control l 7 0)).modLink l fun (x : Link) => { x with state := if off then .down else .quiet, ts1 := 0, ts2 := 0 }) d
    let d : Dev := { d with galleries := d.galleries.map fun (g : Gallery) => if g.power == GalPower.on then { g with power := .retain } else g }
    let due := d.wakeDue
    { d with draws := d.draws + 1, power := { d.power with phase := .commit, vddMv := 600, vid := 0, wakeTime := due } }

/-- Execute SLEEP_PARK_DONE. -/
def execSleepParkDone (s : State) : Host.Outcome State Fault Refusal := whenLive devSleepParkDone s

/-- ENTRY_COMMIT_DONE (R454, R456, R458): the device is in SLEEP, and a held wake begins its exit; or in OFF_READY, with LIVE_OUT low,
which only RESET_N leaves. -/
def devEntryCommitDone (d : Dev) : Dev :=
  if d.power.phase != .commit then d
  else if d.power.request = reqSleep then
    d.modPower fun p => { p with device := .sleep, phase := .none, request := 0, exiting := p.heldWake.isSome, heldWake := none }
  else
    { d with power := { d.power with device := .offReady, phase := .none, request := 0, heldWake := none, waiting := [] }, pins := { d.pins with liveOut := false } }

/-- Execute ENTRY_COMMIT_DONE. -/
def execEntryCommitDone (s : State) : Host.Outcome State Fault Refusal := whenLive devEntryCommitDone s

/-- WAKE_TIMER (R459, R460): the armed timer expires; during COMMIT its wake is held. -/
def devWakeTimer (t : Nat) (d : Dev) : Dev :=
  let d := d.atTime t
  if (d.power.device == .sleep || d.power.phase == .commit) && d.power.wakeTime != 0 && decide (d.power.wakeTime ≤ d.now) then (d.wakeBy 4).1 else d

/-- Execute WAKE_TIMER. -/
def execWakeTimer (t : Nat) (s : State) : Host.Outcome State Fault Refusal := whenLive (devWakeTimer t) s

/-! ### Voltage (R463, R464, R473) -/

/-- The voltage that the power manager picks, in mV, and the draw it takes: under FLOOR 700; under FIXED VDD_FIXED, reached from below in steps that hold
the limits; else the highest that holds them, which only the part knows: free between 700 and 850 (log 7), and below a voltage that
breaks a limit. -/
def Dev.pickVdd (d : Dev) (cur : Nat) (holds : Bool) : Nat :=
  let free := 700 + 5 * (Config.freeNat d.draws % 31)
  let mode := d.field 0xA000 9 8
  let fixed := d.field 0xA000 25 16
  let most := if mode = 1 then 700 else if mode = 2 then (if !holds then min fixed free else if fixed ≤ cur then fixed else cur + 5 * (Config.freeNat d.draws % ((fixed - cur) / 5 + 1))) else free
  if holds then most else min most (max 700 (cur - 5))

/-- VDD_CORE and its VID code. -/
def Dev.setVdd (d : Dev) (mv : Nat) : Dev := { d with draws := d.draws + 1, power := { d.power with vddMv := mv, vid := (mv - 600) / 5 } }

/-- PACE_UPDATE (R463, R464): pace and temperature are read; the voltage moves at most 100 mV in 10 µs; THROTTLED while a limit
cannot be held at 0.70 V, counted in ms. `pacePs`, `tj` and `powerW` are measurements (log 3). -/
def devPaceUpdate (t pacePs tj powerW : Nat) (d : Dev) : Dev :=
  let d := d.atTime t
  if d.power.device != .active || !(d.acc.state == .availablePartial || d.acc.state == .availableFull) then d
  else
    let holds := decide (powerW ≤ d.field 0xA010 11 0) && decide (tj ≤ 105)
    let cur := if d.power.vddMv < 600 then 750 else d.power.vddMv
    let want := d.pickVdd cur holds
    let mv := if want < cur then max want (cur - 100) else min want (cur + 100)
    let hot := !holds && cur == 700
    let ms := if d.power.throttled then (d.now - d.power.throttleStart) / 1000000 else 0
    let start := if d.power.throttled then 1000000 * ms + d.power.throttleStart else d.now
    let d := (d.setVdd mv).modPower fun p => { p with pacePs := pacePs % 2 ^ 14, tjC := tj % 256, throttled := hot, throttleStart := start }
    if ms = 0 then d else d.count 0xA048 ms

/-- Execute PACE_UPDATE. -/
def execPaceUpdate (t pacePs tj powerW : Nat) (s : State) : Host.Outcome State Fault Refusal := whenLive (devPaceUpdate t pacePs tj powerW) s

/-- THERMAL_TRIP (R465, R474): at 115 °C the controller stops, asserts TRIP_N and holds LIVE_OUT low. -/
def devThermalTrip (tj : Nat) (d : Dev) : Dev :=
  if tj < 115 then d
  else { d with power := { d.power with tripped := true, tjC := tj % 256 }, pins := { d.pins with liveOut := false, tripN := true } }

/-- Execute THERMAL_TRIP. -/
def execThermalTrip (tj : Nat) (s : State) : Host.Outcome State Fault Refusal := whenLive (devThermalTrip tj) s

/-- RAIL_FAULT (R472): the controller stops without TRIP_N; on an always-on rail it is a loss of power. -/
def devRailFault (alwaysOn : Bool) (d : Dev) : Dev :=
  if alwaysOn then { d with acc := { d.acc with powered := false }, pins := { d.pins with liveOut := false, tripN := false } }
  else if !d.acc.powered || d.acc.resetLow then d
  else { d with power := { d.power with railFault := true }, pins := { d.pins with liveOut := false } }

/-- Execute RAIL_FAULT. -/
def execRailFault (alwaysOn : Bool) (s : State) : Host.Outcome State Fault Refusal := always (devRailFault alwaysOn) s

/-! ### The west wing (R453) -/

/-- GATE_WEST. -/
def devGateWest (w : RegWrite) (d : Dev) : Dev := onRegister (.gateWest w) w (fun _ => requests w reqGate) (fun d => d.pwrCtrl w) d

/-- Execute GATE_WEST. -/
def execGateWest (w : RegWrite) (s : State) : Host.Outcome State Fault Refusal := whenLive (devGateWest w) s

/-- GATE_WEST_DONE: the wing's galleries and channels are off. -/
def devGateWestDone (d : Dev) : Dev :=
  if d.power.west != .gating then d
  else
    let west := westGallery d.acc.reported
    { d with
      power := { d.power with west := .gated }
      galleries := d.galleries.map fun (g : Gallery) => if g.logical.any fun n => decide (west ≤ n) then g.turnOff else g
      channels := d.channels.map fun (c : OnfiChannel) => if 16 ≤ c.index then { c with off := true, mpe := false, draining := false } else c }

/-- Execute GATE_WEST_DONE. -/
def execGateWestDone (s : State) : Host.Outcome State Fault Refusal := whenLive devGateWestDone s

/-- UNGATE_WEST. -/
def devUngateWest (w : RegWrite) (d : Dev) : Dev := onRegister (.ungateWest w) w (fun _ => requests w reqUngate) (fun d => d.pwrCtrl w) d

/-- Execute UNGATE_WEST. -/
def execUngateWest (w : RegWrite) (s : State) : Host.Outcome State Fault Refusal := whenLive (devUngateWest w) s

/-- UNGATE_DONE: the wing's links and channels train, the pairs have their home roles again. -/
def devUngateDone (d : Dev) : Dev :=
  if d.power.west != .ungating then d
  else
    let offs := d.field 0xA040 31 0
    let d : Dev := { d with
      power := { d.power with west := .on }
      pairs := d.pairs.map fun (p : Pair) => { p with roles := [p.index] }
      channels := d.channels.map fun (c : OnfiChannel) => if 16 ≤ c.index && c.unit != .disabled then { c with mpe := !bit offs c.index } else c }
    let d := ((d.pairs.filter (!·.works)).map (·.index)).foldl (fun (d : Dev) p => d.dropPair p) d
    let d := ([4, 5, 6, 7].filter fun l => d.linkWorks l).foldl (fun (d : Dev) l => d.train l) d
    (d.powerGalleries).checkFull.settle

/-- Execute UNGATE_DONE. -/
def execUngateDone (s : State) : Host.Outcome State Fault Refusal := whenLive devUngateDone s

/-! ### Links and channels (R268, R452, R466) -/

/-- A link enters QUIET: DOWN is sent, its width and replay buffer stay; with a member of a formed collection the request is
refused (R452, R455). -/
def Dev.quietLink (d : Dev) (l : Nat) : Dev :=
  match d.link? l with
  | none => d
  | some x =>
    if d.coll.state == .formed && x.peerMember && x.state != .down then
      (d.setField 0xA040 (32 + l) (32 + l) 0).refuseRequest 0 6 l
    else if x.state == .up || x.state == .training then
      (d.emit (.control l 7 0)).modLink l fun x => { x with state := .quiet, ts1 := 0, ts2 := 0 }
    else d

/-- A link leaves QUIET through a retrain (R452). -/
def Dev.unquietLink (d : Dev) (l : Nat) : Dev := if (d.link? l).any fun x => x.state == .quiet then d.retrainLink l else d

/-- A channel goes OFF: no new program or erase, suspended ones resume (R268). -/
def Dev.drainChannel (d : Dev) (c : Nat) : Dev :=
  let d := d.modChannel c fun x => if x.off then x else { x with draining := true }
  { d with media := modifyAll (fun (m : MediaOp) => m.channel == c) (fun (m : MediaOp) => { m with suspended := false }) d.media }

/-- A channel comes back on: an OFF one trains, a draining one goes on (R452). -/
def Dev.channelBack (d : Dev) (c : Nat) : Dev :=
  (d.modChannel c fun x => if x.unit == .disabled then x else if x.off then { x with mpe := x.mpe || d.power.west == .on || decide (c < 16) } else { x with draining := false }).runMedia

/-- A write to PWR_UNIT (R466): each bit that changes acts on its link or channel. -/
def Dev.pwrUnit (d : Dev) (w : RegWrite) : Dev :=
  let old := (d.reg 0xA040).toNat
  let d := d.plainWrite w
  let new := (d.reg 0xA040).toNat
  let rose (i : Nat) : Bool := bit new i && !bit old i
  let fell (i : Nat) : Bool := bit old i && !bit new i
  let d := ((List.range 8).filter fun l => rose (32 + l)).foldl (fun (d : Dev) l => d.quietLink l) d
  let d := ((List.range 8).filter fun l => fell (32 + l)).foldl (fun (d : Dev) l => d.unquietLink l) d
  let d := ((List.range 32).filter rose).foldl (fun (d : Dev) c => d.drainChannel c) d
  ((List.range 32).filter fell).foldl (fun (d : Dev) c => d.channelBack c) d

/-- Whether a write to PWR_UNIT would set, or clear, a bit of a field. -/
def Dev.unitBits (d : Dev) (w : RegWrite) (hi lo : Nat) (set : Bool) : Bool :=
  let old := d.field 0xA040 hi lo
  let new := bits (d.after w).toNat hi lo
  w.reg == 0xA040 && (List.range (hi - lo + 1)).any fun i => if set then bit new i && !bit old i else bit old i && !bit new i

/-- LINK_QUIET: a PWR_UNIT write that sets a ZK_QUIET bit. -/
def devLinkQuiet (w : RegWrite) (d : Dev) : Dev := onRegister (.linkQuiet w) w (fun d => d.unitBits w 39 32 true) (fun d => d.pwrUnit w) d

/-- Execute LINK_QUIET. -/
def execLinkQuiet (w : RegWrite) (s : State) : Host.Outcome State Fault Refusal := whenLive (devLinkQuiet w) s

/-- ONFI_CHANNEL_OFF: a PWR_UNIT write that sets an ONFI_OFF bit. -/
def devOnfiChannelOff (w : RegWrite) (d : Dev) : Dev := onRegister (.onfiChannelOff w) w (fun d => d.unitBits w 31 0 true) (fun d => d.pwrUnit w) d

/-- Execute ONFI_CHANNEL_OFF. -/
def execOnfiChannelOff (w : RegWrite) (s : State) : Host.Outcome State Fault Refusal := whenLive (devOnfiChannelOff w) s

/-- ONFI_OFF_DRAINED (R268, R452): with nothing on its media, the channel's media power enable is deasserted; a read that waits for
it powers it on again. -/
def devOnfiOffDrained (channel : Nat) (d : Dev) : Dev :=
  if !(d.channels.any fun c => c.index == channel && c.draining) || d.media.any (fun m => m.channel == channel && m.onMedia) then d
  else
    let d := d.modChannel channel fun c => { c with draining := false, off := true, mpe := false }
    if d.media.any fun m => m.channel == channel && m.kind == .read then d.channelOn channel else d

/-- Execute ONFI_OFF_DRAINED. -/
def execOnfiOffDrained (channel : Nat) (s : State) : Host.Outcome State Fault Refusal := whenLive (devOnfiOffDrained channel) s

/-- ONFI_CHANNEL_ON: a PWR_UNIT write that clears an ONFI_OFF bit. -/
def devOnfiChannelOn (w : RegWrite) (d : Dev) : Dev := onRegister (.onfiChannelOn w) w (fun d => d.unitBits w 31 0 false) (fun d => d.pwrUnit w) d

/-- Execute ONFI_CHANNEL_ON. -/
def execOnfiChannelOn (w : RegWrite) (s : State) : Host.Outcome State Fault Refusal := whenLive (devOnfiChannelOn w) s

/-! ### Galleries (R451) -/

/-- The domain that the image gives a logical gallery to. -/
def Dev.galleryDomain (d : Dev) (g : Nat) : Option Nat :=
  (d.image.bind fun i => i.galleries.find? (·.gallery == g)).bind fun x => if x.domain = 0xFFFF then none else some x.domain

/-- Whether a step of a domain is ready for a gallery: a running command of its pipeline still has steps. -/
def Dev.stepReady (d : Dev) (dom g : Nat) : Bool :=
  d.ctxs.any fun c => c.domain == dom && c.held.any fun e =>
    e.2.1.state == .running && !e.2.2.plan.isEmpty && (d.galleriesFor dom (lineVerb e.2.2.line)).contains g

/-- GALLERY_RETAIN (R451): a logical gallery of a domain with AUTO_RETAIN set, without a step for RETAIN_US. -/
def devGalleryRetain (gallery t : Nat) (d : Dev) : Dev :=
  let d := d.atTime t
  match d.galleryDomain gallery with
  | none => d
  | some dom =>
    if d.field (pageOff dom 0x240) 0 0 = 0 || d.stepReady dom gallery then d
    else
      let us := d.field (pageOff dom 0x240) 31 16
      { d with galleries := d.galleries.map fun (g : Gallery) =>
          if g.logical == some gallery && g.power == .on && decide (g.lastStep + us * 1000 ≤ d.now) then { g with power := .retain } else g }

/-- Execute GALLERY_RETAIN. -/
def execGalleryRetain (gallery t : Nat) (s : State) : Host.Outcome State Fault Refusal := whenLive (devGalleryRetain gallery t) s

/-! ### The exit (R461) -/

/-- The exit from SLEEP ends: VDD_CORE is at least 0.70 V, galleries and links are as before, admission resumes. -/
def Dev.exitSleep (d : Dev) : Dev :=
  let d := d.setVdd (d.pickVdd 700 true)
  let d : Dev := { d with
    power := { d.power with device := .active, exiting := false, wakeTime := 0, waiting := [] }
    galleries := d.galleries.map fun (g : Gallery) => if g.power == GalPower.retain then { g with power := .on, lastStep := d.now } else g }
  let asked := d.field 0xA040 39 32
  let back := (d.links.filter fun l => l.state == .quiet && !bit asked l.index).map (·.index)
  (back.foldl (fun (d : Dev) l => d.retrainLink l) d).settle

end Sys2Proof.Machine
end

