-- ==== Sys2Proof/Machine/Registers.lean ====
section
/-! DEFINITION. Writes to BAR0: what each register of the device-global block, the pages and the unit blocks does with a write
(R15, R28 to R31, R492 and the registers of every chapter). -/

namespace Sys2Proof.Machine

/-! ### Registers with a range of their own -/

/-- COLL_CFG and FAB_TIMEOUT (R381): COLL_CFG is discarded after formation; EXPECT, WIDTH and TIMEOUT_US have ranges; a discarded
write sets REFUSED in COLL_STATUS. -/
def Dev.collCfg (d : Dev) (w : RegWrite) : Dev :=
  let formed := match d.coll.state with
    | .formed => true
    | .isolated => true
    | .failed => true
    | _ => false
  let ok (v : W64) : Bool :=
    if w.reg = 0x7018 then decide (200 ≤ bits v.toNat 31 0) && decide (bits v.toNat 31 0 ≤ 100000)
    else !formed && decide (1 ≤ bits v.toNat 12 8) && decide (bits v.toNat 12 8 ≤ 16) && decide (bits v.toNat 7 5 ≤ 4)
  d.rangedWrite w ok (some (0x7008, 63))

/-- CONS_CTRL (R274): values outside PATROL_H 1–8,760 and RETAIN_PCT 10–90 are discarded. -/
def Dev.consCtrl (d : Dev) (w : RegWrite) : Dev :=
  let ok (v : W64) : Bool := decide (1 ≤ bits v.toNat 47 32) && decide (bits v.toNat 47 32 ≤ 8760) && decide (10 ≤ bits v.toNat 15 8) && decide (bits v.toNat 15 8 ≤ 90)
  d.rangedWrite w ok none

/-- RAS_CTRL (R418): PATROL_H 1–720, REREADS 1–3. -/
def Dev.rasCtrl (d : Dev) (w : RegWrite) : Dev :=
  let ok (v : W64) : Bool := decide (1 ≤ bits v.toNat 47 32) && decide (bits v.toNat 47 32 ≤ 720) && decide (1 ≤ bits v.toNat 7 4) && decide (bits v.toNat 7 4 ≤ 3)
  d.rangedWrite w ok (some (0x8100, 63))

/-- VIT_CTRL (R348): BI_TIMEOUT 10–10,000. -/
def Dev.vitCtrl (d : Dev) (w : RegWrite) : Dev :=
  d.rangedWrite w (fun v => decide (10 ≤ bits v.toNat 31 0) && decide (bits v.toNat 31 0 ≤ 10000)) (some (0x6000, 63))

/-- TELEM_PERIOD (R327): 100–1,000,000. -/
def Dev.telemPeriod (d : Dev) (w : RegWrite) : Dev :=
  d.rangedWrite w (fun v => decide (100 ≤ bits v.toNat 31 0) && decide (bits v.toNat 31 0 ≤ 1000000)) none

/-- PWR_CAP (R466): 300 to the variant's TDP. -/
def Dev.pwrCap (d : Dev) (w : RegWrite) : Dev :=
  d.rangedWrite w (fun v => decide (300 ≤ bits v.toNat 11 0) && decide (bits v.toNat 11 0 ≤ tdpOf d.acc.reported)) (some (0xA000, 63))

/-! ### The one meaning of a write -/

/-- A write to a register of the device-global block. -/
def Dev.globalWrite (d : Dev) (w : RegWrite) : Dev :=
  match areaAt w.reg with
  | some a => d.faultWrite a w
  | none =>
    if w.reg = 0x1008 then d.accCtrl w
    else if w.reg = 0x1010 then d.fwCtrl w false []
    else if w.reg = 0x2000 then d.imgCtrl w
    else if w.reg = 0x3000 then (if w.sets 0 then d.cmdResetGo else d)
    else if w.reg = 0x4000 then d.mediaGov w
    else if w.reg = 0x4018 then d.consCtrl w
    else if w.reg = 0x5080 then d.telemPeriod w
    else if w.reg = 0x5088 then d.telemSel w
    else if w.reg = 0x6000 then d.vitCtrl w
    else if w.reg = 0x7000 ∨ w.reg = 0x7018 then d.collCfg w
    else if w.reg = 0x8100 then d.rasCtrl w
    else if w.reg = 0xA000 then d.pwrCtrl w
    else if w.reg = 0xA010 then d.pwrCap w
    else if w.reg = 0xA040 then d.pwrUnit w
    else d.plainWrite w

/-- A write to a register of a unit block. -/
def Dev.unitWrite (d : Dev) (w : RegWrite) : Dev :=
  match linkCtrlOf w.reg with
  | some l => d.zkCtrl l w
  | none =>
    match pointOf w.reg with
    | some p => d.shaperWrite p w
    | none => d.plainWrite w

/-- A register write that is admitted. -/
def Dev.applyWrite (d : Dev) (w : RegWrite) : Dev :=
  match blockOf w.reg with
  | .global => d.globalWrite w
  | .page _ => d.pageWrite w
  | .reserved => d
  | _ => d.unitWrite w

/-- COLL_CFG_WRITE. -/
def devCollCfgWrite (w : RegWrite) (d : Dev) : Dev :=
  onRegister (.collCfgWrite w) w (fun _ => w.reg == 0x7000 || w.reg == 0x7018) (fun d => d.collCfg w) d

/-- Execute COLL_CFG_WRITE. -/
def execCollCfgWrite (w : RegWrite) (s : State) : Host.Outcome State Fault Refusal := whenLive (devCollCfgWrite w) s

/-- REGISTER_WRITE: any BAR0 write but a GO in FW_CTRL over a port, whose row carries the fetch's answer (log 3). -/
def devRegisterWrite (w : RegWrite) (d : Dev) : Dev :=
  let go := w.reg == 0x1010 && w.sets 0 && (match w.src with | .bar _ _ => true | .docent => false)
  onRegister (.registerWrite w) w (fun _ => !go) (fun d => d.applyWrite w) d

/-- Execute REGISTER_WRITE. -/
def execRegisterWrite (w : RegWrite) (s : State) : Host.Outcome State Fault Refusal := whenLive (devRegisterWrite w) s

end Sys2Proof.Machine
end

