-- ==== Sys2Proof/Machine/Views.lean ====
section
/-! DEFINITION. What a register reads as: the stored bits, and the fields that report state held elsewhere; the condition report
(R444) and reads over CXL.io (R421, R491, R493, R494). -/

namespace Sys2Proof.Machine

/-! ### Codes -/

/-- The state codes of R444. -/
def UnitState.code : UnitState → Nat
  | .disabled => 0 | .joined => 1 | .pending => 2 | .failed => 3 | .retired => 4 | .unusable => 5

/-- The state codes of R424. -/
def AccState.code : AccState → Nat
  | .booting => 0 | .availablePartial => 1 | .availableFull => 2 | .refused => 3

/-- The codes of COLL_STATUS STATE (R381). -/
def CollState.code : CollState → Nat
  | .standalone => 0 | .forming => 1 | .formed => 2 | .isolated => 3 | .failed => 4 | .formFailed => 5

/-- The codes of IMG_STATUS STATE (R55). -/
def LoadPhase.code : LoadPhase → Nat
  | .idle => 0 | .fetching => 1 | .verifying => 2 | .quiescing => 3 | .wiping => 4 | .committing => 5

/-- The codes of PWR_STATUS WEST and STATE (R466). -/
def WestState.code : WestState → Nat
  | .on => 0 | .gating => 1 | .gated => 2 | .ungating => 3

/-- See `WestState.code`. -/
def DevicePower.code : DevicePower → Nat
  | .active => 0 | .sleep => 1 | .offReady => 2

/-- The POWER codes of UNIT_STATUS (chapter 19). -/
def GalPower.code : GalPower → Nat
  | .on => 0 | .retain => 1 | .off => 2

/-- See `GalPower.code`. -/
def PortLink.code : PortLink → Nat
  | .l0 => 0 | .l1 => 1 | .down => 2

/-- See `GalPower.code`. -/
def LinkState.powerCode : LinkState → Nat
  | .up => 0 | .quiet => 1 | _ => 2

/-- The STATE codes of ZK_LINK_STATUS (R382). -/
def LinkState.code : LinkState → Nat
  | .training => 1 | .up => 2 | _ => 0

/-- Whether phase 1 of accession has read the fuses and straps. -/
def Dev.fusesRead (d : Dev) : Bool := decide (1 ≤ d.acc.phase) && !d.acc.resetLow

/-- A 64-bit value of fields, each a position and a value. -/
def ofFields (fs : List (Nat × Nat)) : W64 := BitVec.ofNat 64 ((fs.map fun f => f.2 * 2 ^ f.1).foldl (· + ·) 0)

/-! ### The condition report (R444) -/

/-- The flags of bytes 14 and 15. -/
def Dev.reportFlags (d : Dev) : Nat :=
  b2n d.acc.degraded + 2 * b2n d.acc.imageAbsent + 4 * b2n (d.fusesRead && decide (d.workingPairs < 2)) + 8 * b2n d.acc.geoConflict +
    16 * b2n d.acc.formFailed + 32 * b2n d.acc.excluded + 64 * b2n d.acc.dramStopped + 128 * b2n d.fuses.ownerHash.isSome

/-- The strap GEO_ID sampled at the last release. -/
def Dev.sampledGeo (d : Dev) : Nat := if d.acc.resetLow then 0 else d.docent.address - 0x40

/-- Usable dies of a channel. -/
def usableDies (c : OnfiChannel) : Nat := if c.usable then c.dies % 256 else 0

/-- The 16 bytes of a gallery's entry. -/
def galleryEntry (g : Gallery) : List Byte :=
  natLe g.physical 1 ++ natLe (g.logical.getD 0xFF) 1 ++ natLe g.state.code 1 ++ natLe g.source 1 ++ natLe (b2n g.fast) 1 ++ natLe 0 3 ++ natLe g.failed 8

/-- A stack's entry. -/
def stackEntry (x : Stack) : List Byte :=
  natLe x.physical 1 ++ natLe (x.logical.getD 0xFF) 1 ++ natLe x.state.code 1 ++ natLe x.source 1 ++ natLe x.repairs 2 ++ natLe 0 2

/-- A port's entry. -/
def portEntry (p : Port) : List Byte :=
  natLe p.index 1 ++ natLe p.state.code 1 ++ natLe p.width 1 ++ natLe p.source 1 ++ natLe (p.nearLanes % 2 ^ 16) 2 ++ natLe (p.farLanes % 2 ^ 16) 2

/-- A link's entry. -/
def linkEntry (l : Link) : List Byte :=
  natLe l.index 1 ++ natLe l.unit.code 1 ++ natLe l.width 1 ++ natLe l.source 1 ++ natLe l.nearLanes 1 ++ natLe l.farLanes 1 ++ natLe 0 2

/-- A channel's entry. -/
def channelEntry (c : OnfiChannel) : List Byte := natLe c.index 1 ++ natLe c.unit.code 1 ++ natLe (c.rate / 400) 1 ++ natLe (usableDies c) 1

/-- A pair's entry: disabled by the fuses, joined, or failed. -/
def Dev.pairEntry (d : Dev) (p : Pair) : List Byte :=
  let st : UnitState := if !d.fuses.pairOk p.index then .disabled else if p.works then .joined else if d.acc.phase < 3 then .pending else .failed
  natLe p.index 1 ++ natLe st.code 1 ++ natLe (b2n (!d.fuses.pairOk p.index) + 4 * b2n (st == .failed)) 1 ++ [0]

/-- The condition report, 4,096 bytes. -/
def Dev.conditionReport (d : Dev) : List Byte :=
  let managers := (List.range 16).flatMap fun i => natLe (at! d.fuses.managers i 0xFFFF) 2
  let b := ascii "GLCONDIT" ++ natLe 1 2 ++ natLe (if d.acc.warm then 2 else 1) 1 ++ natLe d.acc.state.code 1 ++ natLe d.fuses.marked 1 ++ natLe d.acc.reported 1 ++
    natLe d.reportFlags 2 ++ natLe d.acc.refusal 1 ++ natLe d.sampledGeo 1 ++ natLe (d.coll.role % 4) 1 ++ natLe d.fuses.rollback 1 ++ natLe 0 4 ++
    natLe d.fw.version.toNat 8 ++ natLe d.acc.partialTime 8 ++ natLe d.acc.fullTime 8 ++ natLe d.imageSerial.toNat 8 ++ natLe d.acc.bootResult 8 ++ d.fw.digest ++
    d.galleries.flatMap galleryEntry ++ d.stackUnits.flatMap stackEntry ++ d.ports.flatMap portEntry ++ d.links.flatMap linkEntry ++
    d.channels.flatMap channelEntry ++ d.pairs.flatMap d.pairEntry ++ natLe d.badMovers 4 ++ natLe d.badScanners 4 ++ managers
  (b ++ List.replicate (4096 - b.length) 0).take 4096

/-! ### Device-global fields -/

/-- DEV_ID (chapter 19). -/
def Dev.devId (d : Dev) : W64 :=
  if !d.fusesRead then 0
  else
    let part := if d.fuses.marked = 2 then 0x9112 else if d.fuses.marked = 3 then 0x9104 else 0x9120
    ofFields [(48, part), (40, d.fuses.marked), (32, d.acc.reported), (24, d.fuses.stepping % 256), (0, b2n d.acc.degraded)]

/-- ACC_STATUS (R447). -/
def Dev.accStatus (d : Dev) : W64 :=
  if !d.fusesRead then 0
  else
    ofFields [(40, d.acc.refusal), (32, d.acc.reported), (24, d.fuses.marked), (16, d.acc.increments), (8, (d.galleries.filter (·.state == .joined)).length),
      (5, b2n d.acc.degraded), (4, b2n d.acc.warm), (0, d.acc.state.code)]

/-- Whether a unit is lost under R409: some stripe has more than m shards on lost members. -/
def Dev.codeExceeded (d : Dev) : Bool :=
  let ms := bitmapList d.coll.members
  let n := d.coll.planK + d.coll.planM
  (List.range ms.length).any fun t =>
    decide (d.coll.planM < ((List.range n).filter fun p => d.coll.lost.getLsbD (at! ms ((t + p) % ms.length) 0)).length)

/-- CODE_STATUS (R418). -/
def Dev.codeStatus (d : Dev) : W64 :=
  let st := if d.coll.planK = 0 then 0 else if d.codeExceeded then 4 else if d.coll.rejoining != 0 then 3 else if d.coll.lost != 0 then 2 else 1
  ofFields [(56, d.coll.planK), (48, d.coll.planM), (32, d.coll.rebuildTarget % 16), (28, st)]

/-- CODE_PROGRESS (R418), in GiB of the 4 KiB units. -/
def Dev.codeProgress (d : Dev) : W64 := ofFields [(32, d.coll.rebuiltUnits.length / 2 ^ 18), (0, d.coll.rebuildTotal / 2 ^ 18)]

/-- COLL_STATUS (R381). -/
def Dev.collStatus (d : Dev) : W64 :=
  ofFields [(63, d.field 0x7008 63 63), (32, d.coll.epoch.toNat), (28, d.coll.master % 16), (24, d.coll.deputy % 16), (23, b2n d.coll.deputyValid), (20, d.coll.state.code)]

/-- PWR_STATUS (R466). -/
def Dev.pwrStatus (d : Dev) : W64 :=
  ofFields [(63, b2n d.power.tripped), (62, b2n d.power.throttled), (48, d.power.pacePs % 2 ^ 14), (40, d.power.tjC % 256), (30, d.power.vddMv % 1024),
    (6, d.power.phase.code), (4, d.power.west.code), (0, d.power.device.code)]

/-- SIDEBAND_STATUS (R490). -/
def Dev.sideband (d : Dev) : W64 :=
  let perst := (d.ports.map fun p => b2n p.perstReleased * 2 ^ p.index).foldl (· + ·) 0
  ofFields [(40, d.docent.address), (36, perst), (30, d.power.vid), (15, b2n d.power.railFault), (14, b2n d.pins.vrGood), (13, b2n d.pins.liveInQuiet), (12, b2n d.pins.liveIn),
    (8, d.coll.role % 4), (0, d.sampledGeo)]

/-- A register of the device-global block. -/
def Dev.globalView (d : Dev) (off : Nat) : W64 :=
  if 0x9000 ≤ off ∧ off < 0xA000 then BitVec.ofNat 64 (fieldAt d.conditionReport (off - 0x9000) 8)
  else if off = 0x0000 then d.devId
  else if off = 0x0008 then (if d.fusesRead then d.fuses.serial else 0)
  else if off = 0x0010 then BitVec.ofNat 64 d.now
  else if off = 0x1000 then d.accStatus
  else if off = 0x1008 then putField (d.reg off) 55 48 d.fuses.rollback
  else if off = 0x1020 then putField (d.reg off) 3 2 d.fw.phase
  else if off = 0x2010 then putField (d.reg off) 4 2 d.load.phase.code
  else if off = 0x2018 then d.imageSerial
  else if off = 0x7008 then d.collStatus
  else if off = 0x7010 then ofFields [(32, d.coll.members.toNat), (16, d.coll.lost.toNat), (0, d.coll.rejoining.toNat)]
  else if off = 0x8108 then d.codeStatus
  else if off = 0x8110 then d.codeProgress
  else if off = 0xA008 then d.pwrStatus
  else if off = 0xA038 then BitVec.ofNat 64 d.power.wakeTime
  else if off = 0xB000 then d.sideband
  else d.reg off

/-! ### Pages -/

/-- DOMAIN_STATUS (chapter 19). -/
def Dev.domainStatus (d : Dev) (dom : Nat) : W64 :=
  ofFields [(24, ((d.image.map fun i => (i.galleriesOf dom).length)).getD 0), (2, b2n (d.loadingDomain == some dom)), (1, d.field (pageOff dom 0) 1 1), (0, b2n (d.domainRec dom).isSome)]

/-- TAG_STATUS (R83). -/
def Dev.tagStatus (d : Dev) (dom : Nat) : W64 :=
  let waiting := (d.slotsWhere fun c s => c.domain == dom && s.state == .waiting).length
  ofFields [(32, waiting), (16, d.tagsInUse dom), (0, ((d.domainRec dom).map (·.tagPool)).getD 0)]

/-- KV_FRAMES (R174): frames of a domain in flash and in DRAM. -/
def Dev.kvFrames (d : Dev) (dom : Nat) : W64 :=
  let mine := d.blocks.filter fun b => b.domain == dom && d.isLocal b.frameSa
  let at_ (dram : Bool) (b : Block) : Bool := (granulesOf b.frame).all fun g =>
    match d.granule? g with
    | none => dram
    | some x => if dram then x.residency != .flash else x.residency != .dram
  ofFields [(32, (mine.filter (at_ false)).length), (0, (mine.filter (at_ true)).length)]

/-- TIER_STATUS (R264): MiB of 64 KiB granules. -/
def Dev.tierStatus (d : Dev) (dom : Nat) : W64 :=
  let mine := d.granules.filter (·.domain == dom)
  let sealed := ((d.sealedSpans.filter (·.1 == dom)).flatMap fun e => granulesOf e.2).eraseDups
  let inDram := sealed.filter fun g => (d.granule? g).all fun x => x.residency != .flash
  ofFields [(63, d.field (pageOff dom 0x108) 63 63), (32, (mine.filter (·.residency != .dram)).length / 16), (0, inDram.length / 16)]

/-- A register of a domain page; of an undefined domain only DOMAIN_STATUS does not read 0 (R493). -/
def Dev.pageView (d : Dev) (dom off : Nat) : W64 :=
  let rel := off - pageOff dom 0
  if rel = 0 then d.domainStatus dom
  else if (d.domainRec dom).isNone then 0
  else if rel = 0x008 then ((d.partials.find? (·.domain == dom)).map (·.serial)).getD 0
  else if rel = 0x058 then d.tagStatus dom
  else if rel = 0x080 then d.kvFrames dom
  else if rel = 0x088 then ofFields [(0, (d.blocks.filter fun b => b.domain == dom && b.pinned).length)]
  else if rel = 0x108 then d.tierStatus dom
  else if rel = 0x128 then ofFields [(32, ceilDiv (d.flashUse dom) (2 ^ 20)), (0, ceilDiv (d.dramUse dom) (2 ^ 20))]
  else if rel = 0x138 then ofFields [(32, (d.loans.filter fun l => l.domain == dom && !l.gone).length), (0, (d.extents.filter (·.domain == dom)).length)]
  else if rel = 0x1C0 then ofFields [(32, 2 * d.vitShare dom), (0, (d.directory.filter (·.domain == dom)).length)]
  else if rel = 0x240 then
    putField (d.reg off) 47 40 (d.galleries.filter fun g => g.power == .retain && g.logical.any fun n => d.galleryDomain n == some dom).length
  else if rel = 0x308 then putField (d.reg off) 44 32 (((d.domainRec dom).map (·.faultSlots)).getD 0)
  else d.reg off

/-! ### Unit blocks -/

/-- The kind, index, state and power of a unit (chapter 19); a unit that no map names reads disabled and off. R498 states no POWER for a
unit that the variant does not enable: off or down is shown, as R7 has it without power (DESIGN CHOICE, log 118). -/
def Dev.unitFields (d : Dev) (b : Block29) : Nat × Nat × Nat × Nat :=
  let kept := d.power.device != .active
  match b with
  | .port p => (1, p, ((d.ports.find? (·.index == p)).map fun x => (x.state.code, x.link.code)).getD (0, 2))
  | .link l => (2, l, ((d.links.find? (·.index == l)).map fun x => (x.unit.code, x.state.powerCode)).getD (0, 2))
  | .onfi c => (3, c, ((d.channels.find? (·.index == c)).map fun x => (x.unit.code, b2n x.off)).getD (0, 1))
  | .stack s => (4, s, ((d.stackUnits.find? (·.logical == some s)).map fun x => (x.state.code, if x.state == .joined || x.state == .pending then b2n kept else 2)).getD (0, 2))
  | .gallery g => (5, g, ((d.galleries.find? (·.logical == some g)).map fun x => (x.state.code, x.power.code)).getD (0, 2))
  | _ => (0, 0, 0, 0)

/-- UNIT_STATUS (chapter 19, R498). -/
def Dev.unitStatus (d : Dev) (b : Block29) : W64 :=
  let (kind, i, st, pw) := d.unitFields b
  let on := variantHas d.acc.reported b
  let dom := match b with
    | .gallery g => (d.galleryDomain g).getD 0xFFFF
    | _ => 0xFFFF
  if !d.fusesRead then ofFields [(16, 0xFFFF)]
  else ofFields [(56, kind), (48, i), (32, if on then st else 0), (16, dom), (8, pw), (1, if on then d.field b.base 1 1 else 0), (0, b2n (!on))]

/-- SHAPE_STATUS (R326): rates in 0.1 GB/s. -/
def Dev.shapeStatus (d : Dev) (p : Point) : W64 :=
  match d.point? p with
  | none => 0
  | some e =>
    let sum := ((e.queues.filter (·.domain != 256)).map (·.applied)).foldl (· + ·) 0
    ofFields [(32, e.rate / 100), (16, sum / 100000), (0, b2n e.scaled)]

/-- ZK_LINK_STATUS (R382). -/
def Dev.zkStatus (d : Dev) (l : Nat) : W64 :=
  match d.link? l with
  | none => 0
  | some x => ofFields [(48, x.peerFid % 2 ^ 16), (32, x.lanes % 256), (28, x.width), (24, x.state.code), (1, b2n x.peerMember), (0, d.field (linkOff l 0x608) 0 0)]

/-- A register of a unit block; the block of a unit that the variant does not enable reads 0 but for UNIT_STATUS (R498). -/
def Dev.unitView (d : Dev) (b : Block29) (off : Nat) : W64 :=
  let rel := off - b.base
  if rel = 0 then d.unitStatus b
  else if !variantHas d.acc.reported b then 0
  else
    match pointOf off with
    | none => d.reg off
    | some p => if rel = 0x400 then d.shapeStatus p else if rel = 0x608 then d.zkStatus p.index else d.reg off

/-- What a register reads as; an offset that names no register reads 0 (R493). -/
def Dev.view (d : Dev) (off : Nat) : W64 :=
  if (descOf off).isNone then 0
  else
    match blockOf off with
    | .global => d.globalView off
    | .page dom => d.pageView dom off
    | .reserved => 0
    | b => d.unitView b off

/-! ### Reads -/

/-- The RC clear of a register (R421). -/
def Dev.readClear (d : Dev) (off : Nat) : Dev :=
  match descOf off with
  | some r => if r.rc = 0 then d else d.setReg off (d.reg off &&& ~~~(BitVec.ofNat 64 r.rc))
  | none => d

/-- A read over a port (R421, R491, R494): 4 bytes give one half, 8 bytes the whole and the RC clear; the answer leaves through the
shaper. -/
def Dev.barRead (d : Dev) (port host off size : Nat) : Dev :=
  let reg := off / 8 * 8
  let dom := match blockOf off with | .page dm => dm | _ => 256
  if !d.portUp port then d
  else if !wellAligned off size || d.acc.state == .booting then d.emit (.regData port none)
  else if !d.reaches0 host reg then (d.count (portOff port 0x210) 1).emit (.regData port none)
  else
    let v := d.view reg
    let half := if size = 8 then v else if off % 8 = 4 then v >>> 32 else v &&& BitVec.ofNat 64 (mask 31 0)
    let d := if size = 8 then d.readClear reg else d
    d.toPort port dom false size none (.regData port (some half))

/-- A read of one 4-byte word over the Docent bus as a latched pair (R421): the low half latches the high half and clears. -/
def Dev.docentWord (d : Dev) (off : Nat) : W32 × Dev :=
  let reg := off / 8 * 8
  let v := d.view reg
  let high := BitVec.ofNat 32 (v.toNat / 2 ^ 32)
  if off % 8 = 0 then
    (BitVec.ofNat 32 (v.toNat % 2 ^ 32), { d.readClear reg with docent := { d.docent with readLatch := some (reg, high) } })
  else
    match d.docent.readLatch with
    | some (r, h) => if r = reg then (h, { d with docent := { d.docent with readLatch := none } }) else (high, d)
    | none => (high, d)

/-- COUNTER_READ_CLEAR: a register read; an RC register's value is returned and cleared at one instant (R421). -/
def devCounterReadClear (a : RegRead) (d : Dev) : Dev :=
  onSrc (.counterReadClear a) a.src (fun d =>
    match a.src with
    | .bar port host => d.barRead port host a.offset a.size
    | .docent => if docentVisible a.offset && wellAligned a.offset a.size then (d.docentWord a.offset).2 else d) d

/-- Execute COUNTER_READ_CLEAR. -/
def execCounterReadClear (a : RegRead) (s : State) : Host.Outcome State Fault Refusal := whenLive (devCounterReadClear a) s

end Sys2Proof.Machine
end

