-- ==== Sys2Proof/Machine/Sideband.lean ====
section
/-! DEFINITION. The sideband: the Docent bus (R480 to R486, R499), LIVE_IN (R479), and the Onaid report and identity certificate
(R445, R446). -/

namespace Sys2Proof.Machine

/-! ### LIVE_IN (R479) -/

/-- LIVE_IN_EDGE: the level changes, and LIVE_IN_QUIET clears. -/
def devLiveInEdge (t : Nat) (d : Dev) : Dev :=
  let d := d.atTime t
  { d with pins := { d.pins with liveIn := !d.pins.liveIn, liveInQuiet := false, liveInEdge := d.now } }

/-- Execute LIVE_IN_EDGE. -/
def execLiveInEdge (t : Nat) (s : State) : Host.Outcome State Fault Refusal := whenLive (devLiveInEdge t) s

/-- LIVE_IN_QUIET: 10 µs(L) have passed without an edge. -/
def devLiveInQuiet (t : Nat) (d : Dev) : Dev :=
  let d := d.atTime t
  if 10000 + d.pins.liveInEdge ≤ d.now then { d with pins := { d.pins with liveInQuiet := true } } else d

/-- Execute LIVE_IN_QUIET. -/
def execLiveInQuiet (t : Nat) (s : State) : Host.Outcome State Fault Refusal := whenLive (devLiveInQuiet t) s

/-! ### Docent frames (R483) -/

/-- A big-endian field of `n` bytes at an offset. -/
def beField (b : List Byte) (off n : Nat) : Nat := leNat (slice b off n).reverse

/-- `n` big-endian bytes of a number. -/
def natBe (x n : Nat) : List Byte := (natLe x n).reverse

/-- The CRC-16/T10-DIF of bytes (R388, R483). -/
def crc16 (b : List Byte) : Nat :=
  match crcPoly 0x03 with
  | some p => crcOf p p.init b
  | none => 0

/-- A frame with its check behind it. -/
def checkedFrame (b : List Byte) : List Byte := b ++ natBe (crc16 b) 2

/-- Whether a frame's check passes. -/
def frameOk (b : List Byte) : Bool := decide (4 ≤ b.length) && beField b (b.length - 2) 2 == crc16 (b.take (b.length - 2))

/-- The op of a request frame. -/
def frameOp (b : List Byte) : Nat := beField b 1 1 / 16

/-- The BAR0 byte offset that a request names: its word index times 4. -/
def frameOffset (b : List Byte) : Nat := 4 * (beField b 1 1 % 16 * 2 ^ 16 + beField b 2 2)

/-- The registers of the always-on domain (R459, chapter 19). -/
def isAlwaysOn (off : Nat) : Bool :=
  let r := off / 8 * 8
  (decide (0x9000 ≤ r) && decide (r < 0xA000)) || [0x1000, 0xA008, 0xA018, 0xA020, 0xA028, 0xA030, 0xA038, 0xB000, 0xB008].contains r

/-- What a request meets (R483, R484, R489, R499): served, or answered by a status alone. -/
inductive DocentCase where
  | serve
  | status (code : Nat)
  | wake
deriving DecidableEq, Repr

/-- Whether the device is asleep, or about to be, for the Docent bus. -/
def Dev.dozing (d : Dev) : Bool := d.power.device != .active || d.power.phase == .commit

/-- The case of a request at an offset; `reading` tells a READ. In reset and in BOOTING only ACC_STATUS and the condition report can
be read; stopped, only the always-on registers (log 48). -/
def Dev.docentCase (d : Dev) (off : Nat) (reading : Bool) : DocentCase :=
  let r := off / 8 * 8
  let early := reading && (r == 0x1000 || (decide (0x9000 ≤ r) && decide (r < 0xA000)))
  if d.acc.resetLow || d.acc.state == .booting then (if early then .serve else .status 3)
  else if !docentVisible off then .status 2
  else if !d.live then (if isAlwaysOn off then .serve else .status 3)
  else if d.dozing then (if isAlwaysOn off then .serve else .wake)
  else .serve

/-- A response frame goes out (R483, R486). -/
def Dev.docentRespond (d : Dev) (b : List Byte) : Dev := { d.emit (.docent (checkedFrame b)) with docent := { d.docent with responding := true } }

/-- A READ response: status and, under OK, the data, most significant byte first. -/
def Dev.respondRead (d : Dev) (status : Nat) (data : W32) : Dev := d.docentRespond (natLe status 1 ++ natBe (if status = 0 then data.toNat else 0) 4)

/-- A Docent wake (R459): where WAKE_ON_MATCH is set. -/
def Dev.docentWake (d : Dev) : Dev := if d.field 0xA000 32 32 = 1 then (d.wakeBy 3).1 else d

/-- DOCENT_ERRORS counts one more (R483): the counter is in the always-on domain; its saturation raises an event only while the
device runs. -/
def Dev.docentError (d : Dev) : Dev :=
  if d.live then d.count 0xB008 1 else d.setReg 0xB008 (bumpCounter (d.reg 0xB008) 1)

/-- A new frame begins only once the response before it has ended (R481, R486). -/
def Dev.newFrame (d : Dev) : Dev := { d with docent := { d.docent with responding := false } }

/-- A frame arrives (R481 to R484): one whose check fails is counted; one for another address is ignored; one for this device drops a
write latch unless it writes the high half that completes it (R485). -/
def Dev.onFrame (d : Dev) (b : List Byte) (f : Dev → Dev) : Dev :=
  if !d.acc.powered then d
  else if !frameOk b then d.newFrame.docentError
  else if beField b 0 1 != d.docent.address then d.newFrame
  else f d.newFrame

/-- The write latch goes (R485). -/
def Dev.dropLatch (d : Dev) : Dev := { d with docent := { d.docent with writeLatch := none } }

/-- DOCENT_READ (R421, R459, R483, R499): a READ is answered; an unknown op is BAD_OP. -/
def devDocentRead (frame : List Byte) (d : Dev) : Dev :=
  d.onFrame frame fun d =>
    let off := frameOffset frame
    if frameOp frame = 2 then d
    else
      let d := d.dropLatch
      if frameOp frame ≠ 1 ∨ frame.length ≠ 6 then d.respondRead 1 0
      else
        match d.docentCase off true with
        | .status c => d.respondRead c 0
        | .wake => (d.docentWake).respondRead 4 0
        | .serve =>
          let d := if isAlwaysOn off || !d.live then d else if d.power.phase == .none then d else d.docentWake
          let (v, d) := d.docentWord off
          d.respondRead 0 v

/-- Execute DOCENT_READ. -/
def execDocentRead (frame : List Byte) (s : State) : Host.Outcome State Fault Refusal := always (devDocentRead frame) s

/-- The status byte alone. -/
def Dev.respondWrite (d : Dev) (status : Nat) : Dev := d.docentRespond (natLe status 1)

/-- A whole register written over the Docent bus (R31, R485, R499). -/
def Dev.docentApply (d : Dev) (w : RegWrite) : Dev := d.onWrite w fun d => d.applyWrite w

/-- DOCENT_WRITE (R485): a low half is latched; the high half of the same register then applies both as one write, else it is
BAD_OP. -/
def devDocentWrite (frame : List Byte) (d : Dev) : Dev :=
  d.onFrame frame fun d =>
    let off := frameOffset frame
    let reg := off / 8 * 8
    let latch := d.docent.writeLatch
    if frameOp frame ≠ 2 then d
    else if frame.length ≠ 10 then (d.dropLatch).respondWrite 1
    else
      let d := d.dropLatch
      match d.docentCase off false with
      | .status c => d.respondWrite c
      | .wake => (d.docentWake).respondWrite 4
      | .serve =>
        let d := if isAlwaysOn off || d.power.phase == .none then d else d.docentWake
        let data : W32 := BitVec.ofNat 32 (beField frame 4 4)
        if off % 8 = 0 then { d with docent := { d.docent with writeLatch := some (reg, data) } }.respondWrite 0
        else
          match latch with
          | none => d.respondWrite 1
          | some (r, low) =>
            if r ≠ reg then d.respondWrite 1
            else
              (d.docentApply { src := .docent, offset := reg, size := 8, value := BitVec.ofNat 64 (data.toNat * 2 ^ 32 + low.toNat) }).respondWrite 0

/-- Execute DOCENT_WRITE. -/
def execDocentWrite (frame : List Byte) (s : State) : Host.Outcome State Fault Refusal := always (devDocentWrite frame) s

/-- DOCENT_RESPONSE_ABANDON (R486, R490): counted, and every line is released. -/
def devDocentResponseAbandon (d : Dev) : Dev :=
  if d.docent.responding then { d with docent := { d.docent with responding := false } }.docentError else d

/-- Execute DOCENT_RESPONSE_ABANDON. -/
def execDocentResponseAbandon (s : State) : Host.Outcome State Fault Refusal := always devDocentResponseAbandon s

/-! ### The TAP (R488) -/

/-- The instructions of the TAP. -/
inductive TapInstr where
  | extest | idcode | samplePreload | bypass
deriving DecidableEq, Repr

/-- What IDCODE returns in every variant. -/
def tapIdcode : W32 := 0x1912_0A3F

/-- The instruction that the TAP's register selects: every other opcode is BYPASS, and so is EXTEST while RESET_N is high. None
reaches internal state. -/
def Dev.tapInstr (d : Dev) : TapInstr :=
  match d.pins.tapIr.toNat with
  | 0x00 => if d.acc.resetLow then .extest else .bypass
  | 0x01 => .idcode
  | 0x02 => .samplePreload
  | _ => .bypass

/-! ### Onaid (R445, R446) -/

/-- Whether the mailbox answers with data objects (R446). -/
def Dev.signs (d : Dev) : Bool := d.acc.state == .availablePartial || d.acc.state == .availableFull

/-- The digest over the partial images in force; zeros without one. -/
def Dev.partialsDigest (d : Dev) : List Byte :=
  let ps := sortOrd (fun (a b : PartialInForce) => decide (a.domain < b.domain)) d.partials
  if ps.isEmpty then List.replicate 64 0 else sha3_512 (ps.flatMap fun p => natLe p.domain 2 ++ natLe p.serial.toNat 8 ++ p.digest)

/-- A byte list at a fixed length. -/
def fitTo (b : List Byte) (n : Nat) : List Byte := (b ++ List.replicate (n - b.length) 0).take n

/-- Bytes 0 to 3,055 of the report. -/
def Dev.onaidBody (d : Dev) (nonce : List Byte) : List Byte :=
  ascii "GLONAIDR" ++ natLe 1 2 ++ natLe 0 2 ++ natLe 7688 4 ++ fitTo nonce 32 ++ natLe d.now 8 ++ natLe d.acc.accessions 4 ++ natLe 0 4 ++ fitTo d.fw.digest 64 ++
    fitTo ((d.image.map (·.digest)).getD []) 64 ++ natLe d.imageSerial.toNat 8 ++ d.partialsDigest ++ sha3_512 d.conditionReport ++
    fitTo (d.fuses.ownerHash.getD []) 64 ++ natLe d.fuses.rollback 1 ++ natLe d.acc.reported 1 ++ natLe d.fuses.marked 1 ++ natLe d.acc.state.code 1 ++
    List.replicate 68 0 ++ fitTo Config.identityKey 2592

/-- The signed report. -/
def Dev.onaidReport (d : Dev) (nonce : List Byte) : List Byte :=
  let b := d.onaidBody nonce
  b ++ fitTo (Config.mlDsaSign (sha3_512 b)) 4627 ++ List.replicate 5 0

/-- ONAID_REPORT (R445, R446): the report over the requested nonce; no data object before AVAILABLE_PARTIAL. -/
def devOnaidReport (port : Nat) (nonce : List Byte) (d : Dev) : Dev :=
  if !d.portUp port then d else if d.signs then d.emit (.mailbox port (d.onaidReport nonce)) else d.emit (.mailbox port [])

/-- Execute ONAID_REPORT. -/
def execOnaidReport (port : Nat) (nonce : List Byte) (s : State) : Host.Outcome State Fault Refusal :=
  whenLive (onTraffic (.onaidReport port nonce) port (devOnaidReport port nonce)) s

/-- IDENTITY_CERTIFICATE (R445, R446): identity key, device serial, the vendor root's signature. -/
def devIdentityCertificate (port : Nat) (d : Dev) : Dev :=
  if !d.portUp port then d
  else if d.signs then d.emit (.mailbox port (fitTo Config.identityKey 2592 ++ natLe d.fuses.serial.toNat 8 ++ fitTo Config.certificateSignature 4627))
  else d.emit (.mailbox port [])

/-- Execute IDENTITY_CERTIFICATE. -/
def execIdentityCertificate (port : Nat) (s : State) : Host.Outcome State Fault Refusal :=
  whenLive (onTraffic (.identityCertificate port) port (devIdentityCertificate port)) s

end Sys2Proof.Machine
end

