-- ==== Sys2Proof/Machine/Exit.lean ====
section
/-! DEFINITION. The exit from SLEEP (R461): what arrived meanwhile is served after it; and host reads that waited for room at a port
(R316). -/

namespace Sys2Proof.Machine

/-- The device after a meaning that answers a next state. -/
def servedBy (f : State → Host.Outcome State Fault Refusal) (d : Dev) : Dev :=
  match f { pending := [], dev := d } with
  | .next s => s.dev
  | _ => d

/-- Traffic that waited for the exit, served as in ACTIVE (R461). Only CXL traffic and register accesses wait. -/
def serveWaiting (i : Instr) (d : Dev) : Dev :=
  match i with
  | .submissionLine w => servedBy (execSubmissionLine w) d
  | .slotRead p h o => servedBy (execSlotRead p h o) d
  | .hdmRead a fs => servedBy (execHdmRead a fs) d
  | .hdmWrite a en b fs => servedBy (execHdmWrite a en b fs) d
  | .addDynamicCapacityResponse p h x n => servedBy (execAddDynamicCapacityResponse p h x n) d
  | .releaseDynamicCapacity p h x => servedBy (execReleaseDynamicCapacity p h x) d
  | .getDynamicCapacityExtentList p h => servedBy (execGetDynamicCapacityExtentList p h) d
  | .eventRetrieval p h => servedBy (execEventRetrieval p h) d
  | .onaidReport p n => servedBy (execOnaidReport p n) d
  | .identityCertificate p => servedBy (execIdentityCertificate p) d
  | .memrdSnpcur a fs => servedBy (execMemrdSnpcur a fs) d
  | .memrdSnpdata a fs => servedBy (execMemrdSnpdata a fs) d
  | .memrdSnpinv a fs => servedBy (execMemrdSnpinv a fs) d
  | .meminvSnpinv a => servedBy (execMeminvSnpinv a) d
  | .vitrineMemwr a en b m fs => servedBy (execVitrineMemwr a en b m fs) d
  | .memclnevct a => servedBy (execMemclnevct a) d
  | .fwStageGo w ok b => servedBy (execFwStageGo w ok b) d
  | .counterReadClear a => servedBy (execCounterReadClear a) d
  | .ctxOpen w => servedBy (execCtxOpen w) d
  | .ctxClose w => servedBy (execCtxClose w) d
  | .ctxRehome w => servedBy (execCtxRehome w) d
  | .imgGo w => servedBy (execImgGo w) d
  | .cmdReset w => servedBy (execCmdReset w) d
  | .exportSet w => servedBy (execExportSet w) d
  | .exportClear w => servedBy (execExportClear w) d
  | .tierCtrlWrite w => servedBy (execTierCtrlWrite w) d
  | .mediaGovWrite w => servedBy (execMediaGovWrite w) d
  | .telemSelWrite w => servedBy (execTelemSelWrite w) d
  | .gateArm w => servedBy (execGateArm w) d
  | .gateDisarm w => servedBy (execGateDisarm w) d
  | .endorse w => servedBy (execEndorse w) d
  | .rollbackCommit w => servedBy (execRollbackCommit w) d
  | .collCfgWrite w => servedBy (execCollCfgWrite w) d
  | .faultEnable w => servedBy (execFaultEnable w) d
  | .linkRetrain w => servedBy (execLinkRetrain w) d
  | .linkDisable w => servedBy (execLinkDisable w) d
  | .registerWrite w => servedBy (execRegisterWrite w) d
  | .sleep w => servedBy (execSleep w) d
  | .offReady w => servedBy (execOffReady w) d
  | .offReadyForce w => servedBy (execOffReadyForce w) d
  | .gateWest w => servedBy (execGateWest w) d
  | .ungateWest w => servedBy (execUngateWest w) d
  | .linkQuiet w => servedBy (execLinkQuiet w) d
  | .onfiChannelOff w => servedBy (execOnfiChannelOff w) d
  | .onfiChannelOn w => servedBy (execOnfiChannelOn w) d
  | _ => d

/-- WAKE_EXIT_DONE (R461): the device is ACTIVE, and what waited is served in the order it came. -/
def devWakeExitDone (d : Dev) : Dev :=
  if d.power.device == .sleep && d.power.exiting then d.power.waiting.foldl (fun (d : Dev) i => serveWaiting i d) d.exitSleep else d

/-- Execute WAKE_EXIT_DONE. -/
def execWakeExitDone (s : State) : Host.Outcome State Fault Refusal := whenLive devWakeExitDone s

/-- After a granule has left a port, the host reads that waited for room in its queues are served in the order they came, while
there is room (R316). -/
def Dev.serveReads (d : Dev) (p : Point) : Dev :=
  let mine (i : Instr) : Bool := p.kind == .cxl && (senderOf i).any fun x => x.1 == p.index
  if d.admits then (d.readWaits.filter mine).foldl (fun (d : Dev) i => Sys2Proof.Machine.serveWaiting i d) { d with readWaits := d.readWaits.filter fun i => !mine i } else d

/-- Execute SHAPER_GRANULE. -/
def execShaperGranule (p : Point) (t : Nat) (s : State) : Host.Outcome State Fault Refusal :=
  whenLive (fun d => (devShaperGranule p t d).serveReads p) s

end Sys2Proof.Machine
end

