-- ==== Sys2Proof/Machine/Rungs.lean ====
section
/-! DEFINITION. The rungs of the recovery ladder: which apply to a sector, recomputing derived data, and what the end of a repair brings
about (R397 to R404). -/

namespace Sys2Proof.Machine

/-! ### Rung 4: derived data (R398) -/

/-- A command that names no line: readers of the store take one, for what RD_DATA brought. -/
def idleCmd : Cmd := Cmd.fresh 0 0xFFFF 0 [] 0

/-- Bytes that a repair puts into this member's store (R399); where they differ from what was there, a coded store's parity homes get
their deltas (R408). -/
def Dev.repairWrite (d : Dev) (dom : Nat) (w : MemWrite) : Dev :=
  if memRead d.mem w.sa w.bytes.length = w.bytes then d.write w.sa w.bytes
  else ((d.write w.sa w.bytes).parityAfter d.mem w.sa w.bytes.length dom 0xFFFF none).1

/-- A block's summary is rebuilt from its frame, as R152 computes it; without a session here whose codebook it would need, it is as it
was. None where its inputs are poisoned. -/
def Dev.resummarize (d : Dev) (b : Block) : Option Dev :=
  match (d.ctxs.filterMap (·.session)).find? fun s => s.layers.any fun l => l.blocks.contains b.id with
  | none => some d
  | some s =>
    let books := (List.range b.heads).map fun h => s.codebookPart b.layer h
    if (b.frame :: books).any d.poisonedIn then none
    else
      let key := [d.order]
      some ((List.range b.heads).foldl (fun d h =>
        let keys := d.headRows idleCmd b h false
        let codes := (keyCodes key (centroids b.dim (d.loadSpan idleCmd (s.codebookPart b.layer h))) keys).1
        (d.repairWrite b.domain { sa := (b.codeSpan h 0 64).sa, bytes := codes }).repairWrite b.domain { sa := (b.meanSpan h).sa, bytes := (keyBounds key b.dim keys).1 }) d)

/-- A version whose class storage holds a sector and whose source version is in the catalogue (R218): its table and both versions. -/
def Dev.rehangedAt (d : Dev) (sec : Nat) : Option (Table × Version × Version) :=
  d.tables.findSome? fun t => t.versions.findSome? fun v =>
    if sectorIn sec (v.spans.take (v.classes.filter fun c => c.rows != 0).length) then (t.version? v.source).map fun u => (t, v, u) else none

/-- A rehanged row is encoded again from its source (R217, R218); bytes whose source lies on another member are free here (log 11). None
where the source is poisoned. -/
def Dev.reencodeRow (d : Dev) (dom : Nat) (v u : Version) (row : Nat) : Option Dev :=
  let a := d.rowAt dom idleCmd v row
  let size := rowSize 2 a.format v.dim
  let source := d.rowAt dom idleCmd u row
  let put (d : Dev) (bs : List Byte) : Dev := (spread a.spans bs).foldl (fun d w => if d.isLocal w.sa then d.repairWrite dom w else d) d
  if (source.remap ++ source.spans).any fun s => !d.isLocal s.sa then some (put { d with draws := d.draws + 1 } (freeBytes d.draws size))
  else
    let (bad, xs, d) := d.readRow none dom idleCmd u row
    if bad then none else some (put d (padTo (encodeRow a.format xs).1 32))

/-- The rows of a rehanged version in a sector. -/
def Dev.reencode (d : Dev) (sec : Nat) (t : Table) (v u : Version) : Option Dev :=
  ((List.range v.rows).filter fun i => sectorIn sec (d.rowAt t.domain idleCmd v i).spans).foldl (fun acc i => acc.bind fun d => d.reencodeRow t.domain v u i) (some d)

/-- An entry whose check does not hold, though its sectors read good (R236, R251). -/
def Index.entryBad (x : Index) (e : EntryAt) : Bool := !e.entry.tomb && x.entryCheck e.list e.sa e.entry != e.entry.check

/-- Whether an entry can be made again (R251): its bytes 0 to 23 read good, and so does its record. -/
def Dev.entryDerived (d : Dev) (x : Index) (sec : Nat) (e : EntryAt) : Bool :=
  (x.entryBad e || !overlap (sec * 32) 32 e.sa 24) && (x.recordOf e).any fun g => !d.poisonedIn (x.recordSpan g.1 g.2.1)

/-- An entry's codes and check are computed from its record (R230, R251). -/
def Index.remake (x : Index) (key : List Nat) (e : EntryAt) : Index :=
  match x.recordOf e with
  | none => x
  | some g =>
    let codes := (x.codesOf key (decodeScaled x.vecFormat x.dim g.2.2.bytes)).map Prod.fst
    let z : Entry := { e.entry with codes := codes }
    let fix (es : List Entry) : List Entry := es.modify e.slot fun _ => { z with check := x.entryCheck e.list e.sa z }
    { x with lists := x.lists.modify e.list fun l =>
        if e.retained then { l with retained := l.retained.map fun b => (b.1, fix b.2) } else { l with entries := fix l.entries } }

/-- Whether rung 4 applies to a sector (R398): a KV summary; rows of a rehanged version; index entries that can be made again. -/
def Dev.derived (d : Dev) (sec : Nat) : Bool :=
  ((d.sectorBlocks sec).any fun b => sectorIn sec [b.summary]) || (d.rehangedAt sec).isSome ||
    (d.sectorIndex sec).any fun x => let es := x.entriesAt sec; !es.isEmpty && es.all (d.entryDerived x sec)

/-- Derived data in a sector is made again; none where its inputs do not read good. -/
def Dev.recompute (d : Dev) (sec : Nat) : Option Dev :=
  match (d.sectorBlocks sec).filter fun b => sectorIn sec [b.summary] with
  | b :: bs =>
    ((b :: bs).foldl (fun acc b => acc.bind fun d => d.resummarize b) (some d)).map fun d =>
      (b :: bs).foldl (fun d b => d.modBlock b.id fun b => { b with recomputed := true }) d
  | [] =>
    match d.rehangedAt sec with
    | some (t, v, u) => d.reencode sec t v u
    | none => (d.sectorIndex sec).map fun x => (x.entriesAt sec).foldl (fun d e => d.modIndex x.domain x.id fun y => y.remake [d.order] e) d

/-! ### Which rungs apply (R397) -/

/-- Whether a rung applies to a sector of this member. -/
def Dev.rungApplies (d : Dev) (sec rung : Nat) : Bool :=
  match rung with
  | 2 => (d.granule? (sec / 2048)).any fun g => g.residency == .both
  | 3 => d.coded && d.decodable d.coll.geoId (d.unitOf (Machine.homeOf d.groupWidth (sec * 32)).2)
  | 4 => d.derived sec
  | _ => false

/-- The next rung above one for a sector: 5 where none applies. -/
def Dev.nextRung (d : Dev) (sec rung : Nat) : Nat :=
  (([2, 3, 4].filter fun n => decide (rung < n) && d.rungApplies sec n).head?).getD 5

/-! ### The end of a repair -/

/-- The repair of a sector. -/
def Dev.repair? (d : Dev) (sec : Nat) : Option Repair := d.repairs.find? (·.sector == sec)

/-- A parked step may be issued again once none of its repairs is in progress (R400). -/
def Dev.unpark (d : Dev) (r : SlotRef) (n : Nat) : Dev :=
  if d.repairs.any fun x => x.waiters.contains (.step r n) then d
  else d.modCmd r fun k => { k with plan := k.plan.map fun (s : Step) => if s.num == n then { s with parked := false } else s }

/-- What a repair held is served, in order of arrival (R399, R403): a step may be issued again, a command is decoded further, a host's
access runs. -/
def Dev.serveWaiter (d : Dev) (w : RepairWaiter) : Dev :=
  match w with
  | .step r n => d.unpark r n
  | .command r => d.decode r false
  | .hostRead h => if d.underRepair ⟨h.sa, 64⟩ then d.readLine h else d.fillHost [] h
  | .hostWrite h en data => d.writeLine h en data
  | .request _ _ => d
  | .patrol => d

/-- Everything that waited goes on, and so do the requests of the fabric and the lines of the vitrine (R335, R399). -/
def Dev.serveWaiters (d : Dev) (ws : List RepairWaiter) : Dev := (ws.foldl (fun d w => d.serveWaiter w) d).vitPump.afterSnoop

/-- A command that a rung from 2 to 4 served (R397). -/
def Dev.markServed (d : Dev) (w : RepairWaiter) : Dev :=
  match w with
  | .step r _ => d.modCmd r fun k => { k with degraded := true }
  | .command r => d.modCmd r fun k => { k with degraded := true }
  | _ => d

/-- A sector of flash that was not read at once has its block's granules moved (R270, R399; DEDUCED: as a marginal block's). -/
def Dev.flashRepaired (d : Dev) (sec : Nat) : Dev :=
  match d.granule? (sec / 2048) with
  | some g => if g.residency == .flash then d.relocate g.channel g.block else d
  | none => d

/-- A repair ends well on a rung (R397, R399): it is counted for its domain; from rung 2 on it is repair history (R142) and marks the
commands it served. -/
def Dev.repairEnds (d : Dev) (x : Repair) : Dev :=
  let d := { d with repairs := d.repairs.filter (·.sector != x.sector) }
  let d := (d.sectorOwner x.sector).elim d fun dom => d.countPage dom (0x3D0 + 8 * (x.rung - 1)) 1
  let d := d.flashRepaired x.sector
  let d := if x.rung < 2 then d else x.waiters.foldl Dev.markServed { d with repaired := d.repaired ++ [x.sector] }
  d.serveWaiters x.waiters

/-- The sector of a waiter is lost for it (R402). -/
def Dev.loseWaiter (d : Dev) (sec : Nat) (w : RepairWaiter) : Dev :=
  match w with
  | .step r n => d.loseStep r n sec
  | .command r => d.loseCommand r sec
  | .request src tag => d.requestLost src tag sec
  | _ => d

/-- Whether a waiter's command writes the DATA record of a lost sector. -/
def RepairWaiter.ofCommand : RepairWaiter → Bool
  | .step _ _ => true
  | .command _ => true
  | _ => false

/-- The host identity of a waiting host access. -/
def RepairWaiter.host? : RepairWaiter → Option Nat
  | .hostRead h => some h.a.host
  | .hostWrite h _ _ => some h.a.host
  | _ => none

/-- Rung 5 (R402, R404): a sector that no domain owns is zeroed with a good check; else it is poisoned, counted and reported, the
commands that read it end with DATA_LOST, and what else waited is served. -/
def Dev.lostSector (d : Dev) (x : Repair) : Dev :=
  let sec := x.sector
  let d := { d with repairs := d.repairs.filter (·.sector != sec) }
  match d.sectorOwner sec with
  | none => (d.zeroRange (sec * 32) 32).serveWaiters x.waiters
  | some dom =>
    let hosts := x.waiters.filterMap RepairWaiter.host?
    let d := ((d.poisonSector sec).countPage dom 0x3F0 1).loseKv sec
    let d := if hosts.isEmpty && x.waiters.any RepairWaiter.ofCommand then d else d.dataFault dom 0xFFFF 0 (hosts.headD 0xFFFF) (sec * 32) 0 32
    let d := x.waiters.foldl (fun d w => d.loseWaiter sec w) d
    ((d.loseEntries sec).flashRepaired sec).serveWaiters (x.waiters.filter fun w => match w with
      | .command _ => false
      | _ => true)

/-- The ladder's next rung for a sector (R397, R400): from rung 2 on the steps that wait are parked. -/
def Dev.climb (d : Dev) (x : Repair) : Dev :=
  let n := d.nextRung x.sector x.rung
  if n = 5 then d.lostSector x
  else x.waiters.foldl Dev.park { d with repairs := replaceFirst (fun y => y.sector == x.sector) { x with rung := n } d.repairs }

/-- Whether a sector holds an index entry whose own check fails (R251): no copy of the sector mends that. -/
def Dev.entryFails (d : Dev) (sec : Nat) : Bool := (d.sectorIndex sec).any fun x => (x.entriesAt sec).any x.entryBad

/-- A rung's result for a sector (R397): rung 1 tries again while it may; rung 4 makes its data anew. -/
def Dev.rungDone (d : Dev) (sec rung : Nat) (ok : Bool) : Dev :=
  match d.repair? sec with
  | none => d
  | some x =>
    if x.rung != rung then d
    else if ok && rung = 4 then (d.recompute sec).elim (d.climb x) fun d => d.repairEnds x
    else if ok && !d.entryFails sec then d.repairEnds x
    else if rung = 1 && !ok && decide (1 < x.tries) then { d with repairs := replaceFirst (fun y => y.sector == sec) { x with tries := x.tries - 1 } d.repairs }
    else d.climb x

end Sys2Proof.Machine
end

