-- ==== Sys2Proof/Machine/Ladder.lean ====
section
/-! DEFINITION. The rows of the recovery ladder (R397 to R404), the units of lost members (R409, R410), and the writing of fault records
(R412 to R415). -/

namespace Sys2Proof.Machine

/-! ### Rungs -/

/-- PATROL_READ (R404): a failing sector of this member climbs the ladder with no command attached. -/
def devPatrolRead (sector : Nat) (ok : Bool) (d : Dev) : Dev :=
  if ok || !d.isLocal (sector * 32) then d else d.startRepair sector .patrol
/-- Execute PATROL_READ. -/
def execPatrolRead (sector : Nat) (ok : Bool) (s : State) : Host.Outcome State Fault Refusal := whenLive (devPatrolRead sector ok) s

/-- REREAD_DONE (R397): rung 1. -/
def devRereadDone (sector : Nat) (ok : Bool) (d : Dev) : Dev := d.rungDone sector 1 ok
/-- Execute REREAD_DONE. -/
def execRereadDone (sector : Nat) (ok : Bool) (s : State) : Host.Outcome State Fault Refusal := whenLive (devRereadDone sector ok) s

/-- REFETCH_DONE (R397): rung 2; the flash copy's sector has replaced the DRAM sector. -/
def devRefetchDone (sector : Nat) (ok : Bool) (d : Dev) : Dev := d.rungDone sector 2 ok
/-- Execute REFETCH_DONE. -/
def execRefetchDone (sector : Nat) (ok : Bool) (s : State) : Host.Outcome State Fault Refusal := whenLive (devRefetchDone sector ok) s

/-- RECOMPUTE_DONE (R398): rung 4. -/
def devRecomputeDone (sector : Nat) (ok : Bool) (d : Dev) : Dev := d.rungDone sector 4 ok
/-- Execute RECOMPUTE_DONE. -/
def execRecomputeDone (sector : Nat) (ok : Bool) (s : State) : Host.Outcome State Fault Refusal := whenLive (devRecomputeDone sector ok) s

/-! ### Units of a lost member (R409) -/

/-- The 4 KiB unit of its home that a sector lies in. -/
def Dev.unitSpan (d : Dev) (sec : Nat) : Span := { sa := sec * 32 - (Machine.homeOf d.groupWidth (sec * 32)).2 % 4096, len := 4096 }

/-- The part of an access inside a span. -/
def RemoteAccess.inside (a : RemoteAccess) (u : Span) : Span := Span.clip { sa := a.sa, len := a.len } u.sa u.len

/-- The accesses of commands to a span of another member. A parity delta's or a STEP message's has no length. -/
def Dev.accessesTo (d : Dev) (u : Span) : List (SlotRef × RemoteAccess) :=
  let hit (a : RemoteAccess) : Bool := a.home == d.homeOf u.sa && a.len != 0 && overlap a.sa a.len u.sa u.len
  d.ctxs.flatMap fun c => c.held.flatMap fun e => (e.2.2.remote.filter hit).map fun a => (({ ctx := c.num, slot := e.1 } : SlotRef), a)

/-- A part of a read has come, or is lost: once every part has, the access is answered. -/
def Dev.broughtPart (d : Dev) (r : SlotRef) (a : RemoteAccess) (sa : Nat) (bs : List Byte) : Dev :=
  let d := d.modCmd r fun k => { k with fetched := k.fetched ++ [(sa, bs)], degraded := true }
  if (d.cmd? r).any fun k => (k.brought { sa := a.sa, len := a.len }).isSome then d.answered r a else d

/-- A read takes its part of a decoded unit. -/
def Dev.takeDecoded (d : Dev) (u : Span) (unit : List Byte) (r : SlotRef) (a : RemoteAccess) : Dev :=
  let p := a.inside u
  let bs := slice unit (p.sa - u.sa) p.len
  let dom := d.domainOf r
  match d.cmd? r with
  | none => d
  | some k => ((if k.onPes then d.fillFab dom (d.wingOf dom (lineVerb k.line)) p.sa bs else d).broughtPart r a p.sa bs).goOn r

/-- Bytes that replace those of a decoded unit: what changes goes to the live parity homes, whose answers the command awaits (R408). -/
def Dev.deltaTo (d : Dev) (r : SlotRef) (u : Span) (unit : List Byte) (w : MemWrite) : Dev :=
  let old := slice unit (w.sa - u.sa) w.bytes.length
  let (d', ts) := d.deltasFor (d.homeOf u.sa) (Machine.homeOf d.groupWidth w.sa).2 (d.domainOf r) r.ctx ((w.bytes.zip old).map fun p => p.1 ^^^ p.2) (some r)
  d'.awaitParity r w.sa ts

/-- A write is served on its part of a decoded unit: a plain write, whose other parts stay; an atomic; a PUB. -/
def Dev.writeDecoded (d : Dev) (u : Span) (unit : List Byte) (r : SlotRef) (a : RemoteAccess) : Dev :=
  match d.cmd? r with
  | none => d
  | some k =>
    let cur (off n : Nat) : Nat := leNat (slice unit (a.sa - u.sa + off) n)
    if a.index != 0 then
      let old := cur 0 a.len
      let (new, wrote) := atomicResult (fieldAt a.bytes 24 1) a.len old (fieldAt a.bytes 8 a.len) (fieldAt a.bytes 16 a.len)
      let d := if wrote then d.deltaTo r u unit { sa := a.sa, bytes := natLe new a.len } else d
      d.atomBack r k a .ok (BitVec.ofNat 64 old) (fieldAt a.bytes 24 1 == 0x0D && wrote)
    else if cmdVerb k == some .publish && a.len == 16 then
      let (st, bs, w0, w1) := publishResult (cur 0 8) (cur 8 8) (fieldAt a.bytes 0 8) (fieldAt a.bytes 8 8)
      let d := bs.elim d fun b => d.deltaTo r u unit { sa := a.sa, bytes := b }
      d.pubBack r a st (BitVec.ofNat 64 w0) (BitVec.ofNat 64 w1)
    else
      let p := a.inside u
      let d := d.deltaTo r u unit { sa := p.sa, bytes := slice a.bytes (p.sa - a.sa) p.len }
      let part (s : Span) : RemoteAccess := { a with sa := s.sa, len := s.len, bytes := slice a.bytes (s.sa - a.sa) s.len }
      let rest := [(⟨a.sa, p.sa - a.sa⟩ : Span), ⟨p.sa + p.len, a.sa + a.len - (p.sa + p.len)⟩].filter (·.len != 0)
      let d := d.modCmd r fun k => { k with degraded := true, remote := k.remote.flatMap fun b => if b == a then rest.map part else [b] }
      (d.conclude r).settle

/-- What a command loses of a unit that cannot be decoded: a read its sectors, a write what it would write (R409). -/
def Dev.accessUnserved (d : Dev) (secs : List Nat) (r : SlotRef) (a : RemoteAccess) : Dev :=
  if a.isWrite then d.accessLost r a .targetDead
  else
    (secs.filter fun sec => overlap a.sa a.len (sec * 32) 32).foldl (fun d sec =>
      let p := a.inside ⟨sec * 32, 32⟩
      let d := d.modCmd r fun k => { k with spoiled := k.spoiled ++ [sec] }
      (d.broughtPart r a p.sa (List.replicate p.len 0)).loseRemote r sec) d

/-- The accesses of hosts that this member forwarded to a span of another member: each has its line or its bytes in `got` (R369). -/
def Dev.hostsTo (d : Dev) (u : Span) : List FabService :=
  d.serving.filter fun x => x.src == hostSource && x.home == d.homeOf u.sa && x.home != d.coll.geoId && x.got.any fun g => overlap g.1 (max 1 g.2.length) u.sa u.len

/-- The line of a forwarded host access, and the bytes and enables of a write. -/
def FabService.hostLine (x : FabService) : Nat × BitVec 64 × List Byte :=
  let line := (x.got.headD (0, [])).1 / 64 * 64
  let byte (i : Nat) : Option (Nat × List Byte) := x.got.find? fun g => g.1 == line + i && !g.2.isEmpty
  (line, BitVec.ofNat 64 (((List.range 64).map fun i => b2n (byte i).isSome * 2 ^ i).sum), (List.range 64).map fun i => (byte i).elim 0 fun g => at! g.2 0 0)

/-- A forwarded host access on a decoded unit: data for a read; a write once the parity homes have what it changes (R408, R409). -/
def Dev.hostDecoded (d : Dev) (u : Span) (unit : List Byte) (x : FabService) : Dev :=
  let (line, en, data) := x.hostLine
  let old := slice unit (line - u.sa) 64
  let d := { d with serving := d.serving.erase x }
  match x.answer with
  | some (.memData p h dpa _) => d.toPort p x.domain false 64 none (.memData p h dpa (some old))
  | some (.ndr p h dpa c) =>
    let delta := (List.range 64).map fun i => if en.getLsbD i then at! data i 0 ^^^ at! old i 0 else 0
    let (d', ts) := d.deltasFor x.home (Machine.homeOf d.groupWidth line).2 x.domain 0xFFFF delta none
    d'.answerAfter hostSource dpa x.domain ts (.ndr p h dpa c)
  | _ => d

/-- A forwarded host access on a unit that cannot be decoded: poison, or nothing is written; a DATA record (R402, R409). -/
def Dev.hostUnserved (d : Dev) (x : FabService) : Dev :=
  let d := { d with serving := d.serving.erase x }
  let (line, _) := x.hostLine
  match x.answer with
  | some (.memData p h dpa _) => (d.toPort p x.domain false 64 none (.memData p h dpa none)).dataFault x.domain 0xFFFF 0 h line 0 64
  | some (.ndr p h dpa c) => (d.emit (.ndr p h dpa c)).dataFault x.domain 0xFFFF 0 h line 0 64
  | _ => d

/-- A unit of a lost member is decoded for what waits for it; its bytes are free here (R409, log 11). -/
def Dev.unitDecoded (d : Dev) (u : Span) : Dev :=
  let unit := freeBytes d.draws u.len
  let d := { d with draws := d.draws + 1 }
  let d := (d.accessesTo u).foldl (fun d x => if x.2.isWrite then d.writeDecoded u unit x.1 x.2 else d.takeDecoded u unit x.1 x.2) d
  ((d.hostsTo u).foldl (fun d x => d.hostDecoded u unit x) d).settle

/-- Sectors of a lost member that cannot be decoded: what waits for them ends. -/
def Dev.unitUnserved (d : Dev) (u : Span) : Dev :=
  let d := (d.accessesTo u).foldl (fun d x => d.accessUnserved (sectorsOf u) x.1 x.2) d
  ((d.hostsTo u).foldl (fun d x => d.hostUnserved x) d).settle

/-- REBUILD_DONE (R397, R409): rung 3 of a sector of this member, or of a lost member's, whose whole unit is decoded; a unit whose stripe has
lost too much cannot be. -/
def devRebuildDone (sector : Nat) (ok : Bool) (d : Dev) : Dev :=
  if d.isLocal (sector * 32) then d.rungDone sector 3 ok
  else if d.coll.planK = 0 || d.homeServes (sector * 32) 32 then d
  else if !d.canDecode (sector * 32) 32 then d.unitUnserved (d.unitSpan sector)
  else if ok then d.unitDecoded (d.unitSpan sector)
  else d.unitUnserved { sa := sector * 32, len := 32 }
/-- Execute REBUILD_DONE. -/
def execRebuildDone (sector : Nat) (ok : Bool) (s : State) : Host.Outcome State Fault Refusal := whenLive (devRebuildDone sector ok) s

/-! ### Rebuilding (R169, R410) -/

/-- A unit of this member's own is rebuilt: its bytes are free here (log 11), with good checks where it is a parity unit (R385, R406). -/
def Dev.fillUnit (d : Dev) (unit : Nat) : Dev :=
  let k := d.coll.planK; let n := k + d.coll.planM
  let bs := freeBytes d.draws 4096
  let d := { d with draws := d.draws + 1 }
  if unit % n < k then d.write (d.storeBase + (unit / n * k + unit % n) * 4096) bs
  else
    let d : Dev := { d with parity := memWrite d.parity (unit * 4096) bs }
    { d with parityChecks := (sectorsOf { sa := unit * 4096, len := 4096 }).foldl (fun xs sec => insertBy Prod.fst (sec, d.parityWants sec) xs) d.parityChecks }

/-- An access that waited for a unit goes to its home with the tag it has (R410). -/
def Dev.resend (d : Dev) (r : SlotRef) (a : RemoteAccess) : Dev :=
  let send (type : Nat) (arg : W64) (bs : List Byte) : Dev := d.sendFab type (d.fidOf a.home) (d.domainOf r) r.ctx a.tag 0 (BitVec.ofNat 64 a.sa) arg bs (some r)
  if !d.homeServes a.sa a.len then d
  else if !a.isWrite then send 0x01 (BitVec.ofNat 64 a.len) []
  else if a.index != 0 then send 0x03 0 a.bytes
  else if ((d.cmd? r).any fun k => cmdVerb k == some .publish) && a.len == 16 then send 0x04 0 a.bytes
  else send 0x02 0 a.bytes

/-- A host access that waited for a unit goes to its home. -/
def Dev.resendHost (d : Dev) (x : FabService) : Dev :=
  let (line, en, data) := x.hostLine
  if x.await.isEmpty then d.sendFab 0x01 (d.fidOf x.home) x.domain 0xFFFF x.tag 0 (BitVec.ofNat 64 line) 64 [] none
  else
    let (d, tags) := d.sendHalves x.home x.domain line en data
    { d with serving := replaceFirst (· == x) { x with await := tags, since := d.now } d.serving }

/-- The store range of a data unit of a member that this member may have asked for: of each access that waits, the unit's part. -/
def Dev.sendWaiting (d : Dev) (member unit : Nat) : Dev :=
  let mine (sa len : Nat) : Bool := (d.unitsAt sa len).contains unit
  let as := d.ctxs.flatMap fun c => c.held.flatMap fun e =>
    (e.2.2.remote.filter fun a => a.home == member && a.len != 0 && mine a.sa a.len).map fun a => (({ ctx := c.num, slot := e.1 } : SlotRef), a)
  let hosts := d.serving.filter fun x => x.src == hostSource && x.home == member && member != d.coll.geoId && mine x.hostLine.1 64
  hosts.foldl (fun d x => d.resendHost x) (as.foldl (fun d a => d.resend a.1 a.2) d)

/-- The 4 KiB units of store that a session rebuilt here takes (R169). -/
def Dev.sessionUnits (d : Dev) (s : Session) : Nat :=
  let blocks := s.layers.flatMap fun (l : Layer) => l.blocks.filterMap d.block?
  ceilDiv (s.stateBytes + (blocks.map fun b => b.frame.len + b.summary.len).sum) 4096

/-- A unit has been rebuilt for a session that this member takes over (R169, R410): the units that come are counted for the first session
that waits; it is served once as many have come as its store takes (log 116). -/
def Dev.sessionUnit (d : Dev) (unit : Nat) : Dev :=
  match d.ctxs.find? fun c => c.session.any (·.rebuilding) with
  | none => d
  | some c =>
    let d := d.modColl fun k => { k with rebuiltUnits := k.rebuiltUnits ++ [unit] }
    if d.coll.rebuiltUnits.length < (c.session.map d.sessionUnits).getD 0 then d
    else ((d.modColl fun k => { k with rebuiltUnits := [] }).modSession c.num fun s => { s with rebuilding := false }).settle

/-- UNIT_REBUILT (R410): a unit of the rejoining member is served by it from now on, and with the last one the member is lost no more; at
the member itself the unit's bytes come. Otherwise it is a unit of a session that is rebuilt here. -/
def devUnitRebuilt (unit : Nat) (d : Dev) : Dev :=
  let t := d.coll.rebuildTarget
  if d.coll.state != .formed || d.coll.planK = 0 || d.coll.rebuiltUnits.contains unit then d
  else if !d.coll.rejoining.getLsbD t then d.sessionUnit unit
  else
    let d := d.modColl fun c => { c with rebuiltUnits := c.rebuiltUnits ++ [unit] }
    let d := if t = d.coll.geoId then d.fillUnit unit else d.sendWaiting t unit
    if d.coll.rebuiltUnits.length < d.coll.rebuildTotal then d
    else d.modColl fun c => { c with lost := c.lost &&& ~~~(memberBit t), rejoining := c.rejoining &&& ~~~(memberBit t) }
/-- Execute UNIT_REBUILT. -/
def execUnitRebuilt (unit : Nat) (s : State) : Host.Outcome State Fault Refusal := whenLive (devUnitRebuilt unit) s

/-! ### Fault slots (R411 to R415) -/

/-- The queue of an area's records at a port: the domain's, or the system queue (R314). -/
def areaDomain : FaultArea → Nat
  | .domain dm => dm
  | .device => 256

/-- A record's two posted writes leave, then its message; NEXT advances (R412, R414). -/
def Dev.writeRecord (d : Dev) (f : FaultRecord) : Dev :=
  let b := areaBase f.area
  let next := d.field (b + 0x10) 43 32
  let addr := f.base + 64 * next
  let dom := areaDomain f.area
  let s := d.areaState f.area
  let d := d.toPort f.port dom true 56 none (.write f.port (addr + 8) (f.tail s.afterLoss d.coll.geoId))
  let d := d.toPort f.port dom true 8 none (.ownedWord f.port addr f)
  let d := (d.setField (b + 0x10) 43 32 ((next + 1) % max 1 (d.areaSlots f.area))).setArea { s with afterLoss := false }
  match f.vector with
  | some v => d.raiseVector f.port dom v none
  | none => d

/-- The area's next record is taken up: its owned-word read goes out, or it is counted lost where the port is down (R415). -/
def Dev.askNext : Nat → FaultArea → Dev → Dev
  | 0, _, d => d
  | n + 1, a, d =>
    let s := d.areaState a
    match s.waiting with
    | [] => d
    | g :: rest => if d.portUp g.port then d.askOwned g else Dev.askNext n a ((d.setArea { s with waiting := rest }).lose g)

/-- FAULT_OWNED_READ_DONE (R414, R415): the record is written, or counted lost; then the area's next record is taken up. -/
def devFaultOwnedReadDone (area : FaultArea) (r : OwnedRead) (d : Dev) : Dev :=
  let s := d.areaState area
  match s.waiting with
  | [] => d
  | f :: rest =>
    let d := d.setArea { s with waiting := rest }
    let c := areaBase area + 0x18 + 8 * f.cls
    let before := (d.reg c).toNat % 2 ^ 63
    let d :=
      if r == .failed then (d.setField (areaBase area + 0x10) 62 62 1).lose f
      else if r == .owned || !d.portUp f.port then d.lose f
      else d.writeRecord f
    let d := Dev.askNext rest.length area d
    if before != countMax && (d.reg c).toNat % 2 ^ 63 == countMax then d.saturated c else d
/-- Execute FAULT_OWNED_READ_DONE. -/
def execFaultOwnedReadDone (area : FaultArea) (r : OwnedRead) (s : State) : Host.Outcome State Fault Refusal :=
  whenLive (devFaultOwnedReadDone area r) s

end Sys2Proof.Machine
end

