-- ==== Sys2Proof/Machine/Dispatch.lean ====
section
/-! DEFINITION. The dispatch: one arm per command of the opcode table. -/

namespace Sys2Proof.Machine

/-- The effect of a command on the device (the queue of waiting commands is the step's concern). -/
def exec (i : Instr) (s : State) : Host.Outcome State Fault Refusal :=
  match i with
  | .submissionLine w => Sys2Proof.Machine.execSubmissionLine w s
  | .slotRead port host offset => Sys2Proof.Machine.execSlotRead port host offset s
  | .xlateMissServed r => Sys2Proof.Machine.execXlateMissServed r s
  | .stepRetire r place fails => Sys2Proof.Machine.execStepRetire r place fails s
  | .fill r => Sys2Proof.Machine.execFill r s
  | .copy r => Sys2Proof.Machine.execCopy r s
  | .compare r => Sys2Proof.Machine.execCompare r s
  | .reduce r => Sys2Proof.Machine.execReduce r s
  | .atomic r => Sys2Proof.Machine.execAtomic r s
  | .atomicBatch r => Sys2Proof.Machine.execAtomicBatch r s
  | .fence r => Sys2Proof.Machine.execFence r s
  | .fenceFull r => Sys2Proof.Machine.execFenceFull r s
  | .release r => Sys2Proof.Machine.execRelease r s
  | .acquire r fails => Sys2Proof.Machine.execAcquire r fails s
  | .acquirePoll r fails => Sys2Proof.Machine.execAcquirePoll r fails s
  | .acquireWaitLimit r t => Sys2Proof.Machine.execAcquireWaitLimit r t s
  | .abort r => Sys2Proof.Machine.execAbort r s
  | .mapAllocate r => Sys2Proof.Machine.execMapAllocate r s
  | .mapAlias r => Sys2Proof.Machine.execMapAlias r s
  | .mapSeal r => Sys2Proof.Machine.execMapSeal r s
  | .mapExpose r => Sys2Proof.Machine.execMapExpose r s
  | .mapVitrine r => Sys2Proof.Machine.execMapVitrine r s
  | .unmapRange r => Sys2Proof.Machine.execUnmapRange r s
  | .unmapWithdraw r => Sys2Proof.Machine.execUnmapWithdraw r s
  | .loanOpen r => Sys2Proof.Machine.execLoanOpen r s
  | .loanRenew r => Sys2Proof.Machine.execLoanRenew r s
  | .loanClose r => Sys2Proof.Machine.execLoanClose r s
  | .loanTransfer r => Sys2Proof.Machine.execLoanTransfer r s
  | .loanExpiry t => Sys2Proof.Machine.execLoanExpiry t s
  | .append r => Sys2Proof.Machine.execAppend r s
  | .seal r => Sys2Proof.Machine.execSeal r s
  | .fork r => Sys2Proof.Machine.execFork r s
  | .dropWhole r => Sys2Proof.Machine.execDropWhole r s
  | .dropTruncate r => Sys2Proof.Machine.execDropTruncate r s
  | .migrateToMember r => Sys2Proof.Machine.execMigrateToMember r s
  | .migrateToFlash r => Sys2Proof.Machine.execMigrateToFlash r s
  | .migrateToDram r => Sys2Proof.Machine.execMigrateToDram r s
  | .fetchBlocks r => Sys2Proof.Machine.execFetchBlocks r s
  | .selectAttend r => Sys2Proof.Machine.execSelectAttend r s
  | .offer m t => Sys2Proof.Machine.execOffer m t s
  | .accept m => Sys2Proof.Machine.execAccept m s
  | .commit m => Sys2Proof.Machine.execCommit m s
  | .abandon m => Sys2Proof.Machine.execAbandon m s
  | .commitAck m => Sys2Proof.Machine.execCommitAck m s
  | .notOwner m r => Sys2Proof.Machine.execNotOwner m r s
  | .query m => Sys2Proof.Machine.execQuery m s
  | .answer m => Sys2Proof.Machine.execAnswer m s
  | .offerTimeout m t => Sys2Proof.Machine.execOfferTimeout m t s
  | .ledgerAudit t => Sys2Proof.Machine.execLedgerAudit t s
  | .orphanTimeout r t => Sys2Proof.Machine.execOrphanTimeout r t s
  | .gather r => Sys2Proof.Machine.execGather r s
  | .scatterUpdate r => Sys2Proof.Machine.execScatterUpdate r s
  | .create r => Sys2Proof.Machine.execCreate r s
  | .publishDescriptor r => Sys2Proof.Machine.execPublishDescriptor r s
  | .publishStaged r => Sys2Proof.Machine.execPublishStaged r s
  | .waitReclaim r => Sys2Proof.Machine.execWaitReclaim r s
  | .waitReclaimLimit r t => Sys2Proof.Machine.execWaitReclaimLimit r t s
  | .tableDelete r => Sys2Proof.Machine.execTableDelete r s
  | .rehang r => Sys2Proof.Machine.execRehang r s
  | .search r => Sys2Proof.Machine.execSearch r s
  | .insert r => Sys2Proof.Machine.execInsert r s
  | .deleteItems r => Sys2Proof.Machine.execDeleteItems r s
  | .deleteIndex r => Sys2Proof.Machine.execDeleteIndex r s
  | .compactLists r => Sys2Proof.Machine.execCompactLists r s
  | .compactSeal r => Sys2Proof.Machine.execCompactSeal r s
  | .compactFull r => Sys2Proof.Machine.execCompactFull r s
  | .stream r => Sys2Proof.Machine.execStream r s
  | .streamBuildShadow r => Sys2Proof.Machine.execStreamBuildShadow r s
  | .streamDeadline r layer t => Sys2Proof.Machine.execStreamDeadline r layer t s
  | .streamWaitBound r layer t => Sys2Proof.Machine.execStreamWaitBound r layer t s
  | .bulkGet r => Sys2Proof.Machine.execBulkGet r s
  | .bulkPut r => Sys2Proof.Machine.execBulkPut r s
  | .publish r => Sys2Proof.Machine.execPublish r s
  | .invalidate r => Sys2Proof.Machine.execInvalidate r s
  | .scanCheckRunning r => Sys2Proof.Machine.execScanCheckRunning r s
  | .scanCheckBlocked r => Sys2Proof.Machine.execScanCheckBlocked r s
  | .scanCheckVerify r => Sys2Proof.Machine.execScanCheckVerify r s
  | .checkSave r => Sys2Proof.Machine.execCheckSave r s
  | .checkLoad r => Sys2Proof.Machine.execCheckLoad r s
  | .ctxOpen w => Sys2Proof.Machine.execCtxOpen w s
  | .ctxClose w => Sys2Proof.Machine.execCtxClose w s
  | .ctxRehome w => Sys2Proof.Machine.execCtxRehome w s
  | .imgGo w => Sys2Proof.Machine.execImgGo w s
  | .imageFetchDone ok image => Sys2Proof.Machine.execImageFetchDone ok image s
  | .quiesceDrained t => Sys2Proof.Machine.execQuiesceDrained t s
  | .drainLimitExpiry t => Sys2Proof.Machine.execDrainLimitExpiry t s
  | .galleryWipeDone gallery => Sys2Proof.Machine.execGalleryWipeDone gallery s
  | .cmdReset w => Sys2Proof.Machine.execCmdReset w s
  | .cmdResetDone => Sys2Proof.Machine.execCmdResetDone s
  | .exportSet w => Sys2Proof.Machine.execExportSet w s
  | .exportClear w => Sys2Proof.Machine.execExportClear w s
  | .exportClearDrained domain => Sys2Proof.Machine.execExportClearDrained domain s
  | .tierCtrlWrite w => Sys2Proof.Machine.execTierCtrlWrite w s
  | .mediaGovWrite w => Sys2Proof.Machine.execMediaGovWrite w s
  | .telemSelWrite w => Sys2Proof.Machine.execTelemSelWrite w s
  | .gateArm w => Sys2Proof.Machine.execGateArm w s
  | .gateDisarm w => Sys2Proof.Machine.execGateDisarm w s
  | .gateTakeover p t => Sys2Proof.Machine.execGateTakeover p t s
  | .gateEntryBoundary p t => Sys2Proof.Machine.execGateEntryBoundary p t s
  | .shaperGranule p t => Sys2Proof.Machine.execShaperGranule p t s
  | .telemSample t => Sys2Proof.Machine.execTelemSample t s
  | .endorse w => Sys2Proof.Machine.execEndorse w s
  | .rollbackCommit w => Sys2Proof.Machine.execRollbackCommit w s
  | .fwStageGo w ok image => Sys2Proof.Machine.execFwStageGo w ok image s
  | .fw c => Sys2Proof.Machine.execFw c s
  | .fwRepairTimer t => Sys2Proof.Machine.execFwRepairTimer t s
  | .collCfgWrite w => Sys2Proof.Machine.execCollCfgWrite w s
  | .faultEnable w => Sys2Proof.Machine.execFaultEnable w s
  | .linkRetrain w => Sys2Proof.Machine.execLinkRetrain w s
  | .linkDisable w => Sys2Proof.Machine.execLinkDisable w s
  | .counterReadClear a => Sys2Proof.Machine.execCounterReadClear a s
  | .registerWrite w => Sys2Proof.Machine.execRegisterWrite w s
  | .sleep w => Sys2Proof.Machine.execSleep w s
  | .wake w => Sys2Proof.Machine.execWake w s
  | .offReady w => Sys2Proof.Machine.execOffReady w s
  | .offReadyForce w => Sys2Proof.Machine.execOffReadyForce w s
  | .gateWest w => Sys2Proof.Machine.execGateWest w s
  | .ungateWest w => Sys2Proof.Machine.execUngateWest w s
  | .ungateDone => Sys2Proof.Machine.execUngateDone s
  | .sleepDrainDone => Sys2Proof.Machine.execSleepDrainDone s
  | .sleepParkDone => Sys2Proof.Machine.execSleepParkDone s
  | .wakeTimer t => Sys2Proof.Machine.execWakeTimer t s
  | .wakeExitDone => Sys2Proof.Machine.execWakeExitDone s
  | .linkQuiet w => Sys2Proof.Machine.execLinkQuiet w s
  | .onfiChannelOff w => Sys2Proof.Machine.execOnfiChannelOff w s
  | .onfiOffDrained channel => Sys2Proof.Machine.execOnfiOffDrained channel s
  | .onfiChannelOn w => Sys2Proof.Machine.execOnfiChannelOn w s
  | .galleryRetain gallery t => Sys2Proof.Machine.execGalleryRetain gallery t s
  | .paceUpdate t pacePs tj powerW => Sys2Proof.Machine.execPaceUpdate t pacePs tj powerW s
  | .thermalTrip tj => Sys2Proof.Machine.execThermalTrip tj s
  | .railFault alwaysOn => Sys2Proof.Machine.execRailFault alwaysOn s
  | .resetNAssert => Sys2Proof.Machine.execResetNAssert s
  | .resetNRelease geoId role => Sys2Proof.Machine.execResetNRelease geoId role s
  | .perstNAssert port => Sys2Proof.Machine.execPerstNAssert port s
  | .perstNRelease port => Sys2Proof.Machine.execPerstNRelease port s
  | .cxlPortTrained port width => Sys2Proof.Machine.execCxlPortTrained port width s
  | .romBootDone passingPairs flash => Sys2Proof.Machine.execRomBootDone passingPairs flash s
  | .screensDone res => Sys2Proof.Machine.execScreensDone res s
  | .bootImageLoad t => Sys2Proof.Machine.execBootImageLoad t s
  | .dramIncrementJoined pass => Sys2Proof.Machine.execDramIncrementJoined pass s
  | .galleryTestDone gallery failedPes => Sys2Proof.Machine.execGalleryTestDone gallery failedPes s
  | .laneQualified u farEnd lanes => Sys2Proof.Machine.execLaneQualified u farEnd lanes s
  | .conservatorReady res t => Sys2Proof.Machine.execConservatorReady res t s
  | .pairHalt pair => Sys2Proof.Machine.execPairHalt pair s
  | .tierCheck domain t => Sys2Proof.Machine.execTierCheck domain t s
  | .flashReadDone granule ok fails t => Sys2Proof.Machine.execFlashReadDone granule ok fails t s
  | .flashProgramDone granule programOk verified => Sys2Proof.Machine.execFlashProgramDone granule programOk verified s
  | .flashEraseDone channel block ok => Sys2Proof.Machine.execFlashEraseDone channel block ok s
  | .governorRelease => Sys2Proof.Machine.execGovernorRelease s
  | .flashPatrol channel block marginal t => Sys2Proof.Machine.execFlashPatrol channel block marginal t s
  | .patrolRead sector ok => Sys2Proof.Machine.execPatrolRead sector ok s
  | .rereadDone sector ok => Sys2Proof.Machine.execRereadDone sector ok s
  | .refetchDone sector ok => Sys2Proof.Machine.execRefetchDone sector ok s
  | .rebuildDone sector ok => Sys2Proof.Machine.execRebuildDone sector ok s
  | .recomputeDone sector ok => Sys2Proof.Machine.execRecomputeDone sector ok s
  | .unitRebuilt unit => Sys2Proof.Machine.execUnitRebuilt unit s
  | .faultOwnedReadDone area r => Sys2Proof.Machine.execFaultOwnedReadDone area r s
  | .hdmRead a fails => Sys2Proof.Machine.execHdmRead a fails s
  | .hdmWrite a enables data fails => Sys2Proof.Machine.execHdmWrite a enables data fails s
  | .addDynamicCapacityResponse port host dpa len => Sys2Proof.Machine.execAddDynamicCapacityResponse port host dpa len s
  | .releaseDynamicCapacity port host dpa => Sys2Proof.Machine.execReleaseDynamicCapacity port host dpa s
  | .getDynamicCapacityExtentList port host => Sys2Proof.Machine.execGetDynamicCapacityExtentList port host s
  | .onaidReport port nonce => Sys2Proof.Machine.execOnaidReport port nonce s
  | .identityCertificate port => Sys2Proof.Machine.execIdentityCertificate port s
  | .memrdSnpcur a fails => Sys2Proof.Machine.execMemrdSnpcur a fails s
  | .memrdSnpdata a fails => Sys2Proof.Machine.execMemrdSnpdata a fails s
  | .memrdSnpinv a fails => Sys2Proof.Machine.execMemrdSnpinv a fails s
  | .meminvSnpinv a => Sys2Proof.Machine.execMeminvSnpinv a s
  | .vitrineMemwr a enables data metaS fails => Sys2Proof.Machine.execVitrineMemwr a enables data metaS fails s
  | .memclnevct a => Sys2Proof.Machine.execMemclnevct a s
  | .birsp host line ans => Sys2Proof.Machine.execBirsp host line ans s
  | .biconflict port host line => Sys2Proof.Machine.execBiconflict port host line s
  | .biTimeout host line t => Sys2Proof.Machine.execBiTimeout host line t s
  | .ts1 m => Sys2Proof.Machine.execTs1 m s
  | .ts2 m => Sys2Proof.Machine.execTs2 m s
  | .config link depth width credits => Sys2Proof.Machine.execConfig link depth width credits s
  | .nak link seq => Sys2Proof.Machine.execNak link seq s
  | .align link => Sys2Proof.Machine.execAlign link s
  | .retrain link => Sys2Proof.Machine.execRetrain link s
  | .down link => Sys2Proof.Machine.execDown link s
  | .frameDiscard link seq => Sys2Proof.Machine.execFrameDiscard link seq s
  | .replayTimeout link t => Sys2Proof.Machine.execReplayTimeout link t s
  | .linkDown link => Sys2Proof.Machine.execLinkDown link s
  | .linkTrainTimeout link t => Sys2Proof.Machine.execLinkTrainTimeout link t s
  | .rd m fails => Sys2Proof.Machine.execRd m fails s
  | .wr m fails => Sys2Proof.Machine.execWr m fails s
  | .atom m fails => Sys2Proof.Machine.execAtom m fails s
  | .pub m fails => Sys2Proof.Machine.execPub m fails s
  | .inv m => Sys2Proof.Machine.execInv m s
  | .step m => Sys2Proof.Machine.execStep m s
  | .rdData m => Sys2Proof.Machine.execRdData m s
  | .wrAck m => Sys2Proof.Machine.execWrAck m s
  | .atomRsp m => Sys2Proof.Machine.execAtomRsp m s
  | .pubRsp m => Sys2Proof.Machine.execPubRsp m s
  | .invAck m => Sys2Proof.Machine.execInvAck m s
  | .stepRsp m => Sys2Proof.Machine.execStepRsp m s
  | .hold m t => Sys2Proof.Machine.execHold m t s
  | .holdTimer t => Sys2Proof.Machine.execHoldTimer t s
  | .fabTimeout tag t => Sys2Proof.Machine.execFabTimeout tag t s
  | .repl m => Sys2Proof.Machine.execRepl m s
  | .hb sender epoch t => Sys2Proof.Machine.execHb sender epoch t s
  | .hbTimer t => Sys2Proof.Machine.execHbTimer t s
  | .hbTimeout member t => Sys2Proof.Machine.execHbTimeout member t s
  | .masterHbTimeout t => Sys2Proof.Machine.execMasterHbTimeout t s
  | .isolationTimeout t => Sys2Proof.Machine.execIsolationTimeout t s
  | .join m => Sys2Proof.Machine.execJoin m s
  | .formed m => Sys2Proof.Machine.execFormed m s
  | .formedAck m => Sys2Proof.Machine.execFormedAck m s
  | .formWindowExpiry t => Sys2Proof.Machine.execFormWindowExpiry t s
  | .masterChange m => Sys2Proof.Machine.execMasterChange m s
  | .memberLost m => Sys2Proof.Machine.execMemberLost m s
  | .fenced m => Sys2Proof.Machine.execFenced m s
  | .deputy m => Sys2Proof.Machine.execDeputy m s
  | .mirrorCopyDone => Sys2Proof.Machine.execMirrorCopyDone s
  | .event m => Sys2Proof.Machine.execEvent m s
  | .credit link returns => Sys2Proof.Machine.execCredit link returns s
  | .liveInEdge t => Sys2Proof.Machine.execLiveInEdge t s
  | .liveInQuiet t => Sys2Proof.Machine.execLiveInQuiet t s
  | .docentRead frame => Sys2Proof.Machine.execDocentRead frame s
  | .docentWrite frame => Sys2Proof.Machine.execDocentWrite frame s
  | .docentResponseAbandon => Sys2Proof.Machine.execDocentResponseAbandon s
  | .cxlPortDown port => Sys2Proof.Machine.execCxlPortDown port s
  | .l1Entry port => Sys2Proof.Machine.execL1Entry port s
  | .l1Exit port => Sys2Proof.Machine.execL1Exit port s
  | .masterLinksDown t => Sys2Proof.Machine.execMasterLinksDown t s
  | .engineTestDone failedMovers failedScanners => Sys2Proof.Machine.execEngineTestDone failedMovers failedScanners s
  | .gateWestDone => Sys2Proof.Machine.execGateWestDone s
  | .entryCommitDone => Sys2Proof.Machine.execEntryCommitDone s
  | .onfiChannelTrained channel rate => Sys2Proof.Machine.execOnfiChannelTrained channel rate s
  | .powerUp => Sys2Proof.Machine.execPowerUp s
  | .fwSlotWriteDone ok => Sys2Proof.Machine.execFwSlotWriteDone ok s
  | .eventRetrieval port host => Sys2Proof.Machine.execEventRetrieval port host s

end Sys2Proof.Machine
end

