-- ==== Sys2Proof/Safety.lean ====
section
/-! DEFINITION. What counts as a safe run, and the conditions under which a command takes effect, in the terms the claims
use. -/

namespace Sys2Proof.Machine

/-- The device has stopped: TRIPPED (R465) or RAIL_FAULT (R472). -/
def Dev.stopped (d : Dev) : Bool := d.power.tripped || d.power.railFault

/-- The device is ACTIVE and not entering a sleep state (R454, R457). -/
def Dev.awake (d : Dev) : Bool := d.power.device == .active && d.power.phase == .none

/-- The byte stores are in their one canonical form: addresses strictly rising, no byte 0 listed. -/
def Dev.canonical (d : Dev) : Bool := Memory.wf d.mem && Memory.wf d.parity && Memory.wf d.bootFlash

/-- The device serves traffic of a CXL port at once. -/
def Dev.serves (d : Dev) (port : Nat) : Bool := d.live && d.awake && d.portUp port

/-- The device as it stands once the traffic of a command on a port has arrived: the port in L0 (R452), and the identity
noted on it (R343). -/
def Dev.reached (d : Dev) (i : Instr) (port : Nat) : Dev := (d.toL0 port).carries i

/-- The device as a register access finds it: over a port, that port is in L0 (R452). -/
def Dev.accessed (d : Dev) : Src → Dev
  | .bar port _ => d.toL0 port
  | .docent => d

/-- Whether a register access reaches the device while it is awake: its port is up, or it comes over the Docent bus. -/
def Dev.hears (d : Dev) : Src → Bool
  | .bar port _ => d.serves port
  | .docent => d.live && d.awake

/-- Whether a register write is applied as it stands (R9, R28 to R31, R491 to R494, R498, R499): aligned, past BOOTING, from
a source that reaches the register, in a block that takes it now. -/
def Dev.takes (d : Dev) (w : RegWrite) : Bool :=
  wellAligned w.offset w.size && d.acc.state != .booting &&
  (match w.src with
   | .docent => docentVisible w.reg
   | .bar port host => d.portUp port && d.reaches0 host w.reg) &&
  (match blockOf w.reg with
   | .page dom => (d.domainRec dom).isSome && d.loadingDomain != some dom && !d.beyondLimit dom w
   | b => variantHas d.acc.reported b)

/-- A safe run: the device has not stopped and its stores are canonical. -/
def State.safe (s : State) : Bool := !s.dev.stopped && s.dev.canonical

/-- A command of a verb is RUNNING in a slot of a live device and has not begun: `c` is its context and `k` the command. -/
def State.runs (s : State) (r : SlotRef) (v : Verb) (c : Context) (k : Cmd) : Prop :=
  s.dev.live = true ∧ s.dev.ready r v = some (c, k)

/-- A register write of a row's kind that is heard and taken, the device being as the access finds it. -/
def State.writes (s : State) (w : RegWrite) : Prop :=
  s.dev.hears w.src = true ∧ (s.dev.accessed w.src).takes w = true

/-- A series of sequence numbers that are all accepted one after the other (R79): the context they leave. -/
def Context.acceptAll (c : Context) : List W32 → Option Context
  | [] => some c
  | q :: qs => if c.classify q = .fresh then (c.accept q).acceptAll qs else none

/-- How far the highest accepted sequence number moves over such a series. -/
def Context.advance (c : Context) : List W32 → Nat
  | [] => 0
  | q :: qs => ((c.accept q).high - c.high).toNat + (c.accept q).advance qs

/-- A fabric message comes in on a link that is up, for this node, of a kind its link carries (R373), and from its own
group only of a live member of a formed collection (R356). -/
def Dev.brings (d : Dev) (type : Nat) (m : FabMsg) : Bool :=
  d.linkUp m.link && m.dst == d.ownFid &&
  (!(d.links.any fun l => l.index == m.link && l.far) || ((type == 0x01 || type == 0x02) && m.export?) || type == 0x81 ||
    type == 0x82 || type == 0x8F) &&
  (!(d.links.any fun l => l.index == m.link && l.far) || m.farOk type) && (!d.fromGroup m || (d.coll.state == .formed && !d.coll.lost.getLsbD (m.src % 16)))

/-- The device as a new fabric request finds it: the frame's ACK taken, answers kept past 1 ms(L) dropped (R362, R367). -/
def Dev.asked (d : Dev) (m : FabMsg) : Dev :=
  { d.ackSome m.link with
    serving := (d.ackSome m.link).serving.filter fun x =>
      x.answer.isNone || !x.await.isEmpty || x.src == hostSource || decide (d.now ≤ 1000000 + x.since) }

/-- A fabric request that is new here: it comes in, and none of its source and tag is being served or kept. -/
def State.asks (s : State) (type : Nat) (m : FabMsg) : Prop :=
  s.dev.live = true ∧ s.dev.brings type m = true ∧ ∀ x ∈ s.dev.serving, x.src ≠ m.src ∨ x.tag ≠ m.tag

/-- The ranges of a begun verb whose sizes come from its table, index or session are all mapped with the rights they need
and are captured (R205, R293, R295): the device and the command as they then stand. -/
def Dev.captures (d : Dev) (r : SlotRef) (c : Context) (k : Cmd) (ns : List Need) (e : Dev) (j : Cmd) : Prop :=
  ∃ caps, translate d.extents c.domain k.caps ns = .ok caps ∧ e = d.setCaps r caps ∧ j = { k with caps := caps }

end Sys2Proof.Machine
end

