-- ==== Sys2Proof/WellFormed.lean ====
section
/-! DEFINITION. Well-formed commands: operands in the ranges the spec gives them. The meanings take any command; a command that
is not well formed is none that the device's surroundings can send. -/

namespace Sys2Proof

/-- A slot of a context: 65,536 contexts of 64 slots (R65), and as many for each front member whose sessions this member holds (R166). -/
def SlotRef.wf (r : SlotRef) : Bool := decide (r.ctx < 65536 * 17) && decide (r.slot < 64)

/-- A write of one 64-byte line of the aperture on one of four ports (R65, R66). -/
def LineWrite.wf (w : LineWrite) : Bool := decide (w.port < 4) && decide (w.host < 4096) && decide (w.offset < 0x1000_0000) && w.offset % 64 == 0 && w.data.length == 64

/-- A port and a 12-bit host identity, or the Docent bus (R29, R31, R47). -/
def Src.wf : Src → Bool
  | .bar port host => decide (port < 4) && decide (host < 4096)
  | .docent => true

/-- An access of 1 to 8 bytes in the 4 MiB of BAR0 (R29, R491). -/
def RegWrite.wf (w : RegWrite) : Bool := w.src.wf && decide (1 ≤ w.size) && decide (w.size ≤ 8) && decide (w.offset + w.size ≤ 0x0040_0000)

/-- See `RegWrite.wf`. -/
def RegRead.wf (a : RegRead) : Bool := a.src.wf && decide (1 ≤ a.size) && decide (a.size ≤ 8) && decide (a.offset + a.size ≤ 0x0040_0000)

/-- A CXL.mem access to a 64-byte line of a host view (R286). -/
def MemAccess.wf (a : MemAccess) : Bool := decide (a.port < 4) && decide (a.host < 4096) && a.dpa % 64 == 0

/-- A message on one of eight links: 16-bit FIDs, tag, at most 1 MiB of payload (R363). -/
def FabMsg.wf (m : FabMsg) : Bool := decide (m.link < 8) && decide (m.dst < 65536) && decide (m.src < 65536) && decide (m.tag < 65536) && decide (m.payload.length ≤ 2 ^ 20)

/-- Sixteen members (R349). -/
def MemberMsg.wf (m : MemberMsg) : Bool := decide (m.link < 8) && decide (m.srcFid < 65536) && decide (m.sender < 16)

/-- See `MemberMsg.wf`; contexts are 16-bit numbers. -/
def LedgerMsg.wf (m : LedgerMsg) : Bool := decide (m.ctx < 65536) && decide (m.front < 16) && decide (m.source < 16) && decide (m.dest < 16) && decide (m.sender < 16)

/-- A training message: eight lanes (R368). -/
def TrainMsg.wf (m : TrainMsg) : Bool := decide (m.link < 8) && decide (m.lanes < 256) && decide (m.fid < 65536)

/-- A firmware chunk: at most 4 KiB (R436). -/
def FwChunk.wf (c : FwChunk) : Bool := decide (c.sender < 65536) && decide (c.data.length ≤ 4096)

/-- One of 4 ports, 8 links, 32 channels (R314). -/
def pointWf (p : Point) : Bool := match p.kind with
  | .cxl => decide (p.index < 4)
  | .zherek => decide (p.index < 8)
  | .onfi => decide (p.index < 32)

/-- A domain's area or the device's (R411). -/
def areaWf : FaultArea → Bool
  | .domain dm => decide (dm < 256)
  | .device => true

/-- A port or a link (R435). -/
def laneUnitWf : LaneUnit → Bool
  | .cxl p => decide (p < 4)
  | .zherek l => decide (l < 8)

/-- Whether a command is well formed. -/
def Instr.wf (i : Instr) : Bool :=
  match i with
  | .submissionLine w => w.wf
  | .slotRead port host offset => decide (port < 4) && decide (host < 4096) && decide (offset < 0x1000_0000)
  | .xlateMissServed r => r.wf
  | .stepRetire r _ _ => r.wf
  | .fill r => r.wf
  | .copy r => r.wf
  | .compare r => r.wf
  | .reduce r => r.wf
  | .atomic r => r.wf
  | .atomicBatch r => r.wf
  | .fence r => r.wf
  | .fenceFull r => r.wf
  | .release r => r.wf
  | .acquire r _ => r.wf
  | .acquirePoll r _ => r.wf
  | .acquireWaitLimit r _ => r.wf
  | .abort r => r.wf
  | .mapAllocate r => r.wf
  | .mapAlias r => r.wf
  | .mapSeal r => r.wf
  | .mapExpose r => r.wf
  | .mapVitrine r => r.wf
  | .unmapRange r => r.wf
  | .unmapWithdraw r => r.wf
  | .loanOpen r => r.wf
  | .loanRenew r => r.wf
  | .loanClose r => r.wf
  | .loanTransfer r => r.wf
  | .loanExpiry _ => true
  | .append r => r.wf
  | .seal r => r.wf
  | .fork r => r.wf
  | .dropWhole r => r.wf
  | .dropTruncate r => r.wf
  | .migrateToMember r => r.wf
  | .migrateToFlash r => r.wf
  | .migrateToDram r => r.wf
  | .fetchBlocks r => r.wf
  | .selectAttend r => r.wf
  | .offer m _ => m.wf
  | .accept m => m.wf
  | .commit m => m.wf
  | .abandon m => m.wf
  | .commitAck m => m.wf
  | .notOwner m r => m.wf && r.wf
  | .query m => m.wf
  | .answer m => m.wf
  | .offerTimeout m _ => m.wf
  | .ledgerAudit _ => true
  | .orphanTimeout r _ => r.wf
  | .gather r => r.wf
  | .scatterUpdate r => r.wf
  | .create r => r.wf
  | .publishDescriptor r => r.wf
  | .publishStaged r => r.wf
  | .waitReclaim r => r.wf
  | .waitReclaimLimit r _ => r.wf
  | .tableDelete r => r.wf
  | .rehang r => r.wf
  | .search r => r.wf
  | .insert r => r.wf
  | .deleteItems r => r.wf
  | .deleteIndex r => r.wf
  | .compactLists r => r.wf
  | .compactSeal r => r.wf
  | .compactFull r => r.wf
  | .stream r => r.wf
  | .streamBuildShadow r => r.wf
  | .streamDeadline r _ _ => r.wf
  | .streamWaitBound r _ _ => r.wf
  | .bulkGet r => r.wf
  | .bulkPut r => r.wf
  | .publish r => r.wf
  | .invalidate r => r.wf
  | .scanCheckRunning r => r.wf
  | .scanCheckBlocked r => r.wf
  | .scanCheckVerify r => r.wf
  | .checkSave r => r.wf
  | .checkLoad r => r.wf
  | .ctxOpen w => w.wf
  | .ctxClose w => w.wf
  | .ctxRehome w => w.wf
  | .imgGo w => w.wf
  | .imageFetchDone _ _ => true
  | .quiesceDrained _ => true
  | .drainLimitExpiry _ => true
  | .galleryWipeDone gallery => decide (gallery < 40)
  | .cmdReset w => w.wf
  | .cmdResetDone => true
  | .exportSet w => w.wf
  | .exportClear w => w.wf
  | .exportClearDrained domain => decide (domain < 256)
  | .tierCtrlWrite w => w.wf
  | .mediaGovWrite w => w.wf
  | .telemSelWrite w => w.wf
  | .gateArm w => w.wf
  | .gateDisarm w => w.wf
  | .gateTakeover p _ => pointWf p
  | .gateEntryBoundary p _ => pointWf p
  | .shaperGranule p _ => pointWf p
  | .telemSample _ => true
  | .endorse w => w.wf
  | .rollbackCommit w => w.wf
  | .fwStageGo w _ _ => w.wf
  | .fw c => c.wf
  | .fwRepairTimer _ => true
  | .collCfgWrite w => w.wf
  | .faultEnable w => w.wf
  | .linkRetrain w => w.wf
  | .linkDisable w => w.wf
  | .counterReadClear a => a.wf
  | .registerWrite w => w.wf
  | .sleep w => w.wf
  | .wake w => w.wf
  | .offReady w => w.wf
  | .offReadyForce w => w.wf
  | .gateWest w => w.wf
  | .ungateWest w => w.wf
  | .ungateDone => true
  | .sleepDrainDone => true
  | .sleepParkDone => true
  | .wakeTimer _ => true
  | .wakeExitDone => true
  | .linkQuiet w => w.wf
  | .onfiChannelOff w => w.wf
  | .onfiOffDrained channel => decide (channel < 32)
  | .onfiChannelOn w => w.wf
  | .galleryRetain gallery _ => decide (gallery < 40)
  | .paceUpdate _ _ _ _ => true
  | .thermalTrip _ => true
  | .railFault _ => true
  | .resetNAssert => true
  | .resetNRelease geoId role => decide (geoId < 16) && decide (role < 4)
  | .perstNAssert port => decide (port < 4)
  | .perstNRelease port => decide (port < 4)
  | .cxlPortTrained port _ => decide (port < 4)
  | .romBootDone _ _ => true
  | .screensDone _ => true
  | .bootImageLoad _ => true
  | .dramIncrementJoined _ => true
  | .galleryTestDone gallery _ => decide (gallery < 40)
  | .laneQualified u _ _ => laneUnitWf u
  | .conservatorReady _ _ => true
  | .pairHalt pair => decide (pair < 4)
  | .tierCheck domain _ => decide (domain < 256)
  | .flashReadDone _ _ _ _ => true
  | .flashProgramDone _ _ _ => true
  | .flashEraseDone channel _ _ => decide (channel < 32)
  | .governorRelease => true
  | .flashPatrol channel _ _ _ => decide (channel < 32)
  | .patrolRead _ _ => true
  | .rereadDone _ _ => true
  | .refetchDone _ _ => true
  | .rebuildDone _ _ => true
  | .recomputeDone _ _ => true
  | .unitRebuilt _ => true
  | .faultOwnedReadDone area _ => areaWf area
  | .hdmRead a _ => a.wf
  | .hdmWrite a _ data _ => a.wf && data.length == 64
  | .addDynamicCapacityResponse port host _ _ => decide (port < 4) && decide (host < 4096)
  | .releaseDynamicCapacity port host _ => decide (port < 4) && decide (host < 4096)
  | .getDynamicCapacityExtentList port host => decide (port < 4) && decide (host < 4096)
  | .onaidReport port nonce => decide (port < 4) && nonce.length == 32
  | .identityCertificate port => decide (port < 4)
  | .memrdSnpcur a _ => a.wf
  | .memrdSnpdata a _ => a.wf
  | .memrdSnpinv a _ => a.wf
  | .meminvSnpinv a => a.wf
  | .vitrineMemwr a _ data _ _ => a.wf && data.length == 64
  | .memclnevct a => a.wf
  | .birsp host _ _ => decide (host < 4096)
  | .biconflict port host _ => decide (port < 4) && decide (host < 4096)
  | .biTimeout host _ _ => decide (host < 4096)
  | .ts1 m => m.wf
  | .ts2 m => m.wf
  | .config link _ _ _ => decide (link < 8)
  | .nak link seq => decide (link < 8) && decide (seq < 512)
  | .align link => decide (link < 8)
  | .retrain link => decide (link < 8)
  | .down link => decide (link < 8)
  | .frameDiscard link seq => decide (link < 8) && decide (seq < 512)
  | .replayTimeout link _ => decide (link < 8)
  | .linkDown link => decide (link < 8)
  | .linkTrainTimeout link _ => decide (link < 8)
  | .rd m _ => m.wf
  | .wr m _ => m.wf
  | .atom m _ => m.wf
  | .pub m _ => m.wf
  | .inv m => m.wf
  | .step m => m.wf
  | .rdData m => m.wf
  | .wrAck m => m.wf
  | .atomRsp m => m.wf
  | .pubRsp m => m.wf
  | .invAck m => m.wf
  | .stepRsp m => m.wf
  | .hold m _ => m.wf
  | .holdTimer _ => true
  | .fabTimeout _ _ => true
  | .repl m => m.wf
  | .hb sender _ _ => decide (sender < 16)
  | .hbTimer _ => true
  | .hbTimeout member _ => decide (member < 16)
  | .masterHbTimeout _ => true
  | .isolationTimeout _ => true
  | .join m => m.wf
  | .formed m => m.wf
  | .formedAck m => m.wf
  | .formWindowExpiry _ => true
  | .masterChange m => m.wf
  | .memberLost m => m.wf
  | .fenced m => m.wf
  | .deputy m => m.wf
  | .mirrorCopyDone => true
  | .event m => m.wf
  | .credit link _ => decide (link < 8)
  | .liveInEdge _ => true
  | .liveInQuiet _ => true
  | .docentRead _ => true
  | .docentWrite _ => true
  | .docentResponseAbandon => true
  | .cxlPortDown port => decide (port < 4)
  | .l1Entry port => decide (port < 4)
  | .l1Exit port => decide (port < 4)
  | .masterLinksDown _ => true
  | .engineTestDone _ _ => true
  | .gateWestDone => true
  | .entryCommitDone => true
  | .onfiChannelTrained channel _ => decide (channel < 32)
  | .powerUp => true
  | .fwSlotWriteDone _ => true
  | .eventRetrieval port host => decide (port < 4) && decide (host < 4096)

end Sys2Proof
end

