-- ==== Sys2Proof/Certificates/Slice0/Obligations.lean ====
section
/-! DEFINITION. The statements for the provers, from the numbered rules of spec/. Equations of the form
`exec c s = .next …` say in full what a command leaves: every field not named is as it was. -/

open Sys2Proof Sys2Proof.Machine

/-! ### The machine -/

/-- A step with a command at the front of the queue runs that command on the state with the queue's rest. -/
def Obligations.StepRunsFrontCommand : Prop :=
  ∀ (c : Instr) (cs : List Instr) (s : State), s.pending = c :: cs → step s = exec c { s with pending := cs }

/-- With no command waiting, one nanosecond of the local time reference passes and nothing else changes: the model's
choice (log 13) of what a block without a clock row does on an empty queue. -/
def Obligations.IdleStepPassesOneNanosecond : Prop :=
  ∀ s : State, s.pending = [] → step s = .next { s with dev := { s.dev with now := s.dev.now + 1 } }

/-- Every command answers a next state, and none changes the queue of waiting commands: the model stops on nothing. -/
def Obligations.EveryCommandAnswersAndKeepsQueue : Prop :=
  ∀ (c : Instr) (s : State), ∃ d : Dev, exec c s = .next { s with dev := d }

/-- What the reset state holds of the values the spec gives: BOOTING with LIVE_OUT low (R424), no image in force and no
load (R63), no context, no tag and no window, an ACTIVE device that is not stopped (R466) at VID code 30 (R473), every
Zherek link DOWN (R382), every CXL port untrained, no gate list active (R326), no collection (R381), an empty store, and
every register at the reset value of its table (R496). -/
def Obligations.ResetStateHoldsSpecValues : Prop :=
  let d := State.reset.dev
  State.reset.pending = [] ∧ d.acc.state = .booting ∧ d.acc.resetLow = true ∧ d.pins.liveOut = false ∧ d.image = none ∧
  d.load = ImageLoad.idle ∧ d.ctxs = [] ∧ d.extents = [] ∧ d.windows = [] ∧ d.loans = [] ∧ d.directory = [] ∧
  d.power.device = .active ∧ d.power.phase = .none ∧ d.stopped = false ∧ d.power.vid = 30 ∧
  (∀ l ∈ d.links, l.state = .down) ∧ (∀ p ∈ d.ports, p.link = .down) ∧ (∀ e ∈ d.points, e.activeLen = 0) ∧
  d.coll.state = .standalone ∧ d.coll.members = 0 ∧ (∀ a, memGet d.mem a = 0) ∧ ∀ off, d.reg off = resetValue d off

/-- The reset state meets the invariants that the statements below keep: canonical stores, not stopped, held in reset. -/
def Obligations.ResetStateMeetsInvariants : Prop :=
  State.reset.safe = true ∧ State.reset.dev.acc.resetLow = true ∧ State.reset.dev.live = false

/-- A device that has stopped, TRIPPED (R465) or with RAIL_FAULT (R472), stays so under every command but the assertion
of RESET_N and a new power-up: no step is issued and no record, answer or message leaves but Docent responses; command
state, store, poison and mappings stay, and LIVE_OUT is never raised. -/
def Obligations.StoppedDeviceLeavesOnlyByReset : Prop :=
  ∀ (c : Instr) (s t : State), s.dev.stopped = true → c ≠ .resetNAssert → c ≠ .powerUp → exec c s = .next t →
    t.dev.stopped = true ∧ t.dev.ctxs = s.dev.ctxs ∧ t.dev.mem = s.dev.mem ∧ t.dev.poison = s.dev.poison ∧
    t.dev.extents = s.dev.extents ∧ t.dev.blocks = s.dev.blocks ∧ t.dev.media = s.dev.media ∧
    (s.dev.pins.liveOut = false → t.dev.pins.liveOut = false) ∧
    ∃ ms, t.dev.out = s.dev.out ++ ms ∧ ∀ m ∈ ms, ∃ b, m = OutMsg.docent b

/-- Only the release of RESET_N leaves reset (R475): while it is low no other command raises it, and no command but a
Docent read puts anything out (R424). -/
def Obligations.DeviceInResetStaysInReset : Prop :=
  ∀ (c : Instr) (s t : State), s.dev.acc.resetLow = true → (∀ geo role, c ≠ .resetNRelease geo role) → exec c s = .next t →
    t.dev.acc.resetLow = true ∧ (t.dev.ctxs = s.dev.ctxs ∨ t.dev.ctxs = []) ∧
    ∃ ms, t.dev.out = s.dev.out ++ ms ∧ ∀ m ∈ ms, ∃ b, m = OutMsg.docent b

/-- RESET_N, PERST_N, power and the two stops (R88, R349, R423, R465, R472, R475, R484). -/
def Obligations.ResetAndPowerCommandsComplete : Prop :=
  ∀ (s : State) (port geo role tj : Nat),
    exec .powerUp s = .next { s with dev := { Dev.reset with
      draws := s.dev.draws, fuses := s.dev.fuses, bootFlash := s.dev.bootFlash, flash := s.dev.flash, out := s.dev.out
      acc := { Accession.reset with lateGalleries := s.dev.acc.lateGalleries, lateStacks := s.dev.acc.lateStacks }
      ports := keepPerst s.dev.ports Dev.reset.ports, pins := { s.dev.pins.inputs 0 with tapIr := 0x01 } } } ∧
    (s.dev.acc.powered = true → ∃ d, exec .resetNAssert s = .next { s with dev := d } ∧ d.acc.resetLow = true ∧
      d.acc.state = .booting ∧ d.ctxs = [] ∧ d.image = none ∧ d.extents = [] ∧ d.mem = [] ∧ d.power = Power.reset ∧
      d.now = s.dev.now ∧ d.fuses = s.dev.fuses ∧ d.bootFlash = s.dev.bootFlash ∧ d.flash = s.dev.flash ∧ d.out = s.dev.out ∧
      d.acc.passes = s.dev.acc.passes ∧ d.docent.address = s.dev.docent.address) ∧
    (s.dev.acc.powered = true → s.dev.acc.resetLow = true → role % 4 < 2 →
      exec (.resetNRelease geo role) s = .next { s with dev := { s.dev with
        acc := { s.dev.acc with resetLow := false, warm := decide (0 < s.dev.acc.accessions) && s.dev.acc.passRecords
                                passRecords := true, accessions := s.dev.acc.accessions + 1, releaseTime := s.dev.now, phase := 1 }
        coll := { Collection.reset with geoId := if role % 4 = 0 then 0 else geo % 16, role := role % 4 }
        docent := { s.dev.docent with address := 0x40 + geo % 16 } } }) ∧
    (s.dev.acc.powered = true → s.dev.acc.resetLow = true → 2 ≤ role % 4 →
      ∃ d, exec (.resetNRelease geo role) s = .next { s with dev := d } ∧ d.acc.state = .refused ∧ d.acc.refusal = 4) ∧
    (s.dev.live = true → (s.dev.ports.any fun x => x.index == port && x.link != .down) = true →
      exec (.perstNAssert port) s = .next { s with dev :=
        (((s.dev.modPort port fun x => { x with perstReleased := false }).portLost port).modPort port fun x =>
          { x with link := .down, width := 0 }).settle }) ∧
    exec (.perstNRelease port) s = .next { s with dev := s.dev.modPort port fun x => { x with perstReleased := true } } ∧
    (s.dev.live = true → 115 ≤ tj → exec (.thermalTrip tj) s = .next { s with dev := { s.dev with
      power := { s.dev.power with tripped := true, tjC := tj % 256 }
      pins := { s.dev.pins with liveOut := false, tripN := true } } }) ∧
    (s.dev.acc.powered = true → s.dev.acc.resetLow = false → exec (.railFault false) s = .next { s with dev := { s.dev with
      power := { s.dev.power with railFault := true }, pins := { s.dev.pins with liveOut := false } } }) ∧
    exec (.railFault true) s = .next { s with dev := { s.dev with
      acc := { s.dev.acc with powered := false }, pins := { s.dev.pins with liveOut := false, tripN := false } } }

/-! ### Accession, firmware -/

/-- The phases of accession up to AVAILABLE_PARTIAL: the ROM (R426, R427), the screens and the variant (R431 to R434),
the boot image (R439, R440): in BOOTING each moves accession on, and the last one raises LIVE_OUT (R424). -/
def Obligations.BootPhasesComplete : Prop :=
  ∀ (s : State) (pairs : Nat) (flash : List (Nat × List Byte)) (res : ScreenResult) (t v : Nat), s.dev.live = true →
    s.dev.acc.state = .booting →
    (s.dev.acc.phase = 1 →
      let d : Dev := { s.dev with bootFlash := flash.foldl (fun (m : List Host.Cell) (e : Nat × List Byte) => memWrite m e.1 e.2) s.dev.bootFlash }
      ∀ slot b, d.pickFirmware = some (slot, b) → (∃ p < 4, d.fuses.pairOk p = true ∧ bit pairs p = true) →
        ∃ e, exec (.romBootDone pairs flash) s = .next { s with dev := e } ∧ e.acc.phase = 3 ∧ e.acc.state = .booting ∧
          e.fw.version = BitVec.ofNat 64 (fieldAt b 16 8) ∧ e.fw.rollback = fieldAt b 24 4 ∧ e.fw.digest = slice b 32 64 ∧
          e.fw.runningSlot = slot ∧ e.bootFlash = d.bootFlash) ∧
    (s.dev.acc.phase = 3 →
      ([1, 2, 3].find? fun v => decide (s.dev.fuses.marked ≤ v) && (s.dev.screenUnits res).meetsFloor v) = some v →
        exec (.screensDone res) s = .next { s with dev := (({ s.dev.screenUnits res with
          acc := { s.dev.acc with
                    reported := v, degraded := v != s.dev.fuses.marked, phase := 5, lateGalleries := [], lateStacks := 0 } }).mapUnits v).fastPorts }) ∧
    (s.dev.acc.phase = 3 →
      ([1, 2, 3].find? fun v => decide (s.dev.fuses.marked ≤ v) && (s.dev.screenUnits res).meetsFloor v) = none →
        ∃ e, exec (.screensDone res) s = .next { s with dev := e } ∧ e.acc.state = .refused ∧ e.acc.refusal = 3) ∧
    (s.dev.acc.phase = 5 → s.dev.load.abandoned = false →
      let d : Dev := { s.dev.atTime t with load := ImageLoad.idle }
      ∀ b i, d.bootImage = some b → d.validate b = .ok i →
        exec (.bootImageLoad t) s = .next { s with dev :=
          ((({ d.bootInForce i with
            acc := { (d.bootInForce i).acc with state := .availablePartial, phase := 7,
                                                partialTime := (d.bootInForce i).now - (d.bootInForce i).acc.releaseTime }
            pins := { (d.bootInForce i).pins with liveOut := true } } : Dev).fastGalleries).powerGalleries).checkFull.settle })

/-- The units that join after the boot image or on the way to it: DRAM increments (R440), galleries (R433, R441), the
engines, Zherek and CXL lanes (R435), CXL ports (R424, R477), ONFI channels and the Conservator (R442); and a pair that
halts (R22, R23).
Firmware staging and the one-time commits (R428, R429, R436 to R438, R448). -/
def Obligations.UnitAndFirmwareCommandsComplete : Prop :=
  (∀ (s : State) (gallery fails movers scanners lanes port link width channel rate pair t : Nat) (far : Bool)
    (res : ConservatorResult) (x : Port) (g : Gallery) (ch : OnfiChannel), s.dev.live = true →
    (5 ≤ s.dev.acc.phase → s.dev.acc.increments < 128 → s.dev.acc.dramStopped = false →
      exec (.dramIncrementJoined true) s = .next { s with dev := ({ s.dev with
        draws := s.dev.draws + 8, acc := { s.dev.acc with increments := s.dev.acc.increments + 1 }
        stackUnits := s.dev.stackUnits.map fun (y : Stack) => y.marched (Config.freeNat (s.dev.draws + y.physical)) } : Dev).checkFull.settle } ∧
      exec (.dramIncrementJoined false) s = .next { s with dev :=
        ((s.dev.stopDram).degrade).checkFull.settle } ∧ s.dev.stopDram.acc.dramStopped = true) ∧
    (s.dev.galleries.find? (·.physical == gallery) = some g → g.logical.isSome = true → g.state = .pending →
      s.dev.acc.enginesTested = true → popCount (Nat.lor g.failed fails % 2 ^ 34) 34 ≤ 2 → Nat.lor g.failed fails % 2 ^ 34 = g.failed →
      exec (.galleryTestDone gallery fails) s = .next { s with dev :=
        (({ s.dev with
              galleries := modifyAll (fun (y : Gallery) => y.physical == gallery) (fun y => { y with failed := g.failed, state := .joined, niMap := workingPes g.failed }) s.dev.galleries } : Dev).notePass (.gallery gallery)).powerGalleries.checkFull.settle }) ∧
    (s.dev.acc.phase = 7 → s.dev.acc.enginesTested = false →
      movers % 2 ^ 32 = s.dev.fuses.badMovers % 2 ^ 32 → scanners % 2 ^ 8 = s.dev.fuses.badScanners % 2 ^ 8 →
      exec (.engineTestDone movers scanners) s = .next { s with dev := ({ s.dev with
        acc := { s.dev.acc with enginesTested := true, failedMovers := movers % 2 ^ 32, failedScanners := scanners % 2 ^ 8 } } : Dev).checkFull.settle }) ∧
    (5 ≤ s.dev.acc.phase → exec (.laneQualified (.cxl port) far lanes) s = .next { s with dev := (s.dev.cxlLanes port far lanes).checkFull.settle }) ∧
    (7 ≤ s.dev.acc.phase → exec (.laneQualified (.zherek link) far lanes) s = .next { s with dev := (s.dev.zkLanes link far lanes).checkFull.settle }) ∧
    (s.dev.ports.find? (·.index == port) = some x → x.state = .joined → (s.dev.power.west = .on ∨ port < 2) → x.perstReleased = true →
      x.link = .down → (width = 4 ∨ width = 8 ∨ width = 16) → width ≤ popCount x.nearLanes 16 →
      exec (.cxlPortTrained port width) s = .next { s with dev :=
        (s.dev.modPort port fun y => { y with link := .l0, width := width }).setRate { kind := .cxl, index := port } (7500 * width) }) ∧
    (s.dev.channels.find? (·.index == channel) = some ch → s.dev.acc.phase = 7 → ch.unit = .pending → 2400 ≤ rate →
      exec (.onfiChannelTrained channel rate) s = .next { s with dev :=
        ((((s.dev.modChannel channel fun y => { y with unit := .joined, usable := true, rate := rate, off := false, draining := false, mpe := true }).setRate
          { kind := .onfi, index := channel } rate).runMedia).checkFull).settle }) ∧
    (s.dev.acc.phase = 7 → s.dev.acc.conservator = false → res.unusable = 0 →
      exec (.conservatorReady res t) s = .next { s with dev :=
        (({ ({ s.dev.atTime t with channels := s.dev.channels.map fun (y : OnfiChannel) => { y with dies := at! res.dies y.index 0 } } : Dev).setReg 0x4020
              (BitVec.ofNat 64 (res.usableGiB % 2 ^ 32 * 2 ^ 32 + res.wearPct % 256 * 2 ^ 24 + res.reservePct % 256 * 2 ^ 16)) with
            acc := { s.dev.acc with conservator := true } } : Dev).checkFull).runMedia.settle }) ∧
    (s.dev.pairServes pair = true →
      exec (.pairHalt pair) s = .next { s with dev :=
        (((((s.dev.dropPair pair).noteFault (.pair pair)).fault .device 0x0A none 0xFFFF 0xFFFF 0 0xFFFF 1 pair 0).checkFull).starve).settle })) ∧
  (∀ (s : State) (w : RegWrite) (c : FwChunk) (t : Nat) (image dir rec : List Byte),
    (s.writes w → w.reg = 0x1008 → let d := s.dev.accessed w.src
      bits (d.after w).toNat 47 32 ≤ 168 →
      (w.sets 1 = true → w.sets 0 = false → d.acc.state = .availableFull → (d.plainWrite w).endorsement = some rec → d.fuses.ownerHash = none →
        exec (.endorse w) s = .next { s with dev := ({ d.plainWrite w with
          fuses := { d.fuses with ownerHash := some (sha3_512 (slice rec 72 2592)) } } : Dev).setField 0x1008 15 8 1 }) ∧
      (w.sets 0 = true → w.sets 1 = false → d.acc.state = .availableFull → d.fuses.rollback < d.fw.rollback →
        exec (.rollbackCommit w) s = .next { s with dev := ({ d.plainWrite w with
          fuses := { d.fuses with rollback := d.fw.rollback } } : Dev).setField 0x1008 15 8 1 })) ∧
    (s.writes w → w.reg = 0x1010 → w.sets 0 = true → let d := s.dev.accessed w.src
      (d.fw.phase ≠ 0 → ∀ ok, exec (.fwStageGo w ok image) s = .next { s with dev := d.setField 0x1020 1 1 1 }) ∧
      (∀ port host, d.fw.phase = 0 → w.src = .bar port host → let p := (d.plainWrite w).setField 0x1020 63 32 0
        let n := (d.plainWrite w).field 0x1010 39 16
        p.field 0x1010 39 16 = n → 0 < n → n ≤ 131190 → (p.reg 0x1018).toNat % 64 = 0 → fwCheck d.fuses (image.take (64 * n)) = none →
        ∃ e, exec (.fwStageGo w true image) s = .next { s with dev := e } ∧ e.fw.source = true ∧
          e.fw.phase = (if e.others.isEmpty then 3 else 2))) ∧
    (s.dev.live = true → c.data.length ≤ 4096 → c.check.toNat = chunkCheck (chunkHeader c.tag c.index.toNat c.count c.data.length) c.data c.tag c.index.toNat →
      s.dev.fw.source = false → s.dev.fw.phase ≠ 0 → s.dev.fw.phase ≠ 3 → s.dev.fw.tag = c.tag → c.index.toNat < c.count → c.index.toNat < repairRequest →
      (s.dev.fw.phase ≠ 2 →
        exec (.fw c) s = .next { s with dev := { s.dev with fw := { s.dev.fw with chunks := insertBy Prod.fst (c.index.toNat, c.data) s.dev.fw.chunks } } })) ∧
    (s.dev.live = true → s.dev.fw.phase = 2 → s.dev.fw.source = true →
      exec (.fwRepairTimer t) s = .next { s with dev := { s.dev.atTime t with
        fw := if 3 ≤ s.dev.fw.rounds + 1 then { s.dev.fw with phase := 3 } else { s.dev.fw with rounds := s.dev.fw.rounds + 1 } } }) ∧
    (s.dev.live = true → s.dev.fw.phase = 3 → s.dev.bootDir = some dir →
      let slot := 1 - s.dev.fw.runningSlot
      let b := preferSlot dir slot
      exec (.fwSlotWriteDone true) s = .next { s with dev :=
        ((({ s.dev with bootFlash := memWrite (memWrite (memWrite s.dev.bootFlash (fieldAt dir (8 + 8 * slot) 8) s.dev.assembled) 0x1000 b) 0 b } : Dev).modFw
          fun f => { f with preferred := slot }).setField 0x1020 (32 + s.dev.coll.geoId) (32 + s.dev.coll.geoId) 1).endStaging }))

/-! ### Power -/

/-- A device power request that is in range and that no refuser stops (R455, R466) acts as asked: SLEEP and OFF_READY
begin to drain (R457), OFF_READY_FORCE resets the command state first (R456), a WAKE of a sleeping device begins its exit
(R459, R461), the wing begins to gate, its pairs' roles passed on (R453), or to ungate.
A power request that a refuser stops is counted and noted with its refuser, and does nothing else (R455). -/
def Obligations.PowerRequestsComplete : Prop :=
  (∀ (s : State) (w : RegWrite), w.reg = 0xA000 →
    let d := s.dev.accessed w.src
    let p := d.plainWrite w
    (s.writes w → pwrCtrlOk (d.after w) (w.fieldOf 3 0) = true → p.refuser (w.fieldOf 3 0) = none →
      (w.fieldOf 3 0 = 1 → exec (.sleep w) s = .next { s with dev := (p.enter 1).settle }) ∧
      (w.fieldOf 3 0 = 3 → exec (.offReady w) s = .next { s with dev := (p.enter 3).settle }) ∧
      (w.fieldOf 3 0 = 4 → exec (.offReadyForce w) s = .next { s with dev := (p.cmdResetGo.enter 4).settle }) ∧
      (w.fieldOf 3 0 = 5 → exec (.gateWest w) s = .next { s with dev :=
        (((p.passRoles 2 (p.eastPair 1)).passRoles 3 ((p.passRoles 2 (p.eastPair 1)).eastPair 0)).modPower fun x => { x with west := .gating }).settle }) ∧
      (w.fieldOf 3 0 = 6 → exec (.ungateWest w) s = .next { s with dev := (p.modPower fun x => { x with west := .ungating }).settle })) ∧
    (s.dev.live = true → s.dev.power.device = .sleep → w.fieldOf 3 0 = 2 → (∀ port host, w.src = .bar port host → s.dev.portUp port = true) →
      d.takes w = true → pwrCtrlOk (d.after w) 2 = true → p.refuser 2 = none →
      exec (.wake w) s = .next { s with dev := ({ p with power := { p.power with exiting := true } } : Dev).settle })) ∧
  (∀ (s : State) (w : RegWrite) (code i : Nat), w.reg = 0xA000 →
    let d := s.dev.accessed w.src
    let p := d.plainWrite w
    s.writes w → pwrCtrlOk (d.after w) (w.fieldOf 3 0) = true → w.fieldOf 3 0 = 1 → p.refuser 1 = some (code, i) →
      exec (.sleep w) s = .next { s with dev := (p.count 0xA018 1).setReg 0xA020 (BitVec.ofNat 64 (1 * 2 ^ 32 + code * 2 ^ 24 + i % 2 ^ 16)) })

/-- The phases of entry and exit, and of the west wing (R453, R457, R458, R460, R461).
The power of single units: CXL L1 (R452), galleries (R451), links and channels through PWR_UNIT (R268, R452), and
the pace (R37, R462). -/
def Obligations.PowerCommandsComplete : Prop :=
  (∀ (s : State) (t : Nat), s.dev.live = true →
    (s.dev.power.phase = .drain → (∀ m ∈ s.dev.media, m.onMedia = false) → s.dev.slotsWhere (fun _ x => x.state == .running) = [] →
      exec .sleepDrainDone s = .next { s with dev := { s.dev with power := { s.dev.power with phase := .park } } }) ∧
    (s.dev.power.phase = .park → ∃ d, exec .sleepParkDone s = .next { s with dev := d } ∧ d.power.phase = .commit ∧ d.power.vddMv = 600 ∧
      d.power.vid = 0 ∧ (∀ g ∈ d.galleries, g.power ≠ .on) ∧ d.mem = s.dev.mem ∧ d.ctxs = s.dev.ctxs) ∧
    (s.dev.power.phase = .commit → s.dev.power.request = 1 →
      exec .entryCommitDone s = .next { s with dev := { s.dev with power := { s.dev.power with
        device := .sleep, phase := .none, request := 0, exiting := s.dev.power.heldWake.isSome, heldWake := none } } }) ∧
    (s.dev.power.phase = .commit → s.dev.power.request ≠ 1 →
      exec .entryCommitDone s = .next { s with dev := { s.dev with
        power := { s.dev.power with device := .offReady, phase := .none, request := 0, heldWake := none, waiting := [] }
        pins := { s.dev.pins with liveOut := false } } }) ∧
    (s.dev.power.device = .sleep → 0 < s.dev.power.wakeTime → s.dev.power.wakeTime ≤ max s.dev.now t →
      exec (.wakeTimer t) s = .next { s with dev := { s.dev.atTime t with power := { s.dev.power with exiting := true } } }) ∧
    (s.dev.power.device = .sleep → s.dev.power.exiting = true →
      exec .wakeExitDone s = .next { s with dev := s.dev.power.waiting.foldl (fun (d : Dev) i => serveWaiting i d) s.dev.exitSleep }) ∧
    (s.dev.power.west = .gating → exec .gateWestDone s = .next { s with dev := { s.dev with
      power := { s.dev.power with west := .gated }
      galleries := s.dev.galleries.map fun (g : Gallery) =>
        if g.logical.any fun n => decide (westGallery s.dev.acc.reported ≤ n) then g.turnOff else g
      channels := s.dev.channels.map fun (c : OnfiChannel) => if 16 ≤ c.index then { c with off := true, mpe := false, draining := false } else c } }) ∧
    (s.dev.power.west = .ungating → (∀ p ∈ s.dev.pairs, p.works = true) → (∀ l ∈ [4, 5, 6, 7],
        ({ s.dev with
            power := { s.dev.power with west := .on }
            pairs := s.dev.pairs.map fun (p : Pair) => { p with roles := [p.index] }
            channels := s.dev.channels.map fun (c : OnfiChannel) =>
              if 16 ≤ c.index && c.unit != .disabled then { c with mpe := !bit (s.dev.field 0xA040 31 0) c.index } else c } : Dev).linkWorks l = false) →
      exec .ungateDone s = .next { s with dev :=
        (({ s.dev with
            power := { s.dev.power with west := .on }
            pairs := s.dev.pairs.map fun (p : Pair) => { p with roles := [p.index] }
            channels := s.dev.channels.map fun (c : OnfiChannel) =>
              if 16 ≤ c.index && c.unit != .disabled then { c with mpe := !bit (s.dev.field 0xA040 31 0) c.index } else c } : Dev).powerGalleries).checkFull.settle })) ∧
  (∀ (s : State) (w : RegWrite) (port channel gallery dom t pace tj watts : Nat),
    (s.dev.live = true → exec (.l1Entry port) s = .next { s with dev := { s.dev with
      ports := modifyAll (fun p => p.index == port && p.perstReleased && p.link == .l0) (fun p => { p with link := .l1 }) s.dev.ports } }) ∧
    (s.dev.live = true → s.dev.awake = true → (s.dev.ports.any fun p => p.index == port && p.perstReleased && p.link == .l1) = true →
      exec (.l1Exit port) s = .next { s with dev := { s.dev with
        ports := modifyAll (fun p => p.index == port && p.link == .l1) (fun p => { p with link := .l0 }) s.dev.ports } }) ∧
    (s.dev.live = true → (s.dev.channels.any fun c => c.index == channel && c.draining) = true →
      (∀ m ∈ s.dev.media, m.channel ≠ channel) →
      exec (.onfiOffDrained channel) s = .next { s with dev := s.dev.modChannel channel fun c => { c with draining := false, off := true, mpe := false } }) ∧
    (s.dev.live = true → s.dev.galleryDomain gallery = some dom → s.dev.field (pageOff dom 0x240) 0 0 = 1 → s.dev.stepReady dom gallery = false →
      exec (.galleryRetain gallery t) s = .next { s with dev := { s.dev.atTime t with
        galleries := s.dev.galleries.map fun (g : Gallery) =>
          if g.logical == some gallery && g.power == .on && decide (g.lastStep + s.dev.field (pageOff dom 0x240) 31 16 * 1000 ≤ max s.dev.now t)
          then { g with power := .retain } else g } }) ∧
    (s.dev.live = true → s.dev.power.device = .active → s.dev.acc.state = .availableFull → s.dev.power.throttled = false →
      let cur := if s.dev.power.vddMv < 600 then 750 else s.dev.power.vddMv
      let holds := decide (watts ≤ s.dev.field 0xA010 11 0) && decide (tj ≤ 105)
      let want := (s.dev.atTime t).pickVdd cur holds
      exec (.paceUpdate t pace tj watts) s = .next { s with dev :=
        ((s.dev.atTime t).setVdd (if want < cur then max want (cur - 100) else min want (cur + 100))).modPower fun p =>
          { p with pacePs := pace % 2 ^ 14, tjC := tj % 256, throttled := !holds && cur == 700, throttleStart := max s.dev.now t } }) ∧
    (s.writes w → w.reg = 0xA040 → let d := s.dev.accessed w.src
      (d.unitBits w 39 32 true = true → exec (.linkQuiet w) s = .next { s with dev := d.pwrUnit w }) ∧
      (d.unitBits w 31 0 true = true → exec (.onfiChannelOff w) s = .next { s with dev := d.pwrUnit w }) ∧
      (d.unitBits w 31 0 false = true → exec (.onfiChannelOn w) s = .next { s with dev := d.pwrUnit w }) ∧
      (∀ l, l < 8 → d.coll.state = .standalone → (d.link? l).any (fun x => x.state == .up) = true →
        d.quietLink l = (d.emit (.control l 7 0)).modLink l fun x => { x with state := .quiet, ts1 := 0, ts2 := 0 }) ∧
      ∀ c, d.drainChannel c = { d.modChannel c (fun x => if x.off then x else { x with draining := true }) with
        media := modifyAll (fun (m : MediaOp) => m.channel == c) (fun (m : MediaOp) => { m with suspended := false }) d.media }))

/-! ### Pins, the Docent bus, the report -/

/-- LIVE_IN (R479): an edge clears LIVE_IN_QUIET; 10 µs(L) without one set it. -/
def Obligations.LiveInCommandsComplete : Prop :=
  ∀ (s : State) (t : Nat), s.dev.live = true →
    exec (.liveInEdge t) s = .next { s with dev := { s.dev.atTime t with
      pins := { s.dev.pins with liveIn := !s.dev.pins.liveIn, liveInQuiet := false, liveInEdge := max s.dev.now t } } } ∧
    (10000 + s.dev.pins.liveInEdge ≤ max s.dev.now t →
      exec (.liveInQuiet t) s = .next { s with dev := { s.dev.atTime t with pins := { s.dev.pins with liveInQuiet := true } } })

/-- A register pair over the Docent bus (R485): a low-half write is latched and answered OK; the high-half write of the
same register then applies both halves as one write; with nothing latched it is answered BAD_OP and changes nothing; any
other frame addressed to the device drops the latch; a frame whose check fails is counted and not answered (R483), one
for another address ignored (R484). -/
def Obligations.DocentWritesArriveAsPairs : Prop :=
  ∀ (s : State) (b : List Byte), s.dev.live = true → s.dev.awake = true → s.dev.acc.state = .availableFull → frameOk b = true →
    beField b 0 1 = s.dev.docent.address → b.length = 10 → frameOp b = 2 → docentVisible (frameOffset b) = true →
    let reg := frameOffset b / 8 * 8
    let data : W32 := BitVec.ofNat 32 (beField b 4 4)
    let bare : Dev := { s.dev with docent := { s.dev.docent with writeLatch := none, responding := false } }
    (frameOffset b % 8 = 0 → exec (.docentWrite b) s = .next { s with dev :=
      ({ s.dev with docent := { s.dev.docent with writeLatch := some (reg, data), responding := false } } : Dev).respondWrite 0 }) ∧
    (∀ low, frameOffset b % 8 = 4 → s.dev.docent.writeLatch = some (reg, low) → exec (.docentWrite b) s = .next { s with dev :=
      (bare.docentApply { src := .docent, offset := reg, size := 8, value := BitVec.ofNat 64 (data.toNat * 2 ^ 32 + low.toNat) }).respondWrite 0 }) ∧
    (frameOffset b % 8 = 4 → s.dev.docent.writeLatch = none → exec (.docentWrite b) s = .next { s with dev := bare.respondWrite 1 })

/-- Docent reads answer with the register's half, the low half latching the high one and clearing RC bits (R421, R483);
an abandoned response is counted (R486).
The Onaid report and the identity certificate are answered over a port in service while the device signs, with no
data object otherwise (R445, R446). -/
def Obligations.DocentReadsAndIdentityComplete : Prop :=
  (∀ (s : State) (b : List Byte),
    (s.dev.live = true → s.dev.awake = true → s.dev.acc.state = .availableFull → frameOk b = true →
      beField b 0 1 = s.dev.docent.address → b.length = 6 → frameOp b = 1 → docentVisible (frameOffset b) = true →
      exec (.docentRead b) s = .next { s with dev := ((s.dev.newFrame.dropLatch.docentWord (frameOffset b)).2).respondRead 0 (s.dev.newFrame.dropLatch.docentWord (frameOffset b)).1 }) ∧
    (s.dev.acc.powered = true → frameOk b = false → exec (.docentRead b) s = .next { s with dev := s.dev.newFrame.docentError } ∧
      exec (.docentWrite b) s = .next { s with dev := s.dev.newFrame.docentError }) ∧
    (s.dev.acc.powered = true → frameOk b = true → beField b 0 1 ≠ s.dev.docent.address →
      exec (.docentRead b) s = .next { s with dev := s.dev.newFrame } ∧ exec (.docentWrite b) s = .next { s with dev := s.dev.newFrame }) ∧
    (s.dev.docent.responding = true → exec .docentResponseAbandon s = .next { s with dev :=
      ({ s.dev with docent := { s.dev.docent with responding := false } } : Dev).docentError })) ∧
  (∀ (s : State) (port : Nat) (nonce : List Byte), s.dev.serves port = true →
    let d := s.dev.reached (.onaidReport port nonce) port
    (d.signs = true →
      exec (.onaidReport port nonce) s = .next { s with dev := { d with out := d.out ++ [.mailbox port (d.onaidReport nonce)] } } ∧
      exec (.identityCertificate port) s = .next { s with dev := { d with out := d.out ++
        [.mailbox port (fitTo Config.identityKey 2592 ++ natLe d.fuses.serial.toNat 8 ++ fitTo Config.certificateSignature 4627)] } }) ∧
    (d.signs = false →
      exec (.onaidReport port nonce) s = .next { s with dev := { d with out := d.out ++ [.mailbox port []] } } ∧
      exec (.identityCertificate port) s = .next { s with dev := { d with out := d.out ++ [.mailbox port []] } }))

/-! ### Registers -/

/-- A register write that is heard and taken is applied whole by the register's own rule (R15, R492), and each row that
names one register, GO bit or operation applies that rule: COLL_CFG (R381), TIER_CTRL (R255), MEDIA_GOV (R270), the
telemetry selectors (R327), FAULT_CTRL (R417). -/
def Obligations.RegisterWritesComplete : Prop :=
  ∀ (s : State) (w : RegWrite), s.writes w →
    let d := s.dev.accessed w.src
    ((w.reg ≠ 0x1010 ∨ w.src = .docent ∨ w.sets 0 = false) →
      exec (.registerWrite w) s = .next { s with dev := d.applyWrite w }) ∧
    (w.reg = 0x7000 ∨ w.reg = 0x7018 → exec (.collCfgWrite w) s = .next { s with dev := d.applyWrite w }) ∧
    (w.reg = 0x4000 → exec (.mediaGovWrite w) s = .next { s with dev := d.applyWrite w }) ∧
    (w.reg = 0x5088 → exec (.telemSelWrite w) s = .next { s with dev := d.applyWrite w }) ∧
    (∀ dom, dom < 256 → w.reg = pageOff dom 0x140 → exec (.telemSelWrite w) s = .next { s with dev := d.applyWrite w }) ∧
    (∀ dom, dom < 256 → w.reg = pageOff dom 0x100 → exec (.tierCtrlWrite w) s = .next { s with dev := d.applyWrite w }) ∧
    (∀ a, areaAt w.reg = some a → w.reg = areaBase a + 8 → d.field w.reg 0 0 = 0 → (d.after w).toNat % 2 = 1 →
      exec (.faultEnable w) s = .next { s with dev := d.faultCtrl a w })

/-- A write reaches no bit outside its 4-byte half and no RO, RC or reserved bit; an RW bit it reaches takes the value
presented; a W1C bit it reaches with a 1 is cleared and with a 0 kept (R15, R492). -/
def Obligations.WriteReachesOnlyItsBits : Prop :=
  ∀ (r : RegDesc) (old : W64) (w : RegWrite) (i : Nat), i < 64 → r.rw &&& r.w1c = 0 →
    ((laneMask w.offset w.size).getLsbD i = false → (written r old w).getLsbD i = old.getLsbD i) ∧
    (r.rw.testBit i = false → r.w1c.testBit i = false → (written r old w).getLsbD i = old.getLsbD i) ∧
    ((laneMask w.offset w.size).getLsbD i = true → r.rw.testBit i = true → (written r old w).getLsbD i = w.wide.getLsbD i) ∧
    ((laneMask w.offset w.size).getLsbD i = true → r.w1c.testBit i = true →
      (written r old w).getLsbD i = (old.getLsbD i && !w.wide.getLsbD i))

/-- A BAR0 access that the host identity may not make changes no register but the port's REFUSED count (R494), and a
misaligned one or one in BOOTING none at all (R491); reads are answered with no data. -/
def Obligations.RefusedAccessOnlyCounts : Prop :=
  ∀ (s : State) (port host offset size : Nat) (v : W64), s.dev.serves port = true →
    let w : RegWrite := { src := .bar port host, offset := offset, size := size, value := v }
    let a : RegRead := { src := .bar port host, offset := offset, size := size }
    let d := s.dev.toL0 port
    (wellAligned offset size = false ∨ d.acc.state = .booting →
      exec (.registerWrite w) s = .next { s with dev := d } ∧
      exec (.counterReadClear a) s = .next { s with dev := d.emit (.regData port none) }) ∧
    (wellAligned offset size = true → d.acc.state ≠ .booting → d.reaches0 host w.reg = false →
      exec (.registerWrite w) s = .next { s with dev := d.count (portOff port 0x210) 1 } ∧
      exec (.counterReadClear a) s = .next { s with dev := (d.count (portOff port 0x210) 1).emit (.regData port none) })

/-- A read over a port answers with the register's 8 bytes, clearing its RC bits, or with one half (R421).
A statistics counter adds its events, saturates at all ones and then shows OVERFLOW; a whole read clears COUNT and
keeps OVERFLOW (R419, R421). -/
def Obligations.CountersSaturateAndClear : Prop :=
  (∀ (s : State) (port host offset dom : Nat), s.dev.serves port = true →
    let d := s.dev.toL0 port
    ((∃ dm, blockOf (offset / 8 * 8) = .page dm ∧ dom = dm) ∨ ((∀ dm, blockOf (offset / 8 * 8) ≠ .page dm) ∧ dom = 256)) →
    d.acc.state ≠ .booting → d.reaches0 host (offset / 8 * 8) = true → offset < 0x40_0000 →
    (offset % 8 = 0 →
      exec (.counterReadClear { src := .bar port host, offset := offset, size := 8 }) s = .next { s with dev :=
        ((d.readClear offset).toPort port dom false 8 none (.regData port (some (d.view offset)))) } ∧
      exec (.counterReadClear { src := .bar port host, offset := offset, size := 4 }) s = .next { s with dev :=
        (d.toPort port dom false 4 none (.regData port (some (d.view offset &&& BitVec.ofNat 64 (mask 31 0))))) }) ∧
    (offset % 8 = 4 →
      exec (.counterReadClear { src := .bar port host, offset := offset, size := 4 }) s = .next { s with dev :=
        (d.toPort port dom false 4 none (.regData port (some (d.view (offset / 8 * 8) >>> 32)))) })) ∧
  (∀ (v : W64) (n : Nat),
    (v.toNat % 2 ^ 63 + n < 2 ^ 63 - 1 → v.toNat < 2 ^ 63 → (bumpCounter v n).toNat = v.toNat + n) ∧
    (2 ^ 63 - 1 ≤ v.toNat % 2 ^ 63 + n → bumpCounter v n = BitVec.allOnes 64) ∧
    (2 ^ 63 ≤ v.toNat → 2 ^ 63 ≤ (bumpCounter v n).toNat) ∧
    RegDesc.counter.rc = 2 ^ 63 - 1)

/-! ### Contexts, slots and completion -/

/-- OPEN, CLOSE and REHOME of a context with their results (R68, R69): OPEN makes the context that CTX_ARG describes;
CLOSE removes one whose slots hold nothing; REHOME gives it the port and vector of CTX_ARG.
A context operation that cannot be done only writes its result code (R69): OPEN at the domain's ceiling, with a
slot count outside 1 to 64 or a port that is down; CLOSE and REHOME of a context that the domain does not have; CLOSE of
one that holds a command. -/
def Obligations.ContextCommandsComplete : Prop :=
  (∀ (s : State) (w : RegWrite) (dom n : Nat) (c : Context), s.writes w → dom < 256 → w.reg = pageOff dom 0x48 → w.offset % 8 = 0 →
    let d := s.dev.accessed w.src
    (w.fieldOf 3 0 = 1 → ∀ x, d.domainRec dom = some x → (d.ctxs.filter fun y => y.domain == dom && !y.isGuest).length < x.ctxCeiling →
      1 ≤ d.ctxArg dom 16 10 → d.ctxArg dom 16 10 ≤ 64 → d.portUp (d.ctxArg dom 19 18) = true →
      ∃ num, exec (.ctxOpen w) s = .next { s with dev := ({ d with
          draws := d.draws + 1
          ctxs := d.ctxs ++ [{ num := num, domain := dom, usable := d.ctxArg dom 16 10, homePort := d.ctxArg dom 19 18,
                               msixEn := d.ctxArg dom 20 20 == 1, vector := d.ctxArg dom 31 21,
                               high := BitVec.ofNat 32 (d.ctxArg dom 63 32) - 1, window := [],
                               slots := List.replicate (d.ctxArg dom 16 10) Slot.fresh, fails := [], lastClose := 0,
                               running := List.replicate 8 { poly := 0, reg := 0, count := 0 }, runningAlloc := false, session := none }] } : Dev).ctxResult dom 0 num } ∧
        (d.ctxs.length < 65536 → (d.ctxs.any (·.num == num)) = false ∧ num < 65536)) ∧
    (w.fieldOf 3 0 = 2 → n = w.fieldOf 31 16 → d.ctx? n = some c → c.domain = dom →
      (∀ x ∈ c.slots, x.state = .free ∨ x.state = .done) →
      let e := (List.range c.slots.length).foldl (fun (e : Dev) i => e.retake { ctx := n, slot := i }) (d.dropSession n)
      exec (.ctxClose w) s = .next { s with dev :=
        ((({ e with ctxs := e.ctxs.filter (fun x => x.num != n) } : Dev).settle).ctxResult dom 0 n) }) ∧
    (w.fieldOf 3 0 = 3 → n = w.fieldOf 31 16 → d.ctx? n = some c → c.domain = dom → d.portUp (d.ctxArg dom 19 18) = true →
      exec (.ctxRehome w) s = .next { s with dev := (d.modCtx n fun c => { c with
        homePort := d.ctxArg dom 19 18, vector := d.ctxArg dom 31 21, msixEn := d.ctxArg dom 20 20 == 1 }).ctxResult dom 0 n })) ∧
  (∀ (s : State) (w : RegWrite) (dom n : Nat) (x : DomainRec), s.writes w → dom < 256 → w.reg = pageOff dom 0x48 → w.offset % 8 = 0 →
    let d := s.dev.accessed w.src
    d.domainRec dom = some x → n = w.fieldOf 31 16 →
    (w.fieldOf 3 0 = 1 → x.ctxCeiling ≤ (d.ctxs.filter fun y => y.domain == dom && !y.isGuest).length →
      exec (.ctxOpen w) s = .next { s with dev := d.ctxResult dom 1 0 }) ∧
    (w.fieldOf 3 0 = 1 → (d.ctxs.filter fun y => y.domain == dom && !y.isGuest).length < x.ctxCeiling → d.ctxArg dom 16 10 = 0 ∨ 64 < d.ctxArg dom 16 10 →
      exec (.ctxOpen w) s = .next { s with dev := d.ctxResult dom 4 0 }) ∧
    (w.fieldOf 3 0 = 1 → (d.ctxs.filter fun y => y.domain == dom && !y.isGuest).length < x.ctxCeiling → 1 ≤ d.ctxArg dom 16 10 → d.ctxArg dom 16 10 ≤ 64 →
      d.portUp (d.ctxArg dom 19 18) = false → exec (.ctxOpen w) s = .next { s with dev := d.ctxResult dom 5 0 }) ∧
    (w.fieldOf 3 0 = 2 → (∀ c, d.ctx? n = some c → c.domain ≠ dom) → exec (.ctxClose w) s = .next { s with dev := d.ctxResult dom 2 n }) ∧
    (w.fieldOf 3 0 = 2 → (∃ c, d.ctx? n = some c ∧ c.domain = dom ∧ ∃ y ∈ c.slots, y.state = .waiting ∨ y.state = .running) →
      exec (.ctxClose w) s = .next { s with dev := d.ctxResult dom 3 n }) ∧
    (w.fieldOf 3 0 = 3 → (∀ c, d.ctx? n = some c → c.domain ≠ dom) → exec (.ctxRehome w) s = .next { s with dev := d.ctxResult dom 2 n }))

/-- ABORT and the reset of command state (R90 to R94): the commands of the scope are aborted and counted once none of
them is left and no ABORT inside the scope still runs; GO begins the reset, and its end sets DONE.
A line of 64 enabled bytes from an identity with the submit right, with a valid completion address and a new
sequence number, into a slot that holds no command, is accepted (R67, R73, R79); a read of the slot answers with its
line (R74); a miss is served by a pair that works, at its domain's turn (R26, R294). -/
def Obligations.SubmissionAndAbortComplete : Prop :=
  (∀ (s : State) (w : RegWrite) (r : SlotRef) (c : Context) (x : Slot) (k : Cmd),
    (s.writes w → w.reg = 0x3000 → w.sets 0 = true → exec (.cmdReset w) s = .next { s with dev := (s.dev.accessed w.src).cmdResetGo }) ∧
    (s.dev.live = true → s.dev.resetActive = true → (s.dev.load.phase = .idle ∨ ∀ i, s.dev.load.next = some i → i.partialLoad = true) →
      (s.dev.slotsWhere fun y z => !y.isGuest && z.state == .running && z.cmd.any fun k => cmdVerb k != some .abort) = [] →
      exec .cmdResetDone s = .next { s with dev :=
        ((({ s.dev with resetActive := false } : Dev).setField 0x3008 1 1 0).setField 0x3008 0 0 1).settle }) ∧
    (s.dev.live = true → s.dev.ctx? r.ctx = some c → s.dev.slot? r = some x → x.cmd = some k → x.state = .running →
      cmdVerb k = some .abort → k.started = true → (∀ v ∈ k.waits, s.dev.cmd? v = none) → s.dev.innerAbort c k = false →
      let n := (k.waits.filter s.dev.wasAborted).length
      exec (.abort r) s = .next { s with dev :=
        (s.dev.complete r .ok (k.w0 + BitVec.ofNat 64 n) (k.w1 + BitVec.ofNat 64 (k.waits.length - n)) 0).settle }) ∧
    (s.dev.live = true → s.dev.ctx? r.ctx = some c → s.dev.slot? r = some x → x.cmd = some k → x.state = .running →
      cmdVerb k = some .abort → k.started = false → fieldAt k.line 16 1 = 3 →
      let rs := s.dev.abortScope fun y i => abortCovers c k y i
      let d := (s.dev.modCmd r fun k => { k with started := true, waits := rs }).abortAll rs
      (∃ j, d.cmd? r = some j ∧ ∃ v ∈ j.waits, d.cmd? v ≠ none) →
      exec (.abort r) s = .next { s with dev := d.settle })) ∧
  (∀ (s : State) (w : LineWrite) (c : Context) (x : Slot) (r : SlotRef),
    (s.dev.serves w.port = true → let d := s.dev.reached (.submissionLine w) w.port
      d.admits = true → w.offset < 0x1000_0000 → d.knows w.host = true →
      d.ctx? (w.offset / 0x1000) = some c → bit (d.rightsOf w.host c.domain) 0 = true → w.enables = BitVec.allOnes 64 →
      w.offset % 0x1000 / 0x40 < c.usable → c.slots[w.offset % 0x1000 / 0x40]? = some x → (x.state = .free ∨ x.state = .done) →
      complOk (lineCompl w.data) = true → c.classify (lineSeq w.data) = .fresh →
      exec (.submissionLine w) s = .next { s with dev := d.acceptLine w c (w.offset % 0x1000 / 0x40) }) ∧
    (s.dev.serves w.port = true → let d := s.dev.reached (.slotRead w.port w.host w.offset) w.port
      d.admits = true → w.offset < 0x1000_0000 → d.knows w.host = true →
      d.ctx? (w.offset / 0x1000) = some c → d.portFull w.port c.domain = false →
      exec (.slotRead w.port w.host w.offset) s = .next { s with dev := d.toPort w.port c.domain false 64 none (.slotLine w.port
        (if bit (d.rightsOf w.host c.domain) 0 then d.slotLine c (w.offset % 0x1000 / 0x40) else List.replicate 64 0)) }) ∧
    (s.dev.live = true → s.dev.slot? r = some x → x.state = .waiting → x.reason = .miss → 0 < s.dev.workingPairs →
      let west := x.cmd.any fun k => westPort k.port
      let dom := s.dev.domainOf r
      nextAfter (if west then s.dev.missTurn.2 else s.dev.missTurn.1) (s.dev.missDomains west) = some dom →
      exec (.xlateMissServed r) s = .next { s with dev :=
        ((({ s.dev with missTurn := if west then (s.dev.missTurn.1, dom) else (dom, s.dev.missTurn.2) } : Dev).countPage dom 0x120 1).decode r true).settle }))

/-- A line aimed at a slot number at or above SLOTS completes with BAD_OPERAND at its completion address, or with a fault
record where that is no address or the home port is down; no slot, window or sequence number changes (R77). -/
def Obligations.SlotAboveSlotsIsRefused : Prop :=
  ∀ (s : State) (w : LineWrite) (c : Context), s.dev.serves w.port = true →
    let d := s.dev.reached (.submissionLine w) w.port
    d.admits = true → w.offset < 0x1000_0000 → d.knows w.host = true →
    d.ctx? (w.offset / 0x1000) = some c → bit (d.rightsOf w.host c.domain) 0 = true → w.enables = BitVec.allOnes 64 →
    c.usable ≤ w.offset % 0x1000 / 0x40 →
    let rc : Record := { seq := lineSeq w.data, status := .badOperand, replayed := false, degraded := false, steps := 0, w0 := 0, w1 := 0, w2 := 0 }
    let answered := d.postRecord c (lineCompl w.data) (lineVerb w.data) (lineNotify w.data) false rc { ctx := c.num, slot := w.offset % 0x1000 / 0x40 }
    let reported := d.submitFault c (w.offset % 0x1000 / 0x40) w.data .badOperand
    (complOk (lineCompl w.data) = true → d.portUp c.homePort = true → exec (.submissionLine w) s = .next { s with dev := answered }) ∧
    (complOk (lineCompl w.data) = false ∨ d.portUp c.homePort = false → exec (.submissionLine w) s = .next { s with dev := reported }) ∧
    answered.ctxs = s.dev.ctxs ∧ answered.mem = s.dev.mem ∧ answered.order = s.dev.order ∧
    reported.ctxs = s.dev.ctxs ∧ reported.mem = s.dev.mem ∧ reported.order = s.dev.order

/-- Of two different sequence numbers that do not lie half the range apart exactly one is newer; at half the range
neither is (R79, R420). -/
def Obligations.NewerIsAsymmetric : Prop :=
  ∀ (w : Nat) (a b : BitVec w), 0 < w →
    (newer a b = true → newer b a = false) ∧
    (a ≠ b → newer a b = false → newer b a = false → a - b = BitVec.ofNat w (2 ^ (w - 1))) ∧
    newer a a = false

/-- A sequence number that a context has accepted is never again classed as new while fewer than 2 to the 31 minus 127
numbers have passed: no series of accepted lines makes a command run twice (R79, R80). -/
def Obligations.AcceptedCommandNeverRunsTwice : Prop :=
  ∀ (c e : Context) (q : W32) (qs : List W32), c.classify q = .fresh →
    (c.accept q).acceptAll qs = some e → (c.accept q).advance qs < 2 ^ 31 - 127 → e.classify q ≠ .fresh

/-- An issued step of a running command retires when nothing holds it: its extents enter the extent cache, its effects are applied, it
leaves the plan and is counted, its result words are added, and the command is concluded where that was its last (R33, R84). Any issued
step on its engine may retire that no earlier step of its command must precede; the oldest always may. A SEARCH has rounds of its own
(IndexVerbsComplete). -/
def Obligations.StepRetireCompletes : Prop :=
  (∀ (s : State) (r : SlotRef) (c : Context) (k : Cmd) (st : Step) (i : Nat), s.dev.live = true →
    s.dev.ctx? r.ctx = some c → s.dev.cmd? r = some k → k.plan[i]? = some st → k.mayRetire i st = true →
    let d := s.dev
    let found := d.found r k st
    let reads := st.reads ++ found.reads
    let writes := st.written ++ found.writes
    d.badEntries k st = [] → d.repairsIn (reads ++ writes) = [] → st.cold = [] → d.coldGranules { st with reads := reads } = [] →
    d.needFault c.domain found.needs = none → d.offerHold r k st = none → d.streamHold r k st = none → rankHold d k st = none →
    d.missing k reads = [] → st.exportRead? = none → d.badWords st = false → d.rowHold r k st = none → d.vitConflicts reads writes = [] →
    d.listHeld r k st = false → d.releaseHeld st = false → d.hasRoom c k st = true → st.flash = [] → k.search = none →
    ∀ e : Dev, ((d.xcFill (westPort k.port) c.domain found.needs).fabTouch k reads).atomicTurn c.domain st = some e →
      (d.atomicTurn c.domain st).isSome = true →
      exec (.stepRetire r i []) s = .next { s with dev :=
        ((((((e.applyStep r c st).modCmd r fun k => { k.without i found.reads with
            retired := if st.extra then k.retired else k.retired + 1, w0 := k.w0 + BitVec.ofNat 64 st.w0
            w1 := k.w1 + BitVec.ofNat 64 st.w1, w2 := k.w2 + BitVec.ofNat 64 st.w2 }).touch
          ((reads.filter fun x => d.isLocal x.sa).flatMap granulesOf)).unbindIdle r st).conclude r).dropReady).settle }) ∧
  (∀ (k : Cmd) (st : Step), 0 < k.issued → (st.kind.shared = true ∨ st.engine.isSome = true) → st.parked = false → k.mayRetire 0 st = true)

/-- A step that only writes to this member's store, on whatever engine, outside a coded collection, changes no byte outside its writes
(R110), and leaves every context, register and egress queue as it was. -/
def Obligations.StepWritesOnlyItsBytes : Prop :=
  ∀ (d : Dev) (r : SlotRef) (c : Context) (ws : List MemWrite) (kind : EngineKind) (engine : Option Nat) (a : Nat), d.coded = false →
    (∀ w ∈ ws, d.isLocal w.sa = true) →
    let e := d.applyStep r c { Step.nop with kind := kind, engine := engine, writes := ws }
    ((∀ w ∈ ws, a < w.sa ∨ w.sa + w.bytes.length ≤ a) → memGet e.mem a = memGet d.mem a) ∧
    e.ctxs = d.ctxs ∧ e.regs = d.regs ∧ e.points = d.points ∧ e.extents = d.extents ∧ e.out = d.out ∧ (∀ x ∈ e.poison, x ∈ d.poison)

/-! ### Steps and verbs -/

/-- A ready command that begins with a plan becomes started with that plan and its first words, and no step issued yet; nothing else
changes but what settles of itself.
What is issued next is a step of a started command that is among its first eight (R33), on no engine where its kind needs none, and else on
one engine of its kind that works and that no step in flight occupies; a step on a gallery's engine brings it out of RETAIN (R451), and
taking an engine changes the galleries alone. -/
def Obligations.BegunCommandIssuesSteps : Prop :=
  (∀ (d : Dev) (r : SlotRef) (k : Cmd) (plan : List Step) (w0 w1 w2 : W64), d.cmd? r = some k → k.cut = none → k.lost = none → plan ≠ [] →
    d.begin r plan w0 w1 w2 = (d.modCmd r fun k => { k with started := true, plan := plan, issued := 0, w0 := w0, w1 := w1, w2 := w2 }).settle) ∧
  (∀ (d e : Dev) (x : Ready) (u : Option Nat), d.nextIssue = some (x, u, e) →
    x ∈ d.readySteps ∧ x.k.started = true ∧ x.k.plan[x.at_]? = some x.step ∧ (x.k.issued ≤ x.at_ → x.at_ < 8 ∧ x.at_ = x.k.issued) ∧
    ((x.step.kind.shared = true ∧ u = none) ∨
      ∃ i, u = some i ∧ d.unitWorks x.step.kind i = true ∧ ∀ y ∈ d.inFlight, y.occupies x.step.kind i = false)) ∧
  (∀ (d : Dev) (kind : EngineKind) (i g : Nat), engineGallery kind (some i) = some g →
    (∀ y ∈ (d.engage kind (some i)).galleries, y.logical = some g → y.power = .on ∨ y.power = .off) ∧
    ∃ n gs, d.engage kind (some i) = { d with draws := n, galleries := gs })

/-- FILL plans one write for each span of its range (R99); COPY plans its moves, or is refused where the ranges overlap
(R100); REDUCE writes nothing under SCALAR, and else its steps cover the elements in order and count them (R102); ATOMIC plans its one
operation at the target (R104 to R106) and ATOMIC_BATCH steps of at most 256 entries in order (R107, R109). -/
def Obligations.MemoryVerbsComplete : Prop :=
  (∀ (s : State) (r : SlotRef) (c : Context) (k : Cmd),
    let n := fieldAt k.line 32 8
    let src := k.spans c.domain (fieldAt k.line 16 8) n
    let dst := k.spans c.domain (fieldAt k.line 24 8) n
    (s.runs r .fill c k → ∃ plan : List Step, exec (.fill r) s = .next { s with dev := s.dev.begin r plan 0 0 0 } ∧
      plan.map (fun st => st.writes.map fun w => ({ sa := w.sa, len := st.w0 } : Span)) =
        (k.spans c.domain (fieldAt k.line 16 8) (fieldAt k.line 24 8)).map (fun x => [x]) ∧
      ∀ st ∈ plan, st.reads = [] ∧ st.poisons = [] ∧ st.host = [] ∧ st.effects = [] ∧ st.raises = none) ∧
    (s.runs r .copy c k → (∀ a ∈ src, ∀ b ∈ dst, overlap a.sa a.len b.sa b.len = false) →
      exec (.copy r) s = .next { s with dev := s.dev.begin r (moveSteps src dst) 0 0 0 }) ∧
    (s.runs r .copy c k → (∃ a ∈ src, ∃ b ∈ dst, overlap a.sa a.len b.sa b.len = true) →
      exec (.copy r) s = .next { s with dev := s.dev.reject r .badOperand }) ∧
    (s.runs r .reduce c k →
      ∃ plan : List Step, exec (.reduce r) s = .next { s with dev := s.dev.begin r plan 0 0 0 } ∧ (∀ st ∈ plan, st.kind = .pe ∧ st.writes = []) ∧
        (lineFlags k.line = 1 → plan.flatMap (·.effects) = [.reduceAll] ∧ ∀ st ∈ plan, st.outs = []) ∧
        (lineFlags k.line ≠ 1 → plan.flatMap (·.effects) =
          (pieces (fieldAt k.line 32 4) (reduceOps k.line).perStep).map fun p => Effect.reduce p.1 p.2)) ∧
    (s.runs r .atomic c k → ∀ sa, saOf k.caps c.domain (fieldAt k.line 16 8) = some sa →
      exec (.atomic r) s = .next { s with dev := (s.dev.begin r
        [{ Step.nop with
          kind := .atomic
          effects := [.atomic sa (fieldAt k.line 41 1) (fieldAt k.line 40 1) (BitVec.ofNat 64 (fieldAt k.line 24 8))
            (BitVec.ofNat 64 (fieldAt k.line 32 8)) (lineFlags k.line == 1)]
          outs := [{ sa := sa, len := fieldAt k.line 41 1 }] }] 0 0 0) }) ∧
    (s.runs r .atomicBatch c k →
      ∃ plan : List Step, exec (.atomicBatch r) s = .next { s with dev := s.dev.begin r plan 0 0 (BitVec.allOnes 64) } ∧
        plan.length = ceilDiv (fieldAt k.line 24 4) 256 ∧ (∀ st ∈ plan, st.writes = [] ∧ st.kind = .atomic) ∧
        plan.flatMap (·.effects) = (pieces (fieldAt k.line 24 4) 256).map (fun p => Effect.entries p.1 p.2) ∧
        ∀ p ∈ pieces (fieldAt k.line 24 4) 256, p.2 ≤ 256)) ∧
  (∀ (d : Dev) (r : SlotRef) (k : Cmd) (pe : Option Nat) (lo n : Nat), d.cmd? r = some k →
    ∃ j, (d.reduceAt r pe lo n).cmd? r = some j ∧ j.w0 = k.w0 + BitVec.ofNat 64 n)

/-- What FILL writes (R99): one write for each span of its range, as long as the span, in which byte i is byte i mod w of
the pattern, w its width; word 0 counts the bytes. -/
def Obligations.FillWritesPattern : Prop :=
  ∀ (s : State) (r : SlotRef) (c : Context) (k : Cmd), s.runs r .fill c k → k.line.length = 64 → 0 < fieldAt k.line 40 1 →
    fieldAt k.line 40 1 ≤ 8 →
    ∃ plan : List Step, exec (.fill r) s = .next { s with dev := s.dev.begin r plan 0 0 0 } ∧
      plan.map (fun st => st.writes.map MemWrite.sa) = (k.spans c.domain (fieldAt k.line 16 8) (fieldAt k.line 24 8)).map (fun x => [x.sa]) ∧
      plan.map (·.w0) = (k.spans c.domain (fieldAt k.line 16 8) (fieldAt k.line 24 8)).map (·.len) ∧
      ∀ st ∈ plan, ∃ w, st.writes = [w] ∧ w.bytes.length = st.w0 ∧
        ∀ i < w.bytes.length, at! w.bytes i 0 = at! k.line (32 + i % fieldAt k.line 40 1) 0

/-- COMPARE plans one step for each 32 KiB of its ranges, which write nothing and raise nothing, with all ones in word 0 (R101, R103). Its
steps, in whatever order they retire, leave the lowest differing position of ranges without poison in word 0, and, without FIRST_ONLY, the
number of differing positions in word 1 (R101). -/
def Obligations.CompareFindsDifferences : Prop :=
  (∀ (s : State) (r : SlotRef) (c : Context) (k : Cmd), s.runs r .compare c k →
    ∃ plan : List Step, exec (.compare r) s = .next { s with dev := s.dev.begin r plan (BitVec.allOnes 64) 0 0 } ∧
      plan.flatMap (·.effects) = (pieces (fieldAt k.line 32 8) 32768).map (fun p => Effect.compare p.1 p.2) ∧
      ∀ st ∈ plan, st.writes = [] ∧ st.outs = [] ∧ st.host = [] ∧ st.poisons = [] ∧ st.raises = none) ∧
  (∀ (d : Dev) (r : SlotRef) (k : Cmd) (ps : List (Nat × Nat)), d.cmd? r = some k → d.poison = [] → k.spoiled = [] → .poisoned ∉ k.raised →
    let dom := d.domainOf r
    let left (p : Nat × Nat) := d.loadAll k (k.spans dom (fieldAt k.line 16 8 + p.1) p.2)
    let right (p : Nat × Nat) := d.loadAll k (k.spans dom (fieldAt k.line 24 8 + p.1) p.2)
    let differ := ps.flatMap fun p => ((List.range (left p).length).filter fun i => at! (left p) i 0 != at! (right p) i 0).map (p.1 + ·)
    let e := ps.foldl (fun (d : Dev) p => d.compareAt r p.1 p.2) d
    ∃ j, e.cmd? r = some j ∧ e.mem = d.mem ∧ j.raised = k.raised ∧ j.w0.toNat = differ.foldl min k.w0.toNat ∧
      (lineFlags k.line ≠ 1 → j.w1 = k.w1 + BitVec.ofNat 64 differ.length) ∧ (lineFlags k.line = 1 → k.w1 = 0 → j.w1 = 0))

/-- A write to a store in canonical form reads back; a write leaves every other byte as it was, keeps the canonical form, and clears only the
poison of sectors that it covers whole (R386, R387).
The store of a new extent is zeros (R291). -/
def Obligations.StoreWriteReadsBack : Prop :=
  (∀ (d : Dev) (a : Nat) (bs : List Byte),
    (Memory.wf d.mem = true → memRead (d.write a bs).mem a bs.length = bs) ∧
    (∀ b, b < a ∨ a + bs.length ≤ b → memGet (d.write a bs).mem b = memGet d.mem b) ∧
    (Memory.wf d.mem = true → Memory.wf (d.write a bs).mem = true) ∧
    (∀ x, x ∈ d.poison → d.inVitrine (x * 32) = false → (x ∈ (d.write a bs).poison ↔ ¬ (a ≤ x * 32 ∧ x * 32 + 32 ≤ a + bs.length)))) ∧
  (∀ (d : Dev) (a n i : Nat), i < n → memGet (d.zeroRange a n).mem (a + i) = 0 ∧
    (Memory.wf d.mem = true → Memory.wf (d.zeroRange a n).mem = true) ∧
    (∀ b, b < a ∨ a + n ≤ b → memGet (d.zeroRange a n).mem b = memGet d.mem b))

/-- The atomic operations on a whole target (R105): ADD wraps at its width, AND, OR, XOR, MIN, MAX, SWAP and
COMPARE_SWAP give the value named, and only a failed COMPARE_SWAP does not write; a poisoned target is left alone (R106,
R387). -/
def Obligations.AtomicsComputeTheirOperation : Prop :=
  ∀ (d : Dev) (sa w x cmp : Nat) (put : Dev → Nat → List Byte → Dev), (w = 4 ∨ w = 8) → x < 2 ^ (8 * w) → cmp < 2 ^ (8 * w) →
    let cur := leNat (memRead d.mem sa w)
    (d.poisonedIn { sa := sa, len := w } = true → ∀ op, d.atomicAt sa w op x cmp put = (d, 0, false, true)) ∧
    (d.poisonedIn { sa := sa, len := w } = false →
      d.atomicAt sa w 0x01 x cmp put = (put d sa (natLe ((cur + x) % 2 ^ (8 * w)) w), cur, true, false) ∧
      d.atomicAt sa w 0x03 x cmp put = (put d sa (natLe (cur &&& x) w), cur, true, false) ∧
      d.atomicAt sa w 0x04 x cmp put = (put d sa (natLe (cur ||| x) w), cur, true, false) ∧
      d.atomicAt sa w 0x05 x cmp put = (put d sa (natLe (cur ^^^ x) w), cur, true, false) ∧
      d.atomicAt sa w 0x08 x cmp put = (put d sa (natLe (min cur x) w), cur, true, false) ∧
      d.atomicAt sa w 0x09 x cmp put = (put d sa (natLe (max cur x) w), cur, true, false) ∧
      d.atomicAt sa w 0x0C x cmp put = (put d sa (natLe x w), cur, true, false) ∧
      (cur = cmp → d.atomicAt sa w 0x0D x cmp put = (put d sa (natLe x w), cur, true, false)) ∧
      (cur ≠ cmp → d.atomicAt sa w 0x0D x cmp put = (d, cur, false, false)))

/-- The ordering verbs (R117 to R123): FENCE completes once the earlier commands have retired every step, FENCE_FULL and
RELEASE once they are DONE, with PRIOR_FAILED where one of them failed; RELEASE writes its flag; ACQUIRE completes when
its condition holds, and with DEADLINE_MISSED at its limit; a limit of 0 is a single read. -/
def Obligations.OrderingVerbsComplete : Prop :=
  ∀ (s : State) (r : SlotRef) (c : Context) (k : Cmd) (sa t : Nat) (fails : Bool),
    let flag : Span := { sa := sa, len := 8 }
    (s.runs r .fence c k → (∀ x ∈ covered c k, stepsDone x = true) →
      ((∀ o ∈ c.fails, k.order ≤ o) → (∀ x ∈ covered c k, hasFailed x = false) →
        exec (.fence r) s = .next { s with dev := (s.dev.complete r .ok 0 0 0).settle }) ∧
      ((∃ o ∈ c.fails, o < k.order) ∨ (∃ x ∈ covered c k, hasFailed x = true) →
        exec (.fence r) s = .next { s with dev := (s.dev.complete r .priorFailed 0 0 0).settle })) ∧
    (s.runs r .fenceFull c k → covered c k = [] →
      ((∀ o ∈ c.fails, k.order ≤ o) → exec (.fenceFull r) s = .next { s with dev := (s.dev.complete r .ok 0 0 0).settle }) ∧
      ((∃ o ∈ c.fails, o < k.order) → exec (.fenceFull r) s = .next { s with dev := (s.dev.complete r .priorFailed 0 0 0).settle })) ∧
    (s.runs r .release c k → covered c k = [] →
      (epochFailed c k = true → exec (.release r) s = .next { s with dev := s.dev.reject r .priorFailed }) ∧
      (epochFailed c k = false → saOf k.caps c.domain (fieldAt k.line 16 8) = some sa →
        exec (.release r) s = .next { s with dev := (s.dev.begin r
          [{ Step.nop with
            kind := .atomic
            outs := [flag]
            effects := [.atomic sa 8 (if fieldAt k.line 32 1 = 1 then 0x0C else 0x01) (BitVec.ofNat 64 (fieldAt k.line 24 8)) 0 true] }] 0 0 0) })) ∧
    (s.runs r .acquire c k → s.dev.current k = true → fieldAt k.line 32 1 = 0 →
      exec (.acquire r fails) s = .next { s with dev := s.dev.acquireDone r c k 0 }) ∧
    (s.runs r .acquire c k → s.dev.current k = true → fieldAt k.line 32 1 ≠ 0 → saOf k.caps c.domain (fieldAt k.line 16 8) = some sa →
      (s.dev.isLocal sa = true → s.dev.underRepair flag = false ∧ fails = false) → s.dev.vitConflicts [flag] [] = [] →
      s.dev.badSpan k flag = false → s.dev.missing k [flag] = [] →
      (acquireHolds (fieldAt k.line 32 1) (leNat (s.dev.loadSpan k flag)) (fieldAt k.line 24 8) = true →
        exec (.acquire r fails) s = .next { s with dev := s.dev.acquireDone r c k (leNat (s.dev.loadSpan k flag)) } ∧
        exec (.acquirePoll r fails) s = .next { s with dev := s.dev.acquireDone r c k (leNat (s.dev.loadSpan k flag)) }) ∧
      (acquireHolds (fieldAt k.line 32 1) (leNat (s.dev.loadSpan k flag)) (fieldAt k.line 24 8) = false → fieldAt k.line 36 4 = 0 →
        exec (.acquire r fails) s = .next { s with dev := (s.dev.complete r .deadlineMissed 0 0 0).settle })) ∧
    (s.dev.live = true → (s.dev.atTime t).ready r .acquire = some (c, k) → fieldAt k.line 36 4 ≠ 0 →
      k.t0 + fieldAt k.line 36 4 * 1000 ≤ max s.dev.now t →
      exec (.acquireWaitLimit r t) s = .next { s with dev := ((s.dev.atTime t).complete r .deadlineMissed 0 0 0).settle })

/-! ### Translation and loans -/

/-- MAP and UNMAP with their turn (R289 to R292, R298 to R304): ALLOCATE enters one extent of fresh zeroed store,
ALIAS one extent for each that it covers, where it seals once its seal has drained, SEAL seals whole extents, EXPOSE opens a window, VITRINE maps a part of a
region; UNMAP withdraws a range, or the windows on it.
A MAP over a mapped range, with a handle of no open loan, by a host without authority or without room, is refused
with its status and maps nothing (R291, R306, R307). -/
def Obligations.MappingVerbsComplete : Prop :=
  (∀ (s : State) (r : SlotRef) (c : Context) (k : Cmd) (l : Loan) (v : VitrineRec) (sa : Nat) (e : Dev) (es : List Extent),
    let d := s.dev
    let cva := fieldAt k.line 24 8
    let len := fieldAt k.line 32 8
    let off := fieldAt k.line 40 8
    let free := (d.extents.any fun x => x.touches c.domain cva len) = false
    let loaned := d.loan? c.domain (fieldAt k.line 20 4) = some l ∧ d.mayUse k.host l = true
    (s.runs r .map c k → fieldAt k.line 16 1 = 1 → free → loaned → d.dramRoom c.domain len = true → d.treeRoom c.domain 1 = true →
      d.placeIn (d.placementOf c.domain) len = (some sa, e) →
      let g := e.freshGen c.domain
      let x : Extent := { domain := c.domain, cva := cva, len := len, sa := sa, rights := Rights.ofCode (fieldAt k.line 17 1), gen := g.1, loan := l.handle, placement := e.placementOf c.domain }
      exec (.mapAllocate r) s = .next { s with dev := ((g.2.zeroRange sa len).setExtents (g.2.extents ++ [x])).commitTurn r [] g.1.toNat 1 }) ∧
    (s.runs r .map c k → fieldAt k.line 16 1 = 2 → fieldAt k.line 17 1 = 2 → free → cover d.extents c.domain off len = .ok es →
      (∀ x ∈ es ++ d.touching c.domain off len, x.rights = .writable ∨ x.rights = .readOnly) → fieldAt k.line 20 4 ≠ 0 → loaned → d.treeRoom c.domain es.length = true →
      (∀ x ∈ es, (d.extents.filter fun y => overlap y.sa y.len x.sa x.len).length < 65535) →
      let g := d.freshGen c.domain
      ∃ new : List Extent, new.length = es.length ∧ (∀ x ∈ new, x.domain = c.domain ∧ x.rights = .readOnly ∧ x.gen = g.1 ∧ x.loan = BitVec.ofNat 32 (fieldAt k.line 20 4)) ∧
        new.map (·.sa) = es.map (fun y => y.sa + (max y.cva off - y.cva)) ∧ new.map (·.cva) = es.map (fun y => cva + (max y.cva off - off)) ∧
        exec (.mapAlias r) s = .next { s with dev := (g.2.setExtents (g.2.extents ++ new)).commitTurn r [] g.1.toNat es.length }) ∧
    (s.runs r .map c k → fieldAt k.line 16 1 = 2 → fieldAt k.line 17 1 = 3 → free → cover d.extents c.domain off len = .ok es →
      (∀ x ∈ es ++ d.touching c.domain off len, x.rights ≠ .vitrine) → (∃ x ∈ es, x.rights ≠ .sealed) → fieldAt k.line 20 4 ≠ 0 → loaned →
      d.treeRoom c.domain es.length = true → (∀ x ∈ es, (d.extents.filter fun y => overlap y.sa y.len x.sa x.len).length < 65535) →
      let sealed := d.sealExtents (es.filter fun x => x.rights != .sealed)
      exec (.mapAlias r) s = .next { s with dev := sealed.1.commitTurn r [] unaliased sealed.2.1 }) ∧
    (s.runs r .map c k → fieldAt k.line 16 1 = 3 → cover d.extents c.domain cva len = .ok es →
      (∀ x ∈ es ++ d.touching c.domain cva len, cva ≤ x.cva ∧ x.cva + x.len ≤ cva + len ∧ x.rights ≠ .vitrine) →
      exec (.mapSeal r) s = .next { s with dev := (d.sealExtents es).1.commitTurn r [] (d.sealExtents es).2.2.toNat (d.sealExtents es).2.1 }) ∧
    (s.runs r .map c k → fieldAt k.line 16 1 = 4 → cover d.extents c.domain cva len = .ok es → es ≠ [] → (∀ x ∈ es ++ d.touching c.domain cva len, x.rights ≠ .vitrine) →
      fieldAt k.line 19 1 < 6 → off + len ≤ 2 ^ 50 → bit (d.rightsOf (fieldAt k.line 48 2) c.domain) 1 = true →
      (∀ w ∈ d.windows, w.host = fieldAt k.line 48 2 → overlap w.dpa w.len (regionBase (fieldAt k.line 19 1) + off) len = false) →
      (d.windows.filter (·.host == fieldAt k.line 48 2)).length < 1024 → d.windows.length < 65536 →
      let loan := (es.head?.map (·.loan)).getD 0
      let w : Window := { host := fieldAt k.line 48 2, dpa := regionBase (fieldAt k.line 19 1) + off, domain := c.domain, cva := cva, len := len, region := fieldAt k.line 19 1, loan := loan, accepted := false }
      let ev : DcEvent := { host := w.host, add := true, forced := false, dpa := w.dpa, len := len, domain := c.domain, loan := loan, answered := false, retrieved := false }
      exec (.mapExpose r) s = .next { s with dev := ((({ d with windows := d.windows ++ [w] } : Dev).postEvent ev).eventIrqs).commitTurn r [] 0 0 }) ∧
    (s.runs r .map c k → fieldAt k.line 16 1 = 5 → (d.image.bind fun i => i.vitrine.find? fun y => y.region == fieldAt k.line 19 1 && y.domain == c.domain) = some v →
      off + len ≤ v.len → free → loaned → d.treeRoom c.domain 1 = true →
      (d.extents.filter fun y => overlap y.sa y.len (v.base + off) len).length < 65535 →
      let g := d.freshGen c.domain
      let x : Extent := { domain := c.domain, cva := cva, len := len, sa := v.base + off, rights := .vitrine, gen := g.1, loan := l.handle, placement := g.2.placementOf c.domain }
      exec (.mapVitrine r) s = .next { s with dev := (g.2.setExtents (g.2.extents ++ [x])).commitTurn r [] g.1.toNat 1 }) ∧
    (s.runs r .unmap c k → fieldAt k.line 16 1 = 1 → (d.extents.any fun x => x.touches c.domain cva len) = true →
      let w := d.withdraw c.domain [(cva, len)]
      exec (.unmapRange r) s = .next { s with dev := w.1.commitTurn r w.2.2.2 w.2.1 w.2.2.1 }) ∧
    (s.runs r .unmap c k → fieldAt k.line 16 1 = 2 → (d.extents.any fun x => x.touches c.domain cva len) = true →
      let host := fieldAt k.line 20 2
      let ws := (d.windowsOn c.domain cva len).filter fun w => host == 0xFFFF || w.host == host
      let spans := (d.extents.filter fun x => x.touches c.domain cva len).map fun x => x.part cva len
      exec (.unmapWithdraw r) s = .next { s with dev := ((d.dropWindows ws).evictLines (d.cachedBy ws)).commitTurn r spans 0 ws.length })) ∧
  (∀ (s : State) (r : SlotRef) (c : Context) (k : Cmd) (l : Loan), s.runs r .map c k → fieldAt k.line 16 1 = 1 →
    let d := s.dev
    let cva := fieldAt k.line 24 8
    let len := fieldAt k.line 32 8
    ((d.extents.any fun x => x.touches c.domain cva len) = true → exec (.mapAllocate r) s = .next { s with dev := d.reject r .badOperand }) ∧
    ((d.extents.any fun x => x.touches c.domain cva len) = false →
      (d.loan? c.domain (fieldAt k.line 20 4) = none → exec (.mapAllocate r) s = .next { s with dev := d.reject r .versionGone }) ∧
      (d.loan? c.domain (fieldAt k.line 20 4) = some l →
        (d.mayUse k.host l = false → exec (.mapAllocate r) s = .next { s with dev := d.reject r .accessDenied }) ∧
        (d.mayUse k.host l = true → d.dramRoom c.domain len = false ∨ d.treeRoom c.domain 1 = false →
          exec (.mapAllocate r) s = .next { s with dev := d.reject r .capacity }))))

/-- LOAN_RENEW with its turn (R305 to R308, R331): OPEN makes a loan of the submitting host, RENEW moves its expiry,
CLOSE withdraws its extents, TRANSFER withdraws the old holder's vitrine windows; at its expiry a loan ends. -/
def Obligations.LoanVerbsComplete : Prop :=
  ∀ (s : State) (r : SlotRef) (c : Context) (k : Cmd) (l : Loan) (t : Nat),
    let d := s.dev
    let term := fieldAt k.line 24 8
    let loaned := d.loan? c.domain (fieldAt k.line 20 4) = some l ∧ d.mayUse k.host l = true
    (s.runs r .loanRenew c k → fieldAt k.line 16 1 = 1 → (d.loans.filter (!·.gone)).length < 16384 →
      ∃ x : Loan, 1 ≤ x.index ∧ x.index ≤ 16384 ∧ (∀ y ∈ d.loans, y.gone = false → y.index ≠ x.index) ∧ x.domain = c.domain ∧
        x.holder = k.host ∧ x.gone = false ∧ x.expiry = (if term = 0 then none else some (d.now + term * 1000)) ∧
        exec (.loanOpen r) s = .next { s with dev := ({ d with
          draws := d.draws + 2, loans := d.loans.filter (fun (y : Loan) => y.index != x.index) ++ [x] } : Dev).commitTurn r [] x.handle.toNat 0 }) ∧
    (s.runs r .loanRenew c k → fieldAt k.line 16 1 = 2 → loaned →
      exec (.loanRenew r) s = .next { s with dev := (({ d with
        loans := modifyAll (fun x => x.handle == l.handle) (fun x => { x with expiry := d.expiryOf term }) d.loans } : Dev).commitTurn r []
          ((d.expiryOf term).getD (2 ^ 64 - 1)) 0) }) ∧
    (s.runs r .loanRenew c k → fieldAt k.line 16 1 = 3 → loaned →
      exec (.loanClose r) s = .next { s with dev := (d.deaccession l).1.commitTurn r (d.deaccession l).2 0 0 }) ∧
    (s.runs r .loanRenew c k → fieldAt k.line 16 1 = 4 → loaned → bit (d.rightsOf (fieldAt k.line 32 2) c.domain) 0 = true →
      let es := (d.loanExtents l).filter (·.rights == .vitrine)
      let spans := es.map fun e => ({ sa := e.sa, len := e.len } : Span)
      let ws := d.windows.filter fun w => w.host == l.holder && es.any fun e => e.touches w.domain w.cva w.len
      exec (.loanTransfer r) s = .next { s with dev := ((d.dropWindows ws).evictLines (d.cachedBy ws)).commitTurn r spans 0 0 }) ∧
    (s.dev.live = true → 0 < s.dev.workingPairs →
      let due := d.loans.filter fun x => !x.gone && x.expiry.any fun y => decide (y ≤ max d.now t)
      exec (.loanExpiry t) s = .next { s with dev := (due.foldl (fun d x => d.expireLoan x) (d.atTime t)).settle })

/-- Under wide interleave two different addresses of one widen group never have the same home member and offset, and
the members used are the group's (R353). -/
def Obligations.WideInterleaveInjective : Prop :=
  ∀ (g m a b : Nat), (g = 1 ∨ g = 2 ∨ g = 4 ∨ g = 8 ∨ g = 16) → m % g = 0 → m + g ≤ 16 → a < 2 ^ 51 → b < 2 ^ 51 →
    let x := m * 2 ^ 52 + 2 ^ 51 + a
    let y := m * 2 ^ 52 + 2 ^ 51 + b
    (homeOf g x = homeOf g y → a = b) ∧ m ≤ (homeOf g x).1 ∧ (homeOf g x).1 < m + g ∧ (homeOf g x).2 % 4096 = a % 4096

/-! ### The context store -/

/-- Class 0x03 verbs on an ACTIVE session that this member owns and that has lost nothing (R146 to R165): APPEND, SEAL,
FORK, DROP, MIGRATE, FETCH_BLOCKS and SELECT_ATTEND begin their steps with the words named; DROP TRUNCATE leaves every layer
at the shorter of its length and the position, and the session ACTIVE. -/
def Obligations.ContextVerbsComplete : Prop :=
  ∀ (s : State) (r : SlotRef) (c : Context) (k : Cmd) (x : Session),
    let d := s.dev
    let mine := c.session = some x ∧ x.state = .active ∧ x.rebuilding = false ∧ x.claimed = true ∧ d.owns x = true
    (s.runs r .append c k → mine → lineFlags k.line ≠ 1 → x.stateSa ≠ 0 →
      let l := fieldAt (cmdOps k) 0 2
      let p := fieldAt (cmdOps k) 4 4
      l < x.layerCount → p = (x.layer l).n → p + fieldAt (cmdOps k) 8 4 ≤ x.limit →
      exec (.append r) s = .next { s with dev := (d.appendPlan c k x []).begin r (BitVec.ofNat 64 p) 0 }) ∧
    (∀ g, s.runs r .append c k → lineFlags k.line = 1 → initGeom k.desc = some g →
      (c.session = some x → exec (.append r) s = .next { s with dev := d.reject r .badOperand }) ∧
      (∀ y e, c.session = none → fieldAt (cmdOps k) 4 4 = 0 → fieldAt (cmdOps k) 8 4 ≤ (initSession (cmdOps k) g d.coll.geoId).limit →
        d.placeSession c.domain (initSession (cmdOps k) g d.coll.geoId) = some (y, e) →
        ∃ copies, exec (.append r) s = .next { s with dev := ((e.holdSpans r y.spans).appendPlan c k y copies).begin r 0 0 } ∧
          ∀ st ∈ copies, st.kind = .mover ∧ st.writes = [])) ∧
    (s.runs r .seal c k → mine → fieldAt k.line 20 2 < x.layerCount →
      (∀ l ∈ x.named (fieldAt k.line 20 2) (fieldAt k.line 22 2), fieldAt k.line 16 4 ≤ (x.layer l).n) → lineFlags k.line ≠ 1 →
      let hot := ((x.named (fieldAt k.line 20 2) (fieldAt k.line 22 2)).flatMap fun l => d.blocksBelow x l (fieldAt k.line 16 4)).filter fun b => !b.sealed
      exec (.seal r) s = .next { s with dev := d.begin r (hot.map fun b =>
        { Step.nop with kind := .gallery, outs := [{ sa := b.summarySa, len := 64 }], effects := [.sealBlock b.id] }) 0 0 0 }) ∧
    (∀ pc, s.runs r .fork c k → c.session = none → c.isGuest = false → fieldAt k.line 18 1 = d.coll.geoId → d.ctx? (d.parentCtx k.line) = some pc →
      pc.domain = c.domain → pc.session = some x → x.state = .active → x.rebuilding = false → x.claimed = true → d.owns x = true →
      exec (.fork r) s = .next { s with dev := d.forkFrom r c k (d.parentCtx k.line) x x.logSa }) ∧
    (s.runs r .drop c k → c.session = none →
      (fieldAt k.line 16 1 = 1 → exec (.dropWhole r) s = .next { s with dev := d.reject r .ok }) ∧
      (fieldAt k.line 16 1 = 2 → exec (.dropTruncate r) s = .next { s with dev := d.reject r .ok })) ∧
    (s.runs r .drop c k → mine → fieldAt k.line 16 1 = 1 →
      let held := (List.range x.layerCount).flatMap fun l => (x.layer l).blocks.reverse.map fun b => (l, b)
      (held = [] → exec (.dropWhole r) s = .next { s with dev := (d.applyEffect r none (.closeSession c.num)).begin r [] 0 0 0 }) ∧
      (held ≠ [] → ∃ plan : List Step, exec (.dropWhole r) s = .next { s with dev := d.begin r plan 0 0 0 } ∧
        plan.flatMap (·.effects) = (chunks 4096 held).map (.release c.num) ++ [.closeSession c.num] ∧ ∀ st ∈ plan, st.writes = [])) ∧
    (s.runs r .drop c k → mine → fieldAt k.line 16 1 = 2 →
      let p := fieldAt k.line 20 4
      let long := (List.range x.layerCount).filter fun l => decide (p < (x.layer l).n)
      let gone := long.flatMap fun l => ((x.layer l).blocks.drop (ceilDiv p 64)).reverse.map fun b => (l, b)
      let cut := long.filter fun l => p % 64 != 0 && (d.blockAt x l (p / 64)).isSome
      (gone = [] → cut = [] → exec (.dropTruncate r) s = .next { s with dev := (d.applyEffect r none (.truncate c.num p)).begin r [] 0 0 0 }) ∧
      (gone ≠ [] ∨ cut ≠ [] → ∃ plan : List Step, exec (.dropTruncate r) s = .next { s with dev := d.begin r plan 0 0 0 } ∧
        plan.flatMap (·.effects) = (chunks 4096 gone).map (.release c.num) ++ cut.map (fun l => .straddle c.num l p) ++ [.truncate c.num p] ∧
        ∀ st ∈ plan, st.writes = []) ∧
      ∃ y, (d.truncateSession c.num p).session? c.num = some y ∧ y.state = .active ∧ ∀ l, (y.layer l).n = min (x.layer l).n p) ∧
    (s.runs r .migrate c k → mine → fieldAt k.line 16 1 = 1 → d.others.contains (fieldAt k.line 17 1) = true → k.remote = [] →
      let bs := (x.layers.flatMap (·.blocks)).filterMap d.block?
      let own := bs.filter fun b => !d.shared b
      let image := d.imageLayout x (own.map (·.id))
      let offer : Step := { Step.nop with extra := true, effects := [.offer c.num (fieldAt k.line 17 1) image.1] }
      let kept := BitVec.ofNat 64 (bs.length - own.length)
      exec (.migrateToMember r) s = .next { s with dev :=
        ((((d.modCmd r fun k => { k with started := true, plan := [offer], w0 := 0, w1 := kept, w2 := 0 }).askStep r .move (fieldAt k.line 17 1)
          (d.frontOf c.num).2 (stepArgs [(d.frontOf c.num).1, image.2])).conclude r).settle) }) ∧
    (s.runs r .migrate c k → mine → fieldAt k.line 16 1 = 2 → d.acc.state = .availableFull → d.nextChannel c.domain ≠ none → 2 ≤ d.field 0x4020 23 16 →
      let bs := d.migrateRange k x
      ∃ (e : Dev) (plan : List Step) (full : Bool), exec (.migrateToFlash r) s = .next { s with dev :=
          (e.dropReady.beginMoves r plan full (bs.length - (bs.filter fun b => b.sealed && d.isLocal b.frameSa).length)) } ∧
        e.mem = d.mem ∧ e.ctxs = d.ctxs ∧ e.blocks = d.blocks ∧ e.extents = d.extents ∧ ∀ st ∈ plan, st.writes = [] ∧ st.effects = []) ∧
    (s.runs r .migrate c k → mine → fieldAt k.line 16 1 = 3 →
      ∃ (plan : List Step) (full : Bool), exec (.migrateToDram r) s = .next { s with dev :=
          (d.beginMoves r plan full ((d.migrateRange k x).length - ((d.migrateRange k x).filter d.onFlash).length)) } ∧ ∀ st ∈ plan, st.writes = []) ∧
    (s.runs r .fetchBlocks c k → mine →
      let o := fetchOps k.line
      let body := fetchLen (d.fetchParts x o)
      let log := if bit o.parts 3 then 8 * o.covered x else 0
      o.layer < x.layerCount → body + log ≤ o.len → x.logSa ≠ 0 →
      ∃ plan : List Step, exec (.fetchBlocks r) s = .next { s with dev := d.begin r plan 0 (BitVec.ofNat 64 (o.covered x)) 0 } ∧
        plan.map (·.w0) = (pieces (body + log) 65536).map Prod.snd ∧
        plan.map (·.outs) = (pieces (body + log) 65536).map fun p => k.spans c.domain (o.dst + p.1) p.2) ∧
    (s.runs r .selectAttend c k → mine →
      let a := k.ask x
      let run : AttendRun := { key := d.attendKey c.domain k x a, heads := (List.range a.hc).map fun i => { head := a.h0 + i, kept := [], chosen := [], flash := [] } }
      a.p0 + a.q ≤ (x.layer a.layer).n →
      exec (.selectAttend r) s = .next { s with dev := (d.modCmd r fun k => { k with attend := some run }).begin r (d.nextStage k c.domain x a run 0) 0 0 0 })

/-- A class 0x03 verb on a context without a session is refused (R146); one on a session that lost positions it touches
ends with DATA_LOST (R171, R172); one on a session that moves or is being rebuilt waits (R147, R169), one that no member has
claimed is held (R168), and one that another member owns is forwarded to its owner (R192). -/
def Obligations.SessionStatesHoldVerbs : Prop :=
  ∀ (s : State) (r : SlotRef) (c : Context) (k : Cmd) (x : Session) (p : Nat), s.runs r .seal c k →
    (c.session = none → exec (.seal r) s = .next { s with dev := s.dev.reject r .badOperand }) ∧
    (c.session = some x → x.claimed = false → exec (.seal r) s = .next { s with dev := s.dev.holdOrphan r }) ∧
    (c.session = some x → x.claimed = true → x.state = .moving ∨ x.rebuilding = true → exec (.seal r) s = .next s) ∧
    (c.session = some x → x.claimed = true → x.state ≠ .moving → x.rebuilding = false → s.dev.owns x = false →
      exec (.seal r) s = .next { s with dev := s.dev.forward r k x }) ∧
    (c.session = some x → x.state = .lost p → x.rebuilding = false → x.claimed = true → s.dev.owns x = true → fieldAt k.line 20 2 < x.layerCount →
      (∀ l ∈ x.named (fieldAt k.line 20 2) (fieldAt k.line 22 2), fieldAt k.line 16 4 ≤ (x.layer l).n) → p < fieldAt k.line 16 4 →
      let w := s.dev.kvLostWords r.ctx x p
      exec (.seal r) s = .next { s with dev := (s.dev.complete r .dataLost w.1 w.2.1 w.2.2).settle })

/-! ### Collections -/

/-- LEDGER messages from a live member (R166, R167): the master records an OFFER of a new epoch and the target that holds the
copy accepts it; on ACCEPT the master commits; a COMMIT is acknowledged, and at the member that holds the copy it becomes its
session; ABANDON voids a pending offer and ends its source's MIGRATE; COMMIT_ACK is noted, NOT_OWNER and ANSWER lead an
orphaned command to the owner, QUERY is answered with the owner.
The times of the Ledger (R166, R167, R168): an offer without an answer for 500 µs(L) is abandoned, entries not
acknowledged are sent again, and an orphaned command ends after 2 ms(L) with ORPHAN_TIMEOUT. -/
def Obligations.LedgerCommandsComplete : Prop :=
  (∀ (s : State) (m : LedgerMsg) (r : SlotRef) (t t0 src dst : Nat) (e : LedgerEntry) (k : Cmd) (x : Landing), s.dev.live = true →
    let d := s.dev
    d.coll.state = .formed → d.coll.lost.getLsbD m.sender = false →
    let acked := d.sendLedger d.coll.master 5 m.domain m.ctx m.source m.dest m.front m.epoch
    let num := d.ctxNum m.front m.ctx
    (d.isMaster = false → m.dest = d.coll.geoId → d.landing? m = some x →
      let e : Dev := { d.atTime t with landings := replaceFirst (· == x) { x with accepted := true } d.landings }
      exec (.offer m t) s = .next { s with dev := e.sendLedger d.coll.master 2 m.domain m.ctx m.source m.dest m.front m.epoch }) ∧
    (d.isMaster = true → m.dest ≠ d.coll.geoId → d.entry? m = some e → newer m.epoch e.lastOffered = true →
      let e' := { e with lastOffered := m.epoch, offer := some (m.epoch, m.source, m.dest, max d.now t) }
      exec (.offer m t) s = .next { s with dev := ((d.atTime t).setEntry e').mirror e' }) ∧
    (d.isMaster = true → m.dest ≠ d.coll.geoId → d.entry? m = none →
      let e' := { d.ledgerOf m with lastOffered := m.epoch, offer := some (m.epoch, m.source, m.dest, max d.now t) }
      exec (.offer m t) s = .next { s with dev := ((d.atTime t).setEntry e').mirror e' }) ∧
    (d.isMaster = true → d.entry? m = some e → e.offer = some (m.epoch, src, m.dest, t0) →
      exec (.accept m) s = .next { s with dev := d.commitEpoch e m.epoch src m.dest }) ∧
    (d.session? num = none → m.dest ≠ d.coll.geoId → exec (.commit m) s = .next { s with dev := acked.settle }) ∧
    (∀ y, d.session? num = some y → newer y.epoch m.epoch = true → exec (.commit m) s = .next { s with dev := acked }) ∧
    (m.dest = d.coll.geoId → d.landing? m = some x → (d.session? num).any (fun y => newer y.epoch m.epoch) = false →
      exec (.commit m) s = .next { s with dev := (acked.installImage x num ((d.session? num).elim 0 (·.logSa)) m.epoch).settle }) ∧
    (d.isMaster = true → d.entry? m = some e → e.offer = some (m.epoch, src, dst, t0) →
      exec (.abandon m) s = .next { s with dev := d.abandonOffer e }) ∧
    (∀ c y, d.isMaster = false → m.source = d.coll.geoId → m.dest ≠ d.coll.geoId → d.ctx? num = some c → c.session = some y → y.state = .moving →
      y.offered = m.epoch → d.offering num = some r →
      let e := d.modSession num fun y => if y.state == .moving && y.offered == m.epoch then { y with state := .active, target := d.coll.geoId, moved := none } else y
      exec (.abandon m) s = .next { s with dev := e.endOffer r fun k => if k.cut.isSome then k else { k with raised := k.raised ++ [.targetDead] } }) ∧
    (d.isMaster = true → d.entry? m = some e → e.epoch = m.epoch →
      exec (.commitAck m) s = .next { s with dev := d.setEntry { e with unacked := e.unacked.filter (· != m.sender) } }) ∧
    (d.cmd? r = some k → d.sessionKey r k = (m.front, m.ctx) → (k.remote.any fun a => isStep a && a.home == m.sender) = true →
      let e := (d.unforward r k).modSession num fun y => { y with claimed := y.claimed && y.owner == d.coll.geoId }
      exec (.notOwner m r) s = .next { s with dev := (e.holdOrphan r).sendLedger e.coll.master 7 m.domain m.ctx m.source m.dest m.front m.epoch }) ∧
    (d.isMaster = true →
      let e := { d.ledgerOf m with reported := true }
      exec (.query m) s = .next { s with dev :=
        ((d.setEntry e).sendLedger m.sender 8 e.domain e.ctx e.source e.owner e.front e.epoch).sendCommit e e.source [e.owner] }) ∧
    (m.front = d.coll.geoId →
      let e := d.modSession m.ctx fun y => if newer y.epoch m.epoch then y else { y with owner := m.dest, epoch := m.epoch, claimed := y.claimed || m.dest != d.coll.geoId }
      exec (.answer m) s = .next { s with dev := (e.waitingForks m).foldl (fun d r => d.answerFork m r) e }) ∧
    (m.front ≠ d.coll.geoId → exec (.answer m) s = .next { s with dev := (d.waitingForks m).foldl (fun d r => d.answerFork m r) d })) ∧
  (∀ (s : State) (m : LedgerMsg) (r : SlotRef) (t t0 src dst : Nat) (ep : W32) (e : LedgerEntry) (c : Context) (k : Cmd) (x : Session), s.dev.live = true →
    (s.dev.isMaster = true → s.dev.entry? m = some e → e.offer = some (ep, src, dst, t0) → 500000 + t0 ≤ max s.dev.now t →
      exec (.offerTimeout m t) s = .next { s with dev := (s.dev.atTime t).abandonOffer e }) ∧
    (s.dev.isMaster = true →
      exec (.ledgerAudit t) s = .next { s with dev := ((s.dev.coll.ledger.filter fun e => !e.unacked.isEmpty || e.reported).foldl
        (fun d e => (d.setEntry { e with reported := false }).sendCommit e e.source ((e.owner :: e.unacked).eraseDups.filter fun m => !d.coll.lost.getLsbD m))
        (s.dev.atTime t)) }) ∧
    (s.dev.ctx? r.ctx = some c → s.dev.cmd? r = some k → cmdVerb k ≠ some .fork → c.session = some x → x.claimed = false → k.orphan = some t0 →
      2000000 + t0 ≤ max s.dev.now t →
      exec (.orphanTimeout r t) s = .next { s with dev := ((s.dev.atTime t).complete r .orphanTimeout 0 0 0).settle }))

/-- A COMMIT at a session's front that names another member as owner moves the session there: the owner and the epoch
are the COMMIT's, the session serves again, and its blocks here are let go (R166). -/
def Obligations.CommitMovesTheSession : Prop :=
  ∀ (s : State) (m : LedgerMsg) (c : Context) (x : Session), s.dev.live = true → s.dev.coll.state = .formed →
    s.dev.coll.lost.getLsbD m.sender = false → m.front = s.dev.coll.geoId → m.dest ≠ s.dev.coll.geoId → m.ctx < 65536 → s.dev.ctx? m.ctx = some c →
    c.session = some x → x.owner = s.dev.coll.geoId → x.state = .moving → newer m.epoch x.epoch = true → s.dev.offering m.ctx = none →
    (∀ y ∈ s.dev.ctxs, ∀ v ∈ y.slots, v.cmd = none) →
    ∃ d, exec (.commit m) s = .next { s with dev := d } ∧ ∃ e y, d.ctx? m.ctx = some e ∧ e.session = some y ∧ y.owner = m.dest ∧
      y.epoch = m.epoch ∧ y.state = .active ∧ y.claimed = true ∧ y.stateSa = 0 ∧ ∀ l ∈ y.layers, l.blocks = []

/-- Heartbeats, loss and the change of master (R351, R355 to R360): a heartbeat of a current epoch is noted; the master
declares a silent member lost; a deputy that holds a majority takes over under the next epoch; a member that hears no
master is ISOLATED; MASTER_CHANGE, LOST, DEPUTY and FENCED messages act as named.
Formation (R351 to R354): while FORMING a JOIN is noted and the expected number starts the round; the member named
by FORMED joins under its master and acknowledges, again when the round is repeated; the master is FORMED once every member acknowledged; a window that
passes counts a round, and the third fails. A lost member that joins again is taken back as a rebuild target (R352, R410). -/
def Obligations.CollectionCommandsComplete : Prop :=
  (∀ (s : State) (m : MemberMsg) (sender member t : Nat) (epoch : W16), s.dev.live = true →
    let d := s.dev
    let e := d.atTime t
    d.coll.state = .formed →
    (d.coll.lost.getLsbD sender = false → newer d.coll.epoch epoch = false →
      exec (.hb sender epoch t) s = .next { s with dev := { e with coll := { d.coll with lastHb := insertBy Prod.fst (sender, max d.now t) d.coll.lastHb } } }) ∧
    (d.isMaster = true → exec (.hbTimer t) s = .next { s with dev :=
      (d.others.foldl (fun d m => d.sendFab 0x13 (d.fidOf m) 0xFFFF 0 0 0 0 (BitVec.ofNat 64 d.coll.epoch.toNat) [] none) e) }) ∧
    (d.isMaster = true → 20000 + d.heard member ≤ max d.now t →
      exec (.hbTimeout member t) s = .next { s with dev := e.declareLost member }) ∧
    (d.isDeputy = true → 20000 + d.heard d.coll.master ≤ max d.now t →
      exec (.masterHbTimeout t) s = .next { s with dev := e.masterGone }) ∧
    (d.isDeputy = true → d.linksDownTo d.coll.master = true → exec (.masterLinksDown t) s = .next { s with dev := e.masterGone }) ∧
    (d.isMaster = false → 200000 + d.heard d.coll.master ≤ max d.now t →
      exec (.isolationTimeout t) s = .next { s with dev := e.cutOff .isolated }) ∧
    (d.coll.lost.getLsbD m.sender = false → newer m.epoch d.coll.epoch = true →
      exec (.masterChange m) s = .next { s with dev := { d with coll := { d.coll with
        master := m.sender, epoch := m.epoch, deputyValid := false, lastHb := insertBy Prod.fst (m.sender, d.now) d.coll.lastHb } } }) ∧
    (d.coll.lost.getLsbD m.sender = false → m.sender = d.coll.master → bitmapList m.bitmap = [member] → member ≠ d.coll.geoId →
      exec (.memberLost m) s = .next { s with dev :=
        (if (d.memberGone member).coll.deputy = member then { d.memberGone member with coll := { (d.memberGone member).coll with deputyValid := false } } else d.memberGone member) }) ∧
    (exec (.fenced m) s = .next { s with dev := (if d.isMaster then d.declareLost m.sender else d.cutOff .isolated) }) ∧
    (d.coll.lost.getLsbD m.sender = false → m.sender = d.coll.master → bitmapList m.bitmap = [member] → newer d.coll.epoch m.epoch = false →
      exec (.deputy m) s = .next { s with dev := { d with coll := { d.coll with deputy := member, deputyValid := false, mirrorCopying := true } } }) ∧
    (d.coll.mirrorCopying = true →
      exec .mirrorCopyDone s = .next { s with dev := { d with coll := { d.coll with mirrorCopying := false, deputyValid := true } } }) ∧
    (d.coll.role = 1 → d.isMaster = true → m.sender ≠ d.coll.geoId → d.coll.members.getLsbD m.sender = true → d.coll.lost.getLsbD m.sender = true →
      exec (.join m) s = .next { s with dev := (d.rejoins m.sender).sendMember 0x02 m.srcFid d.coll.members d.coll.epoch [] }) ∧
    (m.sender = d.coll.master → m.sender ≠ d.coll.geoId → m.epoch = d.coll.epoch → d.coll.lost = 0 → m.bitmap.getLsbD d.coll.geoId = true →
      exec (.formed m) s = .next { s with dev := (d.sendMember 0x03 (d.fidOf m.sender) 0 0 []).formedNow m.bitmap m.sender m.epoch }) ∧
    (∀ f : FabMsg, d.coll.lost.getLsbD (f.src % 16) = false →
      exec (.repl f) s = .next { s with dev := ((chunks 64 f.payload).foldl Dev.applyRecord d).settle })) ∧
  (∀ (s : State) (m : MemberMsg) (t : Nat), s.dev.live = true → s.dev.coll.state = .forming →
    let d := s.dev
    let joins := d.coll.joins.filter (fun x => x.geo != m.sender) ++ [{ geo := m.sender, serial := m.serial, fwVersion := m.fwVersion, variant := m.variant }]
    let acks := d.coll.acks.filter (· != m.sender) ++ [m.sender]
    let low := (d.coll.joins.map (·.geo)).foldl min d.coll.geoId
    (d.coll.role = 1 → m.sender ≠ d.coll.geoId → joins.length + 1 < d.field 0x7000 12 8 →
      exec (.join m) s = .next { s with dev := { d with coll := { d.coll with joins := joins } } }) ∧
    (d.coll.role = 1 → m.sender ≠ d.coll.geoId → d.coll.members ≠ 0 →
      exec (.join m) s = .next { s with dev := { d with coll := { d.coll with joins := joins } } }) ∧
    (d.coll.role = 1 → m.sender ≠ d.coll.geoId → d.coll.members = 0 → d.field 0x7000 12 8 ≤ joins.length + 1 →
      exec (.join m) s = .next { s with dev := ({ d with coll := { d.coll with joins := joins } } : Dev).formRound }) ∧
    (d.coll.joins ≠ [] → low = m.sender → m.bitmap.getLsbD d.coll.geoId = true →
      exec (.formed m) s = .next { s with dev := (d.sendMember 0x03 (d.fidOf m.sender) 0 0 []).formedNow m.bitmap m.sender m.epoch }) ∧
    (d.coll.joins = [] → m.bitmap.getLsbD d.coll.geoId = true →
      let e := (d.sendMember 0x03 (d.fidOf m.sender) 0 0 []).formedNow m.bitmap m.sender m.epoch
      exec (.formed m) s = .next { s with dev := e.rejoins e.coll.geoId }) ∧
    (d.coll.members.getLsbD m.sender = true → (∀ i ∈ bitmapList d.coll.members, i = d.coll.geoId ∨ i ∈ acks) →
      exec (.formedAck m) s = .next { s with dev := ({ d with coll := { d.coll with acks := acks } } : Dev).formedNow d.coll.members d.coll.geoId 1 }) ∧
    (d.coll.members.getLsbD m.sender = true → (∃ i ∈ bitmapList d.coll.members, i ≠ d.coll.geoId ∧ i ∉ acks) →
      exec (.formedAck m) s = .next { s with dev := { d with coll := { d.coll with acks := acks } } }) ∧
    (d.coll.members = 0 → low = d.coll.geoId → 1000000 * d.field 0x7000 47 32 + d.coll.formStart ≤ max d.now t →
      exec (.formWindowExpiry t) s = .next { s with dev := (d.atTime t).formRound }) ∧
    (d.coll.members ≠ 0 → 10000000 + d.coll.formStart ≤ max d.now t → 3 ≤ d.coll.rounds + 1 →
      exec (.formWindowExpiry t) s = .next { s with dev := ({ d.atTime t with coll := { d.coll with rounds := d.coll.rounds + 1 } } : Dev).formFail }) ∧
    (d.coll.members ≠ 0 → 10000000 + d.coll.formStart ≤ max d.now t → d.coll.rounds + 1 < 3 →
      exec (.formWindowExpiry t) s = .next { s with dev := ({ d.atTime t with coll := { d.coll with rounds := d.coll.rounds + 1 } } : Dev).formAgain }))

/-- A deputy takes over only with more than half of the live members within reach, or half of them and the tie's
member with LIVE_IN quiet; it then is master under the next epoch, and otherwise the collection FAILED (R358, R359). -/
def Obligations.DeputyNeedsMajority : Prop :=
  ∀ d : Dev, d.coll.state = .formed →
    let live := d.coll.geoId :: d.others
    let reach := (live.filter fun m => m == d.coll.geoId || decide (d.now < 20000 + d.heard m)).length
    (d.coll.deputyValid = true → live.length < 2 * reach → d.masterGone.coll.master = d.coll.geoId ∧
      d.masterGone.coll.epoch = d.coll.epoch + 1 ∧ d.masterGone.coll.deputyValid = false) ∧
    (d.coll.deputyValid = true → 2 * reach < live.length → d.masterGone.coll.state ≠ .formed) ∧
    (d.coll.deputyValid = false → d.masterGone.coll.state = .failed)

/-! ### The fabric -/

/-- Requests at their home (R364, R369, R371, R372, R377, R378): RD answers with the bytes, WR writes them, ATOM and PUB
do their operation and answer with what they found, INV invalidates; a STEP is served by its kind, and one for a session that
this member does not own is told NOT_OWNER (R167). Nothing else holds the request: no line at a host, no repair, no
granule on flash alone, no sector whose check fails. -/
def Obligations.FabricRequestsServed : Prop :=
  ∀ (s : State) (m : FabMsg) (fails : List Nat) (dom sa : Nat) (ss : List Span) (exp : Option Nat),
    let d := s.dev.asked m
    let op := fieldAt m.payload 24 1
    let w := fieldAt m.payload 25 1
    let word : Span := { sa := sa, len := w }
    let cell : Span := { sa := sa, len := 16 }
    let free (ss : List Span) : Prop := d.repairsIn ss = [] ∧ d.coldOf ss [] = [] ∧ ∀ x ∈ ss, d.isLocal x.sa = true
    (s.asks 0x01 m → 0 < m.rdLen → m.rdLen ≤ 65536 → d.target m m.rdLen false = .spans dom ss exp → free ss → (∀ sec ∈ fails, sectorIn sec ss = false) →
      d.mustHold ss false = false → d.poisonedAny ss = false →
      exec (.rd m fails) s = .next { s with dev := (d.touch (ss.flatMap granulesOf)).respond 0x01 m dom exp [] .ok 0 0 (ss.flatMap fun x => memRead d.mem x.sa x.len) }) ∧
    (s.asks 0x02 m → m.plainWr = true → d.target m m.payload.length true = .spans dom ss exp → free ss → (∀ sec ∈ fails, partly ss sec = false) →
      d.mustHold ss true = false →
      let e := (if m.host? then d.peDropSpans ss else d).putSpans dom m.ctx ss m.payload
      exec (.wr m fails) s = .next { s with dev := e.1.respond 0x02 m dom exp e.2 .ok 0 0 [] }) ∧
    (s.asks 0x03 m → m.payload.length = 32 → atomicOk op w = true → d.wordTarget m w = .ok (dom, sa) → free [word] → (∀ sec ∈ fails, partly [word] sec = false) →
      d.mustHold [word] true = false → d.poisonedIn word = false → d.rowLocked m.src sa w = false → d.coded = false →
      let e := if m.host? then d.peDropSpans [word] else d
      let cur := leNat (memRead d.mem sa w)
      let a := atomicResult op w cur (fieldAt m.payload 8 8 % 2 ^ (8 * w)) (fieldAt m.payload 16 8 % 2 ^ (8 * w))
      exec (.atom m fails) s = .next { s with dev := (((if a.2 then e.write sa (natLe a.1 w) else e).countNan dom op cur (fieldAt m.payload 8 8)).respond 0x03 m dom none [] .ok
        (if op = 0x0D ∧ a.2 then 1 else 0) (BitVec.ofNat 64 cur) []) }) ∧
    (s.asks 0x04 m → m.payload.length = 32 → d.wordTarget m 16 = .ok (dom, sa) → free [cell] → (∀ sec ∈ fails, partly [cell] sec = false) →
      d.mustHold [cell] true = false → d.poisonedIn cell = false → d.coded = false →
      let e := if m.host? then d.peDropSpans [cell] else d
      let ver := leNat (memRead d.mem sa 8)
      let val := leNat (memRead d.mem (sa + 8) 8)
      (ver = fieldAt m.payload 0 8 → exec (.pub m fails) s = .next { s with dev :=
        ((e.write sa (natLe ((ver + 1) % 2 ^ 64) 8 ++ natLe (fieldAt m.payload 8 8) 8)).respond 0x04 m dom none [] .ok (BitVec.ofNat 64 ((ver + 1) % 2 ^ 64)) (BitVec.ofNat 64 val) []) }) ∧
      (ver ≠ fieldAt m.payload 0 8 → exec (.pub m fails) s = .next { s with dev :=
        (e.respond 0x04 m dom none [] .conflict (BitVec.ofNat 64 ver) (BitVec.ofNat 64 val) []) })) ∧
    (s.asks 0x05 m →
      exec (.inv m) s = .next { s with dev :=
        ((d.invalidateHere m.domain 3 ((d.extents.filter fun e => e.touches m.domain m.address.toNat m.arg.toNat).map fun e => e.part m.address.toNat m.arg.toNat)).respond
          0x05 m m.domain none [] .ok 0 0 []) }) ∧
    (s.asks 0x06 m → exec (.step m) s = .next { s with dev := (d.serveStep m).serveWaiting }) ∧
    (s.asks 0x06 m → d.fromGroup m = true → m.stepKind = some .run → Verb.ofCode (lineVerb (slice m.payload 24 64)) ≠ some .fork →
      (∀ x, d.session? (d.ctxNum (m.src % 16) m.ctx) = some x → d.owns x = false) →
      exec (.step m) s = .next { s with dev := (d.sendLedger (m.src % 16) 6 m.domain m.ctx d.coll.geoId (m.src % 16) (m.src % 16) 0).serveWaiting }) ∧
    (s.asks 0x06 m → d.fromGroup m = true → m.stepKind = some .lock → d.rowLocks = [] →
      exec (.step m) s = .next { s with dev := (Dev.stepAnswer { d with rowLocks := [{ fid := m.src, sa := m.stepArg 0, len := m.stepArg 1 }] } m .ok []).serveWaiting })

/-- A request seen again within 1 ms(L) of its answer is answered with the same message and changes nothing more: a
lost answer makes no write or atomic happen twice (R367). -/
def Obligations.RepeatedRequestResendsAnswer : Prop :=
  ∀ (s : State) (m : FabMsg) (fails : List Nat) (x : FabService) (y : OutMsg), s.dev.live = true → s.dev.brings 0x03 m = true → s.dev.serving = [x] →
    x.src = m.src → x.tag = m.tag → x.await = [] → x.answer = some y → s.dev.now ≤ 1000000 + x.since →
    exec (.atom m fails) s = .next { s with dev := (s.dev.ackSome m.link).sendBack x.domain y } ∧ (s.dev.ackSome m.link).mem = s.dev.mem

/-- Responses to the access of a command (R367, R369, R372, R377): data for a read, acknowledgements for writes, result
words for atomics and publications, the answer to each kind of STEP message; HOLD keeps the access waiting, a HOLD is sent
every 100 µs(L) for what is kept here, and an access that waited FAB_TIMEOUT loses its target, but where a lost member of a
coded collection keeps it waiting; CREDIT returns credits (R365), an EVENT is heard. -/
def Obligations.FabricResponsesComplete : Prop :=
  ∀ (s : State) (m : FabMsg) (r : SlotRef) (k : Cmd) (c : Context) (a : RemoteAccess) (t tag link : Nat) (returns : List Nat), s.dev.live = true →
    let d := s.dev.ackSome m.link
    (s.dev.brings 0x81 m = true → d.accessOf m = some (r, k, a) → a.isWrite = false →
      exec (.rdData m) s = .next { s with dev := d.readBack m r k a }) ∧
    (s.dev.brings 0x82 m = true → d.accessOf m = some (r, k, a) → a.isWrite = true → m.status ≠ .dataLost →
      exec (.wrAck m) s = .next { s with dev := d.writeBack m.status r a id }) ∧
    (s.dev.brings 0x82 m = true → d.accessOf m = some (r, k, a) → a.isWrite = true → m.status = .dataLost →
      let w := d.lostWords r k (min 32 a.len) (a.sa / 32)
      exec (.wrAck m) s = .next { s with dev :=
        (((({ d with draws := d.draws + 3 } : Dev).answered r a).modCmd r fun k => { k with lost := some w }).conclude r).settle }) ∧
    (s.dev.brings 0x83 m = true → d.accessOf m = some (r, k, a) → a.isWrite = true → cmdVerb k = some .atomic → m.status = .ok →
      exec (.atomRsp m) s = .next { s with dev := ((d.fabAtomic a m.arg.toNat).writeBack .ok r a fun e => e.modCmd r fun j => { j with
        w0 := if lineFlags k.line == 1 then m.arg else 0, w1 := if m.address.getLsbD 0 then 1 else 0 }) }) ∧
    (s.dev.brings 0x83 m = true → d.accessOf m = some (r, k, a) → a.isWrite = true → cmdVerb k = some .atomicBatch → m.status = .ok →
      exec (.atomRsp m) s = .next { s with dev :=
        ((((d.fabAtomic a m.arg.toNat).answered r a).entryDone r m.arg.toNat a.fetch).conclude r).settle }) ∧
    (s.dev.brings 0x84 m = true → d.accessOf m = some (r, k, a) → cmdVerb k = some .publish →
      exec (.pubRsp m) s = .next { s with dev := d.pubBack r a m.status m.address m.arg }) ∧
    (s.dev.brings 0x85 m = true → d.accessOf m = some (r, k, a) → cmdVerb k = some .invalidate →
      exec (.invAck m) s = .next { s with dev := d.writeBack m.status r a id }) ∧
    (s.dev.brings 0x86 m = true → d.accessOf m = some (r, k, a) → isStep a = true →
      let e := d.answered r a
      e.ctx? r.ctx = some c →
      (StepKind.ofCode a.index = some .run → exec (.stepRsp m) s = .next { s with dev := e.runBack m r c }) ∧
      (StepKind.ofCode a.index = some .stage → exec (.stepRsp m) s = .next { s with dev := e.stageBack m r k a }) ∧
      (StepKind.ofCode a.index = some .move → exec (.stepRsp m) s = .next { s with dev := e.moveBack m r k a }) ∧
      (StepKind.ofCode a.index = some .log → exec (.stepRsp m) s = .next { s with dev := e.logBack m r c k }) ∧
      (StepKind.ofCode a.index = some .lock → exec (.stepRsp m) s = .next { s with dev := e.lockBack m r k a }) ∧
      (StepKind.ofCode a.index = some .bind → exec (.stepRsp m) s = .next { s with dev := e.bindBack m r k }) ∧
      (StepKind.ofCode a.index = some .enter → exec (.stepRsp m) s = .next { s with dev := e.enterBack m r k })) ∧
    ((s.dev.atTime t).brings 0x8F m = true → ((s.dev.atTime t).ackSome m.link).accessOf m = some (r, k, a) →
      exec (.hold m t) s = .next { s with dev := (((s.dev.atTime t).ackSome m.link).modCmd r fun k => { k with
        remote := replaceFirst (· == a) { a with since := max s.dev.now t } k.remote }) }) ∧
    (s.dev.serving = [] → exec (.holdTimer t) s = .next { s with dev := s.dev.atTime t }) ∧
    (∀ (x : FabService) (ty : Nat) (q : FabMsg), s.dev.serving = [x] → x.src ≠ hostSource → x.home < 16 → x.req = some (ty, q) → x.await ≠ [] →
      100000 + x.lastHold ≤ max s.dev.now t →
      exec (.holdTimer t) s = .next { s with dev := (({ s.dev.atTime t with serving := [{ x with lastHold := max s.dev.now t }] } : Dev).sendFab 0x8F x.src q.domain q.ctx x.tag 0 0 0 [] none) }) ∧
    (let now := s.dev.atTime t
     let old (since : Nat) : Bool := decide (since + now.field 0x7018 31 0 * 1000 ≤ now.now)
     let gone (a : RemoteAccess) : Bool := a.tag == tag && old a.since && !now.heldForRebuild a.home
     let late (x : FabService) : Bool := (x.tag == tag && x.src == hostSource || x.await.any fun a => a.1 == tag) && old x.since && !now.heldForRebuild x.home
     let hosts := now.serving.filter fun x => x.src == hostSource && x.home != now.coll.geoId && late x
     let served := now.serving.filter fun x => x.src != hostSource && decide (x.home < 16) && late x
     let e := (now.slotsWhere fun _ x => x.cmd.any fun k => k.remote.any gone).foldl (fun d r => d.targetLost r gone) now
     exec (.fabTimeout tag t) s = .next { s with dev := (served.foldl (fun d x => d.servedLost x tag) (hosts.foldl (fun d x => d.hostTargetLost x) e)).settle }) ∧
    (s.dev.brings 0x15 m = true → exec (.event m) s = .next { s with dev := d }) ∧
    (s.dev.linkUp link = true →
      exec (.credit link returns) s = .next { s with dev := { s.dev with links := modifyAll (·.index == link) (fun l => { l with
        headerCredits := (List.range 4).map fun c => at! l.headerCredits c 0 + at! returns (2 * c) 0
        dataCredits := (List.range 4).map fun c => at! l.dataCredits c 0 + at! returns (2 * c + 1) 0 }) s.dev.links } })

/-! ### Embedding tables -/

/-- Class 0x04 (R203, R209 to R225): GATHER reads its operand arrays before any row and names the first bad offset or index,
SCATTER_UPDATE updates rows of a training version, PUBLISH_TABLE makes, publishes and deletes versions at the table's home and
waits for their reclaim, REHANG builds a version in other formats; a stale expected version is a CONFLICT that changes nothing. -/
def Obligations.TableVerbsComplete : Prop :=
  ∀ (s : State) (r : SlotRef) (c : Context) (k j y : Cmd) (e e' : Dev) (v : Version) (tbl : Table) (t : Nat),
    let d := s.dev
    let l := k.line
    let tid := fieldAt l 16 2
    let home := d.tableHome c.domain tid
    let desc := k.spans c.domain (fieldAt l 32 8) 64
    let bytes := d.loadAll k desc
    let described := d.missing k desc = [] ∧ d.badSpans k desc = false ∧ versionOf bytes = some v
    let expected := ∃ x, tbl.current = some x ∧ x.number.toNat = fieldAt l 20 4
    let old : W32 := ((tbl.current.map (·.number)).getD 0)
    (s.runs r .gather c k → k.version = some v → (k.counting = false ∨ v.popCva ≠ 0) →
      let b := fieldAt l 20 4
      let n := fieldAt l 24 4
      d.captures r c k (if bit (lineFlags l) 0 then [] else [⟨fieldAt l 56 8, b * k.outStride v, true, 56⟩]) e j →
      let arrays := j.spans c.domain (fieldAt l 32 8) (4 * n) ++ (if k.pooling = 0 then [] else j.spans c.domain (fieldAt l 40 8) (4 * (b + 1))) ++
        if k.pooling = 3 then j.spans c.domain (fieldAt l 48 8) (4 * n) else []
      e.missing j arrays = [] →
      let idx := e.array32 c.domain j (fieldAt l 32 8) n
      let offs := if k.pooling = 0 then (List.range (b + 1)).map some else e.array32 c.domain j (fieldAt l 40 8) (b + 1)
      let ws := if k.pooling = 3 then e.array32 c.domain j (fieldAt l 48 8) n else []
      (∀ i, badOffset n b offs = some i → exec (.gather r) s = .next { s with dev := (e.complete r .badOperand 0 0 (BitVec.ofNat 64 i)).settle.settle }) ∧
      (badOffset n b offs = none →
        (∀ i x, idx[i]? = some (some x) → v.rows ≤ x → (∀ i' < i, ∀ x', idx[i']? = some (some x') → x' < v.rows) →
          exec (.gather r) s = .next { s with dev := (e.complete r .badOperand 0 0 (BitVec.ofNat 64 i)).settle.settle }) ∧
        ((∀ x, some x ∈ idx → x < v.rows) → e.missing j (arrays ++ v.remapSpans (idx.filterMap id)) = [] →
          exec (.gather r) s = .next { s with dev := (e.begin r (e.gatherPlan c.domain j v idx ws offs) 0 0 (BitVec.ofNat 64 v.number.toNat)).settle }))) ∧
    (s.runs r .scatterUpdate c k → k.version = some v →
      let n := fieldAt l 20 4
      (v.kind ≠ 1 → exec (.scatterUpdate r) s = .next { s with dev := d.reject r .accessDenied }) ∧
      (v.kind = 1 → v.stateKind ≠ optState (fieldAt l 18 1) → exec (.scatterUpdate r) s = .next { s with dev := d.reject r .badOperand }) ∧
      (v.kind = 1 → v.stateKind = optState (fieldAt l 18 1) →
        d.captures r c k [⟨fieldAt l 32 8, n * v.dim * (elemBits (fieldAt l 19 1) / 8), false, 32⟩] e j →
        e.missing j (j.spans c.domain (fieldAt l 24 8) (4 * n)) = [] →
        let idx := e.array32 c.domain j (fieldAt l 24 8) n
        let good := idx.filterMap id
        let rows := sortOrd (fun a b => decide (a < b)) good.eraseDups
        (∀ x, some x ∈ idx → x < v.rows) →
        (e.dramRoom c.domain (n * 4 * v.dim) = false → exec (.scatterUpdate r) s = .next { s with dev := (e.reject r .capacity).settle }) ∧
        (e.dramRoom c.domain (n * 4 * v.dim) = true → exec (.scatterUpdate r) s = .next { s with dev :=
          ((e.modCmd r fun x => { x with work := n * 4 * v.dim }).begin r (j.scatterPlan c.domain v idx rows) 0
            (BitVec.ofNat 64 (good.length - rows.length)) (BitVec.ofNat 64 v.number.toNat)).settle }))) ∧
    (s.runs r .publishTable c k → fieldAt l 18 1 = 1 → d.table? c.domain tid = none → described → home = d.coll.geoId →
      let new : Table := { domain := c.domain, id := tid, nextVersion := 2, versions := [v], deleting := false, home := d.coll.geoId, bindings := [] }
      exec (.create r) s = .next { s with dev := ((d.setTable new).tellTable new false).endTable r .ok 1 0 }) ∧
    (s.runs r .publishTable c k → fieldAt l 18 1 = 1 → described → home ≠ d.coll.geoId →
      exec (.create r) s = .next { s with dev := d.tableAway r home l bytes }) ∧
    (s.runs r .publishTable c k → fieldAt l 18 1 = 2 → d.table? c.domain tid = some tbl → described → home = d.coll.geoId →
      (expected → tbl.versions.length < 8 →
        exec (.publishDescriptor r) s = .next { s with dev := ((d.setTable (({ tbl with
          nextVersion := tbl.nextVersion + 1
          versions := tbl.versions ++ [{ v with number := tbl.nextVersion, state := .staged }] } : Table).plinth tbl.nextVersion)).endTable r .ok tbl.nextVersion old) }) ∧
      (expected → 8 ≤ tbl.versions.length → exec (.publishDescriptor r) s = .next { s with dev := d.endTable r .capacity 0 0 }) ∧
      (¬ expected → exec (.publishDescriptor r) s = .next { s with dev := d.endTable r .conflict old 0 })) ∧
    (s.runs r .publishTable c k → fieldAt l 18 1 = 3 → d.table? c.domain tid = some tbl → expected → home = d.coll.geoId →
      let n : W32 := BitVec.ofNat 32 (fieldAt l 24 4)
      (((tbl.version? n).any fun x => x.state == .staged) = true → exec (.publishStaged r) s = .next { s with dev := (d.setTable (tbl.plinth n)).endTable r .ok n old }) ∧
      (((tbl.version? n).any fun x => x.state == .staged) = false → exec (.publishStaged r) s = .next { s with dev := d.endTable r .badOperand 0 0 })) ∧
    (s.runs r .publishTable c k → fieldAt l 18 1 = 4 →
      (home = d.coll.geoId → exec (.waitReclaim r) s = .next { s with dev := (d.modCmd r fun x => { x with started := true, committed := true, retired := 1 }).settle }) ∧
      (home ≠ d.coll.geoId → exec (.waitReclaim r) s = .next { s with dev := d.tableAway r home l [] })) ∧
    (d.live = true → d.ctx? r.ctx = some c → d.cmd? r = some k → cmdVerb k = some .publishTable → fieldAt l 18 1 = 4 → k.committed = true → k.cut = none →
      k.t0 + fieldAt l 28 4 * 1000 ≤ max d.now t →
      exec (.waitReclaimLimit r t) s = .next { s with dev :=
        (((d.atTime t).complete r .deadlineMissed (BitVec.ofNat 64 (d.currentOf c.domain tid).toNat) 0 0).settle) }) ∧
    (s.runs r .publishTable c k → fieldAt l 18 1 = 5 → d.table? c.domain tid = some tbl → home = d.coll.geoId →
      exec (.tableDelete r) s = .next { s with dev := ((d.setTable { tbl with
        deleting := true
        versions := tbl.versions.map fun x => { x with state := .draining } }).endTable r .ok 0 old) }) ∧
    (s.runs r .rehang c k → k.version = some v →
      let pop := (k.rehanged v).popCva
      let sizes := k.rehangSizes v
      let bytes := sizes.foldl (· + ·) 0
      fieldAt l 32 4 + fieldAt l 36 4 + fieldAt l 40 4 ≤ v.rows → pop ≠ 0 →
      ((d.table? c.domain tid).any fun x => x.home == d.coll.geoId && decide (8 ≤ x.versions.length)) = false →
      d.captures r c k [⟨pop, 4 * v.rows, false, 48⟩] e j →
      (e.dramRoom c.domain bytes = false → exec (.rehang r) s = .next { s with dev := (e.reject r .capacity).settle }) ∧
      (e.dramRoom c.domain bytes = true → (e.modCmd r fun x => { x with work := bytes }).placeAll r sizes = some e' → e'.cmd? r = some y →
        exec (.rehang r) s = .next { s with dev := (e'.begin r (y.rehangPlan c.domain v) 0 0 0).settle }))

/-! ### Vector search -/

/-- Class 0x05 (R227 to R250): SEARCH begins with the codebook's load, and its rounds over, plans a record for each query and
the words short, scanned and probed, or ends with DATA_LOST; a slot that a scan step finds tombstoned is no candidate of its
queries; INSERT encodes its items, DELETE ITEMS marks each of its identifiers, DELETE INDEX makes the name unknown, COMPACT
rewrites the lists that hold tombstones, seals the growing segment or rewrites every list. -/
def Obligations.IndexVerbsComplete : Prop :=
  ∀ (s : State) (r : SlotRef) (c : Context) (k j : Cmd) (e : Dev) (x : Index) (run : SearchRun) (sn : ListSnap) (w : Ready)
      (group : List Nat) (i b lo m : Nat),
    let d := s.dev
    let l := k.line
    let xid := fieldAt l 16 2
    let qn := fieldAt l 20 2
    let qb := x.dim * (elemBits (fieldAt l 18 1) / 8)
    let host : Bool := lineFlags l == 1
    let qs := j.spans c.domain (fieldAt l 32 8) (qn * qb)
    let first : SearchRun :=
      { stage := 0, key := e.sumKey c.domain j qs, queries := List.replicate qn [], orders := []
        rounds := List.replicate qn [(0, fieldAt l 24 2)], snaps := [], dead := [], done := false }
    let fs := d.foundAll x l run
    let outs := k.searchOut c.domain fs
    let counted := d.countEvents c.domain (fs.foldl (fun a f => a.plus f.events) .none)
    let ended : SearchRun := { run with stage := 8, done := true }
    let o := slice l 16 48
    (s.runs r .search c k → d.index? c.domain xid = some x → fieldAt l 24 2 ≤ x.lists.length → fieldAt l 26 2 ≤ x.lists.length →
      qn * ceilDiv x.subspaces 32 * x.c * 2 ≤ 196608 →
      d.captures r c k (⟨fieldAt l 32 8, qn * qb, false, 32⟩ :: if host then [] else [⟨fieldAt l 56 8, qn * roundUp (32 + 16 * fieldAt l 22 2) 64, true, 56⟩]) e j →
      exec (.search r) s = .next { s with dev := ((e.modCmd r fun y => { y with search := some first }).begin r
        (x.loadSteps (e.searchGalleries c.domain (lineVerb l) r.ctx)) 0 0 0).settle }) ∧
    ((∀ f ∈ fs, f.lost = none) →
      d.searchEnd r c.domain k x run = counted.modCmd r (fun y => { y with
        search := some ended
        plan := outs
        w0 := BitVec.ofNat 64 (fs.filter fun f => decide (f.passing.length < fieldAt l 22 2)).length
        w1 := BitVec.ofNat 64 ((fs.map (·.scanned)).foldl (· + ·) 0)
        w2 := BitVec.ofNat 64 ((fs.map (·.probes)).foldl (· + ·) 0) }) ∧
      (host = true → (outs.flatMap fun st => st.host.flatMap (·.bytes)) = searchRecords l fs ∧ ∀ st ∈ outs, st.writes = []) ∧
      (host = false → ∀ st ∈ outs, st.host = [])) ∧
    (∀ list slot, fs.findSome? (·.lost) = some (list, slot) →
      d.searchEnd r c.domain k x run = counted.modCmd r (fun y => { y with
        search := some ended
        lost := some (BitVec.ofNat 64 list, BitVec.ofNat 64 slot, BitVec.ofNat 64 (2 ^ 63 + xid)) })) ∧
    (w.step.scan? = some (c.domain, x.id, group, sn.list, lo, m) → d.cmd? w.r = some k → k.search = some run → d.index? c.domain x.id = some x →
      run.snaps.find? (·.list == sn.list) = some sn → ((x.body sn).2[b]?).any (·.tomb) = true → lo ≤ b → b < lo + m → i ∈ group →
      ∃ y late, (d.readTombs w).cmd? w.r = some { k with search := some y } ∧
        y.snaps = run.snaps ∧ y.rounds = run.rounds ∧ y.dead = run.dead ++ late ∧ (i, sn.list, b) ∈ late) ∧
    ((i, sn.list, b) ∈ run.dead → ∀ tabs, ∀ t ∈ x.found run l tabs i sn.list, t.slot ≠ b) ∧
    (s.runs r .insert c k → lineExt l = false → d.index? c.domain (fieldAt o 0 2) = some x →
      d.captures r c k [⟨fieldAt o 8 8, fieldAt o 4 4 * (x.dim * (elemBits (fieldAt o 2 1) / 8)), false, 24⟩] e j →
      exec (.insert r) s = .next { s with dev := (e.begin r (j.insertPlan c.domain x) 0 0 (BitVec.allOnes 64)).settle }) ∧
    (s.runs r .delete c k → fieldAt l 18 1 = 1 → d.index? c.domain xid = some x → x.unknown = false →
      let plan := k.deleteSteps c.domain x
      exec (.deleteItems r) s = .next { s with dev := d.begin r plan 0 0 0 } ∧
        plan.map (·.effects) = ((pieces (fieldAt l 20 4) 4096).map fun p => [.deleteItems c.domain x.id p.1 p.2]) ∧
        ∀ st ∈ plan, st.writes = [] ∧ st.raises = none) ∧
    (s.runs r .delete c k → fieldAt l 18 1 = 2 → d.index? c.domain xid = some x → x.unknown = false →
      exec (.deleteIndex r) s = .next { s with dev := ((d.modIndex c.domain xid fun y => { y with unknown := true }).modCmd r fun y => { y with
        started := true, committed := true }).settle }) ∧
    (s.runs r .delete c k → d.index? c.domain xid = none ∨ (d.index? c.domain xid = some x ∧ x.unknown = true) →
      (fieldAt l 18 1 = 1 → exec (.deleteItems r) s = .next { s with dev := d.reject r .badOperand }) ∧
      (fieldAt l 18 1 = 2 → exec (.deleteIndex r) s = .next { s with dev := d.reject r .badOperand })) ∧
    (s.runs r .compact c k → fieldAt l 18 1 = 1 → d.index? c.domain xid = some x →
      let first := fieldAt l 20 4
      let count := if fieldAt l 24 4 = 0 then x.lists.length - first else fieldAt l 24 4
      (first < x.lists.length → first + count ≤ x.lists.length →
        exec (.compactLists r) s = .next { s with dev := (d.begin r ((((List.range count).map (· + first)).filter fun i =>
          (x.lists[i]?).any fun y => y.entries.any (·.tomb)).flatMap fun i => x.rewriteSteps i false) 0 0 0) }) ∧
      (x.lists.length ≤ first ∨ x.lists.length < first + count → exec (.compactLists r) s = .next { s with dev := d.reject r .badOperand })) ∧
    (s.runs r .compact c k → fieldAt l 18 1 = 2 → d.index? c.domain xid = some x →
      exec (.compactSeal r) s = .next { s with dev := d.begin r [{ Step.nop with effects := [.sealSegment x.domain x.id false] }] 0 0 0 }) ∧
    (s.runs r .compact c k → fieldAt l 18 1 = 3 → d.index? c.domain xid = some x →
      exec (.compactFull r) s = .next { s with dev := (d.begin r ({ Step.nop with effects := [.sealSegment x.domain x.id true] } ::
        (List.range x.lists.length).flatMap fun i => x.rewriteSteps i true) 0 0 0) })

/-! ### Weight streaming -/

/-- STREAM (R277 to R282): each status word starts PENDING and the layers follow one after the other; BUILD_SHADOW
plans one step for each 64 KiB of source and changes nothing yet; at a layer's deadline SHADOW or FAIL is taken, and at its wait bound the layer is MISSED. -/
def Obligations.StreamCommandsComplete : Prop :=
  ∀ (s : State) (r : SlotRef) (c : Context) (k : Cmd) (x : StreamLayer) (layer t : Nat),
    let d := s.dev
    let n := fieldAt k.desc 0 2
    let host := bit (lineFlags k.line) 0
    let ls := k.newLayers d.now n
    let words := ls.flatMap fun y => y.word k.t0
    (s.runs r .stream c k → bit (lineFlags k.line) 1 = false →
      ∃ first : Step, ls.length = n ∧ (∀ y ∈ ls, y.state = .pending ∧ y.time = d.now ∧ y.written = 0) ∧
        (host = true → first.writes = [] ∧ first.host = [{ addr := fieldAt k.desc 8 8, bytes := words }]) ∧
        (host = false → first.host = [] ∧ first.writes = spread (k.spans c.domain (fieldAt k.desc 8 8) (16 * n)) words) ∧
        exec (.stream r) s = .next { s with dev := ((d.modCmd r fun y => { y with layers := ls }).begin r
          (first :: (List.range n).flatMap fun i => k.layerSteps c.domain i host) 0 0 0) }) ∧
    (s.runs r .stream c k → bit (lineFlags k.line) 1 = true →
      let plan := (List.range n).flatMap fun i => k.shadowSteps c.domain i
      exec (.streamBuildShadow r) s = .next { s with dev := (d.modCmd r fun y => { y with layers := ls }).begin r plan 0 0 0 } ∧
        (∀ st ∈ plan, st.writes = [] ∧ st.kind = .gallery) ∧
        plan.length = ((List.range n).map fun i => ceilDiv (streamEntry k.desc i).2.2.2.1 65536).sum) ∧
    (d.live = true → d.cmd? r = some k → k.layers[layer]? = some x → cmdVerb k = some .stream → bit (lineFlags k.line) 1 = false → k.started = true →
      k.cut = none → x.state = .pending →
      (fieldAt k.desc 2 1 ≠ 1 → k.t0 + x.deadline * 1000 ≤ max d.now t →
        exec (.streamDeadline r layer t) s = .next { s with dev := ((((d.atTime t).lateLayer r layer false).conclude r).settle) }) ∧
      (fieldAt k.desc 2 1 = 1 → exec (.streamDeadline r layer t) s = .next { s with dev := d.atTime t }) ∧
      (fieldAt k.desc 2 1 = 1 → k.t0 + (x.deadline + fieldAt k.desc 4 4) * 1000 ≤ max d.now t →
        exec (.streamWaitBound r layer t) s = .next { s with dev := ((((d.atTime t).missLayer r layer false).conclude r).settle) }))

/-! ### Bulk, publication and invalidation -/

/-- BULK_GET and BULK_PUT inside the group move the bytes as COPY does, overlapping ranges being refused (R376); with an export
they go in steps of 64 KiB, and without a FAR link up they end with TARGET_DEAD; PUBLISH waits for the commands before it and
does its one step (R377); INVALIDATE of this device drops the named caches and has no step (R378). -/
def Obligations.BulkAndPublishComplete : Prop :=
  ∀ (s : State) (r : SlotRef) (c : Context) (k : Cmd) (sa : Nat),
    let d := s.dev
    let l := k.line
    let len := fieldAt l 24 8
    let cva := fieldAt l 16 8
    let here := k.spans c.domain cva len
    let there := k.spans c.domain (fieldAt l 40 8) len
    let fid := (bulkFar l).1
    let no := (bulkFar l).2.1
    let off := (bulkFar l).2.2
    (s.runs r .bulkGet c k → fieldAt l 32 1 = 1 →
      ((∀ a ∈ there, ∀ b ∈ here, overlap a.sa a.len b.sa b.len = false) →
        exec (.bulkGet r) s = .next { s with dev := d.begin r (moveSteps there here) 0 0 0 }) ∧
      ((∃ a ∈ there, ∃ b ∈ here, overlap a.sa a.len b.sa b.len = true) →
        exec (.bulkGet r) s = .next { s with dev := d.reject r .badOperand })) ∧
    (s.runs r .bulkGet c k → fieldAt l 32 1 ≠ 1 →
      (d.farPath = false → exec (.bulkGet r) s = .next { s with dev := d.reject r .targetDead }) ∧
      (d.farPath = true → ∃ plan : List Step, exec (.bulkGet r) s = .next { s with dev := d.begin r plan 0 0 0 } ∧
        plan.map (·.effects) = ((pieces len 65536).map fun p => [.exportRead fid no (off + p.1) p.2 (cva + p.1)]) ∧
        plan.map (·.w0) = (pieces len 65536).map Prod.snd)) ∧
    (s.runs r .bulkPut c k → fieldAt l 32 1 = 1 → (∀ a ∈ here, ∀ b ∈ there, overlap a.sa a.len b.sa b.len = false) →
      exec (.bulkPut r) s = .next { s with dev := d.begin r (moveSteps here there) 0 0 0 }) ∧
    (s.runs r .bulkPut c k → fieldAt l 32 1 ≠ 1 →
      (d.farPath = false → exec (.bulkPut r) s = .next { s with dev := d.reject r .targetDead }) ∧
      (d.farPath = true → ∃ plan : List Step, exec (.bulkPut r) s = .next { s with dev := d.begin r plan 0 0 0 } ∧
        plan.map (·.effects) = ((pieces len 65536).map fun p => [.exportWrite fid no (off + p.1) (k.spans c.domain (cva + p.1) p.2)]) ∧
        ∀ st ∈ plan, st.writes = [] ∧ st.raises = none)) ∧
    (s.runs r .publish c k → covered c k = [] →
      (epochFailed c k = true → exec (.publish r) s = .next { s with dev := d.reject r .priorFailed }) ∧
      (epochFailed c k = false → saOf k.caps c.domain cva = some sa →
        exec (.publish r) s = .next { s with dev := (d.begin r [{ Step.nop with
          kind := .atomic
          outs := [{ sa := sa, len := 16 }]
          effects := [.publish sa (BitVec.ofNat 64 len) (BitVec.ofNat 64 (fieldAt l 32 8))] }] 0 0 0) })) ∧
    (s.runs r .invalidate c k → lineFlags l ≠ 1 →
      exec (.invalidate r) s = .next { s with dev := ((d.invalidateHere c.domain (fieldAt l 32 1) (spansOf k.caps c.domain cva len)).begin r [] 0 0 0) })

/-! ### Check values -/

/-- SCAN_CHECK, CHECK_SAVE and CHECK_LOAD (R391 to R397): RUNNING reads its range in steps, the last of which sets the running
value and gives the check value and the byte count; BLOCKED writes one value for each block, VERIFY counts the blocks that are
right and those that are wrong and keeps the number of the first wrong one; CHECK_SAVE writes the record of a running value and
CHECK_LOAD takes one from its record, a bad record being BAD_OPERAND. -/
def Obligations.CheckVerbsComplete : Prop :=
  ∀ (s : State) (r : SlotRef) (c : Context) (k : Cmd) (p : CrcPoly) (e : Dev) (i : Nat),
    let d := s.dev
    let l := k.line
    let cva := fieldAt l 16 8
    let len := fieldAt l 24 8
    let ss := k.scanRange c.domain
    let blk := fieldAt l 36 4
    let block := k.scanBlock c.domain i
    let value : Nat := crcOf p (scanSeed p l (i * blk)) (e.loadAll k block.1)
    let record := k.spans c.domain cva 32
    let has := e.ctx? r.ctx = some c ∧ e.cmd? r = some k ∧ crcPoly (fieldAt l 32 1) = some p
    let checks := s.runs r .scanCheck c k ∧ crcPoly (fieldAt l 32 1) = some p ∧ c.runningAlloc = true
    (checks → fieldAt l 33 1 = 1 → fieldAt l 34 1 ≠ 2 →
      exec (.scanCheckRunning r) s = .next { s with dev :=
        (d.begin r (d.readThen ss 0 { Step.nop with kind := .scanner, free := true, effects := [.scanRunning] }) 0 0 0) }) ∧
    (checks → fieldAt l 33 1 = 1 → fieldAt l 34 1 = 2 → (c.value (fieldAt l 35 1)).poly ≠ fieldAt l 32 1 →
      exec (.scanCheckRunning r) s = .next { s with dev := d.reject r .badOperand }) ∧
    (has → fieldAt l 34 1 ≠ 2 → hasFailed k = false → e.badSpans k ss = false →
      let reg := crcBytes p (crcStart p (scanSeed p l 0)) (e.loadAll k ss)
      e.scanRunning r = (e.setRunning c.num (fieldAt l 35 1) { poly := fieldAt l 32 1, reg := BitVec.ofNat 64 reg, count := min runningMax len }).modCmd r fun y =>
        { y with w0 := BitVec.ofNat 64 (crcOf p (scanSeed p l 0) (e.loadAll k ss)), w1 := BitVec.ofNat 64 (min runningMax len) }) ∧
    (checks → fieldAt l 33 1 = 2 →
      exec (.scanCheckBlocked r) s = .next { s with dev := d.begin r (k.blockSteps c.domain) 0 0 0 }) ∧
    (checks → fieldAt l 33 1 = 3 →
      exec (.scanCheckVerify r) s = .next { s with dev := d.begin r (k.blockSteps c.domain) 0 0 (BitVec.allOnes 64) }) ∧
    ((k.blockSteps c.domain).map (·.effects) = ((pieces (len / blk) (65536 / blk)).map fun q => [.scanBlocks q.1 q.2]) ∧
      ∀ st ∈ k.blockSteps c.domain, st.writes = [] ∧ st.raises = none) ∧
    (has → e.badSpans k block.1 = false →
      (fieldAt l 33 1 = 2 → e.scanBlock r p i =
        ((spread block.2 (natLe value 8)).foldl (fun d w => d.stepWrite r none w) e).modCmd r fun k => { k with w0 := k.w0 + 1 }) ∧
      (fieldAt l 33 1 = 3 → e.badSpans k block.2 = false → value = leNat (e.loadAll k block.2) →
        e.scanBlock r p i = e.modCmd r fun k => { k with w0 := k.w0 + 1 }) ∧
      (fieldAt l 33 1 = 3 → e.badSpans k block.2 = false → value ≠ leNat (e.loadAll k block.2) →
        e.scanBlock r p i = e.modCmd r fun k => { k with w1 := k.w1 + 1, w2 := if i < k.w2.toNat then BitVec.ofNat 64 i else k.w2 })) ∧
    (s.runs r .checkSave c k → c.runningAlloc = true →
      exec (.checkSave r) s = .next { s with dev := d.begin r [{ Step.nop with writes := k.writesAt c.domain cva (c.value (fieldAt l 24 1)).record }] 0 0 0 }) ∧
    (s.runs r .checkLoad c k → c.runningAlloc = true →
      exec (.checkLoad r) s = .next { s with dev := d.begin r [{ Step.nop with reads := record, effects := [.checkLoad] }] 0 0 0 }) ∧
    (e.ctx? r.ctx = some c → e.cmd? r = some k → e.badSpans k record = false →
      (runningOfRecord (e.loadAll k record) = none → e.checkLoad r = e.raise r .badOperand) ∧
      (∀ v, runningOfRecord (e.loadAll k record) = some v → hasFailed k = false → e.checkLoad r = e.setRunning c.num (fieldAt l 24 1) v))

/-! ### Structure images -/

/-- A GO while a load runs is discarded and sets GO_REFUSED, the load not disturbed; a GO over the Docent bus with SOURCE 0
ends at once as SOURCE_FAULT (R56). -/
def Obligations.GoIsRefusedWhileLoading : Prop :=
  ∀ (s : State) (w : RegWrite), s.writes w → w.reg = 0x2000 → w.sets 0 = true →
    let e := s.dev.accessed w.src
    (e.load.phase ≠ .idle → exec (.imgGo w) s = .next { s with dev := e.setField 0x2010 5 5 1 } ∧ (e.setField 0x2010 5 5 1).load = s.dev.load) ∧
    (e.load.phase = .idle → w.src = .docent → (e.plainWrite w).field 0x2000 7 4 = 0 →
      exec (.imgGo w) s = .next { s with dev := (e.plainWrite w).endLoad 0x0F 0xFFFF })

/-- An image load (R53 to R60): GO starts the fetch of the named length from host memory or from the boot flash, a fetch that fails
or a stream that is rejected ends it with a result, a valid one goes on; once drained, or at its limit with every command
aborted, the galleries are wiped, and after the last of them the image is committed. -/
def Obligations.ImageCommandsComplete : Prop :=
  ∀ (s : State) (w : RegWrite) (image : List Byte) (img : Image) (code port host t g : Nat),
    let e := (s.dev.accessed w.src).plainWrite w
    let n := e.field 0x2000 39 16
    let addr := (e.reg 0x2008).toNat
    let goes := s.writes w ∧ w.reg = 0x2000 ∧ w.sets 0 = true ∧ (s.dev.accessed w.src).load.phase = .idle ∧ w.src = .bar port host
    let fetching : Dev := { e with load := { e.load with phase := .fetching, length := 64 * n, spi := if e.field 0x2000 7 4 = 1 then some addr else none } }
    let loading (p : LoadPhase) : Prop := s.dev.live = true ∧ s.dev.load.phase = p
    let b := s.dev.load.spi.elim (image.take s.dev.load.length) fun a => memRead s.dev.bootFlash a s.dev.load.length
    (goes → n = 0 ∨ 16384 < n → exec (.imgGo w) s = .next { s with dev := e.endLoad 0x02 0xFFFF }) ∧
    (goes → 0 < n → n ≤ 16384 →
      (1 < e.field 0x2000 7 4 ∨ addr % 64 ≠ 0 → exec (.imgGo w) s = .next { s with dev := e.endLoad 0x0F 0xFFFF }) ∧
      (addr % 64 = 0 →
        (e.field 0x2000 7 4 = 0 → exec (.imgGo w) s = .next { s with dev := fetching.toPort port 256 true 0 none (.fetch port addr (64 * n)) }) ∧
        (e.field 0x2000 7 4 = 1 → exec (.imgGo w) s = .next { s with dev := fetching }))) ∧
    (loading .fetching →
      exec (.imageFetchDone false image) s = .next { s with dev := s.dev.endLoad 0x0F 0xFFFF } ∧
      (s.dev.validate b = .error code → exec (.imageFetchDone true image) s = .next { s with dev := s.dev.endLoad code (namedDomain b) }) ∧
      (s.dev.validate b = .ok img → exec (.imageFetchDone true image) s = .next { s with dev := s.dev.loadValidated img })) ∧
    (loading .quiescing → exec (.quiesceDrained t) s = .next { s with dev := (s.dev.atTime t).toWipe } ∧
      (s.dev.load.drainEnd ≤ max s.dev.now t → exec (.drainLimitExpiry t) s = .next { s with dev := (s.dev.atTime t).abortLoading.toWipe }) ∧
      (max s.dev.now t < s.dev.load.drainEnd → exec (.drainLimitExpiry t) s = .next { s with dev := s.dev.atTime t })) ∧
    (loading .wiping → s.dev.load.wiping.contains g = true →
      let left := s.dev.load.wiping.filter (· != g)
      let physical := (s.dev.galleries.filter fun x => x.logical == some g).map (·.physical)
      let d : Dev := { s.dev with
        load := { s.dev.load with wiping := left }
        peCache := s.dev.peCache.filter fun l => !physical.contains (l.owner / 34)
        galleries := s.dev.galleries.map fun (x : Gallery) => if x.logical == some g then { x with words := [] } else x }
      (left ≠ [] → exec (.galleryWipeDone g) s = .next { s with dev := d }) ∧
      (left = [] → exec (.galleryWipeDone g) s = .next { s with dev := ({ d with load := { d.load with phase := .committing } } : Dev).commitImage }))

/-! ### Exports, gates and telemetry -/

/-- EXP_CTRL (R374, R383): SET makes an export of a mapped range, or fails with its result; CLEAR lets no further request in,
and the export goes when no request holds it; while a CLEAR runs another OP is discarded. -/
def Obligations.ExportCommandsComplete : Prop :=
  ∀ (s : State) (w : RegWrite) (dom : Nat) (x : ExportEntry),
    let d := s.dev.accessed w.src
    let e := d.plainWrite w
    let pg := pageOf w.reg
    let clearing : Bool := d.exports.any fun y => y.domain == pg && y.clearing
    let cva := e.field (pageOff pg 0x200) 56 0
    let len := e.field (pageOff pg 0x208) 39 0
    let n := e.expCtl pg 15 10
    let aligned := cva % 65536 = 0 ∧ len % 65536 = 0 ∧ len ≠ 0 ∧ e.expCtl pg 9 8 ≠ 0
    (s.writes w → isExpOp 1 w = true →
      (clearing = true → exec (.exportSet w) s = .next { s with dev := d.setField (pageOff pg 0x218) 1 1 1 }) ∧
      (clearing = false →
        (¬ aligned → exec (.exportSet w) s = .next { s with dev := e.expResult pg 2 }) ∧
        (aligned → (∀ es, cover e.extents pg cva len ≠ .ok es) → exec (.exportSet w) s = .next { s with dev := e.expResult pg 1 }) ∧
        (aligned → (∃ es, cover e.extents pg cva len = .ok es) → exec (.exportSet w) s = .next { s with dev := (({ e with
          exports := e.exports.filter (fun (y : ExportEntry) => !(y.domain == pg && y.number == n)) ++ [{
            domain := pg, number := n, cva := cva, len := len, rights := e.expCtl pg 9 8, peerGroup := e.expCtl pg 63 52
            peerDomain := e.expCtl pg 47 40, anyDomain := e.expCtl pg 39 39 == 1, clearing := false }] } : Dev).expResult pg 0) }))) ∧
    (s.writes w → isExpOp 2 w = true →
      (clearing = true → exec (.exportClear w) s = .next { s with dev := d.setField (pageOff pg 0x218) 1 1 1 }) ∧
      (clearing = false → exec (.exportClear w) s = .next { s with dev := e.expClear pg })) ∧
    (s.dev.live = true → s.dev.exports.find? (fun y => y.domain == dom && y.clearing) = some x →
      (s.dev.exportHeld dom x.number = true → exec (.exportClearDrained dom) s = .next s) ∧
      (s.dev.exportHeld dom x.number = false → exec (.exportClearDrained dom) s = .next { s with dev := (({ s.dev with
        exports := s.dev.exports.filter fun (y : ExportEntry) => !(y.domain == dom && y.clearing) } : Dev).expResult dom 0) }))

/-- The shaper (R315 to R326): ARM and its clearing write GATE_CTRL, an armed list takes over at its time and its entries
follow one another, the queue that the rule picks sends one granule at the point's rate and lets the host reads that wait for room go on,
and a telemetry sample adds each queue's depth and delay. -/
def Obligations.ShaperCommandsComplete : Prop :=
  ∀ (s : State) (w : RegWrite) (p : Point) (e : EgPoint) (q q' : Queue) (g : EgGranule) (first : Bool) (t : Nat),
    let d := s.dev.atTime t
    let x := d.creditsTo e d.now
    let stop := d.now + sendTime g.bytes e.rate
    let f := d.modPoint p fun _ => x.served (q'.charge g.bytes e.rate first stop) first
    let sample (q : Queue) : Queue := { q with
      globalStats := q.globalStats.add q.depth (q.delay d.now)
      domainStats := q.domainStats.add q.depth (q.delay d.now) }
    (s.writes w → pointOf w.reg = some p → armsTo (s.dev.accessed w.src) w true = true →
      exec (.gateArm w) s = .next { s with dev := (s.dev.accessed w.src).gateCtrl p w }) ∧
    (s.writes w → pointOf w.reg = some p → armsTo (s.dev.accessed w.src) w false = true →
      exec (.gateDisarm w) s = .next { s with dev := (s.dev.accessed w.src).gateCtrl p w }) ∧
    (s.dev.live = true → s.dev.pointEnabled p = true → s.dev.field (p.base + 0x408) 0 0 = 1 →
      ((s.dev.reg (p.base + 0x410)).toNat ≤ max s.dev.now t → exec (.gateTakeover p t) s = .next { s with dev := d.takeOver p }) ∧
      (max s.dev.now t < (s.dev.reg (p.base + 0x410)).toNat → exec (.gateTakeover p t) s = .next { s with dev := d })) ∧
    (s.dev.live = true → s.dev.point? p = some e → e.activeLen ≠ 0 → e.entryEnd ≤ max s.dev.now t →
      let i := (e.entry + 1) % e.activeLen
      exec (.gateEntryBoundary p t) s = .next { s with dev := (d.modPoint p fun _ => { d.creditsTo e e.entryEnd with
        entry := i
        groups := d.gateGroups
        entryEnd := e.entryEnd + (d.gateEntry p e.activeList i).2 }) }) ∧
    (s.dev.live = true → s.dev.point? p = some e → e.rate ≠ 0 →
      (d.pick x = none → exec (.shaperGranule p t) s = .next { s with dev := (d.modPoint p fun _ => x).serveReads p }) ∧
      (d.pick x = some (q, first) → q.next = some (g, q') →
        (p.kind = .onfi → exec (.shaperGranule p t) s = .next { s with dev := (d.channelTurn x q first stop).serveReads p }) ∧
        (p.kind = .cxl → g.msg = none → exec (.shaperGranule p t) s = .next { s with dev := f.serveReads p }) ∧
        (p.kind = .cxl → ∀ m, g.msg = some m → exec (.shaperGranule p t) s = .next { s with dev := (f.emit m).serveReads p }) ∧
        (p.kind = .zherek → g.msg = none → exec (.shaperGranule p t) s = .next { s with dev := (f.linkGranule p.index q g).serveReads p }) ∧
        (p.kind = .zherek → ∀ m, g.msg = some m → exec (.shaperGranule p t) s = .next { s with dev := ((f.linkGranule p.index q g).emit m).serveReads p }))) ∧
    (s.dev.live = true →
      (∀ y ∈ s.dev.points, ∀ z ∈ y.queues, z.globalStats.fills (sample z).globalStats = [] ∧ z.domainStats.fills (sample z).domainStats = []) →
      exec (.telemSample t) s = .next { s with dev := { d with points := s.dev.points.map fun (y : EgPoint) => { y with queues := y.queues.map sample } } })

/-! ### Links -/

/-- Link training and replay (R362 to R368, R382): TS1 and TS2 are counted to eight and answered, CONFIG brings a trained
link up, NAK and the replay timeout resend, a discarded frame is counted and asked for again, DOWN, the training limit and
DISABLE take a link down, RETRAIN starts its training anew. -/
def Obligations.LinkCommandsComplete : Prop :=
  ∀ (s : State) (m : TrainMsg) (w : RegWrite) (x : Link) (link depth width seq n t : Nat) (credits : List Nat),
    let d := s.dev
    let up := d.live = true ∧ d.link? link = some x ∧ x.state = .up
    let training := d.live = true ∧ d.link? m.link = some x ∧ x.state = .training
    let same : Bool := x.peerLanes == m.lanes && x.peerFid == m.fid && x.peerMember == m.member
    let ones := if same then x.ts1 + 1 else 1
    let e := d.modLink m.link fun y => { y with
      ts1 := if y.peerLanes == m.lanes && y.peerFid == m.fid && y.peerMember == m.member then y.ts1 + 1 else 1
      peerLanes := m.lanes, peerFid := m.fid, peerMember := m.member, lastDecode := d.now }
    let f := d.modLink m.link fun y => { y with
      ts2 := y.ts2 + 1, peerLanes := m.lanes, peerFid := m.fid, peerMember := m.member, lastDecode := d.now }
    let lanes := lanesOf (x.offered &&& m.lanes)
    let a := s.dev.accessed w.src
    let b := a.plainWrite w
    (training → d.linkWorks m.link = true →
      (ones ≠ 8 → exec (.ts1 m) s = .next { s with dev := e }) ∧
      (ones = 8 → exec (.ts1 m) s = .next { s with dev := e.emit (.control m.link 2 x.offered) })) ∧
    (training →
      (x.ts2 + 1 ≠ 8 → exec (.ts2 m) s = .next { s with dev := f }) ∧
      (x.ts2 + 1 = 8 → lanes.1 = 0 → exec (.ts2 m) s = .next { s with dev := f.linkGone m.link }) ∧
      (x.ts2 + 1 = 8 → lanes.1 ≠ 0 → exec (.ts2 m) s = .next { s with dev := ((f.modLink m.link fun y => { y with width := lanes.1, lanes := lanes.2 }).emit (.control m.link 3 lanes.1)) })) ∧
    (d.live = true → d.link? link = some x → x.state = .training → 8 ≤ x.ts2 → x.width = width → depth ≠ 0 →
      exec (.config link depth width credits) s = .next { s with dev := ((((d.modLink link fun y => { y with
        state := .up
        headerCredits := (List.range 4).map fun c => at! credits (2 * c) 0
        dataCredits := (List.range 4).map fun c => at! credits (2 * c + 1) 0
        lastDecode := d.now
        awaitSeq := none }).setRate { kind := .zherek, index := link } (15000 * width)).replayFrom link 0).startForming) }) ∧
    (up → x.replay.findIdx? (·.seq == seq) = some n →
      exec (.nak link seq) s = .next { s with dev := ((d.modLink link fun y => { y with
        replay := y.replay.drop n, ackSeq := (seq + 511) % 512, lastDecode := d.now }).replayFrom link 0) }) ∧
    (d.live = true → exec (.align link) s = .next { s with dev := d.modLink link fun y => { y with lastDecode := d.now } }) ∧
    (up → exec (.retrain link) s = .next { s with dev := d.retrainLink link } ∧
      exec (.down link) s = .next { s with dev := (d.linkGone link).settle } ∧
      exec (.linkDown link) s = .next { s with dev := (d.linkGone link).settle } ∧
      exec (.frameDiscard link seq) s = .next { s with dev := (((d.count (linkOff link 0x618) 1).modLink link fun y => { y with awaitSeq := some (y.awaitSeq.getD seq) }).emit (.control link 4 seq)) } ∧
      exec (.replayTimeout link t) s = .next { s with dev := (d.atTime t).replayFrom link 0 }) ∧
    (d.live = true → d.link? link = some x → x.state = .training →
      (5000000 + x.retrainStart ≤ max d.now t → exec (.linkTrainTimeout link t) s = .next { s with dev := ((d.atTime t).linkGone link).settle }) ∧
      (max d.now t < 5000000 + x.retrainStart → exec (.linkTrainTimeout link t) s = .next { s with dev := d.atTime t })) ∧
    (s.writes w → linkCtrlOf w.reg = some link →
      let enabled := b.modLink link fun y => { y with disabled := false }
      (w.sets 0 = true → a.field (linkOff link 0x600) 0 0 = 0 → b.field (linkOff link 0x600) 0 0 = 1 →
        exec (.linkDisable w) s = .next { s with dev := (((b.emit (.control link 7 0)).modLink link fun y => { y with disabled := true }).linkGone link).settle }) ∧
      (w.sets 1 = true → b.field (linkOff link 0x600) 0 0 ≠ 1 → enabled.linkWorks link = true →
        exec (.linkRetrain w) s = .next { s with dev := (enabled.emit (.control link 6 0)).retrainLink link }))

/-! ### Host memory and dynamic capacity -/

/-- Host accesses (R65, R302, R303): a read of the command aperture reads its slot, an admitted read of a line kept here
is answered with its data and waits while its port has no room, an unknown one with poison and a count; an admitted write
is written, an unknown one completed and counted; the mailbox commands accept, release and list windows and fetch events. -/
def Obligations.HostAccessesComplete : Prop :=
  ∀ (s : State) (a : MemAccess) (en : BitVec 64) (data : List Byte) (fails : List Nat) (dom sa port host dpa : Nat) (x : Extent)
    (ev : DcEvent) (v : Window),
    let d := s.dev.reached (.hdmRead a fails) a.port
    let e := s.dev.reached (.hdmWrite a en data fails) a.port
    let line : Span := { sa := sa, len := 64 }
    let reads := s.dev.serves a.port = true ∧ d.admits = true
    let writes := s.dev.serves a.port = true ∧ e.admits = true
    (reads → a.dpa < 0x10000000 → exec (.hdmRead a fails) s = .next { s with dev := devSlotRead a.port a.host a.dpa d }) ∧
    (reads → 0x10000000 ≤ a.dpa →
      (d.registrar a.host a.dpa false = .admitted dom x sa → d.portFull a.port dom = true →
        exec (.hdmRead a fails) s = .next { s with dev := { d with readWaits := d.readWaits ++ [.hdmRead a fails] } }) ∧
      (d.registrar a.host a.dpa false = .admitted dom x sa → d.portFull a.port dom = false → x.rights ≠ .vitrine → d.isLocal sa = true → fails = [] → d.underRepair line = false →
        (∀ g, d.granule? (sa / 65536) = some g → g.residency ≠ .flash) →
        exec (.hdmRead a fails) s = .next { s with dev := (d.touch [sa / 65536]).toPort a.port dom false 64 none (.memData a.port a.host a.dpa (d.lineData sa)) }) ∧
      (d.registrar a.host a.dpa false = .refused → exec (.hdmRead a fails) s = .next { s with dev := ((d.count (portOff a.port 0x208) 1).toPort a.port 256 false 64 none (.memData a.port a.host a.dpa none)) })) ∧
    (writes → 0x10000000 ≤ a.dpa →
      (e.registrar a.host a.dpa true = .admitted dom x sa → x.rights ≠ .vitrine → e.isLocal sa = true → fails = [] →
        exec (.hdmWrite a en data fails) s = .next { s with dev := e.writeLine { a := a, domain := dom, sa := sa } en data }) ∧
      (e.registrar a.host a.dpa true = .refused → exec (.hdmWrite a en data fails) s = .next { s with dev := ((e.count (portOff a.port 0x208) 1).emit (.ndr a.port a.host a.dpa 0)) })) ∧
    (s.dev.serves port = true →
      (let d := s.dev.reached (.addDynamicCapacityResponse port host dpa ev.len) port;
        d.mailboxOk port host = true → (d.dcEvents.find? fun y => y.host == host && y.add && !y.answered &&
          (ev.len == 0 || (decide (y.dpa ≤ dpa) && decide (dpa + ev.len ≤ y.dpa + y.len)))) = some ev → dpa = ev.dpa →
        d.windows.find? (fun y => y.host == host && y.dpa == ev.dpa && y.len == ev.len && !y.accepted) = some v →
        ∃ evs : List DcEvent, exec (.addDynamicCapacityResponse port host dpa ev.len) s = .next { s with dev := (({ (({ d with dcEvents := evs } : Dev).emit (.mailbox port [])) with windows := replaceFirst (· == v) { v with accepted := true } d.windows } : Dev)) }) ∧
      (let d := s.dev.reached (.releaseDynamicCapacity port host dpa) port;
        d.mailboxOk port host = true → d.windows.find? (fun y => y.host == host && y.accepted && decide (y.dpa ≤ dpa) && decide (dpa < y.dpa + y.len)) = some v →
        exec (.releaseDynamicCapacity port host dpa) s = .next { s with dev :=
          (((d.emit (.mailbox port [])).dropWindow v false).evictLines ((d.emit (.mailbox port [])).cachedBy [v])).settle }) ∧
      (let d := s.dev.reached (.getDynamicCapacityExtentList port host) port;
        d.mailboxOk port host = true → exec (.getDynamicCapacityExtentList port host) s = .next { s with dev := d.emit (.mailbox port
          ((sortOrd (fun (y z : Window) => decide (y.dpa < z.dpa)) (d.windows.filter fun y => y.host == host && y.accepted)).flatMap fun y => natLe y.dpa 8 ++ natLe y.len 8)) }) ∧
      (let d := s.dev.reached (.eventRetrieval port host) port;
        d.mailboxOk port host = true →
        (d.dcEvents.find? (fun y => y.host == host && !y.retrieved) = none → exec (.eventRetrieval port host) s = .next { s with dev := d.emit (.mailbox port []) }) ∧
        (d.dcEvents.find? (fun y => y.host == host && !y.retrieved) = some ev →
          ∃ evs : List DcEvent, exec (.eventRetrieval port host) s = .next { s with dev := (({ d with dcEvents := evs } : Dev).emit (.mailbox port ev.record)) })))

/-! ### The vitrine -/

/-- Vitrine requests for a line kept here take their place at its order point, reads while their port has room for the
answer (R316, R336 to R340), and a sector that fails its check enters the ladder (R403); a write by the owner writes and
shares or drops the line; the answer to a back-invalidation lets the line's transaction go on, a conflict is
acknowledged, a host that does not answer in time is lost, and a port that goes down takes its hosts along. -/
def Obligations.VitrineCommandsComplete : Prop :=
  ∀ (s : State) (a : MemAccess) (en : BitVec 64) (data : List Byte) (metaS : Bool) (fails : List Nat) (x : Extent) (v : VitTxn) (dom sa host line port t : Nat),
    let climbs (d : Dev) : Dev := (fails.filter fun sec => (sectorsOf { sa := sa, len := 64 }).contains sec).foldl (fun d sec => d.startRepair sec .patrol) d
    let kept (d : Dev) (wr : Bool) : Prop := d.admits = true ∧ d.registrar a.host a.dpa wr = .admitted dom x sa ∧ x.rights = .vitrine ∧ d.isLocal sa = true
    (s.dev.serves a.port = true →
      (0x10000000 ≤ a.dpa →
        (let d := s.dev.reached (.memrdSnpcur a fails) a.port;
          kept d false → d.portFull a.port dom = false → exec (.memrdSnpcur a fails) s = .next { s with dev := ((climbs d).vitArrive (sa / 64) dom (.snpCur a.port a.host a.dpa)).afterSnoop }) ∧
        (let d := s.dev.reached (.memrdSnpdata a fails) a.port;
          kept d false → d.portFull a.port dom = false → exec (.memrdSnpdata a fails) s = .next { s with dev := ((climbs d).vitArrive (sa / 64) dom (.snpData a.port a.host a.dpa)).afterSnoop }) ∧
        (let d := s.dev.reached (.memrdSnpinv a fails) a.port;
          kept d false → d.portFull a.port dom = false → exec (.memrdSnpinv a fails) s = .next { s with dev := ((climbs d).vitArrive (sa / 64) dom (.snpInv a.port a.host a.dpa true)).afterSnoop })) ∧
      (let d := s.dev.reached (.meminvSnpinv a) a.port;
        kept d true → exec (.meminvSnpinv a) s = .next { s with dev := (d.vitArrive (sa / 64) dom (.snpInv a.port a.host a.dpa false)).afterSnoop }) ∧
      (let d := s.dev.reached (.memclnevct a) a.port;
        kept d false → exec (.memclnevct a) s = .next { s with dev := (d.vitArrive (sa / 64) dom (.clean a.port a.host a.dpa)).afterSnoop }) ∧
      (let d := s.dev.reached (.vitrineMemwr a en data metaS fails) a.port;
        d.withdrawnLine a = none → kept d true →
        let h : HostWait := { a := a, domain := dom, sa := sa }
        let wrote := d.writeHome h en data fails
        (failingParts h en fails = [] → wrote = d.writeLine h en data) ∧
        (d.ownsLine (sa / 64) a.host = true → exec (.vitrineMemwr a en data metaS fails) s = .next { s with dev := (if metaS then wrote.dirShare (sa / 64) dom a.host else wrote.dirDrop (sa / 64)) }) ∧
        (d.ownsLine (sa / 64) a.host = false → exec (.vitrineMemwr a en data metaS fails) s = .next { s with dev :=
          ((((failingParts h en fails).foldl (fun d sec => d.startRepair sec .patrol) d).vitArrive (sa / 64) dom (.write a.port a.host a.dpa en data)).afterSnoop) }))) ∧
    (s.dev.live = true → s.dev.awaits line host = some v →
      exec (.birsp host line .rspI) s = .next { s with dev := ((s.dev.dirRemove line host).vitAnswered line host).afterSnoop } ∧
      exec (.birsp host line .rspS) s = .next { s with dev := ((s.dev.dirShare line v.domain host).vitAnswered line host).afterSnoop } ∧
      exec (.birsp host line .rspE) s = .next { s with dev := ((s.dev.dirKeep line host).vitAnswered line host).afterSnoop } ∧
      (v.since + s.dev.field 0x6000 31 0 * 1000 ≤ max s.dev.now t →
        exec (.biTimeout host line t) s = .next { s with dev := ((s.dev.atTime t).vitLose v.domain host 2 fun _ => true).afterSnoop })) ∧
    (s.dev.live = true → s.dev.servesMem port = true → s.dev.vitTxns.find? (·.line == line) = some v →
      exec (.biconflict port host line) s = .next { s with dev := s.dev.toPort port v.domain false 0 none (.ndr port host (line * 64) 3) }) ∧
    (s.dev.live = true → s.dev.portUp port = true →
      exec (.cxlPortDown port) s = .next { s with dev := (({ s.dev with
        ports := modifyAll (·.index == port) (fun y => { y with link := .down }) s.dev.ports } : Dev).portLost port).settle })

/-! ### Flash -/

/-- Media operations (R256 to R273): a verified program gives its granule a flash copy, a failed one retires the block and
programs again; an erase counts a cycle or retires the block; a read fills what waits for its granule, the sectors that fail
their check entering the ladder, and a host that waits for good ones gets its line; the block of a read that could not be
corrected is retired; a patrol read is counted, and a marginal block is relocated; a tier at its high mark drops its copies
that flash has too and demotes the rest, oldest first, and one below the mark is left alone. -/
def Obligations.MediaCommandsComplete : Prop :=
  ∀ (s : State) (m : MediaOp) (g : Granule) (h : HostWait) (b : FlashBlock) (fails : List Nat) (granule channel block domain last t : Nat) (verified ok : Bool),
    let d := s.dev
    let programs := d.live = true ∧ d.media.find? (fun x => x.kind == .program && x.granule == granule && x.onMedia) = some m
    let erases := d.live = true ∧ d.media.find? (fun x => x.kind == .erase && x.channel == channel && x.block == block && x.onMedia) = some m
    let e := d.atTime t
    let reads := d.live = true ∧ d.media.find? (fun x => x.kind == .read && x.granule == granule && x.onMedia) = some m
    let mine (b : FlashBlock) : Bool := b.channel == channel && b.number == block
    (programs →
      let r := (d.endMedia m).retireBlock m.channel m.block 1
      let good := (d.endMedia m).modFlash m.channel m.block fun b => { b with erased := false }
      (ok = false ∨ verified = false →
        (m.discard = true → exec (.flashProgramDone granule ok verified) s = .next { s with dev := r }) ∧
        (m.discard = false → m.domain = 256 →
          exec (.flashProgramDone granule ok verified) s = .next { s with dev := (r.queueMedia (MediaOp.make .program granule m.channel 256 (r.blockFor m.channel) [])) }) ∧
        (m.discard = false → m.domain ≠ 256 → exec (.flashProgramDone granule ok verified) s = .next { s with dev := r.demote granule m.domain m.cmds })) ∧
      (m.discard = true → exec (.flashProgramDone granule true true) s = .next { s with dev := good.eraseEmpty m.channel m.block }) ∧
      (m.discard = false → d.granule? granule = some g →
        (g.residency = .dram → m.domain ≠ 256 → exec (.flashProgramDone granule true true) s = .next { s with dev :=
          (((good.setGranule { g with channel := m.channel, block := m.block, residency := .both, dropping := true }).dropReady).settle) }) ∧
        (g.residency ≠ .dram → exec (.flashProgramDone granule true true) s = .next { s with dev :=
          ((good.setGranule { g with channel := m.channel, block := m.block }).eraseEmpty g.channel g.block) }))) ∧
    (erases →
      let w := ((d.endMedia m).modFlash channel block fun b => { b with cycles := b.cycles + 1, reads := 0, erased := true }).showWear
      ((w.flash.any fun b => mine b && decide (max 1 (Config.ratedCycles channel) ≤ b.cycles)) = false → exec (.flashEraseDone channel block true) s = .next { s with dev := w }) ∧
      ((w.flash.any fun b => mine b && decide (max 1 (Config.ratedCycles channel) ≤ b.cycles)) = true →
        exec (.flashEraseDone channel block true) s = .next { s with dev := w.retireBlock channel block 4 }) ∧
      exec (.flashEraseDone channel block false) s = .next { s with dev := (d.endMedia m).retireBlock channel block 2 }) ∧
    (reads →
      let u := ({ e with draws := e.draws + 1 } : Dev).endMedia m
      let bad := e.fillFails granule ok fails
      exec (.flashReadDone granule ok fails t) s = .next { s with dev := ((u.filled m bad).blockRead m ok).serveWaiting } ∧
      (m.cmds = [] → m.fabs = [] → m.hosts = [h] → m.discard = false → u.tierField m.domain 1 1 = 0 → (∀ sec ∈ fails, sec / 2048 ≠ granule) →
        let f := (u.touch [granule]).toPort h.a.port h.domain false 64 none (.memData h.a.port h.a.host h.a.dpa ((u.touch [granule]).lineData h.sa))
        exec (.flashReadDone granule true fails t) s = .next { s with dev := (f.blockRead m true).serveWaiting }) ∧
      ((u.filled m bad).blockRead m false = ((((u.filled m bad).modFlash m.channel m.block fun b => { b with reads := b.reads + 1 }).retireBlock m.channel m.block 3).relocateAll
        (((u.filled m bad).onBlockOf m.channel m.block).filter fun x => x.number != granule)))) ∧
    (d.live = true → exec .governorRelease s = .next { s with dev := d.runMedia }) ∧
    (d.live = true → (d.channels.any fun x => x.index == channel && x.usable && !x.off) = true → d.flash.find? mine = some b → b.lastPatrol = last →
      let p := e.modFlash channel block fun b => { b with reads := b.reads + 1, lastPatrol := e.now }
      (p.underworn channel block = false → exec (.flashPatrol channel block false t) s = .next { s with dev := p }) ∧
      (p.underworn channel block = true → exec (.flashPatrol channel block false t) s = .next { s with dev :=
        (p.relocateAll ((p.onBlockOf channel block).filter fun x => decide (x.lastRead ≤ last))) }) ∧
      exec (.flashPatrol channel block true t) s = .next { s with dev := p.relocate channel block }) ∧
    (d.live = true →
      (d.domainRec domain = none ∨ d.tierField domain 0 0 = 0 ∨ d.flashOpen = false ∨ e.dramUse domain * 100 < d.tierField domain 31 24 * d.dramQuota domain →
        exec (.tierCheck domain t) s = .next { s with dev := e }) ∧
      ((d.domainRec domain).isSome = true → d.tierField domain 0 0 ≠ 0 → d.flashOpen = true → d.tierField domain 31 24 * d.dramQuota domain ≤ e.dramUse domain * 100 →
        let gs := e.eligibleGranules domain
        exec (.tierCheck domain t) s = .next { s with dev := ((e.dropBoth domain gs).demoteDown domain gs).settle } ∧
        (gs = [] → exec (.tierCheck domain t) s = .next { s with dev := e.settle }) ∧
        (gs = [(granule, .both, last)] → e.granule? granule = some g → e.usageOver domain (e.tierField domain 23 16) 0 = true →
          exec (.tierCheck domain t) s = .next { s with dev := ((e.setGranule { g with dropping := true }).dropReady).settle }) ∧
        (gs = [(granule, .dram, last)] → e.usageOver domain (e.tierField domain 23 16) 0 = true → 65536 + e.flashUse domain ≤ e.flashQuota domain →
          (e.media.filter fun x => x.kind == .program && x.domain == domain && !x.discard) = [] →
          exec (.tierCheck domain t) s = .next { s with dev := (e.demote granule domain []).settle })))

/-! ### Faults and repair -/

/-- The repair ladder (R397 to R410): a failing sector of this member enters it at rung 1, the result of a rung ends the
repair, tries again or climbs, rung 4 makes the data anew, and the result of another rung changes nothing; a sector of a
lost member is decoded for what waits for it; the units of a rejoining member are rebuilt one by one, and with the last one
it is lost no more; the parity store's words carry checks of their own, which their writes keep (R385); the host's answer to
an owned read lets the next queued record go to its ring, or lose it. -/
def Obligations.LadderCommandsComplete : Prop :=
  ∀ (s : State) (x : Repair) (area : FaultArea) (cell : FaultRecord) (sector unit off : Nat) (ok : Bool) (ans : OwnedRead) (delta : List Byte),
    let d := s.dev
    let rungs (i : Instr) (n : Nat) (ok : Bool) : Prop :=
      (x.rung ≠ n → exec i s = .next s) ∧
      (x.rung = n → ok = true → n ≠ 4 → d.entryFails sector = false → exec i s = .next { s with dev := d.repairEnds x }) ∧
      (x.rung = n → ok = true → n = 4 → ∀ e : Dev, d.recompute sector = some e → exec i s = .next { s with dev := e.repairEnds x }) ∧
      (x.rung = n → ok = false → (n ≠ 1 ∨ x.tries ≤ 1) → exec i s = .next { s with dev := d.climb x }) ∧
      (x.rung = n → ok = false → n = 1 → 1 < x.tries → exec i s = .next { s with dev := { d with
        repairs := replaceFirst (fun y => y.sector == sector) { x with tries := x.tries - 1 } d.repairs } })
    (d.live = true → exec (.patrolRead sector true) s = .next s ∧
      (d.isLocal (sector * 32) = true → (d.repairs.any fun y => y.sector == sector) = false →
        exec (.patrolRead sector false) s = .next { s with dev := { d with
          repairs := d.repairs ++ [{ sector := sector, rung := 1, tries := d.field 0x8100 7 4, waiters := [.patrol] }] } })) ∧
    (d.live = true → d.repair? sector = some x →
      rungs (.rereadDone sector ok) 1 ok ∧ rungs (.refetchDone sector ok) 2 ok ∧ rungs (.recomputeDone sector ok) 4 ok ∧
      (d.isLocal (sector * 32) = true → rungs (.rebuildDone sector ok) 3 ok)) ∧
    (d.live = true → d.isLocal (sector * 32) = false → d.coll.planK ≠ 0 → d.homeServes (sector * 32) 32 = false →
      (d.canDecode (sector * 32) 32 = false → exec (.rebuildDone sector ok) s = .next { s with dev := d.unitUnserved (d.unitSpan sector) }) ∧
      (d.canDecode (sector * 32) 32 = true → exec (.rebuildDone sector true) s = .next { s with dev := d.unitDecoded (d.unitSpan sector) } ∧
        exec (.rebuildDone sector false) s = .next { s with dev := d.unitUnserved { sa := sector * 32, len := 32 } })) ∧
    (d.live = true → d.coll.state = .formed → d.coll.planK ≠ 0 → d.coll.rebuiltUnits.contains unit = false →
      let target := d.coll.rebuildTarget
      let built := d.modColl fun c => { c with rebuiltUnits := c.rebuiltUnits ++ [unit] }
      let served := if target = d.coll.geoId then built.fillUnit unit else built.sendWaiting target unit
      (d.coll.rejoining.getLsbD target = false → exec (.unitRebuilt unit) s = .next { s with dev := d.sessionUnit unit }) ∧
      (d.coll.rejoining.getLsbD target = true → d.coll.rebuiltUnits.length + 1 < d.coll.rebuildTotal →
        exec (.unitRebuilt unit) s = .next { s with dev := served }) ∧
      (d.coll.rejoining.getLsbD target = true → d.coll.rebuildTotal ≤ d.coll.rebuiltUnits.length + 1 →
        ∃ e : Dev, exec (.unitRebuilt unit) s = .next { s with dev := e } ∧ e.coll.lost.getLsbD target = false ∧
          e.coll.rejoining.getLsbD target = false)) ∧
    ((∀ sec ∈ sectorsOf { sa := off, len := delta.length }, d.parityGood sec = true) →
      ∀ sec, d.parityGood sec = true → (d.addParity off delta).parityGood sec = true) ∧
    (d.live = true → (d.areaState area).waiting = [cell] →
      let e := d.setArea { d.areaState area with waiting := [] }
      let c := areaBase area + 0x18 + 8 * cell.cls
      (ans = .clear → d.portUp cell.port = true → ((e.writeRecord cell).reg c).toNat % 2 ^ 63 ≠ countMax →
        exec (.faultOwnedReadDone area ans) s = .next { s with dev := e.writeRecord cell }) ∧
      (ans = .owned → ((e.lose cell).reg c).toNat % 2 ^ 63 ≠ countMax →
        exec (.faultOwnedReadDone area ans) s = .next { s with dev := e.lose cell }))

/-- A fault record (R412, R414, R415) takes the area's next sequence number. Where its area is enabled, fewer than 64 records
wait, and its port is up if it is the first of them, it is queued, and as the first it has the owned word of slot NEXT read.
Otherwise it is counted lost in its class, the next record is marked as after a loss, and nothing goes out. -/
def Obligations.FaultRecordIsQueuedOrCounted : Prop :=
  ∀ (d : Dev) (a : FaultArea) (cls dom ctx host d0 d1 d2 : Nat) (st : Option Status) (seq : W32), cls ≤ 16 →
    let b := areaBase a
    let c := b + 0x18 + 8 * cls
    let e := d.faultRecord a cls st dom ctx seq host d0 d1 d2
    let port := d.field (b + 8) 19 18
    let room := d.field (b + 8) 0 0 = 1 ∧ (d.areaState a).waiting.length < 64 ∧ ((d.areaState a).waiting ≠ [] ∨ d.portUp port = true)
    e.field (b + 0x10) 31 0 = (d.field (b + 0x10) 31 0 + 1) % 2 ^ 32 ∧ e.points = d.points ∧ e.mem = d.mem ∧ e.ctxs = d.ctxs ∧
    (¬ room → e.reg c = bumpCounter (d.reg c) 1 ∧ e.out = d.out ∧ (e.areaState a).waiting = (d.areaState a).waiting ∧
      (e.areaState a).afterLoss = true ∧ e.field (b + 0x10) 63 63 = 1) ∧
    (room → e.reg c = d.reg c ∧
      ∃ f : FaultRecord, (e.areaState a).waiting = (d.areaState a).waiting ++ [f] ∧ f.cls = cls ∧ f.status = st ∧ f.domain = dom ∧
        f.time = d.now ∧ f.recSeq = BitVec.ofNat 32 (d.field (b + 0x10) 31 0) ∧ f.port = port ∧
        e.out = d.out ++ (if (d.areaState a).waiting = [] then [.ownedRead port (f.base + 64 * e.field (b + 0x10) 43 32)] else []))
end

