-- ==== Sys2Proof/Laws/Memory.lean ====
section
/-! SUPPORT. The byte stores: a read after a write, and that every operation keeps the canonical form. -/

namespace Sys2Proof.Machine

/-- A write of one byte leaves every other address. -/
theorem memGet_memSet_other (m : List Host.Cell) {a b : Nat} (v : Byte) (h : b ≠ a) : memGet (memSet m a v) b = memGet m b := by
  induction m with
  | nil => simp only [memSet]; split <;> simp [memGet, Ne.symm h]
  | cons p t ih =>
    obtain ⟨k, x⟩ := p
    simp only [memSet]
    split
    · split
      · rfl
      · simp [memGet, Ne.symm h]
    · split
      · rename_i _ h2
        subst h2
        split
        · simp [memGet, Ne.symm h]
        · simp [memGet, Ne.symm h]
      · simp only [memGet, ih]

/-- A store in canonical form without its lowest cell is in canonical form. -/
theorem Memory.wf_tail {p : Host.Cell} {t : List Host.Cell} (h : Memory.wf (p :: t) = true) : Memory.wf t = true := by
  cases t with
  | nil => rfl
  | cons q t => simp only [Memory.wf, Bool.and_eq_true] at h; exact h.2

/-- Below its lowest cell a store in canonical form reads 0. -/
theorem memGet_below {m : List Host.Cell} {a : Nat} (h : Memory.wf m = true) (hb : ∀ p ∈ m.head?, a < p.1) : memGet m a = 0 := by
  induction m with
  | nil => rfl
  | cons p t ih =>
    obtain ⟨k, v⟩ := p
    have hk : a < k := hb (k, v) rfl
    simp only [memGet]
    rw [if_neg (by omega)]
    refine ih (Memory.wf_tail h) ?_
    intro q hq
    cases t with
    | nil => simp at hq
    | cons q' t =>
      simp only [List.head?_cons, Option.mem_some_iff] at hq
      subst hq
      simp only [Memory.wf, Bool.and_eq_true, decide_eq_true_eq] at h
      omega

/-- A store in canonical form reads back the byte written. -/
theorem memGet_memSet_self {m : List Host.Cell} (a : Nat) (v : Byte) (h : Memory.wf m = true) : memGet (memSet m a v) a = v := by
  induction m with
  | nil => simp only [memSet]; split <;> simp_all [memGet]
  | cons p t ih =>
    obtain ⟨k, x⟩ := p
    simp only [memSet]
    split
    · rename_i hlt
      split
      · rename_i hv
        rw [hv]
        exact memGet_below h (by simpa using hlt)
      · simp [memGet]
    · split
      · rename_i _ heq
        subst heq
        split
        · rename_i hv
          rw [hv]
          refine memGet_below (Memory.wf_tail h) ?_
          intro q hq
          cases t with
          | nil => simp at hq
          | cons q' t =>
            simp only [List.head?_cons, Option.mem_some_iff] at hq
            subst hq
            simp only [Memory.wf, Bool.and_eq_true, decide_eq_true_eq] at h
            omega
        · simp [memGet]
      · rename_i _ hne
        simp only [memGet]
        rw [if_neg (by omega)]
        exact ih (Memory.wf_tail h)

/-- The lowest address after a write of one byte: the old lowest, the written one, or one above. -/
theorem memSet_head (m : List Host.Cell) (a : Nat) (v : Byte) (n : Nat) (hn : n < a) (h : ∀ p ∈ m.head?, n < p.1)
    (hw : Memory.wf m = true) : ∀ p ∈ (memSet m a v).head?, n < p.1 := by
  cases m with
  | nil => simp only [memSet]; split <;> simp [hn]
  | cons p t =>
    obtain ⟨k, x⟩ := p
    have hk : n < k := h (k, x) rfl
    simp only [memSet]
    split
    · split <;> simp [hn, hk]
    · split
      · split
        · intro q hq
          cases t with
          | nil => simp at hq
          | cons q' t =>
            simp only [List.head?_cons, Option.mem_some_iff] at hq
            subst hq
            simp only [Memory.wf, Bool.and_eq_true, decide_eq_true_eq] at hw
            omega
        · simp [hn]
      · simp [hk]

/-- Putting a nonzero cell below a store in canonical form keeps the form. -/
theorem Memory.wf_cons {k : Nat} {v : Byte} {t : List Host.Cell} (hv : v ≠ 0) (ht : Memory.wf t = true)
    (hk : ∀ p ∈ t.head?, k < p.1) : Memory.wf ((k, v) :: t) = true := by
  cases t with
  | nil => simpa [Memory.wf] using hv
  | cons q t =>
    simp only [Memory.wf, ht, hk q rfl, decide_true, Bool.and_true, bne_iff_ne, ne_eq]
    exact hv

/-- A write of one byte keeps the canonical form. -/
theorem memSet_wf {m : List Host.Cell} (a : Nat) (v : Byte) (h : Memory.wf m = true) : Memory.wf (memSet m a v) = true := by
  induction m with
  | nil =>
    simp only [memSet]
    split
    · rfl
    · rename_i hv; simpa [Memory.wf] using hv
  | cons p t ih =>
    obtain ⟨k, x⟩ := p
    have hx : x ≠ 0 := by
      cases t with
      | nil => simpa [Memory.wf] using h
      | cons q t => simp only [Memory.wf, Bool.and_eq_true] at h; simpa using h.1.1
    have hk : ∀ q ∈ t.head?, k < q.1 := by
      intro q hq
      cases t with
      | nil => simp at hq
      | cons q' t =>
        simp only [List.head?_cons, Option.mem_some_iff] at hq
        subst hq
        simp only [Memory.wf, Bool.and_eq_true, decide_eq_true_eq] at h
        exact h.1.2
    simp only [memSet]
    split
    · rename_i hlt
      split
      · exact h
      · rename_i hv; exact Memory.wf_cons hv h (by simpa using hlt)
    · split
      · rename_i _ heq
        split
        · exact Memory.wf_tail h
        · rename_i hv; subst heq; exact Memory.wf_cons hv (Memory.wf_tail h) hk
      · rename_i hge hne
        exact Memory.wf_cons hx (ih (Memory.wf_tail h)) (memSet_head t a v k (by omega) hk (Memory.wf_tail h))

/-- A write of bytes keeps the canonical form. -/
theorem memWrite_wf {m : List Host.Cell} (a : Nat) (bs : List Byte) (h : Memory.wf m = true) : Memory.wf (memWrite m a bs) = true := by
  induction bs generalizing m a with
  | nil => exact h
  | cons b bs ih => exact ih (a + 1) (memSet_wf a b h)

/-- A write of bytes leaves every address outside it. -/
theorem memGet_memWrite_other (m : List Host.Cell) {a b : Nat} (bs : List Byte) (h : b < a ∨ a + bs.length ≤ b) :
    memGet (memWrite m a bs) b = memGet m b := by
  induction bs generalizing m a with
  | nil => rfl
  | cons x bs ih =>
    simp only [List.length_cons] at h
    rw [memWrite, ih _ (by omega), memGet_memSet_other _ _ (by omega)]

/-- A canonical list whose cells are filtered stays canonical. -/
theorem Memory.wf_filter {m : List Host.Cell} (f : Host.Cell → Bool) (h : Memory.wf m = true) : Memory.wf (m.filter f) = true := by
  have key : ∀ (m : List Host.Cell), Memory.wf m = true → Memory.wf (m.filter f) = true ∧
      ∀ n, (∀ p ∈ m.head?, n < p.1) → ∀ p ∈ (m.filter f).head?, n < p.1 := by
    intro m
    induction m with
    | nil => intro _; simp [Memory.wf]
    | cons p t ih =>
      intro h
      obtain ⟨k, x⟩ := p
      obtain ⟨h1, h2⟩ := ih (Memory.wf_tail h)
      have hx : x ≠ 0 := by
        cases t with
        | nil => simpa [Memory.wf] using h
        | cons q t => simp only [Memory.wf, Bool.and_eq_true] at h; simpa using h.1.1
      have hk : ∀ q ∈ t.head?, k < q.1 := by
        intro q hq
        cases t with
        | nil => simp at hq
        | cons q' t =>
          simp only [List.head?_cons, Option.mem_some_iff] at hq
          subst hq
          simp only [Memory.wf, Bool.and_eq_true, decide_eq_true_eq] at h
          exact h.1.2
      by_cases hf : f (k, x) = true
      · rw [List.filter_cons_of_pos hf]
        exact ⟨Memory.wf_cons hx h1 (h2 k hk), fun n hn => by simpa using hn (k, x) rfl⟩
      · rw [List.filter_cons_of_neg hf]
        refine ⟨h1, fun n hn => h2 n fun q hq => ?_⟩
        have := hk q hq
        have := hn (k, x) rfl
        simp only at this
        omega
  exact (key m h).1

/-- Zeroing a range keeps the canonical form. -/
theorem memZero_wf {m : List Host.Cell} (a n : Nat) (h : Memory.wf m = true) : Memory.wf (memZero m a n) = true :=
  Memory.wf_filter _ h

/-- A write to the device's store keeps its canonical form. -/
theorem Dev.write_wf {d : Dev} (a : Nat) (bs : List Byte) (h : Memory.wf d.mem = true) : Memory.wf (d.write a bs).mem = true :=
  memWrite_wf a bs h

/-- Zeroing a range of the device's store keeps its canonical form. -/
theorem Dev.zeroRange_wf {d : Dev} (a n : Nat) (h : Memory.wf d.mem = true) : Memory.wf (d.zeroRange a n).mem = true :=
  memZero_wf a n h

/-- Poisoning a sector keeps the canonical form of the store. -/
theorem Dev.poisonSector_wf {d : Dev} (sec : Nat) (h : Memory.wf d.mem = true) : Memory.wf (d.poisonSector sec).mem = true :=
  memZero_wf _ _ h

/-- A host write with byte enables keeps the canonical form of the store. -/
theorem Dev.writeEnabled_wf {d : Dev} (sa : Nat) (en : BitVec 64) (data : List Byte) (h : Memory.wf d.mem = true) :
    Memory.wf (d.writeEnabled sa en data).mem = true := by
  have key : ∀ (is : List Nat) (lo : Nat) (m : List Host.Cell), Memory.wf m = true →
      Memory.wf (is.foldl (fun m i => if en.getLsbD (lo + i) then memSet m (sa + lo + i) (at! data (lo + i) 0) else m) m) = true := by
    intro is lo
    induction is with
    | nil => intro m h; exact h
    | cons i is ih =>
      intro m h
      rw [List.foldl_cons]
      apply ih
      split
      · exact memSet_wf _ _ h
      · exact h
  simp only [Dev.writeEnabled]
  split
  · exact memWrite_wf _ _ h
  · have half : ∀ (d : Dev) (lo : Nat), Memory.wf d.mem = true → Memory.wf ((if ((List.range 32).all fun i => en.getLsbD (lo + i)) then
        d.write (sa + lo) (slice data lo 32) else ({ d with mem := ((List.range 32).foldl
          (fun (m : List Host.Cell) i => if en.getLsbD (lo + i) then memSet m (sa + lo + i) (at! data (lo + i) 0) else m) d.mem) } : Dev) : Dev)).mem = true := by
      intro d lo h
      split
      · exact memWrite_wf _ _ h
      · exact key _ _ _ h
    exact half _ 32 (half d 0 h)

/-- The stores of the reset state are in canonical form. -/
theorem State.reset_canonical : Memory.wf State.reset.dev.mem = true ∧ Memory.wf State.reset.dev.parity = true ∧
    Memory.wf State.reset.dev.bootFlash = true := by decide

end Sys2Proof.Machine
end

