-- ==== Sys2Proof/Laws/Regs.lean ====
section
/-! SUPPORT. Stored registers and fault areas: what a change of one does to what is read of it. -/

namespace Sys2Proof.Machine

/-- What is inserted under a key is found under it. -/
theorem find?_insertBy_self {α : Type} (key : α → Nat) (y : α) (xs : List α) :
    (insertBy key y xs).find? (fun e => key e == key y) = some y := by
  induction xs with
  | nil => simp [insertBy]
  | cons x xs ih =>
    simp only [insertBy]
    split
    · simp
    · split
      · simp
      · rename_i h; rw [List.find?_cons_of_neg (by simp; omega)]; exact ih

/-- What is found under another key stays. -/
theorem find?_insertBy_other {α : Type} (key : α → Nat) (y : α) {k : Nat} (hk : key y ≠ k) (xs : List α) :
    (insertBy key y xs).find? (fun e => key e == k) = xs.find? (fun e => key e == k) := by
  induction xs with
  | nil => simp [insertBy, hk]
  | cons x xs ih =>
    simp only [insertBy]
    split
    · rw [List.find?_cons_of_neg (by simpa using hk)]
    · split
      · rename_i h; rw [List.find?_cons_of_neg (by simpa using hk), List.find?_cons_of_neg (by simp; omega)]
      · simp only [List.find?_cons, ih]

/-- A register reads what was stored in it. -/
@[simp] theorem Dev.reg_setReg_self (d : Dev) (o : Nat) (v : W64) : (d.setReg o v).reg o = v := by
  have := find?_insertBy_self (fun (e : Nat × W64) => e.1) (o, v) d.regs
  simp only at this
  simp only [Dev.reg, Dev.setReg, this]

/-- Another register reads as before. -/
theorem Dev.reg_setReg_other (d : Dev) {o p : Nat} (v : W64) (h : o ≠ p) : (d.setReg o v).reg p = d.reg p := by
  have := find?_insertBy_other (fun (e : Nat × W64) => e.1) (o, v) h d.regs
  simp only [Dev.reg, Dev.setReg, this]; rfl

/-- Setting a field leaves every other register. -/
theorem Dev.reg_setField_other (d : Dev) {o p : Nat} (hi lo x : Nat) (h : o ≠ p) : (d.setField o hi lo x).reg p = d.reg p :=
  d.reg_setReg_other _ h

/-- An area holds what was put into it. -/
@[simp] theorem Dev.areaState_setArea (d : Dev) (x : FaultAreaState) : (d.setArea x).areaState x.area = x := by
  simp [Dev.areaState, Dev.setArea]

/-- What an area holds names the area. -/
@[simp] theorem Dev.areaState_area (d : Dev) (a : FaultArea) : (d.areaState a).area = a := by
  simp only [Dev.areaState]
  cases h : d.faults.find? (·.area == a) with
  | none => rfl
  | some x => simpa using List.find?_some h

end Sys2Proof.Machine
end

