-- ==== Sys2Proof/Laws/State.lean ====
section
/-! SUPPORT. What each update of the device leaves unchanged, field by field: every lemma holds by unfolding, so no proof
unfolds a record update. -/

namespace Sys2Proof.Machine

/-! ### setReg -/

@[simp] theorem Dev.setReg_regs (d : Dev) (off : Nat) (v : W64) : (d.setReg off v).regs = insertBy (·.1) (off, v) d.regs := rfl
@[simp] theorem Dev.setReg_now (d : Dev) (off : Nat) (v : W64) : (d.setReg off v).now = d.now := rfl
@[simp] theorem Dev.setReg_full (d : Dev) (off : Nat) (v : W64) : (d.setReg off v).full = d.full := rfl
@[simp] theorem Dev.setReg_parityChecks (d : Dev) (off : Nat) (v : W64) : (d.setReg off v).parityChecks = d.parityChecks := rfl
@[simp] theorem Dev.setReg_missTurn (d : Dev) (off : Nat) (v : W64) : (d.setReg off v).missTurn = d.missTurn := rfl
@[simp] theorem Dev.setReg_arbiters (d : Dev) (off : Nat) (v : W64) : (d.setReg off v).arbiters = d.arbiters := rfl
@[simp] theorem Dev.setReg_masked (d : Dev) (off : Nat) (v : W64) : (d.setReg off v).masked = d.masked := rfl
@[simp] theorem Dev.setReg_landings (d : Dev) (off : Nat) (v : W64) : (d.setReg off v).landings = d.landings := rfl
@[simp] theorem Dev.setReg_leaving (d : Dev) (off : Nat) (v : W64) : (d.setReg off v).leaving = d.leaving := rfl
@[simp] theorem Dev.setReg_rowLocks (d : Dev) (off : Nat) (v : W64) : (d.setReg off v).rowLocks = d.rowLocks := rfl
@[simp] theorem Dev.setReg_nextStep (d : Dev) (off : Nat) (v : W64) : (d.setReg off v).nextStep = d.nextStep := rfl
@[simp] theorem Dev.setReg_draws (d : Dev) (off : Nat) (v : W64) : (d.setReg off v).draws = d.draws := rfl
@[simp] theorem Dev.setReg_order (d : Dev) (off : Nat) (v : W64) : (d.setReg off v).order = d.order := rfl
@[simp] theorem Dev.setReg_fuses (d : Dev) (off : Nat) (v : W64) : (d.setReg off v).fuses = d.fuses := rfl
@[simp] theorem Dev.setReg_acc (d : Dev) (off : Nat) (v : W64) : (d.setReg off v).acc = d.acc := rfl
@[simp] theorem Dev.setReg_fw (d : Dev) (off : Nat) (v : W64) : (d.setReg off v).fw = d.fw := rfl
@[simp] theorem Dev.setReg_pairs (d : Dev) (off : Nat) (v : W64) : (d.setReg off v).pairs = d.pairs := rfl
@[simp] theorem Dev.setReg_galleries (d : Dev) (off : Nat) (v : W64) : (d.setReg off v).galleries = d.galleries := rfl
@[simp] theorem Dev.setReg_stackUnits (d : Dev) (off : Nat) (v : W64) : (d.setReg off v).stackUnits = d.stackUnits := rfl
@[simp] theorem Dev.setReg_ports (d : Dev) (off : Nat) (v : W64) : (d.setReg off v).ports = d.ports := rfl
@[simp] theorem Dev.setReg_image (d : Dev) (off : Nat) (v : W64) : (d.setReg off v).image = d.image := rfl
@[simp] theorem Dev.setReg_partials (d : Dev) (off : Nat) (v : W64) : (d.setReg off v).partials = d.partials := rfl
@[simp] theorem Dev.setReg_load (d : Dev) (off : Nat) (v : W64) : (d.setReg off v).load = d.load := rfl
@[simp] theorem Dev.setReg_ctxs (d : Dev) (off : Nat) (v : W64) : (d.setReg off v).ctxs = d.ctxs := rfl
@[simp] theorem Dev.setReg_resetActive (d : Dev) (off : Nat) (v : W64) : (d.setReg off v).resetActive = d.resetActive := rfl
@[simp] theorem Dev.setReg_mem (d : Dev) (off : Nat) (v : W64) : (d.setReg off v).mem = d.mem := rfl
@[simp] theorem Dev.setReg_parity (d : Dev) (off : Nat) (v : W64) : (d.setReg off v).parity = d.parity := rfl
@[simp] theorem Dev.setReg_poison (d : Dev) (off : Nat) (v : W64) : (d.setReg off v).poison = d.poison := rfl
@[simp] theorem Dev.setReg_repairs (d : Dev) (off : Nat) (v : W64) : (d.setReg off v).repairs = d.repairs := rfl
@[simp] theorem Dev.setReg_repaired (d : Dev) (off : Nat) (v : W64) : (d.setReg off v).repaired = d.repaired := rfl
@[simp] theorem Dev.setReg_extents (d : Dev) (off : Nat) (v : W64) : (d.setReg off v).extents = d.extents := rfl
@[simp] theorem Dev.setReg_nextGen (d : Dev) (off : Nat) (v : W64) : (d.setReg off v).nextGen = d.nextGen := rfl
@[simp] theorem Dev.setReg_windows (d : Dev) (off : Nat) (v : W64) : (d.setReg off v).windows = d.windows := rfl
@[simp] theorem Dev.setReg_dcEvents (d : Dev) (off : Nat) (v : W64) : (d.setReg off v).dcEvents = d.dcEvents := rfl
@[simp] theorem Dev.setReg_loans (d : Dev) (off : Nat) (v : W64) : (d.setReg off v).loans = d.loans := rfl
@[simp] theorem Dev.setReg_xcEast (d : Dev) (off : Nat) (v : W64) : (d.setReg off v).xcEast = d.xcEast := rfl
@[simp] theorem Dev.setReg_xcWest (d : Dev) (off : Nat) (v : W64) : (d.setReg off v).xcWest = d.xcWest := rfl
@[simp] theorem Dev.setReg_blocks (d : Dev) (off : Nat) (v : W64) : (d.setReg off v).blocks = d.blocks := rfl
@[simp] theorem Dev.setReg_nextBlock (d : Dev) (off : Nat) (v : W64) : (d.setReg off v).nextBlock = d.nextBlock := rfl
@[simp] theorem Dev.setReg_tables (d : Dev) (off : Nat) (v : W64) : (d.setReg off v).tables = d.tables := rfl
@[simp] theorem Dev.setReg_indexes (d : Dev) (off : Nat) (v : W64) : (d.setReg off v).indexes = d.indexes := rfl
@[simp] theorem Dev.setReg_granules (d : Dev) (off : Nat) (v : W64) : (d.setReg off v).granules = d.granules := rfl
@[simp] theorem Dev.setReg_media (d : Dev) (off : Nat) (v : W64) : (d.setReg off v).media = d.media := rfl
@[simp] theorem Dev.setReg_flash (d : Dev) (off : Nat) (v : W64) : (d.setReg off v).flash = d.flash := rfl
@[simp] theorem Dev.setReg_channels (d : Dev) (off : Nat) (v : W64) : (d.setReg off v).channels = d.channels := rfl
@[simp] theorem Dev.setReg_lastChannel (d : Dev) (off : Nat) (v : W64) : (d.setReg off v).lastChannel = d.lastChannel := rfl
@[simp] theorem Dev.setReg_peCache (d : Dev) (off : Nat) (v : W64) : (d.setReg off v).peCache = d.peCache := rfl
@[simp] theorem Dev.setReg_fabCache (d : Dev) (off : Nat) (v : W64) : (d.setReg off v).fabCache = d.fabCache := rfl
@[simp] theorem Dev.setReg_points (d : Dev) (off : Nat) (v : W64) : (d.setReg off v).points = d.points := rfl
@[simp] theorem Dev.setReg_directory (d : Dev) (off : Nat) (v : W64) : (d.setReg off v).directory = d.directory := rfl
@[simp] theorem Dev.setReg_vitTxns (d : Dev) (off : Nat) (v : W64) : (d.setReg off v).vitTxns = d.vitTxns := rfl
@[simp] theorem Dev.setReg_links (d : Dev) (off : Nat) (v : W64) : (d.setReg off v).links = d.links := rfl
@[simp] theorem Dev.setReg_coll (d : Dev) (off : Nat) (v : W64) : (d.setReg off v).coll = d.coll := rfl
@[simp] theorem Dev.setReg_exports (d : Dev) (off : Nat) (v : W64) : (d.setReg off v).exports = d.exports := rfl
@[simp] theorem Dev.setReg_serving (d : Dev) (off : Nat) (v : W64) : (d.setReg off v).serving = d.serving := rfl
@[simp] theorem Dev.setReg_carried (d : Dev) (off : Nat) (v : W64) : (d.setReg off v).carried = d.carried := rfl
@[simp] theorem Dev.setReg_readWaits (d : Dev) (off : Nat) (v : W64) : (d.setReg off v).readWaits = d.readWaits := rfl
@[simp] theorem Dev.setReg_nextTag (d : Dev) (off : Nat) (v : W64) : (d.setReg off v).nextTag = d.nextTag := rfl
@[simp] theorem Dev.setReg_faults (d : Dev) (off : Nat) (v : W64) : (d.setReg off v).faults = d.faults := rfl
@[simp] theorem Dev.setReg_power (d : Dev) (off : Nat) (v : W64) : (d.setReg off v).power = d.power := rfl
@[simp] theorem Dev.setReg_pins (d : Dev) (off : Nat) (v : W64) : (d.setReg off v).pins = d.pins := rfl
@[simp] theorem Dev.setReg_docent (d : Dev) (off : Nat) (v : W64) : (d.setReg off v).docent = d.docent := rfl
@[simp] theorem Dev.setReg_bootFlash (d : Dev) (off : Nat) (v : W64) : (d.setReg off v).bootFlash = d.bootFlash := rfl
@[simp] theorem Dev.setReg_out (d : Dev) (off : Nat) (v : W64) : (d.setReg off v).out = d.out := rfl

/-! ### setField -/

@[simp] theorem Dev.setField_now (d : Dev) (off hi lo x : Nat) : (d.setField off hi lo x).now = d.now := rfl
@[simp] theorem Dev.setField_full (d : Dev) (off hi lo x : Nat) : (d.setField off hi lo x).full = d.full := rfl
@[simp] theorem Dev.setField_parityChecks (d : Dev) (off hi lo x : Nat) : (d.setField off hi lo x).parityChecks = d.parityChecks := rfl
@[simp] theorem Dev.setField_missTurn (d : Dev) (off hi lo x : Nat) : (d.setField off hi lo x).missTurn = d.missTurn := rfl
@[simp] theorem Dev.setField_arbiters (d : Dev) (off hi lo x : Nat) : (d.setField off hi lo x).arbiters = d.arbiters := rfl
@[simp] theorem Dev.setField_masked (d : Dev) (off hi lo x : Nat) : (d.setField off hi lo x).masked = d.masked := rfl
@[simp] theorem Dev.setField_landings (d : Dev) (off hi lo x : Nat) : (d.setField off hi lo x).landings = d.landings := rfl
@[simp] theorem Dev.setField_leaving (d : Dev) (off hi lo x : Nat) : (d.setField off hi lo x).leaving = d.leaving := rfl
@[simp] theorem Dev.setField_rowLocks (d : Dev) (off hi lo x : Nat) : (d.setField off hi lo x).rowLocks = d.rowLocks := rfl
@[simp] theorem Dev.setField_nextStep (d : Dev) (off hi lo x : Nat) : (d.setField off hi lo x).nextStep = d.nextStep := rfl
@[simp] theorem Dev.setField_draws (d : Dev) (off hi lo x : Nat) : (d.setField off hi lo x).draws = d.draws := rfl
@[simp] theorem Dev.setField_order (d : Dev) (off hi lo x : Nat) : (d.setField off hi lo x).order = d.order := rfl
@[simp] theorem Dev.setField_fuses (d : Dev) (off hi lo x : Nat) : (d.setField off hi lo x).fuses = d.fuses := rfl
@[simp] theorem Dev.setField_acc (d : Dev) (off hi lo x : Nat) : (d.setField off hi lo x).acc = d.acc := rfl
@[simp] theorem Dev.setField_fw (d : Dev) (off hi lo x : Nat) : (d.setField off hi lo x).fw = d.fw := rfl
@[simp] theorem Dev.setField_pairs (d : Dev) (off hi lo x : Nat) : (d.setField off hi lo x).pairs = d.pairs := rfl
@[simp] theorem Dev.setField_galleries (d : Dev) (off hi lo x : Nat) : (d.setField off hi lo x).galleries = d.galleries := rfl
@[simp] theorem Dev.setField_stackUnits (d : Dev) (off hi lo x : Nat) : (d.setField off hi lo x).stackUnits = d.stackUnits := rfl
@[simp] theorem Dev.setField_ports (d : Dev) (off hi lo x : Nat) : (d.setField off hi lo x).ports = d.ports := rfl
@[simp] theorem Dev.setField_image (d : Dev) (off hi lo x : Nat) : (d.setField off hi lo x).image = d.image := rfl
@[simp] theorem Dev.setField_partials (d : Dev) (off hi lo x : Nat) : (d.setField off hi lo x).partials = d.partials := rfl
@[simp] theorem Dev.setField_load (d : Dev) (off hi lo x : Nat) : (d.setField off hi lo x).load = d.load := rfl
@[simp] theorem Dev.setField_ctxs (d : Dev) (off hi lo x : Nat) : (d.setField off hi lo x).ctxs = d.ctxs := rfl
@[simp] theorem Dev.setField_resetActive (d : Dev) (off hi lo x : Nat) : (d.setField off hi lo x).resetActive = d.resetActive := rfl
@[simp] theorem Dev.setField_mem (d : Dev) (off hi lo x : Nat) : (d.setField off hi lo x).mem = d.mem := rfl
@[simp] theorem Dev.setField_parity (d : Dev) (off hi lo x : Nat) : (d.setField off hi lo x).parity = d.parity := rfl
@[simp] theorem Dev.setField_poison (d : Dev) (off hi lo x : Nat) : (d.setField off hi lo x).poison = d.poison := rfl
@[simp] theorem Dev.setField_repairs (d : Dev) (off hi lo x : Nat) : (d.setField off hi lo x).repairs = d.repairs := rfl
@[simp] theorem Dev.setField_repaired (d : Dev) (off hi lo x : Nat) : (d.setField off hi lo x).repaired = d.repaired := rfl
@[simp] theorem Dev.setField_extents (d : Dev) (off hi lo x : Nat) : (d.setField off hi lo x).extents = d.extents := rfl
@[simp] theorem Dev.setField_nextGen (d : Dev) (off hi lo x : Nat) : (d.setField off hi lo x).nextGen = d.nextGen := rfl
@[simp] theorem Dev.setField_windows (d : Dev) (off hi lo x : Nat) : (d.setField off hi lo x).windows = d.windows := rfl
@[simp] theorem Dev.setField_dcEvents (d : Dev) (off hi lo x : Nat) : (d.setField off hi lo x).dcEvents = d.dcEvents := rfl
@[simp] theorem Dev.setField_loans (d : Dev) (off hi lo x : Nat) : (d.setField off hi lo x).loans = d.loans := rfl
@[simp] theorem Dev.setField_xcEast (d : Dev) (off hi lo x : Nat) : (d.setField off hi lo x).xcEast = d.xcEast := rfl
@[simp] theorem Dev.setField_xcWest (d : Dev) (off hi lo x : Nat) : (d.setField off hi lo x).xcWest = d.xcWest := rfl
@[simp] theorem Dev.setField_blocks (d : Dev) (off hi lo x : Nat) : (d.setField off hi lo x).blocks = d.blocks := rfl
@[simp] theorem Dev.setField_nextBlock (d : Dev) (off hi lo x : Nat) : (d.setField off hi lo x).nextBlock = d.nextBlock := rfl
@[simp] theorem Dev.setField_tables (d : Dev) (off hi lo x : Nat) : (d.setField off hi lo x).tables = d.tables := rfl
@[simp] theorem Dev.setField_indexes (d : Dev) (off hi lo x : Nat) : (d.setField off hi lo x).indexes = d.indexes := rfl
@[simp] theorem Dev.setField_granules (d : Dev) (off hi lo x : Nat) : (d.setField off hi lo x).granules = d.granules := rfl
@[simp] theorem Dev.setField_media (d : Dev) (off hi lo x : Nat) : (d.setField off hi lo x).media = d.media := rfl
@[simp] theorem Dev.setField_flash (d : Dev) (off hi lo x : Nat) : (d.setField off hi lo x).flash = d.flash := rfl
@[simp] theorem Dev.setField_channels (d : Dev) (off hi lo x : Nat) : (d.setField off hi lo x).channels = d.channels := rfl
@[simp] theorem Dev.setField_lastChannel (d : Dev) (off hi lo x : Nat) : (d.setField off hi lo x).lastChannel = d.lastChannel := rfl
@[simp] theorem Dev.setField_peCache (d : Dev) (off hi lo x : Nat) : (d.setField off hi lo x).peCache = d.peCache := rfl
@[simp] theorem Dev.setField_fabCache (d : Dev) (off hi lo x : Nat) : (d.setField off hi lo x).fabCache = d.fabCache := rfl
@[simp] theorem Dev.setField_points (d : Dev) (off hi lo x : Nat) : (d.setField off hi lo x).points = d.points := rfl
@[simp] theorem Dev.setField_directory (d : Dev) (off hi lo x : Nat) : (d.setField off hi lo x).directory = d.directory := rfl
@[simp] theorem Dev.setField_vitTxns (d : Dev) (off hi lo x : Nat) : (d.setField off hi lo x).vitTxns = d.vitTxns := rfl
@[simp] theorem Dev.setField_links (d : Dev) (off hi lo x : Nat) : (d.setField off hi lo x).links = d.links := rfl
@[simp] theorem Dev.setField_coll (d : Dev) (off hi lo x : Nat) : (d.setField off hi lo x).coll = d.coll := rfl
@[simp] theorem Dev.setField_exports (d : Dev) (off hi lo x : Nat) : (d.setField off hi lo x).exports = d.exports := rfl
@[simp] theorem Dev.setField_serving (d : Dev) (off hi lo x : Nat) : (d.setField off hi lo x).serving = d.serving := rfl
@[simp] theorem Dev.setField_carried (d : Dev) (off hi lo x : Nat) : (d.setField off hi lo x).carried = d.carried := rfl
@[simp] theorem Dev.setField_readWaits (d : Dev) (off hi lo x : Nat) : (d.setField off hi lo x).readWaits = d.readWaits := rfl
@[simp] theorem Dev.setField_nextTag (d : Dev) (off hi lo x : Nat) : (d.setField off hi lo x).nextTag = d.nextTag := rfl
@[simp] theorem Dev.setField_faults (d : Dev) (off hi lo x : Nat) : (d.setField off hi lo x).faults = d.faults := rfl
@[simp] theorem Dev.setField_power (d : Dev) (off hi lo x : Nat) : (d.setField off hi lo x).power = d.power := rfl
@[simp] theorem Dev.setField_pins (d : Dev) (off hi lo x : Nat) : (d.setField off hi lo x).pins = d.pins := rfl
@[simp] theorem Dev.setField_docent (d : Dev) (off hi lo x : Nat) : (d.setField off hi lo x).docent = d.docent := rfl
@[simp] theorem Dev.setField_bootFlash (d : Dev) (off hi lo x : Nat) : (d.setField off hi lo x).bootFlash = d.bootFlash := rfl
@[simp] theorem Dev.setField_out (d : Dev) (off hi lo x : Nat) : (d.setField off hi lo x).out = d.out := rfl

/-! ### emit -/

@[simp] theorem Dev.emit_out (d : Dev) (m : OutMsg) : (d.emit m).out = d.out ++ [m] := rfl
@[simp] theorem Dev.emit_now (d : Dev) (m : OutMsg) : (d.emit m).now = d.now := rfl
@[simp] theorem Dev.emit_full (d : Dev) (m : OutMsg) : (d.emit m).full = d.full := rfl
@[simp] theorem Dev.emit_parityChecks (d : Dev) (m : OutMsg) : (d.emit m).parityChecks = d.parityChecks := rfl
@[simp] theorem Dev.emit_missTurn (d : Dev) (m : OutMsg) : (d.emit m).missTurn = d.missTurn := rfl
@[simp] theorem Dev.emit_arbiters (d : Dev) (m : OutMsg) : (d.emit m).arbiters = d.arbiters := rfl
@[simp] theorem Dev.emit_masked (d : Dev) (m : OutMsg) : (d.emit m).masked = d.masked := rfl
@[simp] theorem Dev.emit_landings (d : Dev) (m : OutMsg) : (d.emit m).landings = d.landings := rfl
@[simp] theorem Dev.emit_leaving (d : Dev) (m : OutMsg) : (d.emit m).leaving = d.leaving := rfl
@[simp] theorem Dev.emit_rowLocks (d : Dev) (m : OutMsg) : (d.emit m).rowLocks = d.rowLocks := rfl
@[simp] theorem Dev.emit_nextStep (d : Dev) (m : OutMsg) : (d.emit m).nextStep = d.nextStep := rfl
@[simp] theorem Dev.emit_draws (d : Dev) (m : OutMsg) : (d.emit m).draws = d.draws := rfl
@[simp] theorem Dev.emit_order (d : Dev) (m : OutMsg) : (d.emit m).order = d.order := rfl
@[simp] theorem Dev.emit_regs (d : Dev) (m : OutMsg) : (d.emit m).regs = d.regs := rfl
@[simp] theorem Dev.emit_fuses (d : Dev) (m : OutMsg) : (d.emit m).fuses = d.fuses := rfl
@[simp] theorem Dev.emit_acc (d : Dev) (m : OutMsg) : (d.emit m).acc = d.acc := rfl
@[simp] theorem Dev.emit_fw (d : Dev) (m : OutMsg) : (d.emit m).fw = d.fw := rfl
@[simp] theorem Dev.emit_pairs (d : Dev) (m : OutMsg) : (d.emit m).pairs = d.pairs := rfl
@[simp] theorem Dev.emit_galleries (d : Dev) (m : OutMsg) : (d.emit m).galleries = d.galleries := rfl
@[simp] theorem Dev.emit_stackUnits (d : Dev) (m : OutMsg) : (d.emit m).stackUnits = d.stackUnits := rfl
@[simp] theorem Dev.emit_ports (d : Dev) (m : OutMsg) : (d.emit m).ports = d.ports := rfl
@[simp] theorem Dev.emit_image (d : Dev) (m : OutMsg) : (d.emit m).image = d.image := rfl
@[simp] theorem Dev.emit_partials (d : Dev) (m : OutMsg) : (d.emit m).partials = d.partials := rfl
@[simp] theorem Dev.emit_load (d : Dev) (m : OutMsg) : (d.emit m).load = d.load := rfl
@[simp] theorem Dev.emit_ctxs (d : Dev) (m : OutMsg) : (d.emit m).ctxs = d.ctxs := rfl
@[simp] theorem Dev.emit_resetActive (d : Dev) (m : OutMsg) : (d.emit m).resetActive = d.resetActive := rfl
@[simp] theorem Dev.emit_mem (d : Dev) (m : OutMsg) : (d.emit m).mem = d.mem := rfl
@[simp] theorem Dev.emit_parity (d : Dev) (m : OutMsg) : (d.emit m).parity = d.parity := rfl
@[simp] theorem Dev.emit_poison (d : Dev) (m : OutMsg) : (d.emit m).poison = d.poison := rfl
@[simp] theorem Dev.emit_repairs (d : Dev) (m : OutMsg) : (d.emit m).repairs = d.repairs := rfl
@[simp] theorem Dev.emit_repaired (d : Dev) (m : OutMsg) : (d.emit m).repaired = d.repaired := rfl
@[simp] theorem Dev.emit_extents (d : Dev) (m : OutMsg) : (d.emit m).extents = d.extents := rfl
@[simp] theorem Dev.emit_nextGen (d : Dev) (m : OutMsg) : (d.emit m).nextGen = d.nextGen := rfl
@[simp] theorem Dev.emit_windows (d : Dev) (m : OutMsg) : (d.emit m).windows = d.windows := rfl
@[simp] theorem Dev.emit_dcEvents (d : Dev) (m : OutMsg) : (d.emit m).dcEvents = d.dcEvents := rfl
@[simp] theorem Dev.emit_loans (d : Dev) (m : OutMsg) : (d.emit m).loans = d.loans := rfl
@[simp] theorem Dev.emit_xcEast (d : Dev) (m : OutMsg) : (d.emit m).xcEast = d.xcEast := rfl
@[simp] theorem Dev.emit_xcWest (d : Dev) (m : OutMsg) : (d.emit m).xcWest = d.xcWest := rfl
@[simp] theorem Dev.emit_blocks (d : Dev) (m : OutMsg) : (d.emit m).blocks = d.blocks := rfl
@[simp] theorem Dev.emit_nextBlock (d : Dev) (m : OutMsg) : (d.emit m).nextBlock = d.nextBlock := rfl
@[simp] theorem Dev.emit_tables (d : Dev) (m : OutMsg) : (d.emit m).tables = d.tables := rfl
@[simp] theorem Dev.emit_indexes (d : Dev) (m : OutMsg) : (d.emit m).indexes = d.indexes := rfl
@[simp] theorem Dev.emit_granules (d : Dev) (m : OutMsg) : (d.emit m).granules = d.granules := rfl
@[simp] theorem Dev.emit_media (d : Dev) (m : OutMsg) : (d.emit m).media = d.media := rfl
@[simp] theorem Dev.emit_flash (d : Dev) (m : OutMsg) : (d.emit m).flash = d.flash := rfl
@[simp] theorem Dev.emit_channels (d : Dev) (m : OutMsg) : (d.emit m).channels = d.channels := rfl
@[simp] theorem Dev.emit_lastChannel (d : Dev) (m : OutMsg) : (d.emit m).lastChannel = d.lastChannel := rfl
@[simp] theorem Dev.emit_peCache (d : Dev) (m : OutMsg) : (d.emit m).peCache = d.peCache := rfl
@[simp] theorem Dev.emit_fabCache (d : Dev) (m : OutMsg) : (d.emit m).fabCache = d.fabCache := rfl
@[simp] theorem Dev.emit_points (d : Dev) (m : OutMsg) : (d.emit m).points = d.points := rfl
@[simp] theorem Dev.emit_directory (d : Dev) (m : OutMsg) : (d.emit m).directory = d.directory := rfl
@[simp] theorem Dev.emit_vitTxns (d : Dev) (m : OutMsg) : (d.emit m).vitTxns = d.vitTxns := rfl
@[simp] theorem Dev.emit_links (d : Dev) (m : OutMsg) : (d.emit m).links = d.links := rfl
@[simp] theorem Dev.emit_coll (d : Dev) (m : OutMsg) : (d.emit m).coll = d.coll := rfl
@[simp] theorem Dev.emit_exports (d : Dev) (m : OutMsg) : (d.emit m).exports = d.exports := rfl
@[simp] theorem Dev.emit_serving (d : Dev) (m : OutMsg) : (d.emit m).serving = d.serving := rfl
@[simp] theorem Dev.emit_carried (d : Dev) (m : OutMsg) : (d.emit m).carried = d.carried := rfl
@[simp] theorem Dev.emit_readWaits (d : Dev) (m : OutMsg) : (d.emit m).readWaits = d.readWaits := rfl
@[simp] theorem Dev.emit_nextTag (d : Dev) (m : OutMsg) : (d.emit m).nextTag = d.nextTag := rfl
@[simp] theorem Dev.emit_faults (d : Dev) (m : OutMsg) : (d.emit m).faults = d.faults := rfl
@[simp] theorem Dev.emit_power (d : Dev) (m : OutMsg) : (d.emit m).power = d.power := rfl
@[simp] theorem Dev.emit_pins (d : Dev) (m : OutMsg) : (d.emit m).pins = d.pins := rfl
@[simp] theorem Dev.emit_docent (d : Dev) (m : OutMsg) : (d.emit m).docent = d.docent := rfl
@[simp] theorem Dev.emit_bootFlash (d : Dev) (m : OutMsg) : (d.emit m).bootFlash = d.bootFlash := rfl

/-! ### setArea -/

@[simp] theorem Dev.setArea_faults (d : Dev) (x : FaultAreaState) : (d.setArea x).faults = x :: d.faults.filter (·.area != x.area) := rfl
@[simp] theorem Dev.setArea_now (d : Dev) (x : FaultAreaState) : (d.setArea x).now = d.now := rfl
@[simp] theorem Dev.setArea_full (d : Dev) (x : FaultAreaState) : (d.setArea x).full = d.full := rfl
@[simp] theorem Dev.setArea_parityChecks (d : Dev) (x : FaultAreaState) : (d.setArea x).parityChecks = d.parityChecks := rfl
@[simp] theorem Dev.setArea_missTurn (d : Dev) (x : FaultAreaState) : (d.setArea x).missTurn = d.missTurn := rfl
@[simp] theorem Dev.setArea_arbiters (d : Dev) (x : FaultAreaState) : (d.setArea x).arbiters = d.arbiters := rfl
@[simp] theorem Dev.setArea_masked (d : Dev) (x : FaultAreaState) : (d.setArea x).masked = d.masked := rfl
@[simp] theorem Dev.setArea_landings (d : Dev) (x : FaultAreaState) : (d.setArea x).landings = d.landings := rfl
@[simp] theorem Dev.setArea_leaving (d : Dev) (x : FaultAreaState) : (d.setArea x).leaving = d.leaving := rfl
@[simp] theorem Dev.setArea_rowLocks (d : Dev) (x : FaultAreaState) : (d.setArea x).rowLocks = d.rowLocks := rfl
@[simp] theorem Dev.setArea_nextStep (d : Dev) (x : FaultAreaState) : (d.setArea x).nextStep = d.nextStep := rfl
@[simp] theorem Dev.setArea_draws (d : Dev) (x : FaultAreaState) : (d.setArea x).draws = d.draws := rfl
@[simp] theorem Dev.setArea_order (d : Dev) (x : FaultAreaState) : (d.setArea x).order = d.order := rfl
@[simp] theorem Dev.setArea_regs (d : Dev) (x : FaultAreaState) : (d.setArea x).regs = d.regs := rfl
@[simp] theorem Dev.setArea_fuses (d : Dev) (x : FaultAreaState) : (d.setArea x).fuses = d.fuses := rfl
@[simp] theorem Dev.setArea_acc (d : Dev) (x : FaultAreaState) : (d.setArea x).acc = d.acc := rfl
@[simp] theorem Dev.setArea_fw (d : Dev) (x : FaultAreaState) : (d.setArea x).fw = d.fw := rfl
@[simp] theorem Dev.setArea_pairs (d : Dev) (x : FaultAreaState) : (d.setArea x).pairs = d.pairs := rfl
@[simp] theorem Dev.setArea_galleries (d : Dev) (x : FaultAreaState) : (d.setArea x).galleries = d.galleries := rfl
@[simp] theorem Dev.setArea_stackUnits (d : Dev) (x : FaultAreaState) : (d.setArea x).stackUnits = d.stackUnits := rfl
@[simp] theorem Dev.setArea_ports (d : Dev) (x : FaultAreaState) : (d.setArea x).ports = d.ports := rfl
@[simp] theorem Dev.setArea_image (d : Dev) (x : FaultAreaState) : (d.setArea x).image = d.image := rfl
@[simp] theorem Dev.setArea_partials (d : Dev) (x : FaultAreaState) : (d.setArea x).partials = d.partials := rfl
@[simp] theorem Dev.setArea_load (d : Dev) (x : FaultAreaState) : (d.setArea x).load = d.load := rfl
@[simp] theorem Dev.setArea_ctxs (d : Dev) (x : FaultAreaState) : (d.setArea x).ctxs = d.ctxs := rfl
@[simp] theorem Dev.setArea_resetActive (d : Dev) (x : FaultAreaState) : (d.setArea x).resetActive = d.resetActive := rfl
@[simp] theorem Dev.setArea_mem (d : Dev) (x : FaultAreaState) : (d.setArea x).mem = d.mem := rfl
@[simp] theorem Dev.setArea_parity (d : Dev) (x : FaultAreaState) : (d.setArea x).parity = d.parity := rfl
@[simp] theorem Dev.setArea_poison (d : Dev) (x : FaultAreaState) : (d.setArea x).poison = d.poison := rfl
@[simp] theorem Dev.setArea_repairs (d : Dev) (x : FaultAreaState) : (d.setArea x).repairs = d.repairs := rfl
@[simp] theorem Dev.setArea_repaired (d : Dev) (x : FaultAreaState) : (d.setArea x).repaired = d.repaired := rfl
@[simp] theorem Dev.setArea_extents (d : Dev) (x : FaultAreaState) : (d.setArea x).extents = d.extents := rfl
@[simp] theorem Dev.setArea_nextGen (d : Dev) (x : FaultAreaState) : (d.setArea x).nextGen = d.nextGen := rfl
@[simp] theorem Dev.setArea_windows (d : Dev) (x : FaultAreaState) : (d.setArea x).windows = d.windows := rfl
@[simp] theorem Dev.setArea_dcEvents (d : Dev) (x : FaultAreaState) : (d.setArea x).dcEvents = d.dcEvents := rfl
@[simp] theorem Dev.setArea_loans (d : Dev) (x : FaultAreaState) : (d.setArea x).loans = d.loans := rfl
@[simp] theorem Dev.setArea_xcEast (d : Dev) (x : FaultAreaState) : (d.setArea x).xcEast = d.xcEast := rfl
@[simp] theorem Dev.setArea_xcWest (d : Dev) (x : FaultAreaState) : (d.setArea x).xcWest = d.xcWest := rfl
@[simp] theorem Dev.setArea_blocks (d : Dev) (x : FaultAreaState) : (d.setArea x).blocks = d.blocks := rfl
@[simp] theorem Dev.setArea_nextBlock (d : Dev) (x : FaultAreaState) : (d.setArea x).nextBlock = d.nextBlock := rfl
@[simp] theorem Dev.setArea_tables (d : Dev) (x : FaultAreaState) : (d.setArea x).tables = d.tables := rfl
@[simp] theorem Dev.setArea_indexes (d : Dev) (x : FaultAreaState) : (d.setArea x).indexes = d.indexes := rfl
@[simp] theorem Dev.setArea_granules (d : Dev) (x : FaultAreaState) : (d.setArea x).granules = d.granules := rfl
@[simp] theorem Dev.setArea_media (d : Dev) (x : FaultAreaState) : (d.setArea x).media = d.media := rfl
@[simp] theorem Dev.setArea_flash (d : Dev) (x : FaultAreaState) : (d.setArea x).flash = d.flash := rfl
@[simp] theorem Dev.setArea_channels (d : Dev) (x : FaultAreaState) : (d.setArea x).channels = d.channels := rfl
@[simp] theorem Dev.setArea_lastChannel (d : Dev) (x : FaultAreaState) : (d.setArea x).lastChannel = d.lastChannel := rfl
@[simp] theorem Dev.setArea_peCache (d : Dev) (x : FaultAreaState) : (d.setArea x).peCache = d.peCache := rfl
@[simp] theorem Dev.setArea_fabCache (d : Dev) (x : FaultAreaState) : (d.setArea x).fabCache = d.fabCache := rfl
@[simp] theorem Dev.setArea_points (d : Dev) (x : FaultAreaState) : (d.setArea x).points = d.points := rfl
@[simp] theorem Dev.setArea_directory (d : Dev) (x : FaultAreaState) : (d.setArea x).directory = d.directory := rfl
@[simp] theorem Dev.setArea_vitTxns (d : Dev) (x : FaultAreaState) : (d.setArea x).vitTxns = d.vitTxns := rfl
@[simp] theorem Dev.setArea_links (d : Dev) (x : FaultAreaState) : (d.setArea x).links = d.links := rfl
@[simp] theorem Dev.setArea_coll (d : Dev) (x : FaultAreaState) : (d.setArea x).coll = d.coll := rfl
@[simp] theorem Dev.setArea_exports (d : Dev) (x : FaultAreaState) : (d.setArea x).exports = d.exports := rfl
@[simp] theorem Dev.setArea_serving (d : Dev) (x : FaultAreaState) : (d.setArea x).serving = d.serving := rfl
@[simp] theorem Dev.setArea_carried (d : Dev) (x : FaultAreaState) : (d.setArea x).carried = d.carried := rfl
@[simp] theorem Dev.setArea_readWaits (d : Dev) (x : FaultAreaState) : (d.setArea x).readWaits = d.readWaits := rfl
@[simp] theorem Dev.setArea_nextTag (d : Dev) (x : FaultAreaState) : (d.setArea x).nextTag = d.nextTag := rfl
@[simp] theorem Dev.setArea_power (d : Dev) (x : FaultAreaState) : (d.setArea x).power = d.power := rfl
@[simp] theorem Dev.setArea_pins (d : Dev) (x : FaultAreaState) : (d.setArea x).pins = d.pins := rfl
@[simp] theorem Dev.setArea_docent (d : Dev) (x : FaultAreaState) : (d.setArea x).docent = d.docent := rfl
@[simp] theorem Dev.setArea_bootFlash (d : Dev) (x : FaultAreaState) : (d.setArea x).bootFlash = d.bootFlash := rfl
@[simp] theorem Dev.setArea_out (d : Dev) (x : FaultAreaState) : (d.setArea x).out = d.out := rfl

/-! ### atTime -/

@[simp] theorem Dev.atTime_now (d : Dev) (t : Nat) : (d.atTime t).now = max d.now t := rfl
@[simp] theorem Dev.atTime_draws (d : Dev) (t : Nat) : (d.atTime t).draws = d.draws := rfl
@[simp] theorem Dev.atTime_full (d : Dev) (t : Nat) : (d.atTime t).full = d.full := rfl
@[simp] theorem Dev.atTime_parityChecks (d : Dev) (t : Nat) : (d.atTime t).parityChecks = d.parityChecks := rfl
@[simp] theorem Dev.atTime_missTurn (d : Dev) (t : Nat) : (d.atTime t).missTurn = d.missTurn := rfl
@[simp] theorem Dev.atTime_arbiters (d : Dev) (t : Nat) : (d.atTime t).arbiters = d.arbiters := rfl
@[simp] theorem Dev.atTime_masked (d : Dev) (t : Nat) : (d.atTime t).masked = d.masked := rfl
@[simp] theorem Dev.atTime_landings (d : Dev) (t : Nat) : (d.atTime t).landings = d.landings := rfl
@[simp] theorem Dev.atTime_leaving (d : Dev) (t : Nat) : (d.atTime t).leaving = d.leaving := rfl
@[simp] theorem Dev.atTime_rowLocks (d : Dev) (t : Nat) : (d.atTime t).rowLocks = d.rowLocks := rfl
@[simp] theorem Dev.atTime_nextStep (d : Dev) (t : Nat) : (d.atTime t).nextStep = d.nextStep := rfl
@[simp] theorem Dev.atTime_order (d : Dev) (t : Nat) : (d.atTime t).order = d.order := rfl
@[simp] theorem Dev.atTime_regs (d : Dev) (t : Nat) : (d.atTime t).regs = d.regs := rfl
@[simp] theorem Dev.atTime_fuses (d : Dev) (t : Nat) : (d.atTime t).fuses = d.fuses := rfl
@[simp] theorem Dev.atTime_acc (d : Dev) (t : Nat) : (d.atTime t).acc = d.acc := rfl
@[simp] theorem Dev.atTime_fw (d : Dev) (t : Nat) : (d.atTime t).fw = d.fw := rfl
@[simp] theorem Dev.atTime_pairs (d : Dev) (t : Nat) : (d.atTime t).pairs = d.pairs := rfl
@[simp] theorem Dev.atTime_galleries (d : Dev) (t : Nat) : (d.atTime t).galleries = d.galleries := rfl
@[simp] theorem Dev.atTime_stackUnits (d : Dev) (t : Nat) : (d.atTime t).stackUnits = d.stackUnits := rfl
@[simp] theorem Dev.atTime_ports (d : Dev) (t : Nat) : (d.atTime t).ports = d.ports := rfl
@[simp] theorem Dev.atTime_image (d : Dev) (t : Nat) : (d.atTime t).image = d.image := rfl
@[simp] theorem Dev.atTime_partials (d : Dev) (t : Nat) : (d.atTime t).partials = d.partials := rfl
@[simp] theorem Dev.atTime_load (d : Dev) (t : Nat) : (d.atTime t).load = d.load := rfl
@[simp] theorem Dev.atTime_ctxs (d : Dev) (t : Nat) : (d.atTime t).ctxs = d.ctxs := rfl
@[simp] theorem Dev.atTime_resetActive (d : Dev) (t : Nat) : (d.atTime t).resetActive = d.resetActive := rfl
@[simp] theorem Dev.atTime_mem (d : Dev) (t : Nat) : (d.atTime t).mem = d.mem := rfl
@[simp] theorem Dev.atTime_parity (d : Dev) (t : Nat) : (d.atTime t).parity = d.parity := rfl
@[simp] theorem Dev.atTime_poison (d : Dev) (t : Nat) : (d.atTime t).poison = d.poison := rfl
@[simp] theorem Dev.atTime_repairs (d : Dev) (t : Nat) : (d.atTime t).repairs = d.repairs := rfl
@[simp] theorem Dev.atTime_repaired (d : Dev) (t : Nat) : (d.atTime t).repaired = d.repaired := rfl
@[simp] theorem Dev.atTime_extents (d : Dev) (t : Nat) : (d.atTime t).extents = d.extents := rfl
@[simp] theorem Dev.atTime_nextGen (d : Dev) (t : Nat) : (d.atTime t).nextGen = d.nextGen := rfl
@[simp] theorem Dev.atTime_windows (d : Dev) (t : Nat) : (d.atTime t).windows = d.windows := rfl
@[simp] theorem Dev.atTime_dcEvents (d : Dev) (t : Nat) : (d.atTime t).dcEvents = d.dcEvents := rfl
@[simp] theorem Dev.atTime_loans (d : Dev) (t : Nat) : (d.atTime t).loans = d.loans := rfl
@[simp] theorem Dev.atTime_xcEast (d : Dev) (t : Nat) : (d.atTime t).xcEast = d.xcEast := rfl
@[simp] theorem Dev.atTime_xcWest (d : Dev) (t : Nat) : (d.atTime t).xcWest = d.xcWest := rfl
@[simp] theorem Dev.atTime_blocks (d : Dev) (t : Nat) : (d.atTime t).blocks = d.blocks := rfl
@[simp] theorem Dev.atTime_nextBlock (d : Dev) (t : Nat) : (d.atTime t).nextBlock = d.nextBlock := rfl
@[simp] theorem Dev.atTime_tables (d : Dev) (t : Nat) : (d.atTime t).tables = d.tables := rfl
@[simp] theorem Dev.atTime_indexes (d : Dev) (t : Nat) : (d.atTime t).indexes = d.indexes := rfl
@[simp] theorem Dev.atTime_granules (d : Dev) (t : Nat) : (d.atTime t).granules = d.granules := rfl
@[simp] theorem Dev.atTime_media (d : Dev) (t : Nat) : (d.atTime t).media = d.media := rfl
@[simp] theorem Dev.atTime_flash (d : Dev) (t : Nat) : (d.atTime t).flash = d.flash := rfl
@[simp] theorem Dev.atTime_channels (d : Dev) (t : Nat) : (d.atTime t).channels = d.channels := rfl
@[simp] theorem Dev.atTime_lastChannel (d : Dev) (t : Nat) : (d.atTime t).lastChannel = d.lastChannel := rfl
@[simp] theorem Dev.atTime_peCache (d : Dev) (t : Nat) : (d.atTime t).peCache = d.peCache := rfl
@[simp] theorem Dev.atTime_fabCache (d : Dev) (t : Nat) : (d.atTime t).fabCache = d.fabCache := rfl
@[simp] theorem Dev.atTime_points (d : Dev) (t : Nat) : (d.atTime t).points = d.points := rfl
@[simp] theorem Dev.atTime_directory (d : Dev) (t : Nat) : (d.atTime t).directory = d.directory := rfl
@[simp] theorem Dev.atTime_vitTxns (d : Dev) (t : Nat) : (d.atTime t).vitTxns = d.vitTxns := rfl
@[simp] theorem Dev.atTime_links (d : Dev) (t : Nat) : (d.atTime t).links = d.links := rfl
@[simp] theorem Dev.atTime_coll (d : Dev) (t : Nat) : (d.atTime t).coll = d.coll := rfl
@[simp] theorem Dev.atTime_exports (d : Dev) (t : Nat) : (d.atTime t).exports = d.exports := rfl
@[simp] theorem Dev.atTime_serving (d : Dev) (t : Nat) : (d.atTime t).serving = d.serving := rfl
@[simp] theorem Dev.atTime_carried (d : Dev) (t : Nat) : (d.atTime t).carried = d.carried := rfl
@[simp] theorem Dev.atTime_readWaits (d : Dev) (t : Nat) : (d.atTime t).readWaits = d.readWaits := rfl
@[simp] theorem Dev.atTime_nextTag (d : Dev) (t : Nat) : (d.atTime t).nextTag = d.nextTag := rfl
@[simp] theorem Dev.atTime_faults (d : Dev) (t : Nat) : (d.atTime t).faults = d.faults := rfl
@[simp] theorem Dev.atTime_power (d : Dev) (t : Nat) : (d.atTime t).power = d.power := rfl
@[simp] theorem Dev.atTime_pins (d : Dev) (t : Nat) : (d.atTime t).pins = d.pins := rfl
@[simp] theorem Dev.atTime_docent (d : Dev) (t : Nat) : (d.atTime t).docent = d.docent := rfl
@[simp] theorem Dev.atTime_bootFlash (d : Dev) (t : Nat) : (d.atTime t).bootFlash = d.bootFlash := rfl
@[simp] theorem Dev.atTime_out (d : Dev) (t : Nat) : (d.atTime t).out = d.out := rfl

/-! ### modCtx -/

@[simp] theorem Dev.modCtx_ctxs (d : Dev) (c : Nat) (f : Context → Context) : (d.modCtx c f).ctxs = modifyAll (·.num == c) f d.ctxs := rfl
@[simp] theorem Dev.modCtx_now (d : Dev) (c : Nat) (f : Context → Context) : (d.modCtx c f).now = d.now := rfl
@[simp] theorem Dev.modCtx_full (d : Dev) (c : Nat) (f : Context → Context) : (d.modCtx c f).full = d.full := rfl
@[simp] theorem Dev.modCtx_parityChecks (d : Dev) (c : Nat) (f : Context → Context) : (d.modCtx c f).parityChecks = d.parityChecks := rfl
@[simp] theorem Dev.modCtx_missTurn (d : Dev) (c : Nat) (f : Context → Context) : (d.modCtx c f).missTurn = d.missTurn := rfl
@[simp] theorem Dev.modCtx_arbiters (d : Dev) (c : Nat) (f : Context → Context) : (d.modCtx c f).arbiters = d.arbiters := rfl
@[simp] theorem Dev.modCtx_masked (d : Dev) (c : Nat) (f : Context → Context) : (d.modCtx c f).masked = d.masked := rfl
@[simp] theorem Dev.modCtx_landings (d : Dev) (c : Nat) (f : Context → Context) : (d.modCtx c f).landings = d.landings := rfl
@[simp] theorem Dev.modCtx_leaving (d : Dev) (c : Nat) (f : Context → Context) : (d.modCtx c f).leaving = d.leaving := rfl
@[simp] theorem Dev.modCtx_rowLocks (d : Dev) (c : Nat) (f : Context → Context) : (d.modCtx c f).rowLocks = d.rowLocks := rfl
@[simp] theorem Dev.modCtx_nextStep (d : Dev) (c : Nat) (f : Context → Context) : (d.modCtx c f).nextStep = d.nextStep := rfl
@[simp] theorem Dev.modCtx_draws (d : Dev) (c : Nat) (f : Context → Context) : (d.modCtx c f).draws = d.draws := rfl
@[simp] theorem Dev.modCtx_order (d : Dev) (c : Nat) (f : Context → Context) : (d.modCtx c f).order = d.order := rfl
@[simp] theorem Dev.modCtx_regs (d : Dev) (c : Nat) (f : Context → Context) : (d.modCtx c f).regs = d.regs := rfl
@[simp] theorem Dev.modCtx_fuses (d : Dev) (c : Nat) (f : Context → Context) : (d.modCtx c f).fuses = d.fuses := rfl
@[simp] theorem Dev.modCtx_acc (d : Dev) (c : Nat) (f : Context → Context) : (d.modCtx c f).acc = d.acc := rfl
@[simp] theorem Dev.modCtx_fw (d : Dev) (c : Nat) (f : Context → Context) : (d.modCtx c f).fw = d.fw := rfl
@[simp] theorem Dev.modCtx_pairs (d : Dev) (c : Nat) (f : Context → Context) : (d.modCtx c f).pairs = d.pairs := rfl
@[simp] theorem Dev.modCtx_galleries (d : Dev) (c : Nat) (f : Context → Context) : (d.modCtx c f).galleries = d.galleries := rfl
@[simp] theorem Dev.modCtx_stackUnits (d : Dev) (c : Nat) (f : Context → Context) : (d.modCtx c f).stackUnits = d.stackUnits := rfl
@[simp] theorem Dev.modCtx_ports (d : Dev) (c : Nat) (f : Context → Context) : (d.modCtx c f).ports = d.ports := rfl
@[simp] theorem Dev.modCtx_image (d : Dev) (c : Nat) (f : Context → Context) : (d.modCtx c f).image = d.image := rfl
@[simp] theorem Dev.modCtx_partials (d : Dev) (c : Nat) (f : Context → Context) : (d.modCtx c f).partials = d.partials := rfl
@[simp] theorem Dev.modCtx_load (d : Dev) (c : Nat) (f : Context → Context) : (d.modCtx c f).load = d.load := rfl
@[simp] theorem Dev.modCtx_resetActive (d : Dev) (c : Nat) (f : Context → Context) : (d.modCtx c f).resetActive = d.resetActive := rfl
@[simp] theorem Dev.modCtx_mem (d : Dev) (c : Nat) (f : Context → Context) : (d.modCtx c f).mem = d.mem := rfl
@[simp] theorem Dev.modCtx_parity (d : Dev) (c : Nat) (f : Context → Context) : (d.modCtx c f).parity = d.parity := rfl
@[simp] theorem Dev.modCtx_poison (d : Dev) (c : Nat) (f : Context → Context) : (d.modCtx c f).poison = d.poison := rfl
@[simp] theorem Dev.modCtx_repairs (d : Dev) (c : Nat) (f : Context → Context) : (d.modCtx c f).repairs = d.repairs := rfl
@[simp] theorem Dev.modCtx_repaired (d : Dev) (c : Nat) (f : Context → Context) : (d.modCtx c f).repaired = d.repaired := rfl
@[simp] theorem Dev.modCtx_extents (d : Dev) (c : Nat) (f : Context → Context) : (d.modCtx c f).extents = d.extents := rfl
@[simp] theorem Dev.modCtx_nextGen (d : Dev) (c : Nat) (f : Context → Context) : (d.modCtx c f).nextGen = d.nextGen := rfl
@[simp] theorem Dev.modCtx_windows (d : Dev) (c : Nat) (f : Context → Context) : (d.modCtx c f).windows = d.windows := rfl
@[simp] theorem Dev.modCtx_dcEvents (d : Dev) (c : Nat) (f : Context → Context) : (d.modCtx c f).dcEvents = d.dcEvents := rfl
@[simp] theorem Dev.modCtx_loans (d : Dev) (c : Nat) (f : Context → Context) : (d.modCtx c f).loans = d.loans := rfl
@[simp] theorem Dev.modCtx_xcEast (d : Dev) (c : Nat) (f : Context → Context) : (d.modCtx c f).xcEast = d.xcEast := rfl
@[simp] theorem Dev.modCtx_xcWest (d : Dev) (c : Nat) (f : Context → Context) : (d.modCtx c f).xcWest = d.xcWest := rfl
@[simp] theorem Dev.modCtx_blocks (d : Dev) (c : Nat) (f : Context → Context) : (d.modCtx c f).blocks = d.blocks := rfl
@[simp] theorem Dev.modCtx_nextBlock (d : Dev) (c : Nat) (f : Context → Context) : (d.modCtx c f).nextBlock = d.nextBlock := rfl
@[simp] theorem Dev.modCtx_tables (d : Dev) (c : Nat) (f : Context → Context) : (d.modCtx c f).tables = d.tables := rfl
@[simp] theorem Dev.modCtx_indexes (d : Dev) (c : Nat) (f : Context → Context) : (d.modCtx c f).indexes = d.indexes := rfl
@[simp] theorem Dev.modCtx_granules (d : Dev) (c : Nat) (f : Context → Context) : (d.modCtx c f).granules = d.granules := rfl
@[simp] theorem Dev.modCtx_media (d : Dev) (c : Nat) (f : Context → Context) : (d.modCtx c f).media = d.media := rfl
@[simp] theorem Dev.modCtx_flash (d : Dev) (c : Nat) (f : Context → Context) : (d.modCtx c f).flash = d.flash := rfl
@[simp] theorem Dev.modCtx_channels (d : Dev) (c : Nat) (f : Context → Context) : (d.modCtx c f).channels = d.channels := rfl
@[simp] theorem Dev.modCtx_lastChannel (d : Dev) (c : Nat) (f : Context → Context) : (d.modCtx c f).lastChannel = d.lastChannel := rfl
@[simp] theorem Dev.modCtx_peCache (d : Dev) (c : Nat) (f : Context → Context) : (d.modCtx c f).peCache = d.peCache := rfl
@[simp] theorem Dev.modCtx_fabCache (d : Dev) (c : Nat) (f : Context → Context) : (d.modCtx c f).fabCache = d.fabCache := rfl
@[simp] theorem Dev.modCtx_points (d : Dev) (c : Nat) (f : Context → Context) : (d.modCtx c f).points = d.points := rfl
@[simp] theorem Dev.modCtx_directory (d : Dev) (c : Nat) (f : Context → Context) : (d.modCtx c f).directory = d.directory := rfl
@[simp] theorem Dev.modCtx_vitTxns (d : Dev) (c : Nat) (f : Context → Context) : (d.modCtx c f).vitTxns = d.vitTxns := rfl
@[simp] theorem Dev.modCtx_links (d : Dev) (c : Nat) (f : Context → Context) : (d.modCtx c f).links = d.links := rfl
@[simp] theorem Dev.modCtx_coll (d : Dev) (c : Nat) (f : Context → Context) : (d.modCtx c f).coll = d.coll := rfl
@[simp] theorem Dev.modCtx_exports (d : Dev) (c : Nat) (f : Context → Context) : (d.modCtx c f).exports = d.exports := rfl
@[simp] theorem Dev.modCtx_serving (d : Dev) (c : Nat) (f : Context → Context) : (d.modCtx c f).serving = d.serving := rfl
@[simp] theorem Dev.modCtx_carried (d : Dev) (c : Nat) (f : Context → Context) : (d.modCtx c f).carried = d.carried := rfl
@[simp] theorem Dev.modCtx_readWaits (d : Dev) (c : Nat) (f : Context → Context) : (d.modCtx c f).readWaits = d.readWaits := rfl
@[simp] theorem Dev.modCtx_nextTag (d : Dev) (c : Nat) (f : Context → Context) : (d.modCtx c f).nextTag = d.nextTag := rfl
@[simp] theorem Dev.modCtx_faults (d : Dev) (c : Nat) (f : Context → Context) : (d.modCtx c f).faults = d.faults := rfl
@[simp] theorem Dev.modCtx_power (d : Dev) (c : Nat) (f : Context → Context) : (d.modCtx c f).power = d.power := rfl
@[simp] theorem Dev.modCtx_pins (d : Dev) (c : Nat) (f : Context → Context) : (d.modCtx c f).pins = d.pins := rfl
@[simp] theorem Dev.modCtx_docent (d : Dev) (c : Nat) (f : Context → Context) : (d.modCtx c f).docent = d.docent := rfl
@[simp] theorem Dev.modCtx_bootFlash (d : Dev) (c : Nat) (f : Context → Context) : (d.modCtx c f).bootFlash = d.bootFlash := rfl
@[simp] theorem Dev.modCtx_out (d : Dev) (c : Nat) (f : Context → Context) : (d.modCtx c f).out = d.out := rfl

/-! ### modSlot -/

@[simp] theorem Dev.modSlot_now (d : Dev) (r : SlotRef) (f : Slot → Slot) : (d.modSlot r f).now = d.now := rfl
@[simp] theorem Dev.modSlot_full (d : Dev) (r : SlotRef) (f : Slot → Slot) : (d.modSlot r f).full = d.full := rfl
@[simp] theorem Dev.modSlot_parityChecks (d : Dev) (r : SlotRef) (f : Slot → Slot) : (d.modSlot r f).parityChecks = d.parityChecks := rfl
@[simp] theorem Dev.modSlot_missTurn (d : Dev) (r : SlotRef) (f : Slot → Slot) : (d.modSlot r f).missTurn = d.missTurn := rfl
@[simp] theorem Dev.modSlot_arbiters (d : Dev) (r : SlotRef) (f : Slot → Slot) : (d.modSlot r f).arbiters = d.arbiters := rfl
@[simp] theorem Dev.modSlot_masked (d : Dev) (r : SlotRef) (f : Slot → Slot) : (d.modSlot r f).masked = d.masked := rfl
@[simp] theorem Dev.modSlot_landings (d : Dev) (r : SlotRef) (f : Slot → Slot) : (d.modSlot r f).landings = d.landings := rfl
@[simp] theorem Dev.modSlot_leaving (d : Dev) (r : SlotRef) (f : Slot → Slot) : (d.modSlot r f).leaving = d.leaving := rfl
@[simp] theorem Dev.modSlot_rowLocks (d : Dev) (r : SlotRef) (f : Slot → Slot) : (d.modSlot r f).rowLocks = d.rowLocks := rfl
@[simp] theorem Dev.modSlot_nextStep (d : Dev) (r : SlotRef) (f : Slot → Slot) : (d.modSlot r f).nextStep = d.nextStep := rfl
@[simp] theorem Dev.modSlot_draws (d : Dev) (r : SlotRef) (f : Slot → Slot) : (d.modSlot r f).draws = d.draws := rfl
@[simp] theorem Dev.modSlot_order (d : Dev) (r : SlotRef) (f : Slot → Slot) : (d.modSlot r f).order = d.order := rfl
@[simp] theorem Dev.modSlot_regs (d : Dev) (r : SlotRef) (f : Slot → Slot) : (d.modSlot r f).regs = d.regs := rfl
@[simp] theorem Dev.modSlot_fuses (d : Dev) (r : SlotRef) (f : Slot → Slot) : (d.modSlot r f).fuses = d.fuses := rfl
@[simp] theorem Dev.modSlot_acc (d : Dev) (r : SlotRef) (f : Slot → Slot) : (d.modSlot r f).acc = d.acc := rfl
@[simp] theorem Dev.modSlot_fw (d : Dev) (r : SlotRef) (f : Slot → Slot) : (d.modSlot r f).fw = d.fw := rfl
@[simp] theorem Dev.modSlot_pairs (d : Dev) (r : SlotRef) (f : Slot → Slot) : (d.modSlot r f).pairs = d.pairs := rfl
@[simp] theorem Dev.modSlot_galleries (d : Dev) (r : SlotRef) (f : Slot → Slot) : (d.modSlot r f).galleries = d.galleries := rfl
@[simp] theorem Dev.modSlot_stackUnits (d : Dev) (r : SlotRef) (f : Slot → Slot) : (d.modSlot r f).stackUnits = d.stackUnits := rfl
@[simp] theorem Dev.modSlot_ports (d : Dev) (r : SlotRef) (f : Slot → Slot) : (d.modSlot r f).ports = d.ports := rfl
@[simp] theorem Dev.modSlot_image (d : Dev) (r : SlotRef) (f : Slot → Slot) : (d.modSlot r f).image = d.image := rfl
@[simp] theorem Dev.modSlot_partials (d : Dev) (r : SlotRef) (f : Slot → Slot) : (d.modSlot r f).partials = d.partials := rfl
@[simp] theorem Dev.modSlot_load (d : Dev) (r : SlotRef) (f : Slot → Slot) : (d.modSlot r f).load = d.load := rfl
@[simp] theorem Dev.modSlot_resetActive (d : Dev) (r : SlotRef) (f : Slot → Slot) : (d.modSlot r f).resetActive = d.resetActive := rfl
@[simp] theorem Dev.modSlot_mem (d : Dev) (r : SlotRef) (f : Slot → Slot) : (d.modSlot r f).mem = d.mem := rfl
@[simp] theorem Dev.modSlot_parity (d : Dev) (r : SlotRef) (f : Slot → Slot) : (d.modSlot r f).parity = d.parity := rfl
@[simp] theorem Dev.modSlot_poison (d : Dev) (r : SlotRef) (f : Slot → Slot) : (d.modSlot r f).poison = d.poison := rfl
@[simp] theorem Dev.modSlot_repairs (d : Dev) (r : SlotRef) (f : Slot → Slot) : (d.modSlot r f).repairs = d.repairs := rfl
@[simp] theorem Dev.modSlot_repaired (d : Dev) (r : SlotRef) (f : Slot → Slot) : (d.modSlot r f).repaired = d.repaired := rfl
@[simp] theorem Dev.modSlot_extents (d : Dev) (r : SlotRef) (f : Slot → Slot) : (d.modSlot r f).extents = d.extents := rfl
@[simp] theorem Dev.modSlot_nextGen (d : Dev) (r : SlotRef) (f : Slot → Slot) : (d.modSlot r f).nextGen = d.nextGen := rfl
@[simp] theorem Dev.modSlot_windows (d : Dev) (r : SlotRef) (f : Slot → Slot) : (d.modSlot r f).windows = d.windows := rfl
@[simp] theorem Dev.modSlot_dcEvents (d : Dev) (r : SlotRef) (f : Slot → Slot) : (d.modSlot r f).dcEvents = d.dcEvents := rfl
@[simp] theorem Dev.modSlot_loans (d : Dev) (r : SlotRef) (f : Slot → Slot) : (d.modSlot r f).loans = d.loans := rfl
@[simp] theorem Dev.modSlot_xcEast (d : Dev) (r : SlotRef) (f : Slot → Slot) : (d.modSlot r f).xcEast = d.xcEast := rfl
@[simp] theorem Dev.modSlot_xcWest (d : Dev) (r : SlotRef) (f : Slot → Slot) : (d.modSlot r f).xcWest = d.xcWest := rfl
@[simp] theorem Dev.modSlot_blocks (d : Dev) (r : SlotRef) (f : Slot → Slot) : (d.modSlot r f).blocks = d.blocks := rfl
@[simp] theorem Dev.modSlot_nextBlock (d : Dev) (r : SlotRef) (f : Slot → Slot) : (d.modSlot r f).nextBlock = d.nextBlock := rfl
@[simp] theorem Dev.modSlot_tables (d : Dev) (r : SlotRef) (f : Slot → Slot) : (d.modSlot r f).tables = d.tables := rfl
@[simp] theorem Dev.modSlot_indexes (d : Dev) (r : SlotRef) (f : Slot → Slot) : (d.modSlot r f).indexes = d.indexes := rfl
@[simp] theorem Dev.modSlot_granules (d : Dev) (r : SlotRef) (f : Slot → Slot) : (d.modSlot r f).granules = d.granules := rfl
@[simp] theorem Dev.modSlot_media (d : Dev) (r : SlotRef) (f : Slot → Slot) : (d.modSlot r f).media = d.media := rfl
@[simp] theorem Dev.modSlot_flash (d : Dev) (r : SlotRef) (f : Slot → Slot) : (d.modSlot r f).flash = d.flash := rfl
@[simp] theorem Dev.modSlot_channels (d : Dev) (r : SlotRef) (f : Slot → Slot) : (d.modSlot r f).channels = d.channels := rfl
@[simp] theorem Dev.modSlot_lastChannel (d : Dev) (r : SlotRef) (f : Slot → Slot) : (d.modSlot r f).lastChannel = d.lastChannel := rfl
@[simp] theorem Dev.modSlot_peCache (d : Dev) (r : SlotRef) (f : Slot → Slot) : (d.modSlot r f).peCache = d.peCache := rfl
@[simp] theorem Dev.modSlot_fabCache (d : Dev) (r : SlotRef) (f : Slot → Slot) : (d.modSlot r f).fabCache = d.fabCache := rfl
@[simp] theorem Dev.modSlot_points (d : Dev) (r : SlotRef) (f : Slot → Slot) : (d.modSlot r f).points = d.points := rfl
@[simp] theorem Dev.modSlot_directory (d : Dev) (r : SlotRef) (f : Slot → Slot) : (d.modSlot r f).directory = d.directory := rfl
@[simp] theorem Dev.modSlot_vitTxns (d : Dev) (r : SlotRef) (f : Slot → Slot) : (d.modSlot r f).vitTxns = d.vitTxns := rfl
@[simp] theorem Dev.modSlot_links (d : Dev) (r : SlotRef) (f : Slot → Slot) : (d.modSlot r f).links = d.links := rfl
@[simp] theorem Dev.modSlot_coll (d : Dev) (r : SlotRef) (f : Slot → Slot) : (d.modSlot r f).coll = d.coll := rfl
@[simp] theorem Dev.modSlot_exports (d : Dev) (r : SlotRef) (f : Slot → Slot) : (d.modSlot r f).exports = d.exports := rfl
@[simp] theorem Dev.modSlot_serving (d : Dev) (r : SlotRef) (f : Slot → Slot) : (d.modSlot r f).serving = d.serving := rfl
@[simp] theorem Dev.modSlot_carried (d : Dev) (r : SlotRef) (f : Slot → Slot) : (d.modSlot r f).carried = d.carried := rfl
@[simp] theorem Dev.modSlot_readWaits (d : Dev) (r : SlotRef) (f : Slot → Slot) : (d.modSlot r f).readWaits = d.readWaits := rfl
@[simp] theorem Dev.modSlot_nextTag (d : Dev) (r : SlotRef) (f : Slot → Slot) : (d.modSlot r f).nextTag = d.nextTag := rfl
@[simp] theorem Dev.modSlot_faults (d : Dev) (r : SlotRef) (f : Slot → Slot) : (d.modSlot r f).faults = d.faults := rfl
@[simp] theorem Dev.modSlot_power (d : Dev) (r : SlotRef) (f : Slot → Slot) : (d.modSlot r f).power = d.power := rfl
@[simp] theorem Dev.modSlot_pins (d : Dev) (r : SlotRef) (f : Slot → Slot) : (d.modSlot r f).pins = d.pins := rfl
@[simp] theorem Dev.modSlot_docent (d : Dev) (r : SlotRef) (f : Slot → Slot) : (d.modSlot r f).docent = d.docent := rfl
@[simp] theorem Dev.modSlot_bootFlash (d : Dev) (r : SlotRef) (f : Slot → Slot) : (d.modSlot r f).bootFlash = d.bootFlash := rfl
@[simp] theorem Dev.modSlot_out (d : Dev) (r : SlotRef) (f : Slot → Slot) : (d.modSlot r f).out = d.out := rfl

/-! ### modCmd -/

@[simp] theorem Dev.modCmd_now (d : Dev) (r : SlotRef) (f : Cmd → Cmd) : (d.modCmd r f).now = d.now := rfl
@[simp] theorem Dev.modCmd_full (d : Dev) (r : SlotRef) (f : Cmd → Cmd) : (d.modCmd r f).full = d.full := rfl
@[simp] theorem Dev.modCmd_parityChecks (d : Dev) (r : SlotRef) (f : Cmd → Cmd) : (d.modCmd r f).parityChecks = d.parityChecks := rfl
@[simp] theorem Dev.modCmd_missTurn (d : Dev) (r : SlotRef) (f : Cmd → Cmd) : (d.modCmd r f).missTurn = d.missTurn := rfl
@[simp] theorem Dev.modCmd_arbiters (d : Dev) (r : SlotRef) (f : Cmd → Cmd) : (d.modCmd r f).arbiters = d.arbiters := rfl
@[simp] theorem Dev.modCmd_masked (d : Dev) (r : SlotRef) (f : Cmd → Cmd) : (d.modCmd r f).masked = d.masked := rfl
@[simp] theorem Dev.modCmd_landings (d : Dev) (r : SlotRef) (f : Cmd → Cmd) : (d.modCmd r f).landings = d.landings := rfl
@[simp] theorem Dev.modCmd_leaving (d : Dev) (r : SlotRef) (f : Cmd → Cmd) : (d.modCmd r f).leaving = d.leaving := rfl
@[simp] theorem Dev.modCmd_rowLocks (d : Dev) (r : SlotRef) (f : Cmd → Cmd) : (d.modCmd r f).rowLocks = d.rowLocks := rfl
@[simp] theorem Dev.modCmd_nextStep (d : Dev) (r : SlotRef) (f : Cmd → Cmd) : (d.modCmd r f).nextStep = d.nextStep := rfl
@[simp] theorem Dev.modCmd_draws (d : Dev) (r : SlotRef) (f : Cmd → Cmd) : (d.modCmd r f).draws = d.draws := rfl
@[simp] theorem Dev.modCmd_order (d : Dev) (r : SlotRef) (f : Cmd → Cmd) : (d.modCmd r f).order = d.order := rfl
@[simp] theorem Dev.modCmd_regs (d : Dev) (r : SlotRef) (f : Cmd → Cmd) : (d.modCmd r f).regs = d.regs := rfl
@[simp] theorem Dev.modCmd_fuses (d : Dev) (r : SlotRef) (f : Cmd → Cmd) : (d.modCmd r f).fuses = d.fuses := rfl
@[simp] theorem Dev.modCmd_acc (d : Dev) (r : SlotRef) (f : Cmd → Cmd) : (d.modCmd r f).acc = d.acc := rfl
@[simp] theorem Dev.modCmd_fw (d : Dev) (r : SlotRef) (f : Cmd → Cmd) : (d.modCmd r f).fw = d.fw := rfl
@[simp] theorem Dev.modCmd_pairs (d : Dev) (r : SlotRef) (f : Cmd → Cmd) : (d.modCmd r f).pairs = d.pairs := rfl
@[simp] theorem Dev.modCmd_galleries (d : Dev) (r : SlotRef) (f : Cmd → Cmd) : (d.modCmd r f).galleries = d.galleries := rfl
@[simp] theorem Dev.modCmd_stackUnits (d : Dev) (r : SlotRef) (f : Cmd → Cmd) : (d.modCmd r f).stackUnits = d.stackUnits := rfl
@[simp] theorem Dev.modCmd_ports (d : Dev) (r : SlotRef) (f : Cmd → Cmd) : (d.modCmd r f).ports = d.ports := rfl
@[simp] theorem Dev.modCmd_image (d : Dev) (r : SlotRef) (f : Cmd → Cmd) : (d.modCmd r f).image = d.image := rfl
@[simp] theorem Dev.modCmd_partials (d : Dev) (r : SlotRef) (f : Cmd → Cmd) : (d.modCmd r f).partials = d.partials := rfl
@[simp] theorem Dev.modCmd_load (d : Dev) (r : SlotRef) (f : Cmd → Cmd) : (d.modCmd r f).load = d.load := rfl
@[simp] theorem Dev.modCmd_resetActive (d : Dev) (r : SlotRef) (f : Cmd → Cmd) : (d.modCmd r f).resetActive = d.resetActive := rfl
@[simp] theorem Dev.modCmd_mem (d : Dev) (r : SlotRef) (f : Cmd → Cmd) : (d.modCmd r f).mem = d.mem := rfl
@[simp] theorem Dev.modCmd_parity (d : Dev) (r : SlotRef) (f : Cmd → Cmd) : (d.modCmd r f).parity = d.parity := rfl
@[simp] theorem Dev.modCmd_poison (d : Dev) (r : SlotRef) (f : Cmd → Cmd) : (d.modCmd r f).poison = d.poison := rfl
@[simp] theorem Dev.modCmd_repairs (d : Dev) (r : SlotRef) (f : Cmd → Cmd) : (d.modCmd r f).repairs = d.repairs := rfl
@[simp] theorem Dev.modCmd_repaired (d : Dev) (r : SlotRef) (f : Cmd → Cmd) : (d.modCmd r f).repaired = d.repaired := rfl
@[simp] theorem Dev.modCmd_extents (d : Dev) (r : SlotRef) (f : Cmd → Cmd) : (d.modCmd r f).extents = d.extents := rfl
@[simp] theorem Dev.modCmd_nextGen (d : Dev) (r : SlotRef) (f : Cmd → Cmd) : (d.modCmd r f).nextGen = d.nextGen := rfl
@[simp] theorem Dev.modCmd_windows (d : Dev) (r : SlotRef) (f : Cmd → Cmd) : (d.modCmd r f).windows = d.windows := rfl
@[simp] theorem Dev.modCmd_dcEvents (d : Dev) (r : SlotRef) (f : Cmd → Cmd) : (d.modCmd r f).dcEvents = d.dcEvents := rfl
@[simp] theorem Dev.modCmd_loans (d : Dev) (r : SlotRef) (f : Cmd → Cmd) : (d.modCmd r f).loans = d.loans := rfl
@[simp] theorem Dev.modCmd_xcEast (d : Dev) (r : SlotRef) (f : Cmd → Cmd) : (d.modCmd r f).xcEast = d.xcEast := rfl
@[simp] theorem Dev.modCmd_xcWest (d : Dev) (r : SlotRef) (f : Cmd → Cmd) : (d.modCmd r f).xcWest = d.xcWest := rfl
@[simp] theorem Dev.modCmd_blocks (d : Dev) (r : SlotRef) (f : Cmd → Cmd) : (d.modCmd r f).blocks = d.blocks := rfl
@[simp] theorem Dev.modCmd_nextBlock (d : Dev) (r : SlotRef) (f : Cmd → Cmd) : (d.modCmd r f).nextBlock = d.nextBlock := rfl
@[simp] theorem Dev.modCmd_tables (d : Dev) (r : SlotRef) (f : Cmd → Cmd) : (d.modCmd r f).tables = d.tables := rfl
@[simp] theorem Dev.modCmd_indexes (d : Dev) (r : SlotRef) (f : Cmd → Cmd) : (d.modCmd r f).indexes = d.indexes := rfl
@[simp] theorem Dev.modCmd_granules (d : Dev) (r : SlotRef) (f : Cmd → Cmd) : (d.modCmd r f).granules = d.granules := rfl
@[simp] theorem Dev.modCmd_media (d : Dev) (r : SlotRef) (f : Cmd → Cmd) : (d.modCmd r f).media = d.media := rfl
@[simp] theorem Dev.modCmd_flash (d : Dev) (r : SlotRef) (f : Cmd → Cmd) : (d.modCmd r f).flash = d.flash := rfl
@[simp] theorem Dev.modCmd_channels (d : Dev) (r : SlotRef) (f : Cmd → Cmd) : (d.modCmd r f).channels = d.channels := rfl
@[simp] theorem Dev.modCmd_lastChannel (d : Dev) (r : SlotRef) (f : Cmd → Cmd) : (d.modCmd r f).lastChannel = d.lastChannel := rfl
@[simp] theorem Dev.modCmd_peCache (d : Dev) (r : SlotRef) (f : Cmd → Cmd) : (d.modCmd r f).peCache = d.peCache := rfl
@[simp] theorem Dev.modCmd_fabCache (d : Dev) (r : SlotRef) (f : Cmd → Cmd) : (d.modCmd r f).fabCache = d.fabCache := rfl
@[simp] theorem Dev.modCmd_points (d : Dev) (r : SlotRef) (f : Cmd → Cmd) : (d.modCmd r f).points = d.points := rfl
@[simp] theorem Dev.modCmd_directory (d : Dev) (r : SlotRef) (f : Cmd → Cmd) : (d.modCmd r f).directory = d.directory := rfl
@[simp] theorem Dev.modCmd_vitTxns (d : Dev) (r : SlotRef) (f : Cmd → Cmd) : (d.modCmd r f).vitTxns = d.vitTxns := rfl
@[simp] theorem Dev.modCmd_links (d : Dev) (r : SlotRef) (f : Cmd → Cmd) : (d.modCmd r f).links = d.links := rfl
@[simp] theorem Dev.modCmd_coll (d : Dev) (r : SlotRef) (f : Cmd → Cmd) : (d.modCmd r f).coll = d.coll := rfl
@[simp] theorem Dev.modCmd_exports (d : Dev) (r : SlotRef) (f : Cmd → Cmd) : (d.modCmd r f).exports = d.exports := rfl
@[simp] theorem Dev.modCmd_serving (d : Dev) (r : SlotRef) (f : Cmd → Cmd) : (d.modCmd r f).serving = d.serving := rfl
@[simp] theorem Dev.modCmd_carried (d : Dev) (r : SlotRef) (f : Cmd → Cmd) : (d.modCmd r f).carried = d.carried := rfl
@[simp] theorem Dev.modCmd_readWaits (d : Dev) (r : SlotRef) (f : Cmd → Cmd) : (d.modCmd r f).readWaits = d.readWaits := rfl
@[simp] theorem Dev.modCmd_nextTag (d : Dev) (r : SlotRef) (f : Cmd → Cmd) : (d.modCmd r f).nextTag = d.nextTag := rfl
@[simp] theorem Dev.modCmd_faults (d : Dev) (r : SlotRef) (f : Cmd → Cmd) : (d.modCmd r f).faults = d.faults := rfl
@[simp] theorem Dev.modCmd_power (d : Dev) (r : SlotRef) (f : Cmd → Cmd) : (d.modCmd r f).power = d.power := rfl
@[simp] theorem Dev.modCmd_pins (d : Dev) (r : SlotRef) (f : Cmd → Cmd) : (d.modCmd r f).pins = d.pins := rfl
@[simp] theorem Dev.modCmd_docent (d : Dev) (r : SlotRef) (f : Cmd → Cmd) : (d.modCmd r f).docent = d.docent := rfl
@[simp] theorem Dev.modCmd_bootFlash (d : Dev) (r : SlotRef) (f : Cmd → Cmd) : (d.modCmd r f).bootFlash = d.bootFlash := rfl
@[simp] theorem Dev.modCmd_out (d : Dev) (r : SlotRef) (f : Cmd → Cmd) : (d.modCmd r f).out = d.out := rfl

/-! ### setCaps -/

@[simp] theorem Dev.setCaps_now (d : Dev) (r : SlotRef) (caps : List Extent) : (d.setCaps r caps).now = d.now := rfl
@[simp] theorem Dev.setCaps_full (d : Dev) (r : SlotRef) (caps : List Extent) : (d.setCaps r caps).full = d.full := rfl
@[simp] theorem Dev.setCaps_parityChecks (d : Dev) (r : SlotRef) (caps : List Extent) : (d.setCaps r caps).parityChecks = d.parityChecks := rfl
@[simp] theorem Dev.setCaps_missTurn (d : Dev) (r : SlotRef) (caps : List Extent) : (d.setCaps r caps).missTurn = d.missTurn := rfl
@[simp] theorem Dev.setCaps_arbiters (d : Dev) (r : SlotRef) (caps : List Extent) : (d.setCaps r caps).arbiters = d.arbiters := rfl
@[simp] theorem Dev.setCaps_masked (d : Dev) (r : SlotRef) (caps : List Extent) : (d.setCaps r caps).masked = d.masked := rfl
@[simp] theorem Dev.setCaps_landings (d : Dev) (r : SlotRef) (caps : List Extent) : (d.setCaps r caps).landings = d.landings := rfl
@[simp] theorem Dev.setCaps_leaving (d : Dev) (r : SlotRef) (caps : List Extent) : (d.setCaps r caps).leaving = d.leaving := rfl
@[simp] theorem Dev.setCaps_rowLocks (d : Dev) (r : SlotRef) (caps : List Extent) : (d.setCaps r caps).rowLocks = d.rowLocks := rfl
@[simp] theorem Dev.setCaps_nextStep (d : Dev) (r : SlotRef) (caps : List Extent) : (d.setCaps r caps).nextStep = d.nextStep := rfl
@[simp] theorem Dev.setCaps_draws (d : Dev) (r : SlotRef) (caps : List Extent) : (d.setCaps r caps).draws = d.draws := rfl
@[simp] theorem Dev.setCaps_order (d : Dev) (r : SlotRef) (caps : List Extent) : (d.setCaps r caps).order = d.order := rfl
@[simp] theorem Dev.setCaps_regs (d : Dev) (r : SlotRef) (caps : List Extent) : (d.setCaps r caps).regs = d.regs := rfl
@[simp] theorem Dev.setCaps_fuses (d : Dev) (r : SlotRef) (caps : List Extent) : (d.setCaps r caps).fuses = d.fuses := rfl
@[simp] theorem Dev.setCaps_acc (d : Dev) (r : SlotRef) (caps : List Extent) : (d.setCaps r caps).acc = d.acc := rfl
@[simp] theorem Dev.setCaps_fw (d : Dev) (r : SlotRef) (caps : List Extent) : (d.setCaps r caps).fw = d.fw := rfl
@[simp] theorem Dev.setCaps_pairs (d : Dev) (r : SlotRef) (caps : List Extent) : (d.setCaps r caps).pairs = d.pairs := rfl
@[simp] theorem Dev.setCaps_galleries (d : Dev) (r : SlotRef) (caps : List Extent) : (d.setCaps r caps).galleries = d.galleries := rfl
@[simp] theorem Dev.setCaps_stackUnits (d : Dev) (r : SlotRef) (caps : List Extent) : (d.setCaps r caps).stackUnits = d.stackUnits := rfl
@[simp] theorem Dev.setCaps_ports (d : Dev) (r : SlotRef) (caps : List Extent) : (d.setCaps r caps).ports = d.ports := rfl
@[simp] theorem Dev.setCaps_image (d : Dev) (r : SlotRef) (caps : List Extent) : (d.setCaps r caps).image = d.image := rfl
@[simp] theorem Dev.setCaps_partials (d : Dev) (r : SlotRef) (caps : List Extent) : (d.setCaps r caps).partials = d.partials := rfl
@[simp] theorem Dev.setCaps_load (d : Dev) (r : SlotRef) (caps : List Extent) : (d.setCaps r caps).load = d.load := rfl
@[simp] theorem Dev.setCaps_resetActive (d : Dev) (r : SlotRef) (caps : List Extent) : (d.setCaps r caps).resetActive = d.resetActive := rfl
@[simp] theorem Dev.setCaps_mem (d : Dev) (r : SlotRef) (caps : List Extent) : (d.setCaps r caps).mem = d.mem := rfl
@[simp] theorem Dev.setCaps_parity (d : Dev) (r : SlotRef) (caps : List Extent) : (d.setCaps r caps).parity = d.parity := rfl
@[simp] theorem Dev.setCaps_poison (d : Dev) (r : SlotRef) (caps : List Extent) : (d.setCaps r caps).poison = d.poison := rfl
@[simp] theorem Dev.setCaps_repairs (d : Dev) (r : SlotRef) (caps : List Extent) : (d.setCaps r caps).repairs = d.repairs := rfl
@[simp] theorem Dev.setCaps_repaired (d : Dev) (r : SlotRef) (caps : List Extent) : (d.setCaps r caps).repaired = d.repaired := rfl
@[simp] theorem Dev.setCaps_extents (d : Dev) (r : SlotRef) (caps : List Extent) : (d.setCaps r caps).extents = d.extents := rfl
@[simp] theorem Dev.setCaps_nextGen (d : Dev) (r : SlotRef) (caps : List Extent) : (d.setCaps r caps).nextGen = d.nextGen := rfl
@[simp] theorem Dev.setCaps_windows (d : Dev) (r : SlotRef) (caps : List Extent) : (d.setCaps r caps).windows = d.windows := rfl
@[simp] theorem Dev.setCaps_dcEvents (d : Dev) (r : SlotRef) (caps : List Extent) : (d.setCaps r caps).dcEvents = d.dcEvents := rfl
@[simp] theorem Dev.setCaps_loans (d : Dev) (r : SlotRef) (caps : List Extent) : (d.setCaps r caps).loans = d.loans := rfl
@[simp] theorem Dev.setCaps_xcEast (d : Dev) (r : SlotRef) (caps : List Extent) : (d.setCaps r caps).xcEast = d.xcEast := rfl
@[simp] theorem Dev.setCaps_xcWest (d : Dev) (r : SlotRef) (caps : List Extent) : (d.setCaps r caps).xcWest = d.xcWest := rfl
@[simp] theorem Dev.setCaps_blocks (d : Dev) (r : SlotRef) (caps : List Extent) : (d.setCaps r caps).blocks = d.blocks := rfl
@[simp] theorem Dev.setCaps_nextBlock (d : Dev) (r : SlotRef) (caps : List Extent) : (d.setCaps r caps).nextBlock = d.nextBlock := rfl
@[simp] theorem Dev.setCaps_tables (d : Dev) (r : SlotRef) (caps : List Extent) : (d.setCaps r caps).tables = d.tables := rfl
@[simp] theorem Dev.setCaps_indexes (d : Dev) (r : SlotRef) (caps : List Extent) : (d.setCaps r caps).indexes = d.indexes := rfl
@[simp] theorem Dev.setCaps_granules (d : Dev) (r : SlotRef) (caps : List Extent) : (d.setCaps r caps).granules = d.granules := rfl
@[simp] theorem Dev.setCaps_media (d : Dev) (r : SlotRef) (caps : List Extent) : (d.setCaps r caps).media = d.media := rfl
@[simp] theorem Dev.setCaps_flash (d : Dev) (r : SlotRef) (caps : List Extent) : (d.setCaps r caps).flash = d.flash := rfl
@[simp] theorem Dev.setCaps_channels (d : Dev) (r : SlotRef) (caps : List Extent) : (d.setCaps r caps).channels = d.channels := rfl
@[simp] theorem Dev.setCaps_lastChannel (d : Dev) (r : SlotRef) (caps : List Extent) : (d.setCaps r caps).lastChannel = d.lastChannel := rfl
@[simp] theorem Dev.setCaps_peCache (d : Dev) (r : SlotRef) (caps : List Extent) : (d.setCaps r caps).peCache = d.peCache := rfl
@[simp] theorem Dev.setCaps_fabCache (d : Dev) (r : SlotRef) (caps : List Extent) : (d.setCaps r caps).fabCache = d.fabCache := rfl
@[simp] theorem Dev.setCaps_points (d : Dev) (r : SlotRef) (caps : List Extent) : (d.setCaps r caps).points = d.points := rfl
@[simp] theorem Dev.setCaps_directory (d : Dev) (r : SlotRef) (caps : List Extent) : (d.setCaps r caps).directory = d.directory := rfl
@[simp] theorem Dev.setCaps_vitTxns (d : Dev) (r : SlotRef) (caps : List Extent) : (d.setCaps r caps).vitTxns = d.vitTxns := rfl
@[simp] theorem Dev.setCaps_links (d : Dev) (r : SlotRef) (caps : List Extent) : (d.setCaps r caps).links = d.links := rfl
@[simp] theorem Dev.setCaps_coll (d : Dev) (r : SlotRef) (caps : List Extent) : (d.setCaps r caps).coll = d.coll := rfl
@[simp] theorem Dev.setCaps_exports (d : Dev) (r : SlotRef) (caps : List Extent) : (d.setCaps r caps).exports = d.exports := rfl
@[simp] theorem Dev.setCaps_serving (d : Dev) (r : SlotRef) (caps : List Extent) : (d.setCaps r caps).serving = d.serving := rfl
@[simp] theorem Dev.setCaps_carried (d : Dev) (r : SlotRef) (caps : List Extent) : (d.setCaps r caps).carried = d.carried := rfl
@[simp] theorem Dev.setCaps_readWaits (d : Dev) (r : SlotRef) (caps : List Extent) : (d.setCaps r caps).readWaits = d.readWaits := rfl
@[simp] theorem Dev.setCaps_nextTag (d : Dev) (r : SlotRef) (caps : List Extent) : (d.setCaps r caps).nextTag = d.nextTag := rfl
@[simp] theorem Dev.setCaps_faults (d : Dev) (r : SlotRef) (caps : List Extent) : (d.setCaps r caps).faults = d.faults := rfl
@[simp] theorem Dev.setCaps_power (d : Dev) (r : SlotRef) (caps : List Extent) : (d.setCaps r caps).power = d.power := rfl
@[simp] theorem Dev.setCaps_pins (d : Dev) (r : SlotRef) (caps : List Extent) : (d.setCaps r caps).pins = d.pins := rfl
@[simp] theorem Dev.setCaps_docent (d : Dev) (r : SlotRef) (caps : List Extent) : (d.setCaps r caps).docent = d.docent := rfl
@[simp] theorem Dev.setCaps_bootFlash (d : Dev) (r : SlotRef) (caps : List Extent) : (d.setCaps r caps).bootFlash = d.bootFlash := rfl
@[simp] theorem Dev.setCaps_out (d : Dev) (r : SlotRef) (caps : List Extent) : (d.setCaps r caps).out = d.out := rfl

/-! ### write -/

@[simp] theorem Dev.write_mem (d : Dev) (a : Nat) (bs : List Byte) : (d.write a bs).mem = memWrite d.mem a bs := rfl
@[simp] theorem Dev.write_now (d : Dev) (a : Nat) (bs : List Byte) : (d.write a bs).now = d.now := rfl
@[simp] theorem Dev.write_full (d : Dev) (a : Nat) (bs : List Byte) : (d.write a bs).full = d.full := rfl
@[simp] theorem Dev.write_parityChecks (d : Dev) (a : Nat) (bs : List Byte) : (d.write a bs).parityChecks = d.parityChecks := rfl
@[simp] theorem Dev.write_missTurn (d : Dev) (a : Nat) (bs : List Byte) : (d.write a bs).missTurn = d.missTurn := rfl
@[simp] theorem Dev.write_arbiters (d : Dev) (a : Nat) (bs : List Byte) : (d.write a bs).arbiters = d.arbiters := rfl
@[simp] theorem Dev.write_masked (d : Dev) (a : Nat) (bs : List Byte) : (d.write a bs).masked = d.masked := rfl
@[simp] theorem Dev.write_landings (d : Dev) (a : Nat) (bs : List Byte) : (d.write a bs).landings = d.landings := rfl
@[simp] theorem Dev.write_leaving (d : Dev) (a : Nat) (bs : List Byte) : (d.write a bs).leaving = d.leaving := rfl
@[simp] theorem Dev.write_rowLocks (d : Dev) (a : Nat) (bs : List Byte) : (d.write a bs).rowLocks = d.rowLocks := rfl
@[simp] theorem Dev.write_nextStep (d : Dev) (a : Nat) (bs : List Byte) : (d.write a bs).nextStep = d.nextStep := rfl
@[simp] theorem Dev.write_draws (d : Dev) (a : Nat) (bs : List Byte) : (d.write a bs).draws = d.draws := rfl
@[simp] theorem Dev.write_order (d : Dev) (a : Nat) (bs : List Byte) : (d.write a bs).order = d.order := rfl
@[simp] theorem Dev.write_regs (d : Dev) (a : Nat) (bs : List Byte) : (d.write a bs).regs = d.regs := rfl
@[simp] theorem Dev.write_fuses (d : Dev) (a : Nat) (bs : List Byte) : (d.write a bs).fuses = d.fuses := rfl
@[simp] theorem Dev.write_acc (d : Dev) (a : Nat) (bs : List Byte) : (d.write a bs).acc = d.acc := rfl
@[simp] theorem Dev.write_fw (d : Dev) (a : Nat) (bs : List Byte) : (d.write a bs).fw = d.fw := rfl
@[simp] theorem Dev.write_pairs (d : Dev) (a : Nat) (bs : List Byte) : (d.write a bs).pairs = d.pairs := rfl
@[simp] theorem Dev.write_galleries (d : Dev) (a : Nat) (bs : List Byte) : (d.write a bs).galleries = d.galleries := rfl
@[simp] theorem Dev.write_stackUnits (d : Dev) (a : Nat) (bs : List Byte) : (d.write a bs).stackUnits = d.stackUnits := rfl
@[simp] theorem Dev.write_ports (d : Dev) (a : Nat) (bs : List Byte) : (d.write a bs).ports = d.ports := rfl
@[simp] theorem Dev.write_image (d : Dev) (a : Nat) (bs : List Byte) : (d.write a bs).image = d.image := rfl
@[simp] theorem Dev.write_partials (d : Dev) (a : Nat) (bs : List Byte) : (d.write a bs).partials = d.partials := rfl
@[simp] theorem Dev.write_load (d : Dev) (a : Nat) (bs : List Byte) : (d.write a bs).load = d.load := rfl
@[simp] theorem Dev.write_ctxs (d : Dev) (a : Nat) (bs : List Byte) : (d.write a bs).ctxs = d.ctxs := rfl
@[simp] theorem Dev.write_resetActive (d : Dev) (a : Nat) (bs : List Byte) : (d.write a bs).resetActive = d.resetActive := rfl
@[simp] theorem Dev.write_parity (d : Dev) (a : Nat) (bs : List Byte) : (d.write a bs).parity = d.parity := rfl
@[simp] theorem Dev.write_repairs (d : Dev) (a : Nat) (bs : List Byte) : (d.write a bs).repairs = d.repairs := rfl
@[simp] theorem Dev.write_repaired (d : Dev) (a : Nat) (bs : List Byte) : (d.write a bs).repaired = d.repaired := rfl
@[simp] theorem Dev.write_extents (d : Dev) (a : Nat) (bs : List Byte) : (d.write a bs).extents = d.extents := rfl
@[simp] theorem Dev.write_nextGen (d : Dev) (a : Nat) (bs : List Byte) : (d.write a bs).nextGen = d.nextGen := rfl
@[simp] theorem Dev.write_windows (d : Dev) (a : Nat) (bs : List Byte) : (d.write a bs).windows = d.windows := rfl
@[simp] theorem Dev.write_dcEvents (d : Dev) (a : Nat) (bs : List Byte) : (d.write a bs).dcEvents = d.dcEvents := rfl
@[simp] theorem Dev.write_loans (d : Dev) (a : Nat) (bs : List Byte) : (d.write a bs).loans = d.loans := rfl
@[simp] theorem Dev.write_xcEast (d : Dev) (a : Nat) (bs : List Byte) : (d.write a bs).xcEast = d.xcEast := rfl
@[simp] theorem Dev.write_xcWest (d : Dev) (a : Nat) (bs : List Byte) : (d.write a bs).xcWest = d.xcWest := rfl
@[simp] theorem Dev.write_blocks (d : Dev) (a : Nat) (bs : List Byte) : (d.write a bs).blocks = d.blocks := rfl
@[simp] theorem Dev.write_nextBlock (d : Dev) (a : Nat) (bs : List Byte) : (d.write a bs).nextBlock = d.nextBlock := rfl
@[simp] theorem Dev.write_tables (d : Dev) (a : Nat) (bs : List Byte) : (d.write a bs).tables = d.tables := rfl
@[simp] theorem Dev.write_indexes (d : Dev) (a : Nat) (bs : List Byte) : (d.write a bs).indexes = d.indexes := rfl
@[simp] theorem Dev.write_granules (d : Dev) (a : Nat) (bs : List Byte) : (d.write a bs).granules = d.granules := rfl
@[simp] theorem Dev.write_media (d : Dev) (a : Nat) (bs : List Byte) : (d.write a bs).media = d.media := rfl
@[simp] theorem Dev.write_flash (d : Dev) (a : Nat) (bs : List Byte) : (d.write a bs).flash = d.flash := rfl
@[simp] theorem Dev.write_channels (d : Dev) (a : Nat) (bs : List Byte) : (d.write a bs).channels = d.channels := rfl
@[simp] theorem Dev.write_lastChannel (d : Dev) (a : Nat) (bs : List Byte) : (d.write a bs).lastChannel = d.lastChannel := rfl
@[simp] theorem Dev.write_peCache (d : Dev) (a : Nat) (bs : List Byte) : (d.write a bs).peCache = d.peCache := rfl
@[simp] theorem Dev.write_fabCache (d : Dev) (a : Nat) (bs : List Byte) : (d.write a bs).fabCache = d.fabCache := rfl
@[simp] theorem Dev.write_points (d : Dev) (a : Nat) (bs : List Byte) : (d.write a bs).points = d.points := rfl
@[simp] theorem Dev.write_directory (d : Dev) (a : Nat) (bs : List Byte) : (d.write a bs).directory = d.directory := rfl
@[simp] theorem Dev.write_vitTxns (d : Dev) (a : Nat) (bs : List Byte) : (d.write a bs).vitTxns = d.vitTxns := rfl
@[simp] theorem Dev.write_links (d : Dev) (a : Nat) (bs : List Byte) : (d.write a bs).links = d.links := rfl
@[simp] theorem Dev.write_coll (d : Dev) (a : Nat) (bs : List Byte) : (d.write a bs).coll = d.coll := rfl
@[simp] theorem Dev.write_exports (d : Dev) (a : Nat) (bs : List Byte) : (d.write a bs).exports = d.exports := rfl
@[simp] theorem Dev.write_serving (d : Dev) (a : Nat) (bs : List Byte) : (d.write a bs).serving = d.serving := rfl
@[simp] theorem Dev.write_carried (d : Dev) (a : Nat) (bs : List Byte) : (d.write a bs).carried = d.carried := rfl
@[simp] theorem Dev.write_readWaits (d : Dev) (a : Nat) (bs : List Byte) : (d.write a bs).readWaits = d.readWaits := rfl
@[simp] theorem Dev.write_nextTag (d : Dev) (a : Nat) (bs : List Byte) : (d.write a bs).nextTag = d.nextTag := rfl
@[simp] theorem Dev.write_faults (d : Dev) (a : Nat) (bs : List Byte) : (d.write a bs).faults = d.faults := rfl
@[simp] theorem Dev.write_power (d : Dev) (a : Nat) (bs : List Byte) : (d.write a bs).power = d.power := rfl
@[simp] theorem Dev.write_pins (d : Dev) (a : Nat) (bs : List Byte) : (d.write a bs).pins = d.pins := rfl
@[simp] theorem Dev.write_docent (d : Dev) (a : Nat) (bs : List Byte) : (d.write a bs).docent = d.docent := rfl
@[simp] theorem Dev.write_bootFlash (d : Dev) (a : Nat) (bs : List Byte) : (d.write a bs).bootFlash = d.bootFlash := rfl
@[simp] theorem Dev.write_out (d : Dev) (a : Nat) (bs : List Byte) : (d.write a bs).out = d.out := rfl

/-! ### zeroRange -/

@[simp] theorem Dev.zeroRange_mem (d : Dev) (a n : Nat) : (d.zeroRange a n).mem = memZero d.mem a n := rfl
@[simp] theorem Dev.zeroRange_now (d : Dev) (a n : Nat) : (d.zeroRange a n).now = d.now := rfl
@[simp] theorem Dev.zeroRange_full (d : Dev) (a n : Nat) : (d.zeroRange a n).full = d.full := rfl
@[simp] theorem Dev.zeroRange_parityChecks (d : Dev) (a n : Nat) : (d.zeroRange a n).parityChecks = d.parityChecks := rfl
@[simp] theorem Dev.zeroRange_missTurn (d : Dev) (a n : Nat) : (d.zeroRange a n).missTurn = d.missTurn := rfl
@[simp] theorem Dev.zeroRange_arbiters (d : Dev) (a n : Nat) : (d.zeroRange a n).arbiters = d.arbiters := rfl
@[simp] theorem Dev.zeroRange_masked (d : Dev) (a n : Nat) : (d.zeroRange a n).masked = d.masked := rfl
@[simp] theorem Dev.zeroRange_landings (d : Dev) (a n : Nat) : (d.zeroRange a n).landings = d.landings := rfl
@[simp] theorem Dev.zeroRange_leaving (d : Dev) (a n : Nat) : (d.zeroRange a n).leaving = d.leaving := rfl
@[simp] theorem Dev.zeroRange_rowLocks (d : Dev) (a n : Nat) : (d.zeroRange a n).rowLocks = d.rowLocks := rfl
@[simp] theorem Dev.zeroRange_nextStep (d : Dev) (a n : Nat) : (d.zeroRange a n).nextStep = d.nextStep := rfl
@[simp] theorem Dev.zeroRange_draws (d : Dev) (a n : Nat) : (d.zeroRange a n).draws = d.draws := rfl
@[simp] theorem Dev.zeroRange_order (d : Dev) (a n : Nat) : (d.zeroRange a n).order = d.order := rfl
@[simp] theorem Dev.zeroRange_regs (d : Dev) (a n : Nat) : (d.zeroRange a n).regs = d.regs := rfl
@[simp] theorem Dev.zeroRange_fuses (d : Dev) (a n : Nat) : (d.zeroRange a n).fuses = d.fuses := rfl
@[simp] theorem Dev.zeroRange_acc (d : Dev) (a n : Nat) : (d.zeroRange a n).acc = d.acc := rfl
@[simp] theorem Dev.zeroRange_fw (d : Dev) (a n : Nat) : (d.zeroRange a n).fw = d.fw := rfl
@[simp] theorem Dev.zeroRange_pairs (d : Dev) (a n : Nat) : (d.zeroRange a n).pairs = d.pairs := rfl
@[simp] theorem Dev.zeroRange_galleries (d : Dev) (a n : Nat) : (d.zeroRange a n).galleries = d.galleries := rfl
@[simp] theorem Dev.zeroRange_stackUnits (d : Dev) (a n : Nat) : (d.zeroRange a n).stackUnits = d.stackUnits := rfl
@[simp] theorem Dev.zeroRange_ports (d : Dev) (a n : Nat) : (d.zeroRange a n).ports = d.ports := rfl
@[simp] theorem Dev.zeroRange_image (d : Dev) (a n : Nat) : (d.zeroRange a n).image = d.image := rfl
@[simp] theorem Dev.zeroRange_partials (d : Dev) (a n : Nat) : (d.zeroRange a n).partials = d.partials := rfl
@[simp] theorem Dev.zeroRange_load (d : Dev) (a n : Nat) : (d.zeroRange a n).load = d.load := rfl
@[simp] theorem Dev.zeroRange_ctxs (d : Dev) (a n : Nat) : (d.zeroRange a n).ctxs = d.ctxs := rfl
@[simp] theorem Dev.zeroRange_resetActive (d : Dev) (a n : Nat) : (d.zeroRange a n).resetActive = d.resetActive := rfl
@[simp] theorem Dev.zeroRange_parity (d : Dev) (a n : Nat) : (d.zeroRange a n).parity = d.parity := rfl
@[simp] theorem Dev.zeroRange_repairs (d : Dev) (a n : Nat) : (d.zeroRange a n).repairs = d.repairs := rfl
@[simp] theorem Dev.zeroRange_repaired (d : Dev) (a n : Nat) : (d.zeroRange a n).repaired = d.repaired := rfl
@[simp] theorem Dev.zeroRange_extents (d : Dev) (a n : Nat) : (d.zeroRange a n).extents = d.extents := rfl
@[simp] theorem Dev.zeroRange_nextGen (d : Dev) (a n : Nat) : (d.zeroRange a n).nextGen = d.nextGen := rfl
@[simp] theorem Dev.zeroRange_windows (d : Dev) (a n : Nat) : (d.zeroRange a n).windows = d.windows := rfl
@[simp] theorem Dev.zeroRange_dcEvents (d : Dev) (a n : Nat) : (d.zeroRange a n).dcEvents = d.dcEvents := rfl
@[simp] theorem Dev.zeroRange_loans (d : Dev) (a n : Nat) : (d.zeroRange a n).loans = d.loans := rfl
@[simp] theorem Dev.zeroRange_xcEast (d : Dev) (a n : Nat) : (d.zeroRange a n).xcEast = d.xcEast := rfl
@[simp] theorem Dev.zeroRange_xcWest (d : Dev) (a n : Nat) : (d.zeroRange a n).xcWest = d.xcWest := rfl
@[simp] theorem Dev.zeroRange_blocks (d : Dev) (a n : Nat) : (d.zeroRange a n).blocks = d.blocks := rfl
@[simp] theorem Dev.zeroRange_nextBlock (d : Dev) (a n : Nat) : (d.zeroRange a n).nextBlock = d.nextBlock := rfl
@[simp] theorem Dev.zeroRange_tables (d : Dev) (a n : Nat) : (d.zeroRange a n).tables = d.tables := rfl
@[simp] theorem Dev.zeroRange_indexes (d : Dev) (a n : Nat) : (d.zeroRange a n).indexes = d.indexes := rfl
@[simp] theorem Dev.zeroRange_granules (d : Dev) (a n : Nat) : (d.zeroRange a n).granules = d.granules := rfl
@[simp] theorem Dev.zeroRange_media (d : Dev) (a n : Nat) : (d.zeroRange a n).media = d.media := rfl
@[simp] theorem Dev.zeroRange_flash (d : Dev) (a n : Nat) : (d.zeroRange a n).flash = d.flash := rfl
@[simp] theorem Dev.zeroRange_channels (d : Dev) (a n : Nat) : (d.zeroRange a n).channels = d.channels := rfl
@[simp] theorem Dev.zeroRange_lastChannel (d : Dev) (a n : Nat) : (d.zeroRange a n).lastChannel = d.lastChannel := rfl
@[simp] theorem Dev.zeroRange_peCache (d : Dev) (a n : Nat) : (d.zeroRange a n).peCache = d.peCache := rfl
@[simp] theorem Dev.zeroRange_fabCache (d : Dev) (a n : Nat) : (d.zeroRange a n).fabCache = d.fabCache := rfl
@[simp] theorem Dev.zeroRange_points (d : Dev) (a n : Nat) : (d.zeroRange a n).points = d.points := rfl
@[simp] theorem Dev.zeroRange_directory (d : Dev) (a n : Nat) : (d.zeroRange a n).directory = d.directory := rfl
@[simp] theorem Dev.zeroRange_vitTxns (d : Dev) (a n : Nat) : (d.zeroRange a n).vitTxns = d.vitTxns := rfl
@[simp] theorem Dev.zeroRange_links (d : Dev) (a n : Nat) : (d.zeroRange a n).links = d.links := rfl
@[simp] theorem Dev.zeroRange_coll (d : Dev) (a n : Nat) : (d.zeroRange a n).coll = d.coll := rfl
@[simp] theorem Dev.zeroRange_exports (d : Dev) (a n : Nat) : (d.zeroRange a n).exports = d.exports := rfl
@[simp] theorem Dev.zeroRange_serving (d : Dev) (a n : Nat) : (d.zeroRange a n).serving = d.serving := rfl
@[simp] theorem Dev.zeroRange_carried (d : Dev) (a n : Nat) : (d.zeroRange a n).carried = d.carried := rfl
@[simp] theorem Dev.zeroRange_readWaits (d : Dev) (a n : Nat) : (d.zeroRange a n).readWaits = d.readWaits := rfl
@[simp] theorem Dev.zeroRange_nextTag (d : Dev) (a n : Nat) : (d.zeroRange a n).nextTag = d.nextTag := rfl
@[simp] theorem Dev.zeroRange_faults (d : Dev) (a n : Nat) : (d.zeroRange a n).faults = d.faults := rfl
@[simp] theorem Dev.zeroRange_power (d : Dev) (a n : Nat) : (d.zeroRange a n).power = d.power := rfl
@[simp] theorem Dev.zeroRange_pins (d : Dev) (a n : Nat) : (d.zeroRange a n).pins = d.pins := rfl
@[simp] theorem Dev.zeroRange_docent (d : Dev) (a n : Nat) : (d.zeroRange a n).docent = d.docent := rfl
@[simp] theorem Dev.zeroRange_bootFlash (d : Dev) (a n : Nat) : (d.zeroRange a n).bootFlash = d.bootFlash := rfl
@[simp] theorem Dev.zeroRange_out (d : Dev) (a n : Nat) : (d.zeroRange a n).out = d.out := rfl

/-! ### poisonSector -/

@[simp] theorem Dev.poisonSector_mem (d : Dev) (sec : Nat) : (d.poisonSector sec).mem = memZero d.mem (sec * 32) 32 := rfl
@[simp] theorem Dev.poisonSector_poison (d : Dev) (sec : Nat) : (d.poisonSector sec).poison = insertBy id sec d.poison := rfl
@[simp] theorem Dev.poisonSector_now (d : Dev) (sec : Nat) : (d.poisonSector sec).now = d.now := rfl
@[simp] theorem Dev.poisonSector_full (d : Dev) (sec : Nat) : (d.poisonSector sec).full = d.full := rfl
@[simp] theorem Dev.poisonSector_parityChecks (d : Dev) (sec : Nat) : (d.poisonSector sec).parityChecks = d.parityChecks := rfl
@[simp] theorem Dev.poisonSector_missTurn (d : Dev) (sec : Nat) : (d.poisonSector sec).missTurn = d.missTurn := rfl
@[simp] theorem Dev.poisonSector_arbiters (d : Dev) (sec : Nat) : (d.poisonSector sec).arbiters = d.arbiters := rfl
@[simp] theorem Dev.poisonSector_masked (d : Dev) (sec : Nat) : (d.poisonSector sec).masked = d.masked := rfl
@[simp] theorem Dev.poisonSector_landings (d : Dev) (sec : Nat) : (d.poisonSector sec).landings = d.landings := rfl
@[simp] theorem Dev.poisonSector_leaving (d : Dev) (sec : Nat) : (d.poisonSector sec).leaving = d.leaving := rfl
@[simp] theorem Dev.poisonSector_rowLocks (d : Dev) (sec : Nat) : (d.poisonSector sec).rowLocks = d.rowLocks := rfl
@[simp] theorem Dev.poisonSector_nextStep (d : Dev) (sec : Nat) : (d.poisonSector sec).nextStep = d.nextStep := rfl
@[simp] theorem Dev.poisonSector_draws (d : Dev) (sec : Nat) : (d.poisonSector sec).draws = d.draws := rfl
@[simp] theorem Dev.poisonSector_order (d : Dev) (sec : Nat) : (d.poisonSector sec).order = d.order := rfl
@[simp] theorem Dev.poisonSector_regs (d : Dev) (sec : Nat) : (d.poisonSector sec).regs = d.regs := rfl
@[simp] theorem Dev.poisonSector_fuses (d : Dev) (sec : Nat) : (d.poisonSector sec).fuses = d.fuses := rfl
@[simp] theorem Dev.poisonSector_acc (d : Dev) (sec : Nat) : (d.poisonSector sec).acc = d.acc := rfl
@[simp] theorem Dev.poisonSector_fw (d : Dev) (sec : Nat) : (d.poisonSector sec).fw = d.fw := rfl
@[simp] theorem Dev.poisonSector_pairs (d : Dev) (sec : Nat) : (d.poisonSector sec).pairs = d.pairs := rfl
@[simp] theorem Dev.poisonSector_galleries (d : Dev) (sec : Nat) : (d.poisonSector sec).galleries = d.galleries := rfl
@[simp] theorem Dev.poisonSector_stackUnits (d : Dev) (sec : Nat) : (d.poisonSector sec).stackUnits = d.stackUnits := rfl
@[simp] theorem Dev.poisonSector_ports (d : Dev) (sec : Nat) : (d.poisonSector sec).ports = d.ports := rfl
@[simp] theorem Dev.poisonSector_image (d : Dev) (sec : Nat) : (d.poisonSector sec).image = d.image := rfl
@[simp] theorem Dev.poisonSector_partials (d : Dev) (sec : Nat) : (d.poisonSector sec).partials = d.partials := rfl
@[simp] theorem Dev.poisonSector_load (d : Dev) (sec : Nat) : (d.poisonSector sec).load = d.load := rfl
@[simp] theorem Dev.poisonSector_ctxs (d : Dev) (sec : Nat) : (d.poisonSector sec).ctxs = d.ctxs := rfl
@[simp] theorem Dev.poisonSector_resetActive (d : Dev) (sec : Nat) : (d.poisonSector sec).resetActive = d.resetActive := rfl
@[simp] theorem Dev.poisonSector_parity (d : Dev) (sec : Nat) : (d.poisonSector sec).parity = d.parity := rfl
@[simp] theorem Dev.poisonSector_repairs (d : Dev) (sec : Nat) : (d.poisonSector sec).repairs = d.repairs := rfl
@[simp] theorem Dev.poisonSector_repaired (d : Dev) (sec : Nat) : (d.poisonSector sec).repaired = d.repaired := rfl
@[simp] theorem Dev.poisonSector_extents (d : Dev) (sec : Nat) : (d.poisonSector sec).extents = d.extents := rfl
@[simp] theorem Dev.poisonSector_nextGen (d : Dev) (sec : Nat) : (d.poisonSector sec).nextGen = d.nextGen := rfl
@[simp] theorem Dev.poisonSector_windows (d : Dev) (sec : Nat) : (d.poisonSector sec).windows = d.windows := rfl
@[simp] theorem Dev.poisonSector_dcEvents (d : Dev) (sec : Nat) : (d.poisonSector sec).dcEvents = d.dcEvents := rfl
@[simp] theorem Dev.poisonSector_loans (d : Dev) (sec : Nat) : (d.poisonSector sec).loans = d.loans := rfl
@[simp] theorem Dev.poisonSector_xcEast (d : Dev) (sec : Nat) : (d.poisonSector sec).xcEast = d.xcEast := rfl
@[simp] theorem Dev.poisonSector_xcWest (d : Dev) (sec : Nat) : (d.poisonSector sec).xcWest = d.xcWest := rfl
@[simp] theorem Dev.poisonSector_blocks (d : Dev) (sec : Nat) : (d.poisonSector sec).blocks = d.blocks := rfl
@[simp] theorem Dev.poisonSector_nextBlock (d : Dev) (sec : Nat) : (d.poisonSector sec).nextBlock = d.nextBlock := rfl
@[simp] theorem Dev.poisonSector_tables (d : Dev) (sec : Nat) : (d.poisonSector sec).tables = d.tables := rfl
@[simp] theorem Dev.poisonSector_indexes (d : Dev) (sec : Nat) : (d.poisonSector sec).indexes = d.indexes := rfl
@[simp] theorem Dev.poisonSector_granules (d : Dev) (sec : Nat) : (d.poisonSector sec).granules = d.granules := rfl
@[simp] theorem Dev.poisonSector_media (d : Dev) (sec : Nat) : (d.poisonSector sec).media = d.media := rfl
@[simp] theorem Dev.poisonSector_flash (d : Dev) (sec : Nat) : (d.poisonSector sec).flash = d.flash := rfl
@[simp] theorem Dev.poisonSector_channels (d : Dev) (sec : Nat) : (d.poisonSector sec).channels = d.channels := rfl
@[simp] theorem Dev.poisonSector_lastChannel (d : Dev) (sec : Nat) : (d.poisonSector sec).lastChannel = d.lastChannel := rfl
@[simp] theorem Dev.poisonSector_peCache (d : Dev) (sec : Nat) : (d.poisonSector sec).peCache = d.peCache := rfl
@[simp] theorem Dev.poisonSector_fabCache (d : Dev) (sec : Nat) : (d.poisonSector sec).fabCache = d.fabCache := rfl
@[simp] theorem Dev.poisonSector_points (d : Dev) (sec : Nat) : (d.poisonSector sec).points = d.points := rfl
@[simp] theorem Dev.poisonSector_directory (d : Dev) (sec : Nat) : (d.poisonSector sec).directory = d.directory := rfl
@[simp] theorem Dev.poisonSector_vitTxns (d : Dev) (sec : Nat) : (d.poisonSector sec).vitTxns = d.vitTxns := rfl
@[simp] theorem Dev.poisonSector_links (d : Dev) (sec : Nat) : (d.poisonSector sec).links = d.links := rfl
@[simp] theorem Dev.poisonSector_coll (d : Dev) (sec : Nat) : (d.poisonSector sec).coll = d.coll := rfl
@[simp] theorem Dev.poisonSector_exports (d : Dev) (sec : Nat) : (d.poisonSector sec).exports = d.exports := rfl
@[simp] theorem Dev.poisonSector_serving (d : Dev) (sec : Nat) : (d.poisonSector sec).serving = d.serving := rfl
@[simp] theorem Dev.poisonSector_carried (d : Dev) (sec : Nat) : (d.poisonSector sec).carried = d.carried := rfl
@[simp] theorem Dev.poisonSector_readWaits (d : Dev) (sec : Nat) : (d.poisonSector sec).readWaits = d.readWaits := rfl
@[simp] theorem Dev.poisonSector_nextTag (d : Dev) (sec : Nat) : (d.poisonSector sec).nextTag = d.nextTag := rfl
@[simp] theorem Dev.poisonSector_faults (d : Dev) (sec : Nat) : (d.poisonSector sec).faults = d.faults := rfl
@[simp] theorem Dev.poisonSector_power (d : Dev) (sec : Nat) : (d.poisonSector sec).power = d.power := rfl
@[simp] theorem Dev.poisonSector_pins (d : Dev) (sec : Nat) : (d.poisonSector sec).pins = d.pins := rfl
@[simp] theorem Dev.poisonSector_docent (d : Dev) (sec : Nat) : (d.poisonSector sec).docent = d.docent := rfl
@[simp] theorem Dev.poisonSector_bootFlash (d : Dev) (sec : Nat) : (d.poisonSector sec).bootFlash = d.bootFlash := rfl
@[simp] theorem Dev.poisonSector_out (d : Dev) (sec : Nat) : (d.poisonSector sec).out = d.out := rfl

/-! ### modPoint -/

@[simp] theorem Dev.modPoint_points (d : Dev) (p : Point) (f : EgPoint → EgPoint) : (d.modPoint p f).points = modifyAll (·.point == p) f d.points := rfl
@[simp] theorem Dev.modPoint_now (d : Dev) (p : Point) (f : EgPoint → EgPoint) : (d.modPoint p f).now = d.now := rfl
@[simp] theorem Dev.modPoint_full (d : Dev) (p : Point) (f : EgPoint → EgPoint) : (d.modPoint p f).full = d.full := rfl
@[simp] theorem Dev.modPoint_parityChecks (d : Dev) (p : Point) (f : EgPoint → EgPoint) : (d.modPoint p f).parityChecks = d.parityChecks := rfl
@[simp] theorem Dev.modPoint_missTurn (d : Dev) (p : Point) (f : EgPoint → EgPoint) : (d.modPoint p f).missTurn = d.missTurn := rfl
@[simp] theorem Dev.modPoint_arbiters (d : Dev) (p : Point) (f : EgPoint → EgPoint) : (d.modPoint p f).arbiters = d.arbiters := rfl
@[simp] theorem Dev.modPoint_masked (d : Dev) (p : Point) (f : EgPoint → EgPoint) : (d.modPoint p f).masked = d.masked := rfl
@[simp] theorem Dev.modPoint_landings (d : Dev) (p : Point) (f : EgPoint → EgPoint) : (d.modPoint p f).landings = d.landings := rfl
@[simp] theorem Dev.modPoint_leaving (d : Dev) (p : Point) (f : EgPoint → EgPoint) : (d.modPoint p f).leaving = d.leaving := rfl
@[simp] theorem Dev.modPoint_rowLocks (d : Dev) (p : Point) (f : EgPoint → EgPoint) : (d.modPoint p f).rowLocks = d.rowLocks := rfl
@[simp] theorem Dev.modPoint_nextStep (d : Dev) (p : Point) (f : EgPoint → EgPoint) : (d.modPoint p f).nextStep = d.nextStep := rfl
@[simp] theorem Dev.modPoint_draws (d : Dev) (p : Point) (f : EgPoint → EgPoint) : (d.modPoint p f).draws = d.draws := rfl
@[simp] theorem Dev.modPoint_order (d : Dev) (p : Point) (f : EgPoint → EgPoint) : (d.modPoint p f).order = d.order := rfl
@[simp] theorem Dev.modPoint_regs (d : Dev) (p : Point) (f : EgPoint → EgPoint) : (d.modPoint p f).regs = d.regs := rfl
@[simp] theorem Dev.modPoint_fuses (d : Dev) (p : Point) (f : EgPoint → EgPoint) : (d.modPoint p f).fuses = d.fuses := rfl
@[simp] theorem Dev.modPoint_acc (d : Dev) (p : Point) (f : EgPoint → EgPoint) : (d.modPoint p f).acc = d.acc := rfl
@[simp] theorem Dev.modPoint_fw (d : Dev) (p : Point) (f : EgPoint → EgPoint) : (d.modPoint p f).fw = d.fw := rfl
@[simp] theorem Dev.modPoint_pairs (d : Dev) (p : Point) (f : EgPoint → EgPoint) : (d.modPoint p f).pairs = d.pairs := rfl
@[simp] theorem Dev.modPoint_galleries (d : Dev) (p : Point) (f : EgPoint → EgPoint) : (d.modPoint p f).galleries = d.galleries := rfl
@[simp] theorem Dev.modPoint_stackUnits (d : Dev) (p : Point) (f : EgPoint → EgPoint) : (d.modPoint p f).stackUnits = d.stackUnits := rfl
@[simp] theorem Dev.modPoint_ports (d : Dev) (p : Point) (f : EgPoint → EgPoint) : (d.modPoint p f).ports = d.ports := rfl
@[simp] theorem Dev.modPoint_image (d : Dev) (p : Point) (f : EgPoint → EgPoint) : (d.modPoint p f).image = d.image := rfl
@[simp] theorem Dev.modPoint_partials (d : Dev) (p : Point) (f : EgPoint → EgPoint) : (d.modPoint p f).partials = d.partials := rfl
@[simp] theorem Dev.modPoint_load (d : Dev) (p : Point) (f : EgPoint → EgPoint) : (d.modPoint p f).load = d.load := rfl
@[simp] theorem Dev.modPoint_ctxs (d : Dev) (p : Point) (f : EgPoint → EgPoint) : (d.modPoint p f).ctxs = d.ctxs := rfl
@[simp] theorem Dev.modPoint_resetActive (d : Dev) (p : Point) (f : EgPoint → EgPoint) : (d.modPoint p f).resetActive = d.resetActive := rfl
@[simp] theorem Dev.modPoint_mem (d : Dev) (p : Point) (f : EgPoint → EgPoint) : (d.modPoint p f).mem = d.mem := rfl
@[simp] theorem Dev.modPoint_parity (d : Dev) (p : Point) (f : EgPoint → EgPoint) : (d.modPoint p f).parity = d.parity := rfl
@[simp] theorem Dev.modPoint_poison (d : Dev) (p : Point) (f : EgPoint → EgPoint) : (d.modPoint p f).poison = d.poison := rfl
@[simp] theorem Dev.modPoint_repairs (d : Dev) (p : Point) (f : EgPoint → EgPoint) : (d.modPoint p f).repairs = d.repairs := rfl
@[simp] theorem Dev.modPoint_repaired (d : Dev) (p : Point) (f : EgPoint → EgPoint) : (d.modPoint p f).repaired = d.repaired := rfl
@[simp] theorem Dev.modPoint_extents (d : Dev) (p : Point) (f : EgPoint → EgPoint) : (d.modPoint p f).extents = d.extents := rfl
@[simp] theorem Dev.modPoint_nextGen (d : Dev) (p : Point) (f : EgPoint → EgPoint) : (d.modPoint p f).nextGen = d.nextGen := rfl
@[simp] theorem Dev.modPoint_windows (d : Dev) (p : Point) (f : EgPoint → EgPoint) : (d.modPoint p f).windows = d.windows := rfl
@[simp] theorem Dev.modPoint_dcEvents (d : Dev) (p : Point) (f : EgPoint → EgPoint) : (d.modPoint p f).dcEvents = d.dcEvents := rfl
@[simp] theorem Dev.modPoint_loans (d : Dev) (p : Point) (f : EgPoint → EgPoint) : (d.modPoint p f).loans = d.loans := rfl
@[simp] theorem Dev.modPoint_xcEast (d : Dev) (p : Point) (f : EgPoint → EgPoint) : (d.modPoint p f).xcEast = d.xcEast := rfl
@[simp] theorem Dev.modPoint_xcWest (d : Dev) (p : Point) (f : EgPoint → EgPoint) : (d.modPoint p f).xcWest = d.xcWest := rfl
@[simp] theorem Dev.modPoint_blocks (d : Dev) (p : Point) (f : EgPoint → EgPoint) : (d.modPoint p f).blocks = d.blocks := rfl
@[simp] theorem Dev.modPoint_nextBlock (d : Dev) (p : Point) (f : EgPoint → EgPoint) : (d.modPoint p f).nextBlock = d.nextBlock := rfl
@[simp] theorem Dev.modPoint_tables (d : Dev) (p : Point) (f : EgPoint → EgPoint) : (d.modPoint p f).tables = d.tables := rfl
@[simp] theorem Dev.modPoint_indexes (d : Dev) (p : Point) (f : EgPoint → EgPoint) : (d.modPoint p f).indexes = d.indexes := rfl
@[simp] theorem Dev.modPoint_granules (d : Dev) (p : Point) (f : EgPoint → EgPoint) : (d.modPoint p f).granules = d.granules := rfl
@[simp] theorem Dev.modPoint_media (d : Dev) (p : Point) (f : EgPoint → EgPoint) : (d.modPoint p f).media = d.media := rfl
@[simp] theorem Dev.modPoint_flash (d : Dev) (p : Point) (f : EgPoint → EgPoint) : (d.modPoint p f).flash = d.flash := rfl
@[simp] theorem Dev.modPoint_channels (d : Dev) (p : Point) (f : EgPoint → EgPoint) : (d.modPoint p f).channels = d.channels := rfl
@[simp] theorem Dev.modPoint_lastChannel (d : Dev) (p : Point) (f : EgPoint → EgPoint) : (d.modPoint p f).lastChannel = d.lastChannel := rfl
@[simp] theorem Dev.modPoint_peCache (d : Dev) (p : Point) (f : EgPoint → EgPoint) : (d.modPoint p f).peCache = d.peCache := rfl
@[simp] theorem Dev.modPoint_fabCache (d : Dev) (p : Point) (f : EgPoint → EgPoint) : (d.modPoint p f).fabCache = d.fabCache := rfl
@[simp] theorem Dev.modPoint_directory (d : Dev) (p : Point) (f : EgPoint → EgPoint) : (d.modPoint p f).directory = d.directory := rfl
@[simp] theorem Dev.modPoint_vitTxns (d : Dev) (p : Point) (f : EgPoint → EgPoint) : (d.modPoint p f).vitTxns = d.vitTxns := rfl
@[simp] theorem Dev.modPoint_links (d : Dev) (p : Point) (f : EgPoint → EgPoint) : (d.modPoint p f).links = d.links := rfl
@[simp] theorem Dev.modPoint_coll (d : Dev) (p : Point) (f : EgPoint → EgPoint) : (d.modPoint p f).coll = d.coll := rfl
@[simp] theorem Dev.modPoint_exports (d : Dev) (p : Point) (f : EgPoint → EgPoint) : (d.modPoint p f).exports = d.exports := rfl
@[simp] theorem Dev.modPoint_serving (d : Dev) (p : Point) (f : EgPoint → EgPoint) : (d.modPoint p f).serving = d.serving := rfl
@[simp] theorem Dev.modPoint_carried (d : Dev) (p : Point) (f : EgPoint → EgPoint) : (d.modPoint p f).carried = d.carried := rfl
@[simp] theorem Dev.modPoint_readWaits (d : Dev) (p : Point) (f : EgPoint → EgPoint) : (d.modPoint p f).readWaits = d.readWaits := rfl
@[simp] theorem Dev.modPoint_nextTag (d : Dev) (p : Point) (f : EgPoint → EgPoint) : (d.modPoint p f).nextTag = d.nextTag := rfl
@[simp] theorem Dev.modPoint_faults (d : Dev) (p : Point) (f : EgPoint → EgPoint) : (d.modPoint p f).faults = d.faults := rfl
@[simp] theorem Dev.modPoint_power (d : Dev) (p : Point) (f : EgPoint → EgPoint) : (d.modPoint p f).power = d.power := rfl
@[simp] theorem Dev.modPoint_pins (d : Dev) (p : Point) (f : EgPoint → EgPoint) : (d.modPoint p f).pins = d.pins := rfl
@[simp] theorem Dev.modPoint_docent (d : Dev) (p : Point) (f : EgPoint → EgPoint) : (d.modPoint p f).docent = d.docent := rfl
@[simp] theorem Dev.modPoint_bootFlash (d : Dev) (p : Point) (f : EgPoint → EgPoint) : (d.modPoint p f).bootFlash = d.bootFlash := rfl
@[simp] theorem Dev.modPoint_out (d : Dev) (p : Point) (f : EgPoint → EgPoint) : (d.modPoint p f).out = d.out := rfl

/-! ### modLink -/

@[simp] theorem Dev.modLink_links (d : Dev) (l : Nat) (f : Link → Link) : (d.modLink l f).links = modifyAll (·.index == l) f d.links := rfl
@[simp] theorem Dev.modLink_now (d : Dev) (l : Nat) (f : Link → Link) : (d.modLink l f).now = d.now := rfl
@[simp] theorem Dev.modLink_full (d : Dev) (l : Nat) (f : Link → Link) : (d.modLink l f).full = d.full := rfl
@[simp] theorem Dev.modLink_parityChecks (d : Dev) (l : Nat) (f : Link → Link) : (d.modLink l f).parityChecks = d.parityChecks := rfl
@[simp] theorem Dev.modLink_missTurn (d : Dev) (l : Nat) (f : Link → Link) : (d.modLink l f).missTurn = d.missTurn := rfl
@[simp] theorem Dev.modLink_arbiters (d : Dev) (l : Nat) (f : Link → Link) : (d.modLink l f).arbiters = d.arbiters := rfl
@[simp] theorem Dev.modLink_masked (d : Dev) (l : Nat) (f : Link → Link) : (d.modLink l f).masked = d.masked := rfl
@[simp] theorem Dev.modLink_landings (d : Dev) (l : Nat) (f : Link → Link) : (d.modLink l f).landings = d.landings := rfl
@[simp] theorem Dev.modLink_leaving (d : Dev) (l : Nat) (f : Link → Link) : (d.modLink l f).leaving = d.leaving := rfl
@[simp] theorem Dev.modLink_rowLocks (d : Dev) (l : Nat) (f : Link → Link) : (d.modLink l f).rowLocks = d.rowLocks := rfl
@[simp] theorem Dev.modLink_nextStep (d : Dev) (l : Nat) (f : Link → Link) : (d.modLink l f).nextStep = d.nextStep := rfl
@[simp] theorem Dev.modLink_draws (d : Dev) (l : Nat) (f : Link → Link) : (d.modLink l f).draws = d.draws := rfl
@[simp] theorem Dev.modLink_order (d : Dev) (l : Nat) (f : Link → Link) : (d.modLink l f).order = d.order := rfl
@[simp] theorem Dev.modLink_regs (d : Dev) (l : Nat) (f : Link → Link) : (d.modLink l f).regs = d.regs := rfl
@[simp] theorem Dev.modLink_fuses (d : Dev) (l : Nat) (f : Link → Link) : (d.modLink l f).fuses = d.fuses := rfl
@[simp] theorem Dev.modLink_acc (d : Dev) (l : Nat) (f : Link → Link) : (d.modLink l f).acc = d.acc := rfl
@[simp] theorem Dev.modLink_fw (d : Dev) (l : Nat) (f : Link → Link) : (d.modLink l f).fw = d.fw := rfl
@[simp] theorem Dev.modLink_pairs (d : Dev) (l : Nat) (f : Link → Link) : (d.modLink l f).pairs = d.pairs := rfl
@[simp] theorem Dev.modLink_galleries (d : Dev) (l : Nat) (f : Link → Link) : (d.modLink l f).galleries = d.galleries := rfl
@[simp] theorem Dev.modLink_stackUnits (d : Dev) (l : Nat) (f : Link → Link) : (d.modLink l f).stackUnits = d.stackUnits := rfl
@[simp] theorem Dev.modLink_ports (d : Dev) (l : Nat) (f : Link → Link) : (d.modLink l f).ports = d.ports := rfl
@[simp] theorem Dev.modLink_image (d : Dev) (l : Nat) (f : Link → Link) : (d.modLink l f).image = d.image := rfl
@[simp] theorem Dev.modLink_partials (d : Dev) (l : Nat) (f : Link → Link) : (d.modLink l f).partials = d.partials := rfl
@[simp] theorem Dev.modLink_load (d : Dev) (l : Nat) (f : Link → Link) : (d.modLink l f).load = d.load := rfl
@[simp] theorem Dev.modLink_ctxs (d : Dev) (l : Nat) (f : Link → Link) : (d.modLink l f).ctxs = d.ctxs := rfl
@[simp] theorem Dev.modLink_resetActive (d : Dev) (l : Nat) (f : Link → Link) : (d.modLink l f).resetActive = d.resetActive := rfl
@[simp] theorem Dev.modLink_mem (d : Dev) (l : Nat) (f : Link → Link) : (d.modLink l f).mem = d.mem := rfl
@[simp] theorem Dev.modLink_parity (d : Dev) (l : Nat) (f : Link → Link) : (d.modLink l f).parity = d.parity := rfl
@[simp] theorem Dev.modLink_poison (d : Dev) (l : Nat) (f : Link → Link) : (d.modLink l f).poison = d.poison := rfl
@[simp] theorem Dev.modLink_repairs (d : Dev) (l : Nat) (f : Link → Link) : (d.modLink l f).repairs = d.repairs := rfl
@[simp] theorem Dev.modLink_repaired (d : Dev) (l : Nat) (f : Link → Link) : (d.modLink l f).repaired = d.repaired := rfl
@[simp] theorem Dev.modLink_extents (d : Dev) (l : Nat) (f : Link → Link) : (d.modLink l f).extents = d.extents := rfl
@[simp] theorem Dev.modLink_nextGen (d : Dev) (l : Nat) (f : Link → Link) : (d.modLink l f).nextGen = d.nextGen := rfl
@[simp] theorem Dev.modLink_windows (d : Dev) (l : Nat) (f : Link → Link) : (d.modLink l f).windows = d.windows := rfl
@[simp] theorem Dev.modLink_dcEvents (d : Dev) (l : Nat) (f : Link → Link) : (d.modLink l f).dcEvents = d.dcEvents := rfl
@[simp] theorem Dev.modLink_loans (d : Dev) (l : Nat) (f : Link → Link) : (d.modLink l f).loans = d.loans := rfl
@[simp] theorem Dev.modLink_xcEast (d : Dev) (l : Nat) (f : Link → Link) : (d.modLink l f).xcEast = d.xcEast := rfl
@[simp] theorem Dev.modLink_xcWest (d : Dev) (l : Nat) (f : Link → Link) : (d.modLink l f).xcWest = d.xcWest := rfl
@[simp] theorem Dev.modLink_blocks (d : Dev) (l : Nat) (f : Link → Link) : (d.modLink l f).blocks = d.blocks := rfl
@[simp] theorem Dev.modLink_nextBlock (d : Dev) (l : Nat) (f : Link → Link) : (d.modLink l f).nextBlock = d.nextBlock := rfl
@[simp] theorem Dev.modLink_tables (d : Dev) (l : Nat) (f : Link → Link) : (d.modLink l f).tables = d.tables := rfl
@[simp] theorem Dev.modLink_indexes (d : Dev) (l : Nat) (f : Link → Link) : (d.modLink l f).indexes = d.indexes := rfl
@[simp] theorem Dev.modLink_granules (d : Dev) (l : Nat) (f : Link → Link) : (d.modLink l f).granules = d.granules := rfl
@[simp] theorem Dev.modLink_media (d : Dev) (l : Nat) (f : Link → Link) : (d.modLink l f).media = d.media := rfl
@[simp] theorem Dev.modLink_flash (d : Dev) (l : Nat) (f : Link → Link) : (d.modLink l f).flash = d.flash := rfl
@[simp] theorem Dev.modLink_channels (d : Dev) (l : Nat) (f : Link → Link) : (d.modLink l f).channels = d.channels := rfl
@[simp] theorem Dev.modLink_lastChannel (d : Dev) (l : Nat) (f : Link → Link) : (d.modLink l f).lastChannel = d.lastChannel := rfl
@[simp] theorem Dev.modLink_peCache (d : Dev) (l : Nat) (f : Link → Link) : (d.modLink l f).peCache = d.peCache := rfl
@[simp] theorem Dev.modLink_fabCache (d : Dev) (l : Nat) (f : Link → Link) : (d.modLink l f).fabCache = d.fabCache := rfl
@[simp] theorem Dev.modLink_points (d : Dev) (l : Nat) (f : Link → Link) : (d.modLink l f).points = d.points := rfl
@[simp] theorem Dev.modLink_directory (d : Dev) (l : Nat) (f : Link → Link) : (d.modLink l f).directory = d.directory := rfl
@[simp] theorem Dev.modLink_vitTxns (d : Dev) (l : Nat) (f : Link → Link) : (d.modLink l f).vitTxns = d.vitTxns := rfl
@[simp] theorem Dev.modLink_coll (d : Dev) (l : Nat) (f : Link → Link) : (d.modLink l f).coll = d.coll := rfl
@[simp] theorem Dev.modLink_exports (d : Dev) (l : Nat) (f : Link → Link) : (d.modLink l f).exports = d.exports := rfl
@[simp] theorem Dev.modLink_serving (d : Dev) (l : Nat) (f : Link → Link) : (d.modLink l f).serving = d.serving := rfl
@[simp] theorem Dev.modLink_carried (d : Dev) (l : Nat) (f : Link → Link) : (d.modLink l f).carried = d.carried := rfl
@[simp] theorem Dev.modLink_readWaits (d : Dev) (l : Nat) (f : Link → Link) : (d.modLink l f).readWaits = d.readWaits := rfl
@[simp] theorem Dev.modLink_nextTag (d : Dev) (l : Nat) (f : Link → Link) : (d.modLink l f).nextTag = d.nextTag := rfl
@[simp] theorem Dev.modLink_faults (d : Dev) (l : Nat) (f : Link → Link) : (d.modLink l f).faults = d.faults := rfl
@[simp] theorem Dev.modLink_power (d : Dev) (l : Nat) (f : Link → Link) : (d.modLink l f).power = d.power := rfl
@[simp] theorem Dev.modLink_pins (d : Dev) (l : Nat) (f : Link → Link) : (d.modLink l f).pins = d.pins := rfl
@[simp] theorem Dev.modLink_docent (d : Dev) (l : Nat) (f : Link → Link) : (d.modLink l f).docent = d.docent := rfl
@[simp] theorem Dev.modLink_bootFlash (d : Dev) (l : Nat) (f : Link → Link) : (d.modLink l f).bootFlash = d.bootFlash := rfl
@[simp] theorem Dev.modLink_out (d : Dev) (l : Nat) (f : Link → Link) : (d.modLink l f).out = d.out := rfl

/-! ### modPort -/

@[simp] theorem Dev.modPort_ports (d : Dev) (p : Nat) (f : Port → Port) : (d.modPort p f).ports = modifyAll (·.index == p) f d.ports := rfl
@[simp] theorem Dev.modPort_now (d : Dev) (p : Nat) (f : Port → Port) : (d.modPort p f).now = d.now := rfl
@[simp] theorem Dev.modPort_full (d : Dev) (p : Nat) (f : Port → Port) : (d.modPort p f).full = d.full := rfl
@[simp] theorem Dev.modPort_parityChecks (d : Dev) (p : Nat) (f : Port → Port) : (d.modPort p f).parityChecks = d.parityChecks := rfl
@[simp] theorem Dev.modPort_missTurn (d : Dev) (p : Nat) (f : Port → Port) : (d.modPort p f).missTurn = d.missTurn := rfl
@[simp] theorem Dev.modPort_arbiters (d : Dev) (p : Nat) (f : Port → Port) : (d.modPort p f).arbiters = d.arbiters := rfl
@[simp] theorem Dev.modPort_masked (d : Dev) (p : Nat) (f : Port → Port) : (d.modPort p f).masked = d.masked := rfl
@[simp] theorem Dev.modPort_landings (d : Dev) (p : Nat) (f : Port → Port) : (d.modPort p f).landings = d.landings := rfl
@[simp] theorem Dev.modPort_leaving (d : Dev) (p : Nat) (f : Port → Port) : (d.modPort p f).leaving = d.leaving := rfl
@[simp] theorem Dev.modPort_rowLocks (d : Dev) (p : Nat) (f : Port → Port) : (d.modPort p f).rowLocks = d.rowLocks := rfl
@[simp] theorem Dev.modPort_nextStep (d : Dev) (p : Nat) (f : Port → Port) : (d.modPort p f).nextStep = d.nextStep := rfl
@[simp] theorem Dev.modPort_draws (d : Dev) (p : Nat) (f : Port → Port) : (d.modPort p f).draws = d.draws := rfl
@[simp] theorem Dev.modPort_order (d : Dev) (p : Nat) (f : Port → Port) : (d.modPort p f).order = d.order := rfl
@[simp] theorem Dev.modPort_regs (d : Dev) (p : Nat) (f : Port → Port) : (d.modPort p f).regs = d.regs := rfl
@[simp] theorem Dev.modPort_fuses (d : Dev) (p : Nat) (f : Port → Port) : (d.modPort p f).fuses = d.fuses := rfl
@[simp] theorem Dev.modPort_acc (d : Dev) (p : Nat) (f : Port → Port) : (d.modPort p f).acc = d.acc := rfl
@[simp] theorem Dev.modPort_fw (d : Dev) (p : Nat) (f : Port → Port) : (d.modPort p f).fw = d.fw := rfl
@[simp] theorem Dev.modPort_pairs (d : Dev) (p : Nat) (f : Port → Port) : (d.modPort p f).pairs = d.pairs := rfl
@[simp] theorem Dev.modPort_galleries (d : Dev) (p : Nat) (f : Port → Port) : (d.modPort p f).galleries = d.galleries := rfl
@[simp] theorem Dev.modPort_stackUnits (d : Dev) (p : Nat) (f : Port → Port) : (d.modPort p f).stackUnits = d.stackUnits := rfl
@[simp] theorem Dev.modPort_image (d : Dev) (p : Nat) (f : Port → Port) : (d.modPort p f).image = d.image := rfl
@[simp] theorem Dev.modPort_partials (d : Dev) (p : Nat) (f : Port → Port) : (d.modPort p f).partials = d.partials := rfl
@[simp] theorem Dev.modPort_load (d : Dev) (p : Nat) (f : Port → Port) : (d.modPort p f).load = d.load := rfl
@[simp] theorem Dev.modPort_ctxs (d : Dev) (p : Nat) (f : Port → Port) : (d.modPort p f).ctxs = d.ctxs := rfl
@[simp] theorem Dev.modPort_resetActive (d : Dev) (p : Nat) (f : Port → Port) : (d.modPort p f).resetActive = d.resetActive := rfl
@[simp] theorem Dev.modPort_mem (d : Dev) (p : Nat) (f : Port → Port) : (d.modPort p f).mem = d.mem := rfl
@[simp] theorem Dev.modPort_parity (d : Dev) (p : Nat) (f : Port → Port) : (d.modPort p f).parity = d.parity := rfl
@[simp] theorem Dev.modPort_poison (d : Dev) (p : Nat) (f : Port → Port) : (d.modPort p f).poison = d.poison := rfl
@[simp] theorem Dev.modPort_repairs (d : Dev) (p : Nat) (f : Port → Port) : (d.modPort p f).repairs = d.repairs := rfl
@[simp] theorem Dev.modPort_repaired (d : Dev) (p : Nat) (f : Port → Port) : (d.modPort p f).repaired = d.repaired := rfl
@[simp] theorem Dev.modPort_extents (d : Dev) (p : Nat) (f : Port → Port) : (d.modPort p f).extents = d.extents := rfl
@[simp] theorem Dev.modPort_nextGen (d : Dev) (p : Nat) (f : Port → Port) : (d.modPort p f).nextGen = d.nextGen := rfl
@[simp] theorem Dev.modPort_windows (d : Dev) (p : Nat) (f : Port → Port) : (d.modPort p f).windows = d.windows := rfl
@[simp] theorem Dev.modPort_dcEvents (d : Dev) (p : Nat) (f : Port → Port) : (d.modPort p f).dcEvents = d.dcEvents := rfl
@[simp] theorem Dev.modPort_loans (d : Dev) (p : Nat) (f : Port → Port) : (d.modPort p f).loans = d.loans := rfl
@[simp] theorem Dev.modPort_xcEast (d : Dev) (p : Nat) (f : Port → Port) : (d.modPort p f).xcEast = d.xcEast := rfl
@[simp] theorem Dev.modPort_xcWest (d : Dev) (p : Nat) (f : Port → Port) : (d.modPort p f).xcWest = d.xcWest := rfl
@[simp] theorem Dev.modPort_blocks (d : Dev) (p : Nat) (f : Port → Port) : (d.modPort p f).blocks = d.blocks := rfl
@[simp] theorem Dev.modPort_nextBlock (d : Dev) (p : Nat) (f : Port → Port) : (d.modPort p f).nextBlock = d.nextBlock := rfl
@[simp] theorem Dev.modPort_tables (d : Dev) (p : Nat) (f : Port → Port) : (d.modPort p f).tables = d.tables := rfl
@[simp] theorem Dev.modPort_indexes (d : Dev) (p : Nat) (f : Port → Port) : (d.modPort p f).indexes = d.indexes := rfl
@[simp] theorem Dev.modPort_granules (d : Dev) (p : Nat) (f : Port → Port) : (d.modPort p f).granules = d.granules := rfl
@[simp] theorem Dev.modPort_media (d : Dev) (p : Nat) (f : Port → Port) : (d.modPort p f).media = d.media := rfl
@[simp] theorem Dev.modPort_flash (d : Dev) (p : Nat) (f : Port → Port) : (d.modPort p f).flash = d.flash := rfl
@[simp] theorem Dev.modPort_channels (d : Dev) (p : Nat) (f : Port → Port) : (d.modPort p f).channels = d.channels := rfl
@[simp] theorem Dev.modPort_lastChannel (d : Dev) (p : Nat) (f : Port → Port) : (d.modPort p f).lastChannel = d.lastChannel := rfl
@[simp] theorem Dev.modPort_peCache (d : Dev) (p : Nat) (f : Port → Port) : (d.modPort p f).peCache = d.peCache := rfl
@[simp] theorem Dev.modPort_fabCache (d : Dev) (p : Nat) (f : Port → Port) : (d.modPort p f).fabCache = d.fabCache := rfl
@[simp] theorem Dev.modPort_points (d : Dev) (p : Nat) (f : Port → Port) : (d.modPort p f).points = d.points := rfl
@[simp] theorem Dev.modPort_directory (d : Dev) (p : Nat) (f : Port → Port) : (d.modPort p f).directory = d.directory := rfl
@[simp] theorem Dev.modPort_vitTxns (d : Dev) (p : Nat) (f : Port → Port) : (d.modPort p f).vitTxns = d.vitTxns := rfl
@[simp] theorem Dev.modPort_links (d : Dev) (p : Nat) (f : Port → Port) : (d.modPort p f).links = d.links := rfl
@[simp] theorem Dev.modPort_coll (d : Dev) (p : Nat) (f : Port → Port) : (d.modPort p f).coll = d.coll := rfl
@[simp] theorem Dev.modPort_exports (d : Dev) (p : Nat) (f : Port → Port) : (d.modPort p f).exports = d.exports := rfl
@[simp] theorem Dev.modPort_serving (d : Dev) (p : Nat) (f : Port → Port) : (d.modPort p f).serving = d.serving := rfl
@[simp] theorem Dev.modPort_carried (d : Dev) (p : Nat) (f : Port → Port) : (d.modPort p f).carried = d.carried := rfl
@[simp] theorem Dev.modPort_readWaits (d : Dev) (p : Nat) (f : Port → Port) : (d.modPort p f).readWaits = d.readWaits := rfl
@[simp] theorem Dev.modPort_nextTag (d : Dev) (p : Nat) (f : Port → Port) : (d.modPort p f).nextTag = d.nextTag := rfl
@[simp] theorem Dev.modPort_faults (d : Dev) (p : Nat) (f : Port → Port) : (d.modPort p f).faults = d.faults := rfl
@[simp] theorem Dev.modPort_power (d : Dev) (p : Nat) (f : Port → Port) : (d.modPort p f).power = d.power := rfl
@[simp] theorem Dev.modPort_pins (d : Dev) (p : Nat) (f : Port → Port) : (d.modPort p f).pins = d.pins := rfl
@[simp] theorem Dev.modPort_docent (d : Dev) (p : Nat) (f : Port → Port) : (d.modPort p f).docent = d.docent := rfl
@[simp] theorem Dev.modPort_bootFlash (d : Dev) (p : Nat) (f : Port → Port) : (d.modPort p f).bootFlash = d.bootFlash := rfl
@[simp] theorem Dev.modPort_out (d : Dev) (p : Nat) (f : Port → Port) : (d.modPort p f).out = d.out := rfl

/-! ### modChannel -/

@[simp] theorem Dev.modChannel_channels (d : Dev) (c : Nat) (f : OnfiChannel → OnfiChannel) : (d.modChannel c f).channels = modifyAll (·.index == c) f d.channels := rfl
@[simp] theorem Dev.modChannel_now (d : Dev) (c : Nat) (f : OnfiChannel → OnfiChannel) : (d.modChannel c f).now = d.now := rfl
@[simp] theorem Dev.modChannel_full (d : Dev) (c : Nat) (f : OnfiChannel → OnfiChannel) : (d.modChannel c f).full = d.full := rfl
@[simp] theorem Dev.modChannel_parityChecks (d : Dev) (c : Nat) (f : OnfiChannel → OnfiChannel) : (d.modChannel c f).parityChecks = d.parityChecks := rfl
@[simp] theorem Dev.modChannel_missTurn (d : Dev) (c : Nat) (f : OnfiChannel → OnfiChannel) : (d.modChannel c f).missTurn = d.missTurn := rfl
@[simp] theorem Dev.modChannel_arbiters (d : Dev) (c : Nat) (f : OnfiChannel → OnfiChannel) : (d.modChannel c f).arbiters = d.arbiters := rfl
@[simp] theorem Dev.modChannel_masked (d : Dev) (c : Nat) (f : OnfiChannel → OnfiChannel) : (d.modChannel c f).masked = d.masked := rfl
@[simp] theorem Dev.modChannel_landings (d : Dev) (c : Nat) (f : OnfiChannel → OnfiChannel) : (d.modChannel c f).landings = d.landings := rfl
@[simp] theorem Dev.modChannel_leaving (d : Dev) (c : Nat) (f : OnfiChannel → OnfiChannel) : (d.modChannel c f).leaving = d.leaving := rfl
@[simp] theorem Dev.modChannel_rowLocks (d : Dev) (c : Nat) (f : OnfiChannel → OnfiChannel) : (d.modChannel c f).rowLocks = d.rowLocks := rfl
@[simp] theorem Dev.modChannel_nextStep (d : Dev) (c : Nat) (f : OnfiChannel → OnfiChannel) : (d.modChannel c f).nextStep = d.nextStep := rfl
@[simp] theorem Dev.modChannel_draws (d : Dev) (c : Nat) (f : OnfiChannel → OnfiChannel) : (d.modChannel c f).draws = d.draws := rfl
@[simp] theorem Dev.modChannel_order (d : Dev) (c : Nat) (f : OnfiChannel → OnfiChannel) : (d.modChannel c f).order = d.order := rfl
@[simp] theorem Dev.modChannel_regs (d : Dev) (c : Nat) (f : OnfiChannel → OnfiChannel) : (d.modChannel c f).regs = d.regs := rfl
@[simp] theorem Dev.modChannel_fuses (d : Dev) (c : Nat) (f : OnfiChannel → OnfiChannel) : (d.modChannel c f).fuses = d.fuses := rfl
@[simp] theorem Dev.modChannel_acc (d : Dev) (c : Nat) (f : OnfiChannel → OnfiChannel) : (d.modChannel c f).acc = d.acc := rfl
@[simp] theorem Dev.modChannel_fw (d : Dev) (c : Nat) (f : OnfiChannel → OnfiChannel) : (d.modChannel c f).fw = d.fw := rfl
@[simp] theorem Dev.modChannel_pairs (d : Dev) (c : Nat) (f : OnfiChannel → OnfiChannel) : (d.modChannel c f).pairs = d.pairs := rfl
@[simp] theorem Dev.modChannel_galleries (d : Dev) (c : Nat) (f : OnfiChannel → OnfiChannel) : (d.modChannel c f).galleries = d.galleries := rfl
@[simp] theorem Dev.modChannel_stackUnits (d : Dev) (c : Nat) (f : OnfiChannel → OnfiChannel) : (d.modChannel c f).stackUnits = d.stackUnits := rfl
@[simp] theorem Dev.modChannel_ports (d : Dev) (c : Nat) (f : OnfiChannel → OnfiChannel) : (d.modChannel c f).ports = d.ports := rfl
@[simp] theorem Dev.modChannel_image (d : Dev) (c : Nat) (f : OnfiChannel → OnfiChannel) : (d.modChannel c f).image = d.image := rfl
@[simp] theorem Dev.modChannel_partials (d : Dev) (c : Nat) (f : OnfiChannel → OnfiChannel) : (d.modChannel c f).partials = d.partials := rfl
@[simp] theorem Dev.modChannel_load (d : Dev) (c : Nat) (f : OnfiChannel → OnfiChannel) : (d.modChannel c f).load = d.load := rfl
@[simp] theorem Dev.modChannel_ctxs (d : Dev) (c : Nat) (f : OnfiChannel → OnfiChannel) : (d.modChannel c f).ctxs = d.ctxs := rfl
@[simp] theorem Dev.modChannel_resetActive (d : Dev) (c : Nat) (f : OnfiChannel → OnfiChannel) : (d.modChannel c f).resetActive = d.resetActive := rfl
@[simp] theorem Dev.modChannel_mem (d : Dev) (c : Nat) (f : OnfiChannel → OnfiChannel) : (d.modChannel c f).mem = d.mem := rfl
@[simp] theorem Dev.modChannel_parity (d : Dev) (c : Nat) (f : OnfiChannel → OnfiChannel) : (d.modChannel c f).parity = d.parity := rfl
@[simp] theorem Dev.modChannel_poison (d : Dev) (c : Nat) (f : OnfiChannel → OnfiChannel) : (d.modChannel c f).poison = d.poison := rfl
@[simp] theorem Dev.modChannel_repairs (d : Dev) (c : Nat) (f : OnfiChannel → OnfiChannel) : (d.modChannel c f).repairs = d.repairs := rfl
@[simp] theorem Dev.modChannel_repaired (d : Dev) (c : Nat) (f : OnfiChannel → OnfiChannel) : (d.modChannel c f).repaired = d.repaired := rfl
@[simp] theorem Dev.modChannel_extents (d : Dev) (c : Nat) (f : OnfiChannel → OnfiChannel) : (d.modChannel c f).extents = d.extents := rfl
@[simp] theorem Dev.modChannel_nextGen (d : Dev) (c : Nat) (f : OnfiChannel → OnfiChannel) : (d.modChannel c f).nextGen = d.nextGen := rfl
@[simp] theorem Dev.modChannel_windows (d : Dev) (c : Nat) (f : OnfiChannel → OnfiChannel) : (d.modChannel c f).windows = d.windows := rfl
@[simp] theorem Dev.modChannel_dcEvents (d : Dev) (c : Nat) (f : OnfiChannel → OnfiChannel) : (d.modChannel c f).dcEvents = d.dcEvents := rfl
@[simp] theorem Dev.modChannel_loans (d : Dev) (c : Nat) (f : OnfiChannel → OnfiChannel) : (d.modChannel c f).loans = d.loans := rfl
@[simp] theorem Dev.modChannel_xcEast (d : Dev) (c : Nat) (f : OnfiChannel → OnfiChannel) : (d.modChannel c f).xcEast = d.xcEast := rfl
@[simp] theorem Dev.modChannel_xcWest (d : Dev) (c : Nat) (f : OnfiChannel → OnfiChannel) : (d.modChannel c f).xcWest = d.xcWest := rfl
@[simp] theorem Dev.modChannel_blocks (d : Dev) (c : Nat) (f : OnfiChannel → OnfiChannel) : (d.modChannel c f).blocks = d.blocks := rfl
@[simp] theorem Dev.modChannel_nextBlock (d : Dev) (c : Nat) (f : OnfiChannel → OnfiChannel) : (d.modChannel c f).nextBlock = d.nextBlock := rfl
@[simp] theorem Dev.modChannel_tables (d : Dev) (c : Nat) (f : OnfiChannel → OnfiChannel) : (d.modChannel c f).tables = d.tables := rfl
@[simp] theorem Dev.modChannel_indexes (d : Dev) (c : Nat) (f : OnfiChannel → OnfiChannel) : (d.modChannel c f).indexes = d.indexes := rfl
@[simp] theorem Dev.modChannel_granules (d : Dev) (c : Nat) (f : OnfiChannel → OnfiChannel) : (d.modChannel c f).granules = d.granules := rfl
@[simp] theorem Dev.modChannel_media (d : Dev) (c : Nat) (f : OnfiChannel → OnfiChannel) : (d.modChannel c f).media = d.media := rfl
@[simp] theorem Dev.modChannel_flash (d : Dev) (c : Nat) (f : OnfiChannel → OnfiChannel) : (d.modChannel c f).flash = d.flash := rfl
@[simp] theorem Dev.modChannel_lastChannel (d : Dev) (c : Nat) (f : OnfiChannel → OnfiChannel) : (d.modChannel c f).lastChannel = d.lastChannel := rfl
@[simp] theorem Dev.modChannel_peCache (d : Dev) (c : Nat) (f : OnfiChannel → OnfiChannel) : (d.modChannel c f).peCache = d.peCache := rfl
@[simp] theorem Dev.modChannel_fabCache (d : Dev) (c : Nat) (f : OnfiChannel → OnfiChannel) : (d.modChannel c f).fabCache = d.fabCache := rfl
@[simp] theorem Dev.modChannel_points (d : Dev) (c : Nat) (f : OnfiChannel → OnfiChannel) : (d.modChannel c f).points = d.points := rfl
@[simp] theorem Dev.modChannel_directory (d : Dev) (c : Nat) (f : OnfiChannel → OnfiChannel) : (d.modChannel c f).directory = d.directory := rfl
@[simp] theorem Dev.modChannel_vitTxns (d : Dev) (c : Nat) (f : OnfiChannel → OnfiChannel) : (d.modChannel c f).vitTxns = d.vitTxns := rfl
@[simp] theorem Dev.modChannel_links (d : Dev) (c : Nat) (f : OnfiChannel → OnfiChannel) : (d.modChannel c f).links = d.links := rfl
@[simp] theorem Dev.modChannel_coll (d : Dev) (c : Nat) (f : OnfiChannel → OnfiChannel) : (d.modChannel c f).coll = d.coll := rfl
@[simp] theorem Dev.modChannel_exports (d : Dev) (c : Nat) (f : OnfiChannel → OnfiChannel) : (d.modChannel c f).exports = d.exports := rfl
@[simp] theorem Dev.modChannel_serving (d : Dev) (c : Nat) (f : OnfiChannel → OnfiChannel) : (d.modChannel c f).serving = d.serving := rfl
@[simp] theorem Dev.modChannel_carried (d : Dev) (c : Nat) (f : OnfiChannel → OnfiChannel) : (d.modChannel c f).carried = d.carried := rfl
@[simp] theorem Dev.modChannel_readWaits (d : Dev) (c : Nat) (f : OnfiChannel → OnfiChannel) : (d.modChannel c f).readWaits = d.readWaits := rfl
@[simp] theorem Dev.modChannel_nextTag (d : Dev) (c : Nat) (f : OnfiChannel → OnfiChannel) : (d.modChannel c f).nextTag = d.nextTag := rfl
@[simp] theorem Dev.modChannel_faults (d : Dev) (c : Nat) (f : OnfiChannel → OnfiChannel) : (d.modChannel c f).faults = d.faults := rfl
@[simp] theorem Dev.modChannel_power (d : Dev) (c : Nat) (f : OnfiChannel → OnfiChannel) : (d.modChannel c f).power = d.power := rfl
@[simp] theorem Dev.modChannel_pins (d : Dev) (c : Nat) (f : OnfiChannel → OnfiChannel) : (d.modChannel c f).pins = d.pins := rfl
@[simp] theorem Dev.modChannel_docent (d : Dev) (c : Nat) (f : OnfiChannel → OnfiChannel) : (d.modChannel c f).docent = d.docent := rfl
@[simp] theorem Dev.modChannel_bootFlash (d : Dev) (c : Nat) (f : OnfiChannel → OnfiChannel) : (d.modChannel c f).bootFlash = d.bootFlash := rfl
@[simp] theorem Dev.modChannel_out (d : Dev) (c : Nat) (f : OnfiChannel → OnfiChannel) : (d.modChannel c f).out = d.out := rfl

/-! ### modColl -/

@[simp] theorem Dev.modColl_coll (d : Dev) (f : Collection → Collection) : (d.modColl f).coll = f d.coll := rfl
@[simp] theorem Dev.modColl_now (d : Dev) (f : Collection → Collection) : (d.modColl f).now = d.now := rfl
@[simp] theorem Dev.modColl_full (d : Dev) (f : Collection → Collection) : (d.modColl f).full = d.full := rfl
@[simp] theorem Dev.modColl_parityChecks (d : Dev) (f : Collection → Collection) : (d.modColl f).parityChecks = d.parityChecks := rfl
@[simp] theorem Dev.modColl_missTurn (d : Dev) (f : Collection → Collection) : (d.modColl f).missTurn = d.missTurn := rfl
@[simp] theorem Dev.modColl_arbiters (d : Dev) (f : Collection → Collection) : (d.modColl f).arbiters = d.arbiters := rfl
@[simp] theorem Dev.modColl_masked (d : Dev) (f : Collection → Collection) : (d.modColl f).masked = d.masked := rfl
@[simp] theorem Dev.modColl_landings (d : Dev) (f : Collection → Collection) : (d.modColl f).landings = d.landings := rfl
@[simp] theorem Dev.modColl_leaving (d : Dev) (f : Collection → Collection) : (d.modColl f).leaving = d.leaving := rfl
@[simp] theorem Dev.modColl_rowLocks (d : Dev) (f : Collection → Collection) : (d.modColl f).rowLocks = d.rowLocks := rfl
@[simp] theorem Dev.modColl_nextStep (d : Dev) (f : Collection → Collection) : (d.modColl f).nextStep = d.nextStep := rfl
@[simp] theorem Dev.modColl_draws (d : Dev) (f : Collection → Collection) : (d.modColl f).draws = d.draws := rfl
@[simp] theorem Dev.modColl_order (d : Dev) (f : Collection → Collection) : (d.modColl f).order = d.order := rfl
@[simp] theorem Dev.modColl_regs (d : Dev) (f : Collection → Collection) : (d.modColl f).regs = d.regs := rfl
@[simp] theorem Dev.modColl_fuses (d : Dev) (f : Collection → Collection) : (d.modColl f).fuses = d.fuses := rfl
@[simp] theorem Dev.modColl_acc (d : Dev) (f : Collection → Collection) : (d.modColl f).acc = d.acc := rfl
@[simp] theorem Dev.modColl_fw (d : Dev) (f : Collection → Collection) : (d.modColl f).fw = d.fw := rfl
@[simp] theorem Dev.modColl_pairs (d : Dev) (f : Collection → Collection) : (d.modColl f).pairs = d.pairs := rfl
@[simp] theorem Dev.modColl_galleries (d : Dev) (f : Collection → Collection) : (d.modColl f).galleries = d.galleries := rfl
@[simp] theorem Dev.modColl_stackUnits (d : Dev) (f : Collection → Collection) : (d.modColl f).stackUnits = d.stackUnits := rfl
@[simp] theorem Dev.modColl_ports (d : Dev) (f : Collection → Collection) : (d.modColl f).ports = d.ports := rfl
@[simp] theorem Dev.modColl_image (d : Dev) (f : Collection → Collection) : (d.modColl f).image = d.image := rfl
@[simp] theorem Dev.modColl_partials (d : Dev) (f : Collection → Collection) : (d.modColl f).partials = d.partials := rfl
@[simp] theorem Dev.modColl_load (d : Dev) (f : Collection → Collection) : (d.modColl f).load = d.load := rfl
@[simp] theorem Dev.modColl_ctxs (d : Dev) (f : Collection → Collection) : (d.modColl f).ctxs = d.ctxs := rfl
@[simp] theorem Dev.modColl_resetActive (d : Dev) (f : Collection → Collection) : (d.modColl f).resetActive = d.resetActive := rfl
@[simp] theorem Dev.modColl_mem (d : Dev) (f : Collection → Collection) : (d.modColl f).mem = d.mem := rfl
@[simp] theorem Dev.modColl_parity (d : Dev) (f : Collection → Collection) : (d.modColl f).parity = d.parity := rfl
@[simp] theorem Dev.modColl_poison (d : Dev) (f : Collection → Collection) : (d.modColl f).poison = d.poison := rfl
@[simp] theorem Dev.modColl_repairs (d : Dev) (f : Collection → Collection) : (d.modColl f).repairs = d.repairs := rfl
@[simp] theorem Dev.modColl_repaired (d : Dev) (f : Collection → Collection) : (d.modColl f).repaired = d.repaired := rfl
@[simp] theorem Dev.modColl_extents (d : Dev) (f : Collection → Collection) : (d.modColl f).extents = d.extents := rfl
@[simp] theorem Dev.modColl_nextGen (d : Dev) (f : Collection → Collection) : (d.modColl f).nextGen = d.nextGen := rfl
@[simp] theorem Dev.modColl_windows (d : Dev) (f : Collection → Collection) : (d.modColl f).windows = d.windows := rfl
@[simp] theorem Dev.modColl_dcEvents (d : Dev) (f : Collection → Collection) : (d.modColl f).dcEvents = d.dcEvents := rfl
@[simp] theorem Dev.modColl_loans (d : Dev) (f : Collection → Collection) : (d.modColl f).loans = d.loans := rfl
@[simp] theorem Dev.modColl_xcEast (d : Dev) (f : Collection → Collection) : (d.modColl f).xcEast = d.xcEast := rfl
@[simp] theorem Dev.modColl_xcWest (d : Dev) (f : Collection → Collection) : (d.modColl f).xcWest = d.xcWest := rfl
@[simp] theorem Dev.modColl_blocks (d : Dev) (f : Collection → Collection) : (d.modColl f).blocks = d.blocks := rfl
@[simp] theorem Dev.modColl_nextBlock (d : Dev) (f : Collection → Collection) : (d.modColl f).nextBlock = d.nextBlock := rfl
@[simp] theorem Dev.modColl_tables (d : Dev) (f : Collection → Collection) : (d.modColl f).tables = d.tables := rfl
@[simp] theorem Dev.modColl_indexes (d : Dev) (f : Collection → Collection) : (d.modColl f).indexes = d.indexes := rfl
@[simp] theorem Dev.modColl_granules (d : Dev) (f : Collection → Collection) : (d.modColl f).granules = d.granules := rfl
@[simp] theorem Dev.modColl_media (d : Dev) (f : Collection → Collection) : (d.modColl f).media = d.media := rfl
@[simp] theorem Dev.modColl_flash (d : Dev) (f : Collection → Collection) : (d.modColl f).flash = d.flash := rfl
@[simp] theorem Dev.modColl_channels (d : Dev) (f : Collection → Collection) : (d.modColl f).channels = d.channels := rfl
@[simp] theorem Dev.modColl_lastChannel (d : Dev) (f : Collection → Collection) : (d.modColl f).lastChannel = d.lastChannel := rfl
@[simp] theorem Dev.modColl_peCache (d : Dev) (f : Collection → Collection) : (d.modColl f).peCache = d.peCache := rfl
@[simp] theorem Dev.modColl_fabCache (d : Dev) (f : Collection → Collection) : (d.modColl f).fabCache = d.fabCache := rfl
@[simp] theorem Dev.modColl_points (d : Dev) (f : Collection → Collection) : (d.modColl f).points = d.points := rfl
@[simp] theorem Dev.modColl_directory (d : Dev) (f : Collection → Collection) : (d.modColl f).directory = d.directory := rfl
@[simp] theorem Dev.modColl_vitTxns (d : Dev) (f : Collection → Collection) : (d.modColl f).vitTxns = d.vitTxns := rfl
@[simp] theorem Dev.modColl_links (d : Dev) (f : Collection → Collection) : (d.modColl f).links = d.links := rfl
@[simp] theorem Dev.modColl_exports (d : Dev) (f : Collection → Collection) : (d.modColl f).exports = d.exports := rfl
@[simp] theorem Dev.modColl_serving (d : Dev) (f : Collection → Collection) : (d.modColl f).serving = d.serving := rfl
@[simp] theorem Dev.modColl_carried (d : Dev) (f : Collection → Collection) : (d.modColl f).carried = d.carried := rfl
@[simp] theorem Dev.modColl_readWaits (d : Dev) (f : Collection → Collection) : (d.modColl f).readWaits = d.readWaits := rfl
@[simp] theorem Dev.modColl_nextTag (d : Dev) (f : Collection → Collection) : (d.modColl f).nextTag = d.nextTag := rfl
@[simp] theorem Dev.modColl_faults (d : Dev) (f : Collection → Collection) : (d.modColl f).faults = d.faults := rfl
@[simp] theorem Dev.modColl_power (d : Dev) (f : Collection → Collection) : (d.modColl f).power = d.power := rfl
@[simp] theorem Dev.modColl_pins (d : Dev) (f : Collection → Collection) : (d.modColl f).pins = d.pins := rfl
@[simp] theorem Dev.modColl_docent (d : Dev) (f : Collection → Collection) : (d.modColl f).docent = d.docent := rfl
@[simp] theorem Dev.modColl_bootFlash (d : Dev) (f : Collection → Collection) : (d.modColl f).bootFlash = d.bootFlash := rfl
@[simp] theorem Dev.modColl_out (d : Dev) (f : Collection → Collection) : (d.modColl f).out = d.out := rfl

/-! ### modFw -/

@[simp] theorem Dev.modFw_fw (d : Dev) (f : Firmware → Firmware) : (d.modFw f).fw = f d.fw := rfl
@[simp] theorem Dev.modFw_now (d : Dev) (f : Firmware → Firmware) : (d.modFw f).now = d.now := rfl
@[simp] theorem Dev.modFw_full (d : Dev) (f : Firmware → Firmware) : (d.modFw f).full = d.full := rfl
@[simp] theorem Dev.modFw_parityChecks (d : Dev) (f : Firmware → Firmware) : (d.modFw f).parityChecks = d.parityChecks := rfl
@[simp] theorem Dev.modFw_missTurn (d : Dev) (f : Firmware → Firmware) : (d.modFw f).missTurn = d.missTurn := rfl
@[simp] theorem Dev.modFw_arbiters (d : Dev) (f : Firmware → Firmware) : (d.modFw f).arbiters = d.arbiters := rfl
@[simp] theorem Dev.modFw_masked (d : Dev) (f : Firmware → Firmware) : (d.modFw f).masked = d.masked := rfl
@[simp] theorem Dev.modFw_landings (d : Dev) (f : Firmware → Firmware) : (d.modFw f).landings = d.landings := rfl
@[simp] theorem Dev.modFw_leaving (d : Dev) (f : Firmware → Firmware) : (d.modFw f).leaving = d.leaving := rfl
@[simp] theorem Dev.modFw_rowLocks (d : Dev) (f : Firmware → Firmware) : (d.modFw f).rowLocks = d.rowLocks := rfl
@[simp] theorem Dev.modFw_nextStep (d : Dev) (f : Firmware → Firmware) : (d.modFw f).nextStep = d.nextStep := rfl
@[simp] theorem Dev.modFw_draws (d : Dev) (f : Firmware → Firmware) : (d.modFw f).draws = d.draws := rfl
@[simp] theorem Dev.modFw_order (d : Dev) (f : Firmware → Firmware) : (d.modFw f).order = d.order := rfl
@[simp] theorem Dev.modFw_regs (d : Dev) (f : Firmware → Firmware) : (d.modFw f).regs = d.regs := rfl
@[simp] theorem Dev.modFw_fuses (d : Dev) (f : Firmware → Firmware) : (d.modFw f).fuses = d.fuses := rfl
@[simp] theorem Dev.modFw_acc (d : Dev) (f : Firmware → Firmware) : (d.modFw f).acc = d.acc := rfl
@[simp] theorem Dev.modFw_pairs (d : Dev) (f : Firmware → Firmware) : (d.modFw f).pairs = d.pairs := rfl
@[simp] theorem Dev.modFw_galleries (d : Dev) (f : Firmware → Firmware) : (d.modFw f).galleries = d.galleries := rfl
@[simp] theorem Dev.modFw_stackUnits (d : Dev) (f : Firmware → Firmware) : (d.modFw f).stackUnits = d.stackUnits := rfl
@[simp] theorem Dev.modFw_ports (d : Dev) (f : Firmware → Firmware) : (d.modFw f).ports = d.ports := rfl
@[simp] theorem Dev.modFw_image (d : Dev) (f : Firmware → Firmware) : (d.modFw f).image = d.image := rfl
@[simp] theorem Dev.modFw_partials (d : Dev) (f : Firmware → Firmware) : (d.modFw f).partials = d.partials := rfl
@[simp] theorem Dev.modFw_load (d : Dev) (f : Firmware → Firmware) : (d.modFw f).load = d.load := rfl
@[simp] theorem Dev.modFw_ctxs (d : Dev) (f : Firmware → Firmware) : (d.modFw f).ctxs = d.ctxs := rfl
@[simp] theorem Dev.modFw_resetActive (d : Dev) (f : Firmware → Firmware) : (d.modFw f).resetActive = d.resetActive := rfl
@[simp] theorem Dev.modFw_mem (d : Dev) (f : Firmware → Firmware) : (d.modFw f).mem = d.mem := rfl
@[simp] theorem Dev.modFw_parity (d : Dev) (f : Firmware → Firmware) : (d.modFw f).parity = d.parity := rfl
@[simp] theorem Dev.modFw_poison (d : Dev) (f : Firmware → Firmware) : (d.modFw f).poison = d.poison := rfl
@[simp] theorem Dev.modFw_repairs (d : Dev) (f : Firmware → Firmware) : (d.modFw f).repairs = d.repairs := rfl
@[simp] theorem Dev.modFw_repaired (d : Dev) (f : Firmware → Firmware) : (d.modFw f).repaired = d.repaired := rfl
@[simp] theorem Dev.modFw_extents (d : Dev) (f : Firmware → Firmware) : (d.modFw f).extents = d.extents := rfl
@[simp] theorem Dev.modFw_nextGen (d : Dev) (f : Firmware → Firmware) : (d.modFw f).nextGen = d.nextGen := rfl
@[simp] theorem Dev.modFw_windows (d : Dev) (f : Firmware → Firmware) : (d.modFw f).windows = d.windows := rfl
@[simp] theorem Dev.modFw_dcEvents (d : Dev) (f : Firmware → Firmware) : (d.modFw f).dcEvents = d.dcEvents := rfl
@[simp] theorem Dev.modFw_loans (d : Dev) (f : Firmware → Firmware) : (d.modFw f).loans = d.loans := rfl
@[simp] theorem Dev.modFw_xcEast (d : Dev) (f : Firmware → Firmware) : (d.modFw f).xcEast = d.xcEast := rfl
@[simp] theorem Dev.modFw_xcWest (d : Dev) (f : Firmware → Firmware) : (d.modFw f).xcWest = d.xcWest := rfl
@[simp] theorem Dev.modFw_blocks (d : Dev) (f : Firmware → Firmware) : (d.modFw f).blocks = d.blocks := rfl
@[simp] theorem Dev.modFw_nextBlock (d : Dev) (f : Firmware → Firmware) : (d.modFw f).nextBlock = d.nextBlock := rfl
@[simp] theorem Dev.modFw_tables (d : Dev) (f : Firmware → Firmware) : (d.modFw f).tables = d.tables := rfl
@[simp] theorem Dev.modFw_indexes (d : Dev) (f : Firmware → Firmware) : (d.modFw f).indexes = d.indexes := rfl
@[simp] theorem Dev.modFw_granules (d : Dev) (f : Firmware → Firmware) : (d.modFw f).granules = d.granules := rfl
@[simp] theorem Dev.modFw_media (d : Dev) (f : Firmware → Firmware) : (d.modFw f).media = d.media := rfl
@[simp] theorem Dev.modFw_flash (d : Dev) (f : Firmware → Firmware) : (d.modFw f).flash = d.flash := rfl
@[simp] theorem Dev.modFw_channels (d : Dev) (f : Firmware → Firmware) : (d.modFw f).channels = d.channels := rfl
@[simp] theorem Dev.modFw_lastChannel (d : Dev) (f : Firmware → Firmware) : (d.modFw f).lastChannel = d.lastChannel := rfl
@[simp] theorem Dev.modFw_peCache (d : Dev) (f : Firmware → Firmware) : (d.modFw f).peCache = d.peCache := rfl
@[simp] theorem Dev.modFw_fabCache (d : Dev) (f : Firmware → Firmware) : (d.modFw f).fabCache = d.fabCache := rfl
@[simp] theorem Dev.modFw_points (d : Dev) (f : Firmware → Firmware) : (d.modFw f).points = d.points := rfl
@[simp] theorem Dev.modFw_directory (d : Dev) (f : Firmware → Firmware) : (d.modFw f).directory = d.directory := rfl
@[simp] theorem Dev.modFw_vitTxns (d : Dev) (f : Firmware → Firmware) : (d.modFw f).vitTxns = d.vitTxns := rfl
@[simp] theorem Dev.modFw_links (d : Dev) (f : Firmware → Firmware) : (d.modFw f).links = d.links := rfl
@[simp] theorem Dev.modFw_coll (d : Dev) (f : Firmware → Firmware) : (d.modFw f).coll = d.coll := rfl
@[simp] theorem Dev.modFw_exports (d : Dev) (f : Firmware → Firmware) : (d.modFw f).exports = d.exports := rfl
@[simp] theorem Dev.modFw_serving (d : Dev) (f : Firmware → Firmware) : (d.modFw f).serving = d.serving := rfl
@[simp] theorem Dev.modFw_carried (d : Dev) (f : Firmware → Firmware) : (d.modFw f).carried = d.carried := rfl
@[simp] theorem Dev.modFw_readWaits (d : Dev) (f : Firmware → Firmware) : (d.modFw f).readWaits = d.readWaits := rfl
@[simp] theorem Dev.modFw_nextTag (d : Dev) (f : Firmware → Firmware) : (d.modFw f).nextTag = d.nextTag := rfl
@[simp] theorem Dev.modFw_faults (d : Dev) (f : Firmware → Firmware) : (d.modFw f).faults = d.faults := rfl
@[simp] theorem Dev.modFw_power (d : Dev) (f : Firmware → Firmware) : (d.modFw f).power = d.power := rfl
@[simp] theorem Dev.modFw_pins (d : Dev) (f : Firmware → Firmware) : (d.modFw f).pins = d.pins := rfl
@[simp] theorem Dev.modFw_docent (d : Dev) (f : Firmware → Firmware) : (d.modFw f).docent = d.docent := rfl
@[simp] theorem Dev.modFw_bootFlash (d : Dev) (f : Firmware → Firmware) : (d.modFw f).bootFlash = d.bootFlash := rfl
@[simp] theorem Dev.modFw_out (d : Dev) (f : Firmware → Firmware) : (d.modFw f).out = d.out := rfl

/-! ### modPower -/

@[simp] theorem Dev.modPower_power (d : Dev) (f : Power → Power) : (d.modPower f).power = f d.power := rfl
@[simp] theorem Dev.modPower_now (d : Dev) (f : Power → Power) : (d.modPower f).now = d.now := rfl
@[simp] theorem Dev.modPower_full (d : Dev) (f : Power → Power) : (d.modPower f).full = d.full := rfl
@[simp] theorem Dev.modPower_parityChecks (d : Dev) (f : Power → Power) : (d.modPower f).parityChecks = d.parityChecks := rfl
@[simp] theorem Dev.modPower_missTurn (d : Dev) (f : Power → Power) : (d.modPower f).missTurn = d.missTurn := rfl
@[simp] theorem Dev.modPower_arbiters (d : Dev) (f : Power → Power) : (d.modPower f).arbiters = d.arbiters := rfl
@[simp] theorem Dev.modPower_masked (d : Dev) (f : Power → Power) : (d.modPower f).masked = d.masked := rfl
@[simp] theorem Dev.modPower_landings (d : Dev) (f : Power → Power) : (d.modPower f).landings = d.landings := rfl
@[simp] theorem Dev.modPower_leaving (d : Dev) (f : Power → Power) : (d.modPower f).leaving = d.leaving := rfl
@[simp] theorem Dev.modPower_rowLocks (d : Dev) (f : Power → Power) : (d.modPower f).rowLocks = d.rowLocks := rfl
@[simp] theorem Dev.modPower_nextStep (d : Dev) (f : Power → Power) : (d.modPower f).nextStep = d.nextStep := rfl
@[simp] theorem Dev.modPower_draws (d : Dev) (f : Power → Power) : (d.modPower f).draws = d.draws := rfl
@[simp] theorem Dev.modPower_order (d : Dev) (f : Power → Power) : (d.modPower f).order = d.order := rfl
@[simp] theorem Dev.modPower_regs (d : Dev) (f : Power → Power) : (d.modPower f).regs = d.regs := rfl
@[simp] theorem Dev.modPower_fuses (d : Dev) (f : Power → Power) : (d.modPower f).fuses = d.fuses := rfl
@[simp] theorem Dev.modPower_acc (d : Dev) (f : Power → Power) : (d.modPower f).acc = d.acc := rfl
@[simp] theorem Dev.modPower_fw (d : Dev) (f : Power → Power) : (d.modPower f).fw = d.fw := rfl
@[simp] theorem Dev.modPower_pairs (d : Dev) (f : Power → Power) : (d.modPower f).pairs = d.pairs := rfl
@[simp] theorem Dev.modPower_galleries (d : Dev) (f : Power → Power) : (d.modPower f).galleries = d.galleries := rfl
@[simp] theorem Dev.modPower_stackUnits (d : Dev) (f : Power → Power) : (d.modPower f).stackUnits = d.stackUnits := rfl
@[simp] theorem Dev.modPower_ports (d : Dev) (f : Power → Power) : (d.modPower f).ports = d.ports := rfl
@[simp] theorem Dev.modPower_image (d : Dev) (f : Power → Power) : (d.modPower f).image = d.image := rfl
@[simp] theorem Dev.modPower_partials (d : Dev) (f : Power → Power) : (d.modPower f).partials = d.partials := rfl
@[simp] theorem Dev.modPower_load (d : Dev) (f : Power → Power) : (d.modPower f).load = d.load := rfl
@[simp] theorem Dev.modPower_ctxs (d : Dev) (f : Power → Power) : (d.modPower f).ctxs = d.ctxs := rfl
@[simp] theorem Dev.modPower_resetActive (d : Dev) (f : Power → Power) : (d.modPower f).resetActive = d.resetActive := rfl
@[simp] theorem Dev.modPower_mem (d : Dev) (f : Power → Power) : (d.modPower f).mem = d.mem := rfl
@[simp] theorem Dev.modPower_parity (d : Dev) (f : Power → Power) : (d.modPower f).parity = d.parity := rfl
@[simp] theorem Dev.modPower_poison (d : Dev) (f : Power → Power) : (d.modPower f).poison = d.poison := rfl
@[simp] theorem Dev.modPower_repairs (d : Dev) (f : Power → Power) : (d.modPower f).repairs = d.repairs := rfl
@[simp] theorem Dev.modPower_repaired (d : Dev) (f : Power → Power) : (d.modPower f).repaired = d.repaired := rfl
@[simp] theorem Dev.modPower_extents (d : Dev) (f : Power → Power) : (d.modPower f).extents = d.extents := rfl
@[simp] theorem Dev.modPower_nextGen (d : Dev) (f : Power → Power) : (d.modPower f).nextGen = d.nextGen := rfl
@[simp] theorem Dev.modPower_windows (d : Dev) (f : Power → Power) : (d.modPower f).windows = d.windows := rfl
@[simp] theorem Dev.modPower_dcEvents (d : Dev) (f : Power → Power) : (d.modPower f).dcEvents = d.dcEvents := rfl
@[simp] theorem Dev.modPower_loans (d : Dev) (f : Power → Power) : (d.modPower f).loans = d.loans := rfl
@[simp] theorem Dev.modPower_xcEast (d : Dev) (f : Power → Power) : (d.modPower f).xcEast = d.xcEast := rfl
@[simp] theorem Dev.modPower_xcWest (d : Dev) (f : Power → Power) : (d.modPower f).xcWest = d.xcWest := rfl
@[simp] theorem Dev.modPower_blocks (d : Dev) (f : Power → Power) : (d.modPower f).blocks = d.blocks := rfl
@[simp] theorem Dev.modPower_nextBlock (d : Dev) (f : Power → Power) : (d.modPower f).nextBlock = d.nextBlock := rfl
@[simp] theorem Dev.modPower_tables (d : Dev) (f : Power → Power) : (d.modPower f).tables = d.tables := rfl
@[simp] theorem Dev.modPower_indexes (d : Dev) (f : Power → Power) : (d.modPower f).indexes = d.indexes := rfl
@[simp] theorem Dev.modPower_granules (d : Dev) (f : Power → Power) : (d.modPower f).granules = d.granules := rfl
@[simp] theorem Dev.modPower_media (d : Dev) (f : Power → Power) : (d.modPower f).media = d.media := rfl
@[simp] theorem Dev.modPower_flash (d : Dev) (f : Power → Power) : (d.modPower f).flash = d.flash := rfl
@[simp] theorem Dev.modPower_channels (d : Dev) (f : Power → Power) : (d.modPower f).channels = d.channels := rfl
@[simp] theorem Dev.modPower_lastChannel (d : Dev) (f : Power → Power) : (d.modPower f).lastChannel = d.lastChannel := rfl
@[simp] theorem Dev.modPower_peCache (d : Dev) (f : Power → Power) : (d.modPower f).peCache = d.peCache := rfl
@[simp] theorem Dev.modPower_fabCache (d : Dev) (f : Power → Power) : (d.modPower f).fabCache = d.fabCache := rfl
@[simp] theorem Dev.modPower_points (d : Dev) (f : Power → Power) : (d.modPower f).points = d.points := rfl
@[simp] theorem Dev.modPower_directory (d : Dev) (f : Power → Power) : (d.modPower f).directory = d.directory := rfl
@[simp] theorem Dev.modPower_vitTxns (d : Dev) (f : Power → Power) : (d.modPower f).vitTxns = d.vitTxns := rfl
@[simp] theorem Dev.modPower_links (d : Dev) (f : Power → Power) : (d.modPower f).links = d.links := rfl
@[simp] theorem Dev.modPower_coll (d : Dev) (f : Power → Power) : (d.modPower f).coll = d.coll := rfl
@[simp] theorem Dev.modPower_exports (d : Dev) (f : Power → Power) : (d.modPower f).exports = d.exports := rfl
@[simp] theorem Dev.modPower_serving (d : Dev) (f : Power → Power) : (d.modPower f).serving = d.serving := rfl
@[simp] theorem Dev.modPower_carried (d : Dev) (f : Power → Power) : (d.modPower f).carried = d.carried := rfl
@[simp] theorem Dev.modPower_readWaits (d : Dev) (f : Power → Power) : (d.modPower f).readWaits = d.readWaits := rfl
@[simp] theorem Dev.modPower_nextTag (d : Dev) (f : Power → Power) : (d.modPower f).nextTag = d.nextTag := rfl
@[simp] theorem Dev.modPower_faults (d : Dev) (f : Power → Power) : (d.modPower f).faults = d.faults := rfl
@[simp] theorem Dev.modPower_pins (d : Dev) (f : Power → Power) : (d.modPower f).pins = d.pins := rfl
@[simp] theorem Dev.modPower_docent (d : Dev) (f : Power → Power) : (d.modPower f).docent = d.docent := rfl
@[simp] theorem Dev.modPower_bootFlash (d : Dev) (f : Power → Power) : (d.modPower f).bootFlash = d.bootFlash := rfl
@[simp] theorem Dev.modPower_out (d : Dev) (f : Power → Power) : (d.modPower f).out = d.out := rfl

/-- Taking a command off the queue leaves the device. -/
@[simp] theorem State.pending_dev (s : State) (cs : List Instr) : ({ s with pending := cs } : State).dev = s.dev := rfl

/-- Changing the device leaves the queue. -/
@[simp] theorem State.dev_pending (s : State) (d : Dev) : ({ s with dev := d } : State).pending = s.pending := rfl

end Sys2Proof.Machine
end

