-- ==== Sys2Proof/Laws/Report.lean ====
section
/-! SUPPORT. Everything a report can do: fault records and counters change registers, messages put out and fault areas,
and egress changes its points; nothing else. -/

namespace Sys2Proof.Machine

/-- `e` differs from `d` in no more than registers, fault areas and further messages put out. -/
def Dev.Reports (d e : Dev) : Prop :=
  e = { d with regs := e.regs, out := e.out, faults := e.faults } ∧ ∃ ms, e.out = d.out ++ ms

/-- Nothing is a report. -/
theorem Dev.Reports.refl (d : Dev) : d.Reports d := ⟨rfl, [], by simp⟩

/-- One report after another is a report. -/
theorem Dev.Reports.trans {d e f : Dev} (h : d.Reports e) (g : e.Reports f) : d.Reports f := by
  obtain ⟨h1, ms, h2⟩ := h
  obtain ⟨g1, ns, g2⟩ := g
  refine ⟨?_, ms ++ ns, by rw [g2, h2, List.append_assoc]⟩
  rw [g1, h1]

/-- Storing a register is a report. -/
theorem Dev.reports_setReg (d : Dev) (o : Nat) (v : W64) : d.Reports (d.setReg o v) := ⟨rfl, [], by simp⟩

/-- Setting a field is a report. -/
theorem Dev.reports_setField (d : Dev) (o hi lo x : Nat) : d.Reports (d.setField o hi lo x) := ⟨rfl, [], by simp⟩

/-- Setting a fault area is a report. -/
theorem Dev.reports_setArea (d : Dev) (x : FaultAreaState) : d.Reports (d.setArea x) := ⟨rfl, [], by simp⟩

/-- Putting a message out is a report. -/
theorem Dev.reports_emit (d : Dev) (m : OutMsg) : d.Reports (d.emit m) := ⟨rfl, [m], rfl⟩

/-- Copying a lost record into its registers is a report. -/
theorem Dev.reports_copyLost (d : Dev) (o : Nat) (bs : List Byte) : d.Reports (d.copyLost o bs) := by
  unfold Dev.copyLost
  exact ((d.reports_setReg _ _).trans (Dev.reports_setReg _ _ _)).trans (Dev.reports_setReg _ _ _)

/-- Losing a record is a report. -/
theorem Dev.reports_lose (d : Dev) (f : FaultRecord) : d.Reports (d.lose f) := by
  have h := (((d.reports_setReg (areaBase f.area + 0x18 + 8 * f.cls) (bumpCounter (d.reg (areaBase f.area + 0x18 + 8 * f.cls)) 1)).trans
    (Dev.reports_setField _ (areaBase f.area + 0x10) 63 63 1)).trans
    (Dev.reports_copyLost _ (areaBase f.area + 0xB8) (f.tail (d.areaState f.area).afterLoss d.coll.geoId)))
  unfold Dev.lose
  dsimp only
  split
  · exact h.trans (Dev.reports_setArea _ _)
  · exact (h.trans (Dev.reports_copyLost _ _ _)).trans (Dev.reports_setArea _ _)

/-- A fault record is a report. -/
theorem Dev.reports_faultRecord (d : Dev) (a : FaultArea) (cls : Nat) (st : Option Status) (dom ctx : Nat) (seq : W32)
    (host d0 d1 d2 : Nat) : d.Reports (d.faultRecord a cls st dom ctx seq host d0 d1 d2) := by
  have h := d.reports_setField (areaBase a + 0x10) 31 0 ((d.field (areaBase a + 0x10) 31 0 + 1) % 2 ^ 32)
  unfold Dev.faultRecord
  dsimp only
  split
  · exact h.trans (Dev.reports_lose _ _)
  · split
    · exact (h.trans (Dev.reports_setArea _ _)).trans (Dev.reports_emit _ _)
    · exact h.trans (Dev.reports_setArea _ _)

/-- The event of a saturated counter is a report. -/
theorem Dev.reports_saturated (d : Dev) (o : Nat) : d.Reports (d.saturated o) := d.reports_faultRecord _ _ _ _ _ _ _ _ _ _

/-- Counting is a report. -/
theorem Dev.reports_count (d : Dev) (o n : Nat) : d.Reports (d.count o n) := by
  unfold Dev.count
  dsimp only
  split
  · exact (d.reports_setReg _ _).trans (Dev.reports_saturated _ _)
  · exact d.reports_setReg _ _

/-- Counting in a domain page is a report. -/
theorem Dev.reports_countPage (d : Dev) (dom o n : Nat) : d.Reports (d.countPage dom o n) := by
  unfold Dev.countPage
  split
  · exact Dev.Reports.refl d
  · exact d.reports_count _ _

/-- A fault is a report. -/
theorem Dev.reports_fault (d : Dev) (a : FaultArea) (cls : Nat) (st : Option Status) (dom ctx : Nat) (seq : W32)
    (host d0 d1 d2 : Nat) : d.Reports (d.fault a cls st dom ctx seq host d0 d1 d2) := by
  have h := d.reports_faultRecord a cls st dom ctx seq host d0 d1 d2
  unfold Dev.fault
  dsimp only
  split
  · exact h.trans (Dev.reports_saturated _ _)
  · exact h

/-- A report leaves command state, store, poison and mappings. -/
theorem Dev.Reports.frame {d e : Dev} (h : d.Reports e) :
    e.ctxs = d.ctxs ∧ e.mem = d.mem ∧ e.poison = d.poison ∧ e.extents = d.extents ∧ e.order = d.order ∧ e.points = d.points ∧
      e.acc = d.acc ∧ e.power = d.power ∧ e.coll = d.coll := by
  rw [h.1]
  exact ⟨rfl, rfl, rfl, rfl, rfl, rfl, rfl, rfl, rfl⟩

/-- An MSI-X message changes egress queues and pending bits only. -/
theorem Dev.raiseVector_eq (d : Dev) (port dom vector : Nat) (r : Option SlotRef) :
    ∃ ps ms, d.raiseVector port dom vector r = { d with points := ps, masked := ms } := by
  unfold Dev.raiseVector
  dsimp only
  split <;> exact ⟨_, _, rfl⟩

/-- A completion record changes egress queues and pending bits only. -/
theorem Dev.postRecord_eq (d : Dev) (c : Context) (addr verb : Nat) (notify own : Bool) (rc : Record) (r : SlotRef) :
    ∃ ps ms, d.postRecord c addr verb notify own rc r = { d with points := ps, masked := ms } := by
  unfold Dev.postRecord
  dsimp only
  split
  · obtain ⟨ps, ms, h⟩ := Dev.raiseVector_eq ((d.toPort c.homePort c.domain true 24 (some r) (.recordWords c.homePort addr rc)).toPort
      c.homePort c.domain true 8 (some r) (.record c.homePort addr verb own rc)) c.homePort c.domain c.vector (some r)
    exact ⟨ps, ms, h⟩
  · exact ⟨_, _, rfl⟩

end Sys2Proof.Machine
end

