-- ==== Sys2Proof/Laws/Slots.lean ====
section
/-! SUPPORT. Contexts, slots and commands: what a change of one does to what is read of it. -/

namespace Sys2Proof.Machine

/-- The first element found under a test that a change keeps is the changed first element. -/
theorem find?_modifyAll {α : Type} (p : α → Bool) (f : α → α) (hf : ∀ x, p (f x) = p x) (xs : List α) :
    (modifyAll p f xs).find? p = (xs.find? p).map f := by
  induction xs with
  | nil => rfl
  | cons x xs ih =>
    simp only [modifyAll, List.map_cons] at ih ⊢
    by_cases h : p x = true
    · simp [h, hf]
    · simp [h, ih]

/-- Two changes under one test are one change. -/
theorem modifyAll_modifyAll {α : Type} (p : α → Bool) (f g : α → α) (hf : ∀ x, p (f x) = p x) (xs : List α) :
    modifyAll p g (modifyAll p f xs) = modifyAll p (fun x => g (f x)) xs := by
  simp only [modifyAll, List.map_map]
  congr 1
  funext x
  by_cases h : p x = true <;> simp [h, hf]

/-- The context changed. -/
theorem Dev.ctx?_modCtx (d : Dev) (c : Nat) (f : Context → Context) (hf : ∀ x, (f x).num = x.num) :
    (d.modCtx c f).ctx? c = (d.ctx? c).map f := by
  simp only [Dev.ctx?, Dev.modCtx]
  exact find?_modifyAll _ f (by simp [hf]) _

/-- The slot changed. -/
theorem Dev.slot?_modSlot (d : Dev) (r : SlotRef) (f : Slot → Slot) : (d.modSlot r f).slot? r = (d.slot? r).map f := by
  simp only [Dev.slot?, Dev.modSlot]
  rw [Dev.ctx?_modCtx _ _ _ (by simp)]
  cases d.ctx? r.ctx with
  | none => rfl
  | some c => simp

/-- The command changed. -/
theorem Dev.cmd?_modCmd (d : Dev) (r : SlotRef) (f : Cmd → Cmd) : (d.modCmd r f).cmd? r = (d.cmd? r).map f := by
  simp only [Dev.cmd?, Dev.modCmd, Dev.slot?_modSlot]
  cases d.slot? r with
  | none => rfl
  | some s => rfl

/-- Two changes of one command are one change. -/
theorem Dev.modCmd_modCmd (d : Dev) (r : SlotRef) (f g : Cmd → Cmd) :
    (d.modCmd r f).modCmd r g = d.modCmd r fun k => g (f k) := by
  simp only [Dev.modCmd, Dev.modSlot, Dev.modCtx]
  congr 1
  rw [modifyAll_modifyAll _ _ _ (by simp)]
  congr 1
  funext c
  congr 1
  apply List.ext_getElem?
  intro i
  simp only [List.getElem?_modify]
  by_cases h : r.slot = i
  · cases c.slots[i]? with
    | none => simp [h]
    | some s => simp [h, Function.comp_def]
  · simp [h]

end Sys2Proof.Machine
end

