-- ==== Sys2Proof/Laws/Wrappers.lean ====
section
/-! SUPPORT. What the shared wrappers of the meanings do: one lemma each. -/

namespace Sys2Proof.Machine

/-- A meaning of a live device runs on it, and leaves the queue. -/
theorem whenLive_of_live {f : Dev → Dev} {s : State} (h : s.dev.live = true) :
    whenLive f s = .next { s with dev := f s.dev } := by
  simp [whenLive, h]

/-- A device that is not live is left as it is. -/
theorem whenLive_of_dead {f : Dev → Dev} {s : State} (h : s.dev.live = false) : whenLive f s = .next s := by
  cases s; simp_all [whenLive]

/-- `whenLive` always answers a next state with the queue as it was. -/
theorem whenLive_next (f : Dev → Dev) (s : State) :
    whenLive f s = .next { s with dev := if s.dev.live then f s.dev else s.dev } := rfl

/-- `always` answers a next state with the queue as it was. -/
theorem always_next (f : Dev → Dev) (s : State) : always f s = .next { s with dev := f s.dev } := rfl

/-- A ready command takes its meaning. -/
theorem Dev.onReady_of_ready {d : Dev} {r : SlotRef} {v : Verb} {c : Context} {k : Cmd} (f : Context → Cmd → Dev)
    (h : d.ready r v = some (c, k)) : d.onReady r v f = f c k := by
  simp [Dev.onReady, h]

/-- With no command ready, nothing happens. -/
theorem Dev.onReady_of_none {d : Dev} {r : SlotRef} {v : Verb} (f : Context → Cmd → Dev) (h : d.ready r v = none) :
    d.onReady r v f = d := by
  simp [Dev.onReady, h]

/-- With every span here, a command goes on. -/
theorem Dev.withRemote_of_here {d : Dev} {r : SlotRef} {k : Cmd} {ss : List Span} (f : Dev → Dev)
    (h : d.missing k ss = []) : d.withRemote r k ss f = f d := by
  simp [Dev.withRemote, h]

/-- With its running values allocated, a context's check verb goes on. -/
theorem Dev.withRunning_of_alloc {d : Dev} {r : SlotRef} {c : Context} (f : Dev → Dev) (h : c.runningAlloc = true) :
    d.withRunning r c f = f d := by
  simp [Dev.withRunning, h]

/-- An authorized use of an open loan goes on. -/
theorem Dev.withLoan_of_mayUse {d : Dev} {r : SlotRef} {c : Context} {k : Cmd} {handle : Nat} {l : Loan} (f : Loan → Dev)
    (h : d.loan? c.domain handle = some l) (a : d.mayUse k.host l = true) : d.withLoan r c k handle f = f l := by
  simp [Dev.withLoan, h, a]

/-- A verb on a session that this member owns goes on. -/
theorem Dev.onSession_of_owned {d : Dev} {r : SlotRef} {v : Verb} {c : Context} {k : Cmd} {ss : Session}
    (f : Context → Cmd → Session → Dev) (h : d.ready r v = some (c, k)) (hs : c.session = some ss)
    (hm : ss.state ≠ .moving) (hb : ss.rebuilding = false) (hc : ss.claimed = true) (ho : d.owns ss = true) : d.onSession r v f = f c k ss := by
  simp [Dev.onSession, Dev.onReady, h, hs, hm, hb, hc, ho]

/-- A session that has lost nothing lets a verb go on. -/
theorem Dev.unlessLost_of_whole {d : Dev} {r : SlotRef} {ctx : Nat} {ss : Session} {hi : Nat} {f : Dev} (h : ss.lostFrom = none) :
    d.unlessLost r ctx ss hi f = f := by
  simp [Dev.unlessLost, h]

/-- An awake device takes no time to wake. -/
theorem Dev.wakeBy_of_awake {d : Dev} (src : Nat) (h : d.awake = true) : d.wakeBy src = (d, true) := by
  simp only [Dev.awake, Bool.and_eq_true, beq_iff_eq] at h
  simp [Dev.wakeBy, h.1, h.2]

/-- Leaving L1 changes no more than the port. -/
@[simp] theorem Dev.toL0_power (d : Dev) (p : Nat) : (d.toL0 p).power = d.power := rfl

/-- Noting an identity on a port changes nothing else. -/
theorem Dev.carries_power (d : Dev) (i : Instr) : (d.carries i).power = d.power := by
  unfold Dev.carries
  split
  · split <;> rfl
  · rfl

/-- Traffic of a served port reaches an awake device at once. -/
theorem onTraffic_of_serves {i : Instr} {port : Nat} {f : Dev → Dev} {d : Dev} (h : d.serves port = true) :
    onTraffic i port f d = f (d.reached i port) := by
  simp only [Dev.serves, Bool.and_eq_true] at h
  have hw : ((d.toL0 port).carries i).awake = true := by
    simpa [Dev.awake, Dev.carries_power] using h.1.2
  simp [onTraffic, h.2, Dev.wakeBy_of_awake _ hw, Dev.reached]

/-- A write that a block takes is applied. -/
theorem Dev.onWrite_of_takes {d : Dev} {w : RegWrite} (f : Dev → Dev) (h : d.takes w = true) : d.onWrite w f = f d := by
  simp only [Dev.takes, Bool.and_eq_true] at h
  obtain ⟨⟨⟨ha, hb⟩, hs⟩, hk⟩ := h
  have hblk : d.onBlock w f = f d := by
    unfold Dev.onBlock
    cases hb : blockOf w.reg with
    | page dom =>
      simp only [hb, Bool.and_eq_true, bne_iff_ne, ne_eq, Bool.not_eq_true'] at hk
      have hn : (d.domainRec dom).isNone = false := by
        cases hd : d.domainRec dom <;> simp_all
      simp [hn, hk.1.2, Dev.withinLimit, hk.2]
    | _ => simp only [hb] at hk; simp [hk]
  unfold Dev.onWrite
  have hb' : (d.acc.state == AccState.booting) = false := by simpa [bne] using hb
  rw [ha, hb']
  revert hs
  cases w.src with
  | docent => intro hs; simp [hs, hblk]
  | bar port host =>
    intro hs
    simp only [Bool.and_eq_true] at hs
    simp [hs.1, hs.2, hblk]

/-- A register row whose write is heard, taken and of its kind acts on the device as the access finds it. -/
theorem onRegister_of_taken {i : Instr} {w : RegWrite} {kind : Dev → Bool} {f : Dev → Dev} {d : Dev}
    (hi : senderOf i = none) (h : d.hears w.src = true) (ht : (d.accessed w.src).takes w = true)
    (hk : kind (d.accessed w.src) = true) : onRegister i w kind f d = f (d.accessed w.src) := by
  unfold onRegister onSrc
  revert h ht hk
  cases hsrc : w.src with
  | docent =>
    intro h ht hk
    simp only [Dev.hears, Dev.awake, Bool.and_eq_true] at h
    have ha : (d.power.device == DevicePower.active && d.power.phase == EntryPhase.none) = true := by
      simpa using h.2
    simp only [Dev.accessed] at ht hk ⊢
    rw [if_pos ha, Dev.onWrite_of_takes _ ht, if_pos hk]
  | bar port host =>
    intro h ht hk
    simp only [Dev.hears] at h
    simp only [Dev.accessed] at ht hk ⊢
    have hr : d.reached i port = d.toL0 port := by simp [Dev.reached, Dev.carries, hi]
    rw [onTraffic_of_serves h, hr, Dev.onWrite_of_takes _ ht, if_pos hk]

/-- A register access that is heard reaches a live device. -/
theorem Dev.hears_live {d : Dev} {x : Src} (h : d.hears x = true) : d.live = true := by
  cases x <;> simp_all [Dev.hears, Dev.serves]

/-- Traffic of a served port reaches a live device. -/
theorem Dev.serves_live {d : Dev} {p : Nat} (h : d.serves p = true) : d.live = true := by
  simp_all [Dev.serves]

/-- A register row whose write is heard, taken and of its kind answers the next state its rule gives. -/
theorem whenLive_onRegister {s : State} {w : RegWrite} {i : Instr} {kind : Dev → Bool} {f : Dev → Dev} (hw : s.writes w)
    (hi : senderOf i = none) (hk : kind (s.dev.accessed w.src) = true) :
    whenLive (fun d => onRegister i w kind f d) s = .next { s with dev := f (s.dev.accessed w.src) } := by
  rw [whenLive_of_live (Dev.hears_live hw.1), onRegister_of_taken hi hw.1 hw.2 hk]

/-- A traffic row of a served port answers the next state its meaning gives on the device as reached. -/
theorem whenLive_onTraffic {s : State} {i : Instr} {port : Nat} {f : Dev → Dev} (h : s.dev.serves port = true) :
    whenLive (onTraffic i port f) s = .next { s with dev := f (s.dev.reached i port) } := by
  rw [whenLive_of_live (Dev.serves_live h), onTraffic_of_serves h]

/-- Leaving L1 keeps every port up that was up. -/
theorem Dev.portUp_toL0 (d : Dev) (p q : Nat) : (d.toL0 p).portUp q = d.portUp q := by
  simp only [Dev.portUp, Dev.toL0, modifyAll, List.any_map]
  congr 1
  funext x
  by_cases h : (x.index == p && x.link == PortLink.l1) = true
  · simp only [Function.comp, h, if_true]
    simp only [Bool.and_eq_true, beq_iff_eq] at h
    simp [h.2]
  · simp [Function.comp, h]

/-- Noting an identity on a port keeps every port as it was in whether it is up. -/
theorem Dev.portUp_carries (d : Dev) (i : Instr) (q : Nat) : (d.carries i).portUp q = d.portUp q := by
  unfold Dev.carries
  split
  · split
    · rfl
    · rfl
  · rfl

/-- A served port is up on the device as reached. -/
theorem Dev.reached_portUp {d : Dev} {i : Instr} {p : Nat} (h : d.serves p = true) : (d.reached i p).portUp p = true := by
  simp only [Dev.serves, Bool.and_eq_true] at h
  simp [Dev.reached, Dev.portUp_carries, Dev.portUp_toL0, h.2]

/-- Taking a frame's ACK changes no more than links and the free draws. -/
theorem Dev.ackSome_frame (d : Dev) (l : Nat) :
    (d.ackSome l).coll = d.coll ∧ (d.ackSome l).regs = d.regs ∧ (d.ackSome l).mem = d.mem ∧ (d.ackSome l).ctxs = d.ctxs ∧
      (d.ackSome l).now = d.now ∧ (d.ackSome l).serving = d.serving ∧ (d.ackSome l).extents = d.extents ∧
      (d.ackSome l).acc = d.acc ∧ (d.ackSome l).out = d.out ∧ (d.ackSome l).points = d.points := by
  unfold Dev.ackSome
  split
  · simp
  · split <;> simp

/-- What a message that comes in does. -/
theorem Dev.arrive_of_brings {d : Dev} {type : Nat} {m : FabMsg} (f : Dev → Dev) (h : d.brings type m = true) :
    d.arrive type m f = f (d.ackSome m.link) := by
  obtain ⟨hc, hr, _⟩ := d.ackSome_frame m.link
  have ha : (d.ackSome m.link).acc = d.acc := (d.ackSome_frame m.link).2.2.2.2.2.2.2.1
  have hreg : ∀ off hi lo, (d.ackSome m.link).field off hi lo = d.field off hi lo := by
    intro off hi lo
    simp only [Dev.field, Dev.reg, resetValue, hr, ha]
  have ho : (d.ackSome m.link).ownFid = d.ownFid := by simp only [Dev.ownFid, Dev.fidOf, hreg, hc]
  have hg : (d.ackSome m.link).fromGroup m = d.fromGroup m := by simp only [Dev.fromGroup, hreg]
  simp only [Dev.brings, Bool.and_eq_true] at h
  obtain ⟨⟨⟨⟨hu, hd⟩, hf⟩, hb⟩, hm⟩ := h
  have hd' : (m.dst != d.ownFid) = false := by simpa [bne] using hd
  simp only [Dev.arrive, hu, Bool.not_true, Bool.false_eq_true, if_false, ho, hd', hg]
  rw [if_neg (by
    simp only [Bool.and_eq_true, Bool.not_eq_true', not_and, Bool.not_eq_false]
    intro hfar
    simpa [hfar] using hf)]
  rw [if_neg (by
    simp only [Bool.and_eq_true, Bool.not_eq_true', not_and, Bool.not_eq_false]
    intro hfar
    simpa [hfar] using hb)]
  by_cases hgm : d.fromGroup m = true
  · simp only [hgm, Bool.not_true, Bool.false_or, Bool.and_eq_true] at hm
    have hl : (d.ackSome m.link).coll.lost.getLsbD (m.src % 16) = false := by rw [hc]; simpa using hm.2
    have hs : ((d.ackSome m.link).coll.state == CollState.formed) = true := by rw [hc]; exact hm.1
    rw [if_pos hgm, if_pos hs, Dev.fromMember, hl]
    simp
  · rw [if_neg hgm]

/-- A request that is new here is served. -/
theorem request_of_asks {s : State} {type : Nat} {m : FabMsg} {fails : List Nat} (h : s.asks type m) :
    s.dev.request type m fails = (s.dev.asked m).serveReq type m fails [] := by
  obtain ⟨_, hb, hn⟩ := h
  have hf := s.dev.ackSome_frame m.link
  have hsv : (s.dev.ackSome m.link).serving = s.dev.serving := hf.2.2.2.2.2.1
  have hnow : (s.dev.ackSome m.link).now = s.dev.now := hf.2.2.2.2.1
  rw [Dev.request, Dev.arrive_of_brings _ hb]
  have hnone : (List.find? (fun x => x.src == m.src && x.tag == m.tag)
      ((s.dev.ackSome m.link).serving.filter fun x =>
        x.answer.isNone || !x.await.isEmpty || x.src == hostSource || decide (s.dev.now ≤ 1000000 + x.since))) = none := by
    rw [List.find?_eq_none]
    intro x hx
    rw [hsv, List.mem_filter] at hx
    rcases hn x hx.1 with h | h <;> simp [h]
  simp only [hnow, hnone, Dev.asked]

/-- What a ready command is: the context's, in its slot. -/
theorem Dev.parts_of_ready {d : Dev} {r : SlotRef} {v : Verb} {c : Context} {k : Cmd} (h : d.ready r v = some (c, k)) :
    d.ctx? r.ctx = some c ∧ d.cmd? r = some k := by
  unfold Dev.ready at h
  cases hc : d.ctx? r.ctx with
  | none => simp [hc] at h
  | some c' =>
    cases hs : d.slot? r with
    | none => simp [hc, hs] at h
    | some x =>
      cases hk : x.cmd with
      | none => simp [hc, hs, hk] at h
      | some k' =>
        simp only [hc, hs, hk] at h
        split at h
        · simp only [Option.some.injEq, Prod.mk.injEq] at h
          simp [Dev.cmd?, hs, hk, h.1, h.2]
        · cases h

/-- A command that is ready is the one its slot holds. -/
theorem Dev.cmd?_of_ready {d : Dev} {r : SlotRef} {v : Verb} {c : Context} {k : Cmd} (h : d.ready r v = some (c, k)) :
    d.cmd? r = some k := (Dev.parts_of_ready h).2

/-- A command that is ready belongs to its context. -/
theorem Dev.ctx?_of_ready {d : Dev} {r : SlotRef} {v : Verb} {c : Context} {k : Cmd} (h : d.ready r v = some (c, k)) :
    d.ctx? r.ctx = some c := (Dev.parts_of_ready h).1

/-- What a slot holds once extents are captured for its command. -/
theorem Dev.cmd?_setCaps {d : Dev} {r : SlotRef} {k : Cmd} (caps : List Extent) (h : d.cmd? r = some k) :
    (d.setCaps r caps).cmd? r = some { k with caps := caps } := by
  simp [Dev.setCaps, Dev.cmd?_modCmd, h]

/-- A verb whose late ranges are captured goes on. -/
theorem Dev.late_of_captures {d : Dev} {r : SlotRef} {c : Context} {k : Cmd} {ns : List Need} {e : Dev} {j : Cmd}
    (f : Dev → Cmd → Dev) (hk : d.cmd? r = some k) (h : d.captures r c k ns e j) : d.late r c ns f = (f e j).settle := by
  obtain ⟨caps, h1, rfl, rfl⟩ := h
  simp [Dev.late, hk, Dev.capture, h1, Dev.cmd?_setCaps caps hk]

/-- The command a slot holds after its late ranges are captured. -/
theorem Dev.captures_cmd? {d : Dev} {r : SlotRef} {c : Context} {k : Cmd} {ns : List Need} {e : Dev} {j : Cmd}
    (hk : d.cmd? r = some k) (h : d.captures r c k ns e j) : e.cmd? r = some j := by
  obtain ⟨caps, _, rfl, rfl⟩ := h
  exact Dev.cmd?_setCaps caps hk

end Sys2Proof.Machine
end

