-- ==== Sys2Proof/Tests/Slice0.lean ====
section
/-! SUPPORT. The model's own tests: named theorems, each about one step or one operation on a small state. The `wf_`
theorems give an ill-formed term for each check of WellFormed.lean; the `witness_` theorems show states and operands that
meet the hypotheses of the statements of Certificates/Slice0/Obligations.lean, clause by clause; the `test_` theorems
compare results with values worked out from the spec. -/

namespace Sys2Proof.Tests

set_option Elab.async false

open Sys2Proof Sys2Proof.Machine

/-! ### Building small states -/

/-- Bytes of a length, zero but for fields of an offset, a width and a value. -/
def bytesOf (n : Nat) (fs : List (Nat × Nat × Nat)) : List Byte :=
  fs.foldl (fun l f => l.take f.1 ++ natLe f.2.2 f.2.1 ++ l.drop (f.1 + f.2.1)) (List.replicate n 0)

/-- A line of a verb: sequence number 1, completion address 0x8000, and operand fields. -/
def line (verb : Nat) (fs : List (Nat × Nat × Nat)) : List Byte :=
  bytesOf 64 ([(0, 2, verb), (4, 4, 1), (8, 8, 0x8000)] ++ fs)

/-- The slot that the tests use: slot 0 of context 3. -/
def r0 : SlotRef := { ctx := 3, slot := 0 }

/-- A command with a line and a descriptor, its captures given. -/
def cmdOf (l desc : List Byte) (caps : List Extent) : Cmd :=
  { Cmd.fresh 0 5 7 l 0 with desc := desc, caps := caps, tagged := true }

/-- A slot that runs a command. -/
def runSlot (k : Cmd) : Slot :=
  { state := .running, reason := .none, status := none, seq := 1, compl := 0x8000, steps := 0, verb := lineVerb k.line,
    prio := 0, held := false, cmd := some k }

/-- A context of domain 1 with slots and a session. -/
def ctxOf (slots : List Slot) (x : Option Session) : Context :=
  { num := 3, domain := 1, usable := 4, homePort := 0, msixEn := true, vector := 2, high := 1,
    window := [{ seq := 1, record := none }], slots := slots, fails := [], lastClose := 0,
    running := List.replicate 8 { poly := 0, reg := 0, count := 0 }, runningAlloc := true, session := x }

/-- The extent of domain 1: 1 MiB of writable store. -/
def ext1 : Extent :=
  { domain := 1, cva := 0x100000, len := 0x100000, sa := 0x10000000000, rights := .writable, gen := 1, loan := 0x10001,
    placement := .spread }

/-- Domain 1. -/
def dom1 : DomainRec :=
  { domain := 1, management := false, wingLocal := false, homeWest := false, vitrineOk := true, tagPool := 32,
    classMask := 0xFFFF, ctxCeiling := 4, galCeiling := 4, moverWeight := 1, scannerWeight := 1, xcEast := 1, xcWest := 1,
    portMask := 0xF, linkMask := 0xFF, faultSlots := 8, onfiMask := 0xFFFFFFFF, dramQuota := 4, flashQuota := 4 }

/-- An image with domain 1 and host 5 with every right in it. -/
def img1 : Image :=
  { partialLoad := false, domain := 0xFFFF, serial := 1, baseSerial := 0, rollback := 0, variantMask := 7, digest := [],
    domains := [dom1], galleries := [], pipelines := [], routes := [], grants := [{ host := 5, domain := 1, rights := 0xF }],
    vitrine := [], shaper := [], coding := [] }

/-- The loan of host 5. -/
def loan1 : Loan := { index := 1, gen := 1, domain := 1, holder := 5, expiry := none, gone := false }

/-- A device in AVAILABLE_FULL with image 1, port 0 in L0, and no context. -/
def dev0 : Dev :=
  { Dev.reset with
    now := 1000, order := 8
    acc := { Accession.reset with resetLow := false, state := .availableFull, phase := 7, reported := 1, increments := 128,
                                  enginesTested := true, conservator := true }
    pairs := (List.range 4).map fun i => { index := i, works := true, roles := [i] }
    galleries := (List.range 40).map fun i =>
      { physical := i, logical := some i, state := .joined, failed := 0, niMap := List.range 32, remapped := false, words := [], source := 0, fast := false, power := .on, lastStep := 0 }
    stackUnits := (List.range 8).map fun i => { physical := i, logical := some i, state := .joined, source := 0, repairs := 0 }
    ports := [{ index := 0, state := .joined, perstReleased := true, link := .l0, width := 16, nearLanes := 0xFFFF,
                farLanes := 0xFFFF, source := 0 },
              { index := 1, state := .joined, perstReleased := false, link := .down, width := 0, nearLanes := 0xFFFF,
                farLanes := 0xFFFF, source := 0 }]
    channels := (List.range 32).map fun i =>
      { index := i, unit := .joined, usable := true, rate := 4800, dies := 4, off := false, draining := false, mpe := true }
    image := some img1, extents := [ext1], loans := [loan1] }

/-- That device with a context. -/
def devOf (c : Context) : Dev := { dev0 with ctxs := [c] }

/-- A state of a device with an empty queue. -/
def st (d : Dev) : State := { pending := [], dev := d }

/-- The context, the command and the state in which a line runs. -/
def kOf (l : List Byte) : Cmd := cmdOf l [] [ext1]
def cOf (l : List Byte) : Context := ctxOf [runSlot (kOf l), Slot.fresh] none
def sOf (l : List Byte) : State := st (devOf (cOf l))

/-- The write of a register by host 5 over port 0. -/
def wr (off : Nat) (v : W64) : RegWrite := { src := .bar 0 5, offset := off, size := 8, value := v }

/-! ### Well-formedness: an ill-formed term for each check, refused -/

theorem wf_slotRef : (Instr.fill { ctx := 65536 * 17, slot := 0 }).wf = false ∧ (Instr.fill { ctx := 0, slot := 64 }).wf = false ∧
    (Instr.fill { ctx := 65536 * 17 - 1, slot := 63 }).wf = true := by decide

theorem wf_lineWrite :
    let w : LineWrite := { port := 3, host := 4095, offset := 0x0FFFFFC0, enables := 0, data := List.replicate 64 0 }
    (Instr.submissionLine w).wf = true ∧ (Instr.submissionLine { w with port := 4 }).wf = false ∧
    (Instr.submissionLine { w with host := 4096 }).wf = false ∧ (Instr.submissionLine { w with offset := 0x10000000 }).wf = false ∧
    (Instr.submissionLine { w with offset := 8 }).wf = false ∧ (Instr.submissionLine { w with data := [0] }).wf = false := by
  decide +kernel

theorem wf_slotRead : (Instr.slotRead 4 0 0).wf = false ∧ (Instr.slotRead 0 4096 0).wf = false ∧
    (Instr.slotRead 0 0 0x10000000).wf = false ∧ (Instr.slotRead 3 4095 0).wf = true := by decide

theorem wf_regWrite :
    let w : RegWrite := { src := .bar 3 4095, offset := 0x003FFFF8, size := 8, value := 0 }
    (Instr.registerWrite w).wf = true ∧ (Instr.registerWrite { w with src := .docent }).wf = true ∧
    (Instr.registerWrite { w with src := .bar 4 0 }).wf = false ∧ (Instr.registerWrite { w with src := .bar 0 4096 }).wf = false ∧
    (Instr.registerWrite { w with size := 0 }).wf = false ∧ (Instr.registerWrite { w with size := 9 }).wf = false ∧
    (Instr.registerWrite { w with offset := 0x003FFFFC }).wf = false := by decide

theorem wf_regRead :
    (Instr.counterReadClear { src := .bar 0 0, offset := 0x003FFFF8, size := 8 }).wf = true ∧
    (Instr.counterReadClear { src := .bar 4 0, offset := 0, size := 8 }).wf = false ∧
    (Instr.counterReadClear { src := .bar 0 0, offset := 0, size := 0 }).wf = false ∧
    (Instr.counterReadClear { src := .bar 0 0, offset := 0, size := 9 }).wf = false ∧
    (Instr.counterReadClear { src := .bar 0 0, offset := 0x003FFFFC, size := 8 }).wf = false := by decide

theorem wf_memAccess :
    let a : MemAccess := { port := 3, host := 4095, dpa := 64 }
    (Instr.memrdSnpcur a []).wf = true ∧ (Instr.memrdSnpcur { a with port := 4 } []).wf = false ∧
    (Instr.memrdSnpcur { a with host := 4096 } []).wf = false ∧ (Instr.memrdSnpcur { a with dpa := 32 } []).wf = false ∧
    (Instr.hdmWrite a 0 [] []).wf = false ∧ (Instr.vitrineMemwr a 0 [] false []).wf = false := by decide

/-- A fabric message on link 0. -/
def msg : FabMsg :=
  { link := 0, dst := 0, src := 1, domain := 1, ctx := 3, tag := 0, flags := 0, address := 0, arg := 0, payload := [] }

theorem wf_fabMsg : (Instr.rd msg []).wf = true ∧ (Instr.rd { msg with link := 8 } []).wf = false ∧
    (Instr.rd { msg with dst := 65536 } []).wf = false ∧ (Instr.rd { msg with src := 65536 } []).wf = false ∧
    (Instr.rd { msg with tag := 65536 } []).wf = false := by decide

theorem wf_fabMsg_payload : (Instr.wr { msg with payload := List.replicate (2 ^ 20 + 1) 0 } []).wf = false := by
  simp only [Instr.wf, FabMsg.wf, List.length_replicate]; decide

/-- A MEMBER message of member 1. -/
def memberMsg : MemberMsg :=
  { link := 0, srcFid := 1, sender := 1, bitmap := 3, epoch := 1, serial := 0, fwVersion := 0, variant := 1 }

theorem wf_memberMsg : (Instr.join memberMsg).wf = true ∧ (Instr.join { memberMsg with link := 8 }).wf = false ∧
    (Instr.join { memberMsg with srcFid := 65536 }).wf = false ∧ (Instr.join { memberMsg with sender := 16 }).wf = false := by decide

/-- A LEDGER message of context 3 of domain 1 at epoch 2. -/
def ledgerMsg : LedgerMsg := { domain := 1, front := 0, ctx := 3, epoch := 2, source := 0, dest := 1, sender := 1 }

theorem wf_ledgerMsg : (Instr.accept ledgerMsg).wf = true ∧ (Instr.accept { ledgerMsg with ctx := 65536 }).wf = false ∧
    (Instr.accept { ledgerMsg with front := 16 }).wf = false ∧ (Instr.accept { ledgerMsg with source := 16 }).wf = false ∧
    (Instr.accept { ledgerMsg with dest := 16 }).wf = false ∧ (Instr.accept { ledgerMsg with sender := 16 }).wf = false := by decide

/-- A training message on link 0. -/
def trainMsg : TrainMsg := { link := 0, lanes := 0xFF, fid := 1, partner := 0, member := true, far := false }

theorem wf_trainMsg : (Instr.ts1 trainMsg).wf = true ∧ (Instr.ts1 { trainMsg with link := 8 }).wf = false ∧
    (Instr.ts1 { trainMsg with lanes := 256 }).wf = false ∧ (Instr.ts2 { trainMsg with fid := 65536 }).wf = false := by decide

theorem wf_fwChunk : (Instr.fw { sender := 65536, tag := 0, index := 0, count := 0, data := [], check := 0 }).wf = false ∧
    (Instr.fw { sender := 0, tag := 0, index := 0, count := 0, data := List.replicate 4097 0, check := 0 }).wf = false := by
  decide +kernel

theorem wf_point : (Instr.shaperGranule ⟨.cxl, 4⟩ 0).wf = false ∧ (Instr.shaperGranule ⟨.zherek, 8⟩ 0).wf = false ∧
    (Instr.shaperGranule ⟨.onfi, 32⟩ 0).wf = false ∧ (Instr.shaperGranule ⟨.onfi, 31⟩ 0).wf = true := by decide

theorem wf_area : (Instr.faultOwnedReadDone (.domain 256) .clear).wf = false ∧
    (Instr.faultOwnedReadDone .device .clear).wf = true := by decide

theorem wf_laneUnit : (Instr.laneQualified (.cxl 4) false 16).wf = false ∧ (Instr.laneQualified (.zherek 8) true 8).wf = false := by
  decide

theorem wf_numbers : (Instr.galleryWipeDone 40).wf = false ∧ (Instr.exportClearDrained 256).wf = false ∧
    (Instr.onfiOffDrained 32).wf = false ∧ (Instr.galleryRetain 40 0).wf = false ∧ (Instr.resetNRelease 16 0).wf = false ∧
    (Instr.resetNRelease 0 4).wf = false ∧ (Instr.perstNAssert 4).wf = false ∧ (Instr.perstNRelease 4).wf = false ∧
    (Instr.cxlPortTrained 4 16).wf = false ∧ (Instr.galleryTestDone 40 0).wf = false ∧ (Instr.pairHalt 4).wf = false ∧
    (Instr.tierCheck 256 0).wf = false ∧ (Instr.flashEraseDone 32 0 true).wf = false ∧
    (Instr.flashPatrol 32 0 false 0).wf = false ∧ (Instr.onfiChannelTrained 32 2400).wf = false := by decide

theorem wf_hostNumbers : (Instr.addDynamicCapacityResponse 4 0 0 0).wf = false ∧ (Instr.releaseDynamicCapacity 0 4096 0).wf = false ∧
    (Instr.getDynamicCapacityExtentList 4 0).wf = false ∧ (Instr.eventRetrieval 0 4096).wf = false ∧
    (Instr.onaidReport 0 []).wf = false ∧ (Instr.onaidReport 4 (List.replicate 32 0)).wf = false ∧
    (Instr.identityCertificate 4).wf = false ∧ (Instr.birsp 4096 0 .rspI).wf = false ∧ (Instr.biconflict 4 0 0).wf = false ∧
    (Instr.biTimeout 4096 0 0).wf = false ∧ (Instr.cxlPortDown 4).wf = false ∧ (Instr.l1Entry 4).wf = false ∧
    (Instr.l1Exit 4).wf = false := by decide

theorem wf_linkNumbers : (Instr.config 8 1 8 []).wf = false ∧ (Instr.nak 0 512).wf = false ∧ (Instr.nak 8 0).wf = false ∧
    (Instr.align 8).wf = false ∧ (Instr.retrain 8).wf = false ∧ (Instr.down 8).wf = false ∧ (Instr.frameDiscard 0 512).wf = false ∧
    (Instr.replayTimeout 8 0).wf = false ∧ (Instr.linkDown 8).wf = false ∧ (Instr.linkTrainTimeout 8 0).wf = false ∧
    (Instr.credit 8 []).wf = false ∧ (Instr.hb 16 0 0).wf = false ∧ (Instr.hbTimeout 16 0).wf = false := by decide

/-! ### The machine, accession and firmware: witnesses -/

/-- A device that has stopped. -/
def tripped : Dev := { dev0 with power := { dev0.power with tripped := true } }

theorem witness_stepRunsFrontCommand : ({ pending := [.align 0], dev := dev0 } : State).pending = .align 0 :: [] := rfl

theorem witness_idleStep : (st dev0).pending = [] := rfl

theorem witness_stoppedDevice : (st tripped).dev.stopped = true ∧ Instr.powerUp ≠ Instr.resetNAssert ∧
    Instr.align 0 ≠ Instr.resetNAssert ∧ Instr.align 0 ≠ Instr.powerUp ∧ exec (.align 0) (st tripped) = .next (st tripped) := by
  refine ⟨by decide +kernel, by decide, by decide, by decide, rfl⟩

theorem witness_resetStays : State.reset.dev.acc.resetLow = true ∧ exec (.align 0) State.reset = .next State.reset :=
  ⟨rfl, rfl⟩

/-- A device that is held in reset. -/
def inReset : Dev := { dev0 with acc := { dev0.acc with resetLow := true } }

theorem witness_resetAndPower : (st dev0).dev.acc.powered = true ∧ (st inReset).dev.acc.powered = true ∧
    (st inReset).dev.acc.resetLow = true ∧ 1 % 4 < 2 ∧ 2 ≤ 3 % 4 ∧ (st dev0).dev.live = true ∧
    ((st dev0).dev.ports.any fun x => x.index == 0 && x.link != .down) = true ∧ 115 ≤ 115 ∧ (st dev0).dev.acc.resetLow = false := by
  decide +kernel

/-- A device in BOOTING in a phase of accession. -/
def booting (p : Nat) : Dev := { dev0 with acc := { dev0.acc with state := .booting, phase := p, reported := 0 } }


theorem witness_bootPhases : (st (booting 1)).dev.live = true ∧ (booting 1).acc.state = .booting ∧ (booting 1).acc.phase = 1 ∧
    (∃ p < 4, (booting 1).fuses.pairOk p = true ∧ bit 0xF p = true) ∧ (booting 3).acc.phase = 3 ∧ (booting 5).acc.phase = 5 ∧
    (booting 5).load.abandoned = false := by decide +kernel

/-- A screen that finds no fault, and one that finds every gallery failed. -/
def screenGood : ScreenResult :=
  { failedPes := [], failedGalleries := 0, failedStacks := 0, failedPorts := 0, failedLinks := 0, failedChannels := 0 }
def screenBad : ScreenResult := { screenGood with failedGalleries := 2 ^ 40 - 1 }

theorem witness_screens_variant :
    ([1, 2, 3].find? fun v => decide ((booting 3).fuses.marked ≤ v) && ((booting 3).screenUnits screenGood).meetsFloor v) = some 1 := by
  decide +kernel

theorem witness_screens_none :
    ([1, 2, 3].find? fun v => decide ((booting 3).fuses.marked ≤ v) && ((booting 3).screenUnits screenBad).meetsFloor v) = none := by
  decide +kernel

/-- A device in AVAILABLE_PARTIAL with units that still await their tests. -/
def partialDev : Dev :=
  { dev0 with
    acc := { dev0.acc with state := .availablePartial, increments := 127, enginesTested := false, conservator := false }
    galleries := modifyAll (·.physical == 7) (fun g => { g with state := .pending }) dev0.galleries
    channels := modifyAll (·.index == 31) (fun c => { c with unit := .pending }) dev0.channels
    ports := modifyAll (·.index == 1) (fun p => { p with perstReleased := true }) dev0.ports }

theorem witness_unitCommands : (st partialDev).dev.live = true ∧ 5 ≤ partialDev.acc.phase ∧ partialDev.acc.increments < 128 ∧
    partialDev.acc.dramStopped = false ∧ partialDev.acc.phase = 7 ∧ partialDev.acc.enginesTested = false ∧
    (0 : Nat) % 2 ^ 32 = partialDev.fuses.badMovers % 2 ^ 32 ∧ (0 : Nat) % 2 ^ 8 = partialDev.fuses.badScanners % 2 ^ 8 ∧
    partialDev.acc.conservator = false ∧ partialDev.pairServes 0 = true ∧
    (partialDev.ports.find? (·.index == 1)).map (fun x => (x.state, x.perstReleased, x.link, decide (16 ≤ popCount x.nearLanes 16))) =
      some (.joined, true, .down, true) ∧ (partialDev.power.west = .on ∨ 1 < 2) ∧
    (partialDev.channels.find? (·.index == 31)).map (·.unit) = some .pending := by decide +kernel

theorem witness_galleryTest :
    let d := { partialDev with acc := { partialDev.acc with enginesTested := true } }
    let g : Gallery := { physical := 7, logical := some 7, state := .pending, failed := 0, niMap := List.range 32, remapped := false, words := [], source := 0, fast := false, power := .on, lastStep := 0 }
    d.galleries.find? (·.physical == 7) = some g ∧ g.logical.isSome = true ∧ g.state = .pending ∧ d.acc.enginesTested = true ∧
    popCount (Nat.lor g.failed 0 % 2 ^ 34) 34 ≤ 2 ∧ Nat.lor g.failed 0 % 2 ^ 34 = g.failed := by decide +kernel

/-- A write of ACC_CTRL: ROLLBACK_COMMIT with VALIDITY_H 24. -/
def wRollback : RegWrite := wr 0x1008 (24 * 2 ^ 32 + 1)

/-- The device whose firmware has a higher rollback number than its fuses. -/
def fwDev : Dev := { dev0 with fw := { dev0.fw with rollback := 3 } }

theorem witness_rollbackCommit : (st fwDev).writes wRollback ∧ wRollback.reg = 0x1008 ∧
    bits (((st fwDev).dev.accessed wRollback.src).after wRollback).toNat 47 32 ≤ 168 ∧ wRollback.sets 0 = true ∧
    wRollback.sets 1 = false ∧ ((st fwDev).dev.accessed wRollback.src).acc.state = .availableFull ∧
    ((st fwDev).dev.accessed wRollback.src).fuses.rollback < ((st fwDev).dev.accessed wRollback.src).fw.rollback := by
  unfold State.writes; decide +kernel

/-- The same with the ENDORSE bit. -/
def wEndorse : RegWrite := wr 0x1008 (24 * 2 ^ 32 + 2)

theorem witness_endorse : (st fwDev).writes wEndorse ∧ wEndorse.reg = 0x1008 ∧
    bits (((st fwDev).dev.accessed wEndorse.src).after wEndorse).toNat 47 32 ≤ 168 ∧ wEndorse.sets 1 = true ∧
    wEndorse.sets 0 = false ∧ ((st fwDev).dev.accessed wEndorse.src).fuses.ownerHash = none := by
  unfold State.writes; decide +kernel

/-- A write of FW_CTRL: GO with LENGTH 4096. -/
def wStage : RegWrite := wr 0x1010 (4096 * 2 ^ 16 + 1)

theorem witness_fwStageRefused :
    let d := { dev0 with fw := { dev0.fw with phase := 1 } }
    (st d).writes wStage ∧ wStage.reg = 0x1010 ∧ wStage.sets 0 = true ∧ ((st d).dev.accessed wStage.src).fw.phase ≠ 0 := by
  unfold State.writes; decide +kernel

theorem witness_fwStage : (st dev0).writes wStage ∧ wStage.reg = 0x1010 ∧ wStage.sets 0 = true ∧ dev0.fw.phase = 0 ∧
    wStage.src = .bar 0 5 ∧
    (let d := (st dev0).dev.accessed wStage.src
     let p := (d.plainWrite wStage).setField 0x1020 63 32 0
     let n := (d.plainWrite wStage).field 0x1010 39 16
     p.field 0x1010 39 16 = n ∧ 0 < n ∧ n ≤ 131190 ∧ (p.reg 0x1018).toNat % 64 = 0) := by
  unfold State.writes; decide +kernel

/-- A member that takes chunks of a staged image, and its first chunk. -/
def fwMember : Dev := { dev0 with fw := { dev0.fw with phase := 1, tag := 9, count := 2, source := false } }
def chunk0 : FwChunk :=
  { sender := 1, tag := 9, index := 0, count := 2, data := [7],
    check := BitVec.ofNat 64 (chunkCheck (chunkHeader 9 0 2 1) [7] 9 0) }

theorem witness_fw : (st fwMember).dev.live = true ∧ chunk0.data.length ≤ 4096 ∧
    chunk0.check.toNat = chunkCheck (chunkHeader chunk0.tag chunk0.index.toNat chunk0.count chunk0.data.length) chunk0.data chunk0.tag chunk0.index.toNat ∧
    fwMember.fw.source = false ∧ fwMember.fw.phase ≠ 0 ∧ fwMember.fw.phase ≠ 3 ∧ fwMember.fw.tag = chunk0.tag ∧
    chunk0.index.toNat < chunk0.count ∧ chunk0.index.toNat < repairRequest ∧ fwMember.fw.phase ≠ 2 := by
  refine ⟨by decide +kernel, by decide, by decide +kernel, by decide, by decide, by decide, by decide, by decide, by decide +kernel, by decide⟩

theorem witness_fwRepairTimer :
    let d := { dev0 with fw := { dev0.fw with phase := 2, source := true } }
    (st d).dev.live = true ∧ d.fw.phase = 2 ∧ d.fw.source = true := by decide +kernel

/-! ### Power, pins and the Docent bus: witnesses -/

/-- A PWR_CTRL write of a request with FIXED at 750 mV, and the device in a collection of one. -/
def wPwr (req : Nat) : RegWrite := wr 0xA000 (BitVec.ofNat 64 (0x2EE * 2 ^ 16 + req))

/-- The power requests come from a host that is not on a CXL port in L0 (R455): over the Docent bus. -/
def wPwrD (req : Nat) : RegWrite := { wPwr req with src := .docent }

/-- A device whose CXL ports are all in L1 (R455). -/
def quietDev : Dev :=
  { dev0 with ports := dev0.ports.map fun p => { p with link := .l1 }
              image := some { img1 with domains := [{ dom1 with onfiMask := 0xFFFF }] } }

theorem witness_powerRequests (req : Nat) (h : req = 1 ∨ req = 3 ∨ req = 4 ∨ req = 5) :
    let w := wPwrD req
    let d := (st quietDev).dev.accessed w.src
    w.reg = 0xA000 ∧ (st quietDev).writes w ∧ pwrCtrlOk (d.after w) (w.fieldOf 3 0) = true ∧
    (d.plainWrite w).refuser (w.fieldOf 3 0) = none ∧ w.fieldOf 3 0 = req := by
  unfold State.writes
  rcases h with rfl | rfl | rfl | rfl <;> decide +kernel

theorem witness_ungateWest :
    let s := st { quietDev with power := { quietDev.power with west := .gated } }
    let w := wPwrD 6
    let d := s.dev.accessed w.src
    w.reg = 0xA000 ∧ s.writes w ∧ pwrCtrlOk (d.after w) (w.fieldOf 3 0) = true ∧ (d.plainWrite w).refuser (w.fieldOf 3 0) = none ∧
    w.fieldOf 3 0 = 6 := by
  unfold State.writes; decide +kernel

theorem witness_wake :
    let s := st { quietDev with power := { quietDev.power with device := .sleep } }
    let w := wPwrD 2
    let d := s.dev.accessed w.src
    s.dev.live = true ∧ s.dev.power.device = .sleep ∧ w.fieldOf 3 0 = 2 ∧ w.src = .docent ∧ d.takes w = true ∧
    pwrCtrlOk (d.after w) 2 = true ∧ (d.plainWrite w).refuser 2 = none := by decide +kernel

theorem witness_powerRefused :
    let w := wPwr 1
    let d := (st dev0).dev.accessed w.src
    w.reg = 0xA000 ∧ (st dev0).writes w ∧ pwrCtrlOk (d.after w) (w.fieldOf 3 0) = true ∧ w.fieldOf 3 0 = 1 ∧
    (d.plainWrite w).refuser 1 = some (5, 0) := by
  unfold State.writes; decide +kernel

/-- A device in a phase of entry, and one asleep. -/
def entering (p : EntryPhase) (req : Nat) : Dev := { dev0 with power := { dev0.power with phase := p, request := req } }
def asleep : Dev := { dev0 with power := { dev0.power with device := .sleep, wakeTime := 500, exiting := true } }

theorem witness_powerPhases :
    (entering .drain 1).live = true ∧ (entering .drain 1).power.phase = .drain ∧ (entering .drain 1).media = [] ∧
    (entering .drain 1).slotsWhere (fun _ x => x.state == .running) = [] ∧ (entering .park 1).power.phase = .park ∧
    (entering .commit 1).power.phase = .commit ∧ (entering .commit 1).power.request = 1 ∧ (entering .commit 3).power.phase = .commit ∧
    (entering .commit 3).power.request ≠ 1 ∧ asleep.live = true ∧ asleep.power.device = .sleep ∧ 0 < asleep.power.wakeTime ∧
    asleep.power.wakeTime ≤ max asleep.now 500 ∧ asleep.power.exiting = true := by decide +kernel

theorem witness_gateWestDone :
    let d := { dev0 with power := { dev0.power with west := .gating } }
    (st d).dev.live = true ∧ d.power.west = .gating := by decide +kernel

theorem witness_ungateDone :
    let d := { dev0 with power := { dev0.power with west := .ungating } }
    d.live = true ∧ d.power.west = .ungating ∧ (∀ p ∈ d.pairs, p.works = true) ∧ (∀ l ∈ [4, 5, 6, 7],
        ({ d with
            power := { d.power with west := .on }
            pairs := d.pairs.map fun (p : Pair) => { p with roles := [p.index] }
            channels := d.channels.map fun (c : OnfiChannel) =>
              if 16 ≤ c.index then { c with mpe := !bit (d.field 0xA040 31 0) c.index } else c } : Dev).linkWorks l = false) := by
  decide +kernel

/-- A device with a draining channel, and with gallery 2 in domain 1 under AUTO_RETAIN. -/
def retainDev : Dev :=
  ({ dev0 with
    channels := modifyAll (·.index == 3) (fun c => { c with draining := true }) dev0.channels
    image := some { img1 with galleries := [{ gallery := 2, early := false, domain := 1 }] } } : Dev).setReg (pageOff 1 0x240) (100 * 2 ^ 16 + 1)

theorem witness_powerCommands : (st quietDev).dev.live = true ∧ (st quietDev).dev.awake = true ∧
    ((st quietDev).dev.ports.any fun p => p.index == 0 && p.perstReleased && p.link == .l1) = true ∧
    (st retainDev).dev.live = true ∧ (retainDev.channels.any fun c => c.index == 3 && c.draining) = true ∧ retainDev.media = [] ∧
    retainDev.galleryDomain 2 = some 1 ∧ retainDev.field (pageOff 1 0x240) 0 0 = 1 ∧ retainDev.stepReady 1 2 = false ∧
    dev0.power.device = .active ∧ dev0.acc.state = .availableFull ∧ dev0.power.throttled = false := by decide +kernel

/-- PWR_UNIT writes: ZK_QUIET of link 0, ONFI_OFF of channel 31, and nothing. -/
def wQuiet : RegWrite := wr 0xA040 (2 ^ 32)
def wOff : RegWrite := wr 0xA040 (2 ^ 31)
def wOn : RegWrite := wr 0xA040 0

theorem witness_linkQuiet : (st dev0).writes wQuiet ∧ wQuiet.reg = 0xA040 ∧
    ((st dev0).dev.accessed wQuiet.src).unitBits wQuiet 39 32 true = true ∧ (st dev0).writes wOff ∧ wOff.reg = 0xA040 ∧
    ((st dev0).dev.accessed wOff.src).unitBits wOff 31 0 true = true := by
  unfold State.writes; decide +kernel

theorem witness_onfiChannelOn :
    let s := st (dev0.setReg 0xA040 (2 ^ 31))
    s.writes wOn ∧ wOn.reg = 0xA040 ∧ (s.dev.accessed wOn.src).unitBits wOn 31 0 false = true := by
  unfold State.writes; decide +kernel

/-- A device with link 0 up as link to member 1. -/
def linkDev : Dev :=
  { dev0 with links := modifyAll (·.index == 0) (fun (l : Link) => { l with
      unit := .joined, nearLanes := 0xFF, farLanes := 0xFF, state := .up, offered := 0xFF, peerLanes := 0xFF, width := 8
      lanes := 0xFF, peerFid := 1, peerMember := true, headerCredits := [8, 8, 8, 8], dataCredits := [64, 64, 64, 64] }) dev0.links }

theorem witness_quietLink : 0 < 8 ∧ linkDev.coll.state = .standalone ∧ (linkDev.link? 0).any (fun x => x.state == .up) = true := by
  decide +kernel

theorem witness_liveIn : (st dev0).dev.live = true ∧ 10000 + (st dev0).dev.pins.liveInEdge ≤ max (st dev0).dev.now 10000 := by
  decide +kernel

/-- A Docent frame: bytes and their CRC-16. -/
def frame (b : List Byte) : List Byte := b ++ natBe (crc16 b) 2

/-- Writes of COMP_STATUS's half at word 2 and 3 of a register block: register 0x2008 (IMG_ADDR), low and high; a read of 0. -/
def frLow : List Byte := frame [0x40, 0x20, 0x08, 0x02, 0, 0, 1, 0]
def frHigh : List Byte := frame [0x40, 0x20, 0x08, 0x03, 0, 0, 0, 5]
def frRead : List Byte := frame [0x40, 0x10, 0x00, 0x00]

theorem witness_docentWrites : (st dev0).dev.live = true ∧ (st dev0).dev.awake = true ∧ dev0.acc.state = .availableFull ∧
    frameOk frLow = true ∧ beField frLow 0 1 = dev0.docent.address ∧ frLow.length = 10 ∧ frameOp frLow = 2 ∧
    docentVisible (frameOffset frLow) = true ∧ frameOffset frLow % 8 = 0 ∧ frameOk frHigh = true ∧
    beField frHigh 0 1 = dev0.docent.address ∧ frHigh.length = 10 ∧ frameOp frHigh = 2 ∧ docentVisible (frameOffset frHigh) = true ∧
    frameOffset frHigh % 8 = 4 ∧ dev0.docent.writeLatch = none ∧ frameOffset frHigh / 8 * 8 = frameOffset frLow := by
  decide +kernel

theorem witness_docentReads : frameOk frRead = true ∧ beField frRead 0 1 = dev0.docent.address ∧ frRead.length = 6 ∧ frameOp frRead = 1 ∧
    docentVisible (frameOffset frRead) = true ∧ dev0.acc.powered = true ∧ frameOk [1, 2, 3, 4] = false ∧
    frameOk (frame [0x41, 0x10, 0, 0]) = true ∧ beField (frame [0x41, 0x10, 0, 0]) 0 1 ≠ dev0.docent.address := by decide +kernel

theorem witness_docentAbandon :
    ({ dev0 with docent := { dev0.docent with responding := true } } : Dev).docent.responding = true := rfl

theorem witness_identity : (st dev0).dev.serves 0 = true ∧ ((st dev0).dev.reached (.onaidReport 0 (List.replicate 32 0)) 0).signs = true ∧
    (st (booting 5)).dev.serves 0 = true ∧ ((st (booting 5)).dev.reached (.onaidReport 0 (List.replicate 32 0)) 0).signs = false := by
  decide +kernel

/-! ### Registers, contexts, submission: witnesses -/

theorem witness_registerWrites : (st dev0).writes (wr 0x7000 (0x7D0 * 2 ^ 32 + 0x200)) ∧ (wr 0x7000 (0x7D0 * 2 ^ 32 + 0x200)).reg = 0x7000 ∧
    (st dev0).writes (wr 0x7018 200) ∧ (st dev0).writes (wr 0x4000 0) ∧ (st dev0).writes (wr 0x5088 (2 ^ 63)) ∧
    (st dev0).writes (wr (pageOff 1 0x140) 0) ∧ (wr (pageOff 1 0x140) 0).reg = pageOff 1 0x140 ∧ (st dev0).writes (wr (pageOff 1 0x100) 0) ∧
    (st dev0).writes { wr 0x1010 0 with src := .docent } ∧ (wr 0x1010 0).sets 0 = false := by
  unfold State.writes; decide +kernel

theorem witness_faultEnable :
    let w := wr (pageOff 1 0x308) 1
    let d := (st dev0).dev.accessed w.src
    (st dev0).writes w ∧ areaAt w.reg = some (.domain 1) ∧ w.reg = areaBase (.domain 1) + 8 ∧ d.field w.reg 0 0 = 0 ∧
    (d.after w).toNat % 2 = 1 := by
  unfold State.writes; decide +kernel

theorem witness_writeBits : ∃ r, descOf 0x4010 = some r ∧ r.rw &&& r.w1c = 0 ∧ r.w1c.testBit 63 = true ∧
    (laneMask 0x4010 8).getLsbD 63 = true ∧ (laneMask 0x4010 4).getLsbD 63 = false ∧ RegDesc.counter.rw.testBit 0 = false ∧
    (RegDesc.mk3 0 (mask 31 0) 0 0).rw.testBit 31 = true := ⟨RegDesc.counter, by decide +kernel⟩

theorem witness_refusedAccess : (st dev0).dev.serves 0 = true ∧ wellAligned 0x2004 8 = false ∧ (st (booting 3)).dev.serves 0 = true ∧
    ((booting 3).toL0 0).acc.state = .booting ∧ wellAligned 0x2000 8 = true ∧ (dev0.toL0 0).acc.state ≠ .booting ∧
    (dev0.toL0 0).reaches0 6 0x2000 = false := by decide +kernel

theorem witness_counterReads : (st dev0).dev.serves 0 = true ∧ (∀ dm, blockOf (0xA018 / 8 * 8) ≠ .page dm) ∧
    blockOf (pageOff 1 0x060) = .page 1 ∧ (dev0.toL0 0).acc.state ≠ .booting ∧ (dev0.toL0 0).reaches0 5 0xA018 = true ∧
    (dev0.toL0 0).reaches0 5 (pageOff 1 0x064 / 8 * 8) = true ∧ pageOff 1 0x064 < 0x40_0000 ∧ pageOff 1 0x064 % 8 = 4 ∧ 0xA018 % 8 = 0 := by
  refine ⟨by decide +kernel, fun dm => by simp [blockOf], by decide +kernel, by decide +kernel, by decide +kernel, by decide +kernel,
    by decide, by decide, by decide⟩

theorem witness_counterSaturates : (5 : W64).toNat % 2 ^ 63 + 1 < 2 ^ 63 - 1 ∧ (5 : W64).toNat < 2 ^ 63 ∧
    2 ^ 63 - 1 ≤ (BitVec.ofNat 64 (2 ^ 63 - 2)).toNat % 2 ^ 63 + 1 ∧ 2 ^ 63 ≤ (BitVec.ofNat 64 (2 ^ 63)).toNat := by decide

/-- CTX_OP writes: OPEN, CLOSE and REHOME of context 3. -/
def wCtx (op : Nat) : RegWrite := wr (pageOff 1 0x48) (BitVec.ofNat 64 (3 * 2 ^ 16 + op))

/-- An idle context of domain 1. -/
def ctx0 : Context := ctxOf [Slot.fresh, Slot.fresh] none

theorem witness_ctxOpen :
    let s := st dev0
    let d := s.dev.accessed (wCtx 1).src
    s.writes (wCtx 1) ∧ (1 : Nat) < 256 ∧ (wCtx 1).reg = pageOff 1 0x48 ∧ (wCtx 1).offset % 8 = 0 ∧ (wCtx 1).fieldOf 3 0 = 1 ∧
    d.domainRec 1 = some dom1 ∧ (d.ctxs.filter (·.domain == 1)).length < dom1.ctxCeiling ∧ 1 ≤ d.ctxArg 1 16 10 ∧ d.ctxArg 1 16 10 ≤ 64 ∧
    d.portUp (d.ctxArg 1 19 18) = true := by
  unfold State.writes; decide +kernel

theorem witness_ctxClose :
    let s := st (devOf ctx0)
    let d := s.dev.accessed (wCtx 2).src
    s.writes (wCtx 2) ∧ (wCtx 2).reg = pageOff 1 0x48 ∧ (wCtx 2).fieldOf 3 0 = 2 ∧ (wCtx 2).fieldOf 31 16 = 3 ∧ d.ctx? 3 = some ctx0 ∧
    ctx0.domain = 1 ∧ (∀ x ∈ ctx0.slots, x.state = .free ∨ x.state = .done) ∧ s.writes (wCtx 3) ∧ (wCtx 3).fieldOf 3 0 = 3 ∧
    (wCtx 3).fieldOf 31 16 = 3 ∧ d.portUp (d.ctxArg 1 19 18) = true := by
  unfold State.writes; decide +kernel

theorem witness_ctxRefused :
    let full := st { dev0 with ctxs := (List.range 4).map fun i => { ctx0 with num := i } }
    let big := st (dev0.setReg (pageOff 1 0x40) (65 * 2 ^ 10))
    let down := st (dev0.setReg (pageOff 1 0x40) (2 ^ 18 + 4 * 2 ^ 10))
    let held := sOf (line 0x0101 [])
    full.writes (wCtx 1) ∧ dom1.ctxCeiling ≤ ((full.dev.accessed (wCtx 1).src).ctxs.filter (·.domain == 1)).length ∧
    big.writes (wCtx 1) ∧ 64 < (big.dev.accessed (wCtx 1).src).ctxArg 1 16 10 ∧
    down.writes (wCtx 1) ∧ (down.dev.accessed (wCtx 1).src).ctxArg 1 16 10 = 4 ∧ (down.dev.accessed (wCtx 1).src).portUp 1 = false ∧
    (down.dev.accessed (wCtx 1).src).ctxArg 1 19 18 = 1 ∧ (st dev0).writes (wCtx 2) ∧ ((st dev0).dev.accessed (wCtx 2).src).ctx? 3 = none ∧
    held.writes (wCtx 2) ∧ (∃ y ∈ (cOf (line 0x0101 [])).slots, y.state = .waiting ∨ y.state = .running) := by
  unfold State.writes; decide +kernel

theorem witness_cmdReset : (st dev0).writes (wr 0x3000 1) ∧ (wr 0x3000 1).reg = 0x3000 ∧ (wr 0x3000 1).sets 0 = true ∧
    (let d := ({ dev0 with resetActive := true } : Dev).setField 0x3008 1 1 1
     d.live = true ∧ d.resetActive = true ∧ d.load.phase = .idle ∧
     (d.slotsWhere fun y z => !y.isGuest && z.state == .running && z.cmd.any fun k => cmdVerb k != some .abort) = []) := by
  unfold State.writes; decide +kernel

/-- An ABORT of the domain's commands, begun and not, and a context whose slot 1 runs a FILL. -/
def lAbort : List Byte := line 0x0F05 [(16, 1, 3)]
def kAbort : Cmd := { kOf lAbort with started := true, waits := [] }
def cAbort : Context := ctxOf [runSlot kAbort] none
def lFill : List Byte := line 0x0101 [(16, 8, 0x100000), (24, 8, 0x100), (32, 1, 0x5A), (40, 1, 1)]
def kFill : Cmd := { kOf lFill with started := true, plan := [Step.nop], issued := 1, order := 3 }
def cAbort2 : Context := ctxOf [runSlot (kOf lAbort), runSlot kFill] none

theorem witness_abort :
    let d := devOf cAbort
    d.live = true ∧ d.ctx? r0.ctx = some cAbort ∧ d.slot? r0 = some (runSlot kAbort) ∧ (runSlot kAbort).cmd = some kAbort ∧
    (runSlot kAbort).state = .running ∧ cmdVerb kAbort = some .abort ∧ kAbort.started = true ∧ (∀ v ∈ kAbort.waits, d.cmd? v = none) ∧
    d.innerAbort cAbort kAbort = false := by decide +kernel

theorem witness_abortBegins :
    let d0 := devOf cAbort2
    let k := kOf lAbort
    let rs := d0.abortScope fun y i => abortCovers cAbort2 k y i
    let d := (d0.modCmd r0 fun k => { k with started := true, waits := rs }).abortAll rs
    d0.live = true ∧ d0.slot? r0 = some (runSlot k) ∧ cmdVerb k = some .abort ∧ k.started = false ∧ fieldAt k.line 16 1 = 3 ∧
    rs = [{ ctx := 3, slot := 1 }] ∧ (d.cmd? r0).map (·.waits) = some rs ∧ (d.cmd? { ctx := 3, slot := 1 }).isSome = true := by
  decide +kernel

/-- A line as host 5 writes it to slot 1 of context 3, sequence number 2. -/
def lNew : List Byte := line 0x0F01 [(4, 4, 2)]
def lineWrite (slot : Nat) : LineWrite :=
  { port := 0, host := 5, offset := 0x3000 + 0x40 * slot, enables := BitVec.allOnes 64, data := lNew }

theorem witness_submission :
    let s := st (devOf ctx0)
    let w := lineWrite 1
    let d := s.dev.reached (.submissionLine w) w.port
    s.dev.serves w.port = true ∧ d.admits = true ∧ w.offset < 0x1000_0000 ∧ d.knows w.host = true ∧ d.ctx? (w.offset / 0x1000) = some ctx0 ∧ d.portFull w.port ctx0.domain = false ∧
    bit (d.rightsOf w.host ctx0.domain) 0 = true ∧ w.enables = BitVec.allOnes 64 ∧ w.offset % 0x1000 / 0x40 < ctx0.usable ∧
    ctx0.slots[w.offset % 0x1000 / 0x40]? = some Slot.fresh ∧ Slot.fresh.state = .free ∧ complOk (lineCompl w.data) = true ∧
    ctx0.classify (lineSeq w.data) = .fresh := by decide +kernel

theorem witness_slotAboveSlots :
    let s := st (devOf ctx0)
    let w := lineWrite 63
    let d := s.dev.reached (.submissionLine w) w.port
    s.dev.serves w.port = true ∧ d.admits = true ∧ d.ctx? (w.offset / 0x1000) = some ctx0 ∧ ctx0.usable ≤ w.offset % 0x1000 / 0x40 ∧
    bit (d.rightsOf w.host ctx0.domain) 0 = true ∧ complOk (lineCompl w.data) = true ∧ d.portUp ctx0.homePort = true ∧
    complOk (lineCompl (List.replicate 64 0)) = false := by decide +kernel

theorem witness_xlateMissServed :
    let x : Slot := { runSlot (kOf lFill) with state := .waiting, reason := .miss }
    let d := devOf (ctxOf [x] none)
    d.live = true ∧ d.slot? r0 = some x ∧ x.state = .waiting ∧ x.reason = .miss ∧ 0 < d.workingPairs ∧
    (x.cmd.any fun k => westPort k.port) = false ∧ nextAfter d.missTurn.1 (d.missDomains false) = some (d.domainOf r0) := by decide +kernel

theorem witness_newer : (0 : Nat) < 32 ∧ (1 : W32) ≠ 0 ∧ newer (0x80000000 : W32) 0 = false ∧ newer (0 : W32) 0x80000000 = false ∧
    (0x80000000 : W32) ≠ 0 := by decide

theorem witness_acceptedOnce :
    (ctx0.classify 2 = .fresh) ∧ (ctx0.accept 2).acceptAll [3] = some ((ctx0.accept 2).accept 3) ∧ (ctx0.accept 2).advance [3] < 2 ^ 31 - 127 := by
  decide +kernel

/-- A command with one issued step that writes a byte. -/
def step1 : Step := { Step.nop with writes := [{ sa := 0x10000000000, bytes := [9] }], w0 := 1 }
def kStep : Cmd := { kOf lFill with started := true, plan := [step1], issued := 1 }
def cStep : Context := ctxOf [runSlot kStep] none

theorem witness_stepRetire :
    let d := devOf cStep
    d.live = true ∧ d.ctx? r0.ctx = some cStep ∧ d.cmd? r0 = some kStep ∧ kStep.plan[0]? = some step1 ∧ kStep.mayRetire 0 step1 = true ∧
    d.badEntries kStep step1 = [] ∧ (d.found r0 kStep step1).needs = [] ∧ (d.found r0 kStep step1).reads = [] ∧ (d.found r0 kStep step1).writes = [] ∧
    d.repairsIn step1.written = [] ∧ step1.cold = [] ∧ d.coldGranules { step1 with reads := [] } = [] ∧ d.needFault 1 [] = none ∧
    d.offerHold r0 kStep step1 = none ∧ d.streamHold r0 kStep step1 = none ∧ rankHold d kStep step1 = none ∧ d.missing kStep [] = [] ∧
    step1.exportRead? = none ∧ d.badWords step1 = false ∧ d.rowHold r0 kStep step1 = none ∧ d.vitConflicts [] step1.written = [] ∧
    d.listHeld r0 kStep step1 = false ∧ d.releaseHeld step1 = false ∧ d.hasRoom cStep kStep step1 = true ∧ step1.flash = [] ∧ kStep.search = none ∧
    (d.atomicTurn 1 step1).isSome = true ∧ (d.fabTouch kStep []).atomicTurn 1 step1 = some d ∧ 0 < kStep.issued ∧ step1.kind.shared = true ∧
    step1.parked = false := by decide +kernel

theorem witness_stepWrites :
    let d := devOf cStep
    d.coded = false ∧ (∀ w ∈ step1.writes, d.isLocal w.sa = true) ∧ (∀ w ∈ step1.writes, 0x10000000001 < w.sa ∨ w.sa + w.bytes.length ≤ 0x10000000001) := by
  decide +kernel

theorem witness_begun :
    let d := devOf (cOf lFill)
    let e := devOf (ctxOf [runSlot { kStep with issued := 0 }] none)
    d.cmd? r0 = some (kOf lFill) ∧ (kOf lFill).cut = none ∧ (kOf lFill).lost = none ∧ [step1] ≠ [] ∧ e.nextIssue.isSome = true ∧
    engineGallery .pe (some 33) = some 1 ∧ engineGallery .gallery (some 2) = some 2 := by
  decide +kernel

/-! ### Memory, ordering, mapping: witnesses -/

/-- That a line's command runs and has not begun, in the state built for it. -/
theorem witness_fill : (sOf lFill).runs r0 .fill (cOf lFill) (kOf lFill) ∧ (kOf lFill).line.length = 64 ∧
    0 < fieldAt (kOf lFill).line 40 1 ∧ fieldAt (kOf lFill).line 40 1 ≤ 8 ∧
    ((kOf lFill).spans 1 0x100000 0x100) = [{ sa := 0x10000000000, len := 0x100 }] := by
  unfold State.runs; decide +kernel

/-- COPY of 256 bytes to a range apart, and of 256 bytes by one extent to an alias of the same store. -/
def lCopy : List Byte := line 0x0102 [(16, 8, 0x100000), (24, 8, 0x110000), (32, 8, 0x100)]
def alias1 : Extent := { ext1 with cva := 0x300000 }
def lCopyAlias : List Byte := line 0x0102 [(16, 8, 0x100000), (24, 8, 0x300080), (32, 8, 0x100)]
def kAlias : Cmd := cmdOf lCopyAlias [] [ext1, alias1]

theorem witness_copy :
    let k := kOf lCopy
    let src := k.spans 1 (fieldAt k.line 16 8) (fieldAt k.line 32 8)
    let dst := k.spans 1 (fieldAt k.line 24 8) (fieldAt k.line 32 8)
    (sOf lCopy).runs r0 .copy (cOf lCopy) k ∧ (∀ a ∈ src, ∀ b ∈ dst, overlap a.sa a.len b.sa b.len = false) ∧ src ≠ [] := by
  unfold State.runs; decide +kernel

theorem witness_copyOverlaps :
    let k := kAlias
    let c := ctxOf [runSlot k] none
    (st { devOf c with extents := [ext1, alias1] }).runs r0 .copy c k ∧
    (∃ a ∈ k.spans 1 (fieldAt k.line 16 8) 0x100, ∃ b ∈ k.spans 1 (fieldAt k.line 24 8) 0x100, overlap a.sa a.len b.sa b.len = true) := by
  unfold State.runs; decide +kernel

/-- REDUCE of two FP32 vectors of 8 elements, with and without SCALAR. -/
def lReduce (scalar : Nat) : List Byte :=
  line 0x0104 [(2, 1, 16 * scalar), (16, 8, 0x100000), (24, 8, if scalar = 1 then 0 else 0x110000), (32, 4, 8), (36, 4, 2), (40, 8, 32), (48, 1, 1), (49, 1, 1), (50, 1, 1)]

theorem witness_reduce (x : Nat) (h : x = 0 ∨ x = 1) :
    let k := kOf (lReduce x)
    (sOf (lReduce x)).runs r0 .reduce (cOf (lReduce x)) k ∧ lineFlags k.line = x ∧ (sOf (lReduce x)).dev.cmd? r0 = some k := by
  unfold State.runs
  rcases h with rfl | rfl <;> decide +kernel

def lAtomic : List Byte := line 0x0201 [(16, 8, 0x100008), (24, 8, 3), (40, 1, 1), (41, 1, 8)]
def lBatch : List Byte := line 0x0202 [(16, 8, 0x100000), (24, 4, 257)]

theorem witness_atomic : (sOf lAtomic).runs r0 .atomic (cOf lAtomic) (kOf lAtomic) ∧
    saOf (kOf lAtomic).caps 1 (fieldAt (kOf lAtomic).line 16 8) = some 0x10000000008 := by
  unfold State.runs; decide +kernel

theorem witness_atomicBatch : (sOf lBatch).runs r0 .atomicBatch (cOf lBatch) (kOf lBatch) ∧ (0, 256) ∈ pieces (fieldAt lBatch 24 4) 256 := by
  unfold State.runs; decide +kernel

/-- COMPARE of 4 bytes; byte 2 differs where the store holds a 9 there. -/
def lCompare : List Byte := line 0x0103 [(16, 8, 0x100000), (24, 8, 0x100010), (32, 8, 4)]
def lCompareFirst : List Byte := line 0x0103 [(2, 1, 16), (16, 8, 0x100000), (24, 8, 0x100010), (32, 8, 4)]
def sCompare : State := st { devOf (cOf lCompare) with mem := [(0x10000000002, 9)] }

theorem witness_compare :
    sCompare.runs r0 .compare (cOf lCompare) (kOf lCompare) ∧ sCompare.dev.cmd? r0 = some (kOf lCompare) ∧ sCompare.dev.poison = [] ∧
    (kOf lCompare).spoiled = [] ∧ .poisoned ∉ (kOf lCompare).raised ∧ lineFlags lCompare ≠ 1 ∧ lineFlags lCompareFirst = 1 ∧
    (kOf lCompareFirst).w1 = 0 := by
  unfold State.runs; decide +kernel

theorem witness_store : Memory.wf dev0.mem = true ∧ (5 : Nat) ∈ ({ dev0 with poison := [5] } : Dev).poison ∧
    ({ dev0 with poison := [5] } : Dev).inVitrine (5 * 32) = false ∧ (0 : Nat) < 1 := by decide +kernel

theorem witness_atomics : (8 : Nat) = 4 ∨ (8 : Nat) = 8 := Or.inr rfl

theorem witness_atomics_poison :
    ({ dev0 with poison := [0] } : Dev).poisonedIn { sa := 0, len := 8 } = true ∧ dev0.poisonedIn { sa := 0, len := 8 } = false := by
  decide +kernel

/-- The ordering verbs. -/
def lFence : List Byte := line 0x0F01 []
def lFenceFull : List Byte := line 0x0F02 []
def lRelease : List Byte := line 0x0F03 [(16, 8, 0x100000), (24, 8, 1), (32, 1, 1)]
def lAcquire (want : Nat) : List Byte := line 0x0F04 [(16, 8, 0x100000), (24, 8, want), (32, 1, 1), (33, 1, 2)]

/-- The context of a line after an earlier command that failed. -/
def cFailed (l : List Byte) : Context := { cOf l with fails := [2] }

theorem witness_fence : (sOf lFence).runs r0 .fence (cOf lFence) (kOf lFence) ∧ (∀ x ∈ covered (cOf lFence) (kOf lFence), stepsDone x = true) ∧
    (∀ o ∈ (cOf lFence).fails, (kOf lFence).order ≤ o) ∧ (∀ x ∈ covered (cOf lFence) (kOf lFence), hasFailed x = false) ∧
    (st (devOf (cFailed lFence))).runs r0 .fence (cFailed lFence) (kOf lFence) ∧ (∃ o ∈ (cFailed lFence).fails, o < (kOf lFence).order) := by
  unfold State.runs; decide +kernel

theorem witness_fenceFull : (sOf lFenceFull).runs r0 .fenceFull (cOf lFenceFull) (kOf lFenceFull) ∧ covered (cOf lFenceFull) (kOf lFenceFull) = [] ∧
    (st (devOf (cFailed lFenceFull))).runs r0 .fenceFull (cFailed lFenceFull) (kOf lFenceFull) ∧
    covered (cFailed lFenceFull) (kOf lFenceFull) = [] ∧ (∃ o ∈ (cFailed lFenceFull).fails, o < (kOf lFenceFull).order) := by
  unfold State.runs; decide +kernel

theorem witness_release : (sOf lRelease).runs r0 .release (cOf lRelease) (kOf lRelease) ∧ covered (cOf lRelease) (kOf lRelease) = [] ∧
    epochFailed (cOf lRelease) (kOf lRelease) = false ∧ saOf (kOf lRelease).caps 1 (fieldAt (kOf lRelease).line 16 8) = some 0x10000000000 ∧
    (st (devOf (cFailed lRelease))).runs r0 .release (cFailed lRelease) (kOf lRelease) ∧ epochFailed (cFailed lRelease) (kOf lRelease) = true := by
  unfold State.runs; decide +kernel

theorem witness_acquire (want : Nat) (h : want = 0 ∨ want = 5) :
    let k := kOf (lAcquire want)
    let d := (sOf (lAcquire want)).dev
    let flag : Span := { sa := 0x10000000000, len := 8 }
    (sOf (lAcquire want)).runs r0 .acquire (cOf (lAcquire want)) k ∧ d.current k = true ∧ fieldAt k.line 32 1 ≠ 0 ∧
    saOf k.caps 1 (fieldAt k.line 16 8) = some flag.sa ∧ d.isLocal flag.sa = true ∧ d.underRepair flag = false ∧ d.vitConflicts [flag] [] = [] ∧
    d.badSpan k flag = false ∧ d.missing k [flag] = [] ∧
    acquireHolds (fieldAt k.line 32 1) (leNat (d.loadSpan k flag)) (fieldAt k.line 24 8) = decide (want = 0) ∧ fieldAt k.line 36 4 = 0 := by
  unfold State.runs
  rcases h with rfl | rfl <;> decide +kernel

theorem witness_acquireWaitLimit :
    let l := line 0x0F04 [(16, 8, 0x100000), (24, 8, 5), (32, 1, 1), (33, 1, 2), (36, 4, 2)]
    let d := (sOf l).dev
    let free := line 0x0F04 []
    d.live = true ∧ (d.atTime 2000).ready r0 .acquire = some (cOf l, kOf l) ∧ fieldAt l 36 4 ≠ 0 ∧
    (kOf l).t0 + fieldAt l 36 4 * 1000 ≤ max d.now 2000 ∧
    (sOf free).runs r0 .acquire (cOf free) (kOf free) ∧ (sOf free).dev.current (kOf free) = true ∧ fieldAt free 32 1 = 0 := by
  unfold State.runs; decide +kernel

/-- The MAP, UNMAP and LOAN_RENEW lines of domain 1. -/
def lMap (op : Nat) (fs : List (Nat × Nat × Nat)) : List Byte := line 0x0F06 ((16, 1, op) :: fs)
def lAllocate : List Byte := lMap 1 [(17, 1, 1), (20, 4, 0x10001), (24, 8, 0x400000), (32, 8, 0x10000)]
def lAllocateOver : List Byte := lMap 1 [(17, 1, 1), (20, 4, 0x10001), (24, 8, 0x100000), (32, 8, 0x10000)]
def lAllocateGone : List Byte := lMap 1 [(17, 1, 1), (20, 4, 0x20001), (24, 8, 0x400000), (32, 8, 0x10000)]
def lAlias : List Byte := lMap 2 [(17, 1, 2), (20, 4, 0x10001), (24, 8, 0x400000), (32, 8, 0x10000), (40, 8, 0x100000)]
def lSealMap : List Byte := lMap 3 [(24, 8, 0x100000), (32, 8, 0x100000)]
def lExpose : List Byte := lMap 4 [(24, 8, 0x200000), (32, 8, 0x200000), (48, 2, 5)]
def lVitrine : List Byte := lMap 5 [(19, 1, 1), (20, 4, 0x10001), (24, 8, 0x400000), (32, 8, 0x200000)]
def lUnmap (mode : Nat) : List Byte := line 0x0F07 [(16, 1, mode), (20, 2, if mode = 2 then 5 else 0), (24, 8, 0x100000), (32, 8, 0x100000)]

theorem witness_mapAllocate :
    let k := kOf lAllocate
    let s := sOf lAllocate
    s.runs r0 .map (cOf lAllocate) k ∧ fieldAt k.line 16 1 = 1 ∧ (s.dev.extents.any fun x => x.touches 1 (fieldAt k.line 24 8) (fieldAt k.line 32 8)) = false ∧
    s.dev.loan? 1 (fieldAt k.line 20 4) = some loan1 ∧ s.dev.mayUse k.host loan1 = true ∧ s.dev.dramRoom 1 (fieldAt k.line 32 8) = true ∧
    s.dev.treeRoom 1 1 = true := by
  unfold State.runs; decide +kernel

/-- The store has room for the new extent, wherever the free placement lies. -/
theorem witness_mapPlaced : ∃ x, ((sOf lAllocate).dev.placeIn ((sOf lAllocate).dev.placementOf 1) 0x10000).1 = some x := by
  unfold Dev.placeIn
  have hr : (sOf lAllocate).dev.wingRoom ((sOf lAllocate).dev.placementOf 1) 0x10000 = true := by decide +kernel
  simp only [hr, Bool.not_true, if_false, Bool.false_eq_true]
  split
  · exact ⟨_, rfl⟩
  · exact Option.isSome_iff_exists.mp (by decide +kernel)

theorem witness_mapRefused :
    let s := sOf lAllocateOver
    let g := sOf lAllocateGone
    let h := st { devOf (cOf lAllocate) with loans := [{ loan1 with holder := 6 }], image := some { img1 with grants := [{ host := 5, domain := 1, rights := 1 }] } }
    let f := st { devOf (cOf lAllocate) with image := some { img1 with domains := [{ dom1 with dramQuota := 0 }] } }
    s.runs r0 .map (cOf lAllocateOver) (kOf lAllocateOver) ∧ fieldAt (kOf lAllocateOver).line 16 1 = 1 ∧
    (s.dev.extents.any fun x => x.touches 1 0x100000 0x10000) = true ∧
    g.runs r0 .map (cOf lAllocateGone) (kOf lAllocateGone) ∧ g.dev.loan? 1 0x20001 = none ∧
    h.runs r0 .map (cOf lAllocate) (kOf lAllocate) ∧ h.dev.loan? 1 0x10001 = some { loan1 with holder := 6 } ∧
    h.dev.mayUse (kOf lAllocate).host { loan1 with holder := 6 } = false ∧
    f.runs r0 .map (cOf lAllocate) (kOf lAllocate) ∧ f.dev.dramRoom 1 0x10000 = false := by
  unfold State.runs; decide +kernel

theorem witness_mapAlias :
    let k := kOf lAlias
    let d := (sOf lAlias).dev
    ((sOf lAlias).runs r0 .map (cOf lAlias) k ∧ fieldAt k.line 16 1 = 2 ∧ fieldAt k.line 17 1 = 2 ∧
    (d.extents.any fun x => x.touches 1 0x400000 0x10000) = false ∧
    (∀ x ∈ [ext1] ++ d.touching 1 (fieldAt k.line 40 8) (fieldAt k.line 32 8), x.rights = .writable ∨ x.rights = .readOnly) ∧ fieldAt k.line 20 4 ≠ 0 ∧ d.loan? 1 (fieldAt k.line 20 4) = some loan1 ∧
    d.treeRoom 1 1 = true ∧ (∀ x ∈ [ext1], (d.extents.filter fun y => overlap y.sa y.len x.sa x.len).length < 65535)) ∧
    cover d.extents 1 (fieldAt k.line 40 8) (fieldAt k.line 32 8) = .ok [ext1] := by
  unfold State.runs; exact ⟨by decide +kernel, by rfl⟩

theorem witness_mapAliasSeals :
    let l := lMap 2 [(17, 1, 3), (20, 4, 0x10001), (24, 8, 0x400000), (32, 8, 0x10000), (40, 8, 0x100000)]
    let k := kOf l
    let d := (sOf l).dev
    ((sOf l).runs r0 .map (cOf l) k ∧ fieldAt l 16 1 = 2 ∧ fieldAt l 17 1 = 3 ∧ (d.extents.any fun x => x.touches 1 0x400000 0x10000) = false ∧
    (∀ x ∈ [ext1] ++ d.touching 1 (fieldAt l 40 8) (fieldAt l 32 8), x.rights ≠ .vitrine) ∧ (∃ x ∈ [ext1], x.rights ≠ .sealed) ∧
    fieldAt l 20 4 ≠ 0 ∧ d.loan? 1 (fieldAt l 20 4) = some loan1 ∧ d.mayUse k.host loan1 = true ∧ d.treeRoom 1 1 = true ∧
    (∀ x ∈ [ext1], (d.extents.filter fun y => overlap y.sa y.len x.sa x.len).length < 65535)) ∧
    cover d.extents 1 (fieldAt l 40 8) (fieldAt l 32 8) = .ok [ext1] := by
  unfold State.runs; exact ⟨by decide +kernel, by rfl⟩

theorem witness_mapSeal :
    let k := kOf lSealMap
    ((sOf lSealMap).runs r0 .map (cOf lSealMap) k ∧ fieldAt k.line 16 1 = 3 ∧
    (∀ x ∈ [ext1] ++ (sOf lSealMap).dev.touching 1 (fieldAt k.line 24 8) (fieldAt k.line 32 8), fieldAt k.line 24 8 ≤ x.cva ∧ x.cva + x.len ≤ fieldAt k.line 24 8 + fieldAt k.line 32 8 ∧ x.rights ≠ .vitrine)) ∧
    cover (sOf lSealMap).dev.extents 1 (fieldAt k.line 24 8) (fieldAt k.line 32 8) = .ok [ext1] := by
  unfold State.runs; exact ⟨by decide +kernel, by rfl⟩

/-- An extent of 2 MiB for windows. -/
def ext2 : Extent := { ext1 with cva := 0x200000, len := 0x200000, sa := 0x10000200000 }

theorem witness_mapExpose :
    let k := kOf lExpose
    let d := { devOf (cOf lExpose) with extents := [ext1, ext2] }
    ((st d).runs r0 .map (cOf lExpose) k ∧ fieldAt k.line 16 1 = 4 ∧
    (∀ x ∈ [ext2] ++ d.touching 1 (fieldAt k.line 24 8) (fieldAt k.line 32 8), x.rights ≠ .vitrine) ∧ fieldAt k.line 19 1 < 6 ∧ fieldAt k.line 40 8 + fieldAt k.line 32 8 ≤ 2 ^ 50 ∧
    bit (d.rightsOf (fieldAt k.line 48 2) 1) 1 = true ∧ d.windows = []) ∧
    cover d.extents 1 (fieldAt k.line 24 8) (fieldAt k.line 32 8) = .ok [ext2] := by
  unfold State.runs; exact ⟨by decide +kernel, by rfl⟩

/-- A vitrine region of domain 1. -/
def vit1 : VitrineRec := { region := 1, domain := 1, loan := false, base := 0x20000000000, len := 0x400000 }

theorem witness_mapVitrine :
    let k := kOf lVitrine
    let d := { devOf (cOf lVitrine) with image := some { img1 with vitrine := [vit1] } }
    (st d).runs r0 .map (cOf lVitrine) k ∧ fieldAt k.line 16 1 = 5 ∧
    (d.image.bind fun i => i.vitrine.find? fun y => y.region == fieldAt k.line 19 1 && y.domain == 1) = some vit1 ∧
    fieldAt k.line 40 8 + fieldAt k.line 32 8 ≤ vit1.len ∧ (d.extents.any fun x => x.touches 1 (fieldAt k.line 24 8) (fieldAt k.line 32 8)) = false ∧
    d.loan? 1 (fieldAt k.line 20 4) = some loan1 ∧ d.mayUse k.host loan1 = true ∧ d.treeRoom 1 1 = true := by
  unfold State.runs; decide +kernel

theorem witness_unmap (mode : Nat) (h : mode = 1 ∨ mode = 2) :
    let k := kOf (lUnmap mode)
    (sOf (lUnmap mode)).runs r0 .unmap (cOf (lUnmap mode)) k ∧ fieldAt k.line 16 1 = mode ∧
    ((sOf (lUnmap mode)).dev.extents.any fun x => x.touches 1 (fieldAt k.line 24 8) (fieldAt k.line 32 8)) = true := by
  unfold State.runs
  rcases h with rfl | rfl <;> decide +kernel

def lLoan (op : Nat) : List Byte := line 0x0F08 [(16, 1, op), (20, 4, if op = 1 then 0 else 0x10001), (32, 2, if op = 4 then 5 else 0)]

theorem witness_loans (op : Nat) (h : op = 1 ∨ op = 2 ∨ op = 3 ∨ op = 4) :
    let k := kOf (lLoan op)
    let d := (sOf (lLoan op)).dev
    (sOf (lLoan op)).runs r0 .loanRenew (cOf (lLoan op)) k ∧ fieldAt k.line 16 1 = op ∧ (d.loans.filter (!·.gone)).length < 16384 ∧
    (op = 1 ∨ d.loan? 1 (fieldAt k.line 20 4) = some loan1) ∧ d.mayUse k.host loan1 = true ∧ bit (d.rightsOf 5 1) 0 = true := by
  unfold State.runs
  rcases h with rfl | rfl | rfl | rfl <;> decide +kernel

theorem witness_loanExpiry : (st dev0).dev.live = true ∧ 0 < (st dev0).dev.workingPairs := by decide +kernel

theorem witness_wideInterleave : (4 : Nat) % 4 = 0 ∧ 4 + 4 ≤ 16 ∧ (4096 : Nat) < 2 ^ 51 ∧ (8192 : Nat) < 2 ^ 51 ∧
    homeOf 4 (4 * 2 ^ 52 + 2 ^ 51 + 4096) = (5, 0) := by decide +kernel

/-! ### The context store, tables, indexes, streams, bulk and checks: witnesses -/

/-- A session of one layer and one head of dimension 64 with 70 positions: one block and six intake rows. -/
def sess : Session :=
  { state := .active, layerCount := 1, heads := 1, dim := 64, group := 1, hotFormat := 4, limit := 4096,
    layers := [{ n := 70, blocks := [0] }], lostLen := 0, owner := 0, epoch := 1, claimed := true, target := 0, offered := 0,
    stateSa := 0x10000600000, logSa := 0x10000700000, moved := none, rebuilding := false }

/-- Its block. -/
def block0 : Block :=
  { id := 0, domain := 1, layer := 0, first := 0, heads := 1, dim := 64, sealed := false, format := 4, refs := 1, pinned := false,
    recomputed := false, frameSa := 0x10000400000, summarySa := 0x10000500000, freeing := false }

/-- The context and the state in which a line runs on that session. -/
def cSess (l : List Byte) : Context := ctxOf [runSlot (kOf l)] (some sess)
def sSess (l : List Byte) : State := st { devOf (cSess l) with blocks := [block0], nextBlock := 1 }

def mineIn (s : State) (x : Session) (c : Context) : Prop :=
  c.session = some x ∧ x.state = .active ∧ x.rebuilding = false ∧ x.claimed = true ∧ s.dev.owns x = true

def lAppend : List Byte := line 0x0301 [(18, 1, 2), (20, 4, 70), (24, 4, 2), (32, 8, 0x100000), (40, 8, 0x110000), (48, 8, 0x120000)]
def lSeal : List Byte := line 0x0302 [(16, 4, 64)]
def lFork : List Byte := line 0x0303 [(16, 2, 4), (20, 4, 64)]
def lDrop (mode : Nat) : List Byte := line 0x0304 [(16, 1, mode), (20, 4, if mode = 2 then 64 else 0)]
def lMigrate (kind : Nat) : List Byte := line 0x0305 [(16, 1, kind), (17, 1, if kind = 1 then 1 else 0)]
def lFetch : List Byte := line 0x0307 [(18, 1, 1), (24, 4, 1), (32, 8, 0x100000), (40, 8, 0x10000)]
def lSelect : List Byte := line 0x0306 [(2, 1, 16 * 2), (18, 1, 1), (19, 1, 1), (20, 4, 60), (48, 8, 0x100000), (56, 8, 0x110000)]

theorem witness_append :
    let k := kOf lAppend
    (sSess lAppend).runs r0 .append (cSess lAppend) k ∧ mineIn (sSess lAppend) sess (cSess lAppend) ∧ lineFlags k.line ≠ 1 ∧ sess.stateSa ≠ 0 ∧
    fieldAt (cmdOps k) 0 2 < sess.layerCount ∧ fieldAt (cmdOps k) 4 4 = (sess.layer 0).n ∧
    fieldAt (cmdOps k) 4 4 + fieldAt (cmdOps k) 8 4 ≤ sess.limit := by
  unfold State.runs mineIn; decide +kernel

/-- APPEND with INIT of a session of one layer, one head of dimension 64 and 64 positions. -/
def initDesc : List Byte :=
  bytesOf 128 [(2, 1, 2), (8, 4, 1), (16, 8, 0x100000), (24, 8, 0x104000), (32, 8, 0x106000), (48, 2, 1), (50, 2, 1), (52, 2, 64), (54, 1, 1), (55, 1, 4), (56, 4, 64), (64, 8, 0x108000)]
def lInit : List Byte := line 0x0301 [(2, 1, 17), (16, 8, 0x120000), (24, 4, 128)]
def kInit : Cmd := cmdOf lInit initDesc [ext1]
def geom1 : Geom := { layers := 1, heads := 1, dim := 64, group := 1 }

theorem witness_appendInit :
    let c := ctxOf [runSlot kInit] (some sess)
    let c' := ctxOf [runSlot kInit] none
    (st (devOf c)).runs r0 .append c kInit ∧ lineFlags lInit = 1 ∧ initGeom initDesc = some geom1 ∧ c.session = some sess ∧
    (st (devOf c')).runs r0 .append c' kInit ∧ c'.session = none ∧ fieldAt (cmdOps kInit) 4 4 = 0 ∧
    fieldAt (cmdOps kInit) 8 4 ≤ (initSession (cmdOps kInit) geom1 0).limit := by
  unfold State.runs; decide +kernel

theorem mem_insertOrd {α : Type} (lt : α → α → Bool) (x y : α) (xs : List α) (h : x = y ∨ x ∈ xs) : x ∈ insertOrd lt y xs := by
  induction xs with
  | nil => simpa [insertOrd] using h
  | cons z zs ih =>
    unfold insertOrd
    split
    · simpa using h
    · rcases h with h | h
      · exact List.mem_cons_of_mem _ (ih (.inl h))
      · rcases List.mem_cons.mp h with rfl | h
        · exact List.mem_cons_self
        · exact List.mem_cons_of_mem _ (ih (.inr h))

theorem mem_sortOrd {α : Type} (lt : α → α → Bool) {x : α} {xs : List α} (h : x ∈ xs) : x ∈ sortOrd lt xs := by
  unfold sortOrd
  suffices ∀ ys : List α, (x ∈ ys ∨ x ∈ xs) → x ∈ xs.foldl (fun acc y => insertOrd lt y acc) ys from this [] (.inr h)
  clear h
  induction xs with
  | nil => simp
  | cons z zs ih =>
    intro ys h
    apply ih
    rcases h with h | h
    · exact .inl (mem_insertOrd lt _ _ _ (.inr h))
    · rcases List.mem_cons.mp h with rfl | h
      · exact .inl (mem_insertOrd lt _ _ _ (.inl rfl))
      · exact .inr h

theorem apart {a la b lb : Nat} (h : a + la ≤ b ∨ b + lb ≤ a) : overlap a la b lb = false := by
  simp only [overlap, Bool.and_eq_false_iff, decide_eq_false_iff_not]; omega

theorem freeAt_of {d : Dev} {a n : Nat} (h1 : reservedBytes + d.storeBase ≤ a) (h2 : a + n ≤ d.storeBase + d.storeBytes)
    (h3 : ∀ s ∈ d.usedSpans, overlap s.sa s.len a n = false) : d.freeAt a n = true := by
  simp only [Dev.freeAt, h1, h2, decide_true, Bool.true_and, Bool.not_eq_true', List.any_eq_false]
  exact fun s hs => by simp [h3 s hs]

/-- A range is placed wherever some candidate is free. -/
theorem placed {d : Dev} {n a : Nat} (ha : a ∈ (roundUp reservedBytes 65536 + d.storeBase) :: d.usedSpans.map fun s => roundUp (s.sa + s.len) 65536)
    (hf : d.freeAt a n = true) : ∃ b, d.place n = (some b, { d with draws := d.draws + 1 }) := by
  unfold Dev.place Dev.placeIn
  simp only [Dev.wingRoom, Bool.not_true, if_false, Bool.false_eq_true]
  split
  · exact ⟨_, rfl⟩
  · have hs : (List.find? (fun a => d.freeAt a n) _).isSome = true := List.find?_isSome.mpr ⟨a, mem_sortOrd (fun a b => decide (a < b)) ha, hf⟩
    obtain ⟨b, hb⟩ := Option.isSome_iff_exists.mp hs
    exact ⟨b, by rw [hb]⟩

/-- The store has room for that session's state and its log, wherever the free placements lie. -/
theorem witness_placeSession : ∃ y e, dev0.placeSession 1 (initSession (cmdOps kInit) geom1 0) = some (y, e) := by
  have hr : dev0.dramRoom 1 ((initSession (cmdOps kInit) geom1 0).stateBytes + (initSession (cmdOps kInit) geom1 0).logBytes) = true := by decide +kernel
  have hn : (initSession (cmdOps kInit) geom1 0).stateBytes ≤ 0x100000 ∧ (initSession (cmdOps kInit) geom1 0).logBytes ≤ 0x100000 := by decide +kernel
  obtain ⟨a, ha⟩ := placed (d := dev0) (n := (initSession (cmdOps kInit) geom1 0).stateBytes) List.mem_cons_self (by decide +kernel)
  unfold Dev.placeSession
  simp only [hr, ha, Bool.not_true, if_false, Bool.false_eq_true]
  generalize (initSession (cmdOps kInit) geom1 0).stateBytes = n at *
  generalize (initSession (cmdOps kInit) geom1 0).logBytes = m at *
  let e : Dev := { dev0 with draws := dev0.draws + 1 }.leave 1 [⟨a, n⟩]
  have hu : e.usedSpans = [⟨0x10000000000, 0x100000⟩, ⟨a, n⟩] := rfl
  have hb : e.storeBase = 0 := rfl
  have hs : e.storeBytes = 0x10000000000 := show dev0.storeBytes = _ by decide +kernel
  suffices ∃ b f, e.place m = (some b, f) by
    obtain ⟨b, f, h⟩ := this
    exact ⟨_, _, by simp only [e] at h; rw [h]⟩
  by_cases ho : a + n ≤ 0x14000000 ∨ 0x14000000 + m ≤ a
  · obtain ⟨b, h⟩ := placed (d := e) (n := m) (a := 0x14000000) (by simp [hb, reservedBytes, roundUp])
      (freeAt_of (by simp [hb, reservedBytes]) (by omega) (by
        rw [hu]; simp only [List.forall_mem_cons]
        exact ⟨apart (by omega), apart (by omega), fun _ h => by cases h⟩))
    exact ⟨_, _, h⟩
  · obtain ⟨b, h⟩ := placed (d := e) (n := m) (a := roundUp (a + n) 65536) (by simp [hu])
      (freeAt_of (by simp only [hb, reservedBytes, roundUp]; omega) (by simp only [roundUp]; omega) (by
        rw [hu]; simp only [List.forall_mem_cons, roundUp]
        exact ⟨apart (by omega), apart (by omega), fun _ h => by cases h⟩))
    exact ⟨_, _, h⟩

theorem witness_seal :
    let k := kOf lSeal
    (sSess lSeal).runs r0 .seal (cSess lSeal) k ∧ mineIn (sSess lSeal) sess (cSess lSeal) ∧ fieldAt k.line 20 2 < sess.layerCount ∧
    (∀ l ∈ sess.named (fieldAt k.line 20 2) (fieldAt k.line 22 2), fieldAt k.line 16 4 ≤ (sess.layer l).n) ∧ lineFlags k.line ≠ 1 := by
  unfold State.runs mineIn; decide +kernel

theorem witness_fork :
    let k := kOf lFork
    let c := ctxOf [runSlot k] none
    let pc := { ctxOf [] (some sess) with num := 4 }
    let s := st { dev0 with ctxs := [c, pc], blocks := [block0], nextBlock := 1 }
    s.runs r0 .fork c k ∧ c.session = none ∧ c.isGuest = false ∧ fieldAt k.line 18 1 = s.dev.coll.geoId ∧ s.dev.ctx? (s.dev.parentCtx k.line) = some pc ∧
    pc.domain = c.domain ∧ mineIn s sess pc := by
  unfold State.runs mineIn; decide +kernel

theorem witness_drop (mode : Nat) (h : mode = 1 ∨ mode = 2) :
    let k := kOf (lDrop mode)
    (sOf (lDrop mode)).runs r0 .drop (cOf (lDrop mode)) k ∧ (cOf (lDrop mode)).session = none ∧ fieldAt k.line 16 1 = mode ∧
    (sSess (lDrop mode)).runs r0 .drop (cSess (lDrop mode)) k ∧ mineIn (sSess (lDrop mode)) sess (cSess (lDrop mode)) := by
  unfold State.runs mineIn
  rcases h with rfl | rfl <;> decide +kernel

/-- The blocks that a DROP gives back: those of a session with one block, and of one without; TRUNCATE inside a block, and after it. -/
theorem witness_dropBlocks :
    let none' := { sess with layers := [{ n := 6, blocks := [] }] }
    (List.range sess.layerCount).flatMap (fun l => (sess.layer l).blocks.reverse.map fun b => (l, b)) ≠ [] ∧
    (List.range none'.layerCount).flatMap (fun l => (none'.layer l).blocks.reverse.map fun b => (l, b)) = [] ∧
    10 < (sess.layer 0).n ∧ 10 % 64 ≠ 0 ∧ ((sSess (lDrop 2)).dev.blockAt sess 0 (10 / 64)).isSome = true ∧
    (sess.layer 0).blocks.drop (ceilDiv 64 64) = [] ∧ 64 % 64 = 0 := by decide +kernel

/-- A collection of members 0 and 1, formed, with member 0 as its master. -/
def coll2 : Collection :=
  { Collection.reset with role := 1, state := .formed, members := 3, master := 0, deputy := 1, epoch := 1, lastHb := [(1, 900)] }

theorem witness_migrateToMember :
    let k := kOf (lMigrate 1)
    let s := st { (sSess (lMigrate 1)).dev with coll := coll2 }
    s.runs r0 .migrate (cSess (lMigrate 1)) k ∧ mineIn s sess (cSess (lMigrate 1)) ∧ fieldAt k.line 16 1 = 1 ∧
    s.dev.others.contains (fieldAt k.line 17 1) = true ∧ k.remote = [] := by
  unfold State.runs mineIn; decide +kernel

theorem witness_migrateToFlash :
    let k := kOf (lMigrate 2)
    let s := st ((sSess (lMigrate 2)).dev.setReg 0x4020 (BitVec.ofNat 64 (50 * 2 ^ 16)))
    s.runs r0 .migrate (cSess (lMigrate 2)) k ∧ mineIn s sess (cSess (lMigrate 2)) ∧ fieldAt k.line 16 1 = 2 ∧
    s.dev.acc.state = .availableFull ∧ s.dev.nextChannel 1 ≠ none ∧ 2 ≤ s.dev.field 0x4020 23 16 ∧ s.dev.migrateRange k sess = [block0] := by
  unfold State.runs mineIn; decide +kernel

theorem witness_migrateToDram :
    let k := kOf (lMigrate 3)
    (sSess (lMigrate 3)).runs r0 .migrate (cSess (lMigrate 3)) k ∧ mineIn (sSess (lMigrate 3)) sess (cSess (lMigrate 3)) ∧
    fieldAt k.line 16 1 = 3 := by
  unfold State.runs mineIn; decide +kernel

theorem witness_fetchBlocks :
    let k := kOf lFetch
    let d := (sSess lFetch).dev
    let o := fetchOps k.line
    (sSess lFetch).runs r0 .fetchBlocks (cSess lFetch) k ∧ mineIn (sSess lFetch) sess (cSess lFetch) ∧ o.layer < sess.layerCount ∧
    fetchLen (d.fetchParts sess o) + (if bit o.parts 3 then 8 * o.covered sess else 0) ≤ o.len ∧ sess.logSa ≠ 0 := by
  unfold State.runs mineIn; decide +kernel

theorem witness_selectAttend :
    let k := kOf lSelect
    let a := k.ask sess
    (sSess lSelect).runs r0 .selectAttend (cSess lSelect) k ∧ mineIn (sSess lSelect) sess (cSess lSelect) ∧
    a.p0 + a.q ≤ (sess.layer a.layer).n := by
  unfold State.runs mineIn; decide +kernel

theorem witness_sessionStates :
    let k := kOf lSeal
    let moving := ctxOf [runSlot k] (some { sess with state := .moving })
    let lost := ctxOf [runSlot k] (some { sess with state := .lost 10 })
    let unclaimed := ctxOf [runSlot k] (some { sess with claimed := false })
    let away := ctxOf [runSlot k] (some { sess with owner := 1 })
    (sOf lSeal).runs r0 .seal (cOf lSeal) k ∧ (cOf lSeal).session = none ∧ (st (devOf moving)).runs r0 .seal moving k ∧
    (st (devOf unclaimed)).runs r0 .seal unclaimed k ∧ (st { devOf away with coll := coll2 }).runs r0 .seal away k ∧
    ({ devOf away with coll := coll2 } : Dev).owns { sess with owner := 1 } = false ∧
    (st (devOf lost)).runs r0 .seal lost k ∧ (st (devOf lost)).dev.owns { sess with state := .lost 10 } = true ∧ fieldAt k.line 20 2 < sess.layerCount ∧
    (∀ l ∈ sess.named (fieldAt k.line 20 2) (fieldAt k.line 22 2), fieldAt k.line 16 4 ≤ (sess.layer l).n) ∧ 10 < fieldAt k.line 16 4 := by
  unfold State.runs; decide +kernel

/-- Table 2 of domain 1: four rows of 32 FP32 elements, a training version. -/
def ver1 : Version :=
  { number := 1, state := .current, kind := 1, rows := 4, dim := 32, format := 1, rowsCva := 0x100000, stride := 160, popCva := 0x104000,
    stateCva := 0, stateKind := 0, source := 0, classes := [], remapSa := 0 }
def table2 : Table := { domain := 1, id := 2, nextVersion := 2, versions := [ver1], deleting := false, home := 0, bindings := [] }

/-- A line bound to version 1 of table 2, and the state in which it runs over a store. -/
def kTab (l : List Byte) : Cmd := { kOf l with table := some (2, 1), version := some ver1 }
def cTab (l : List Byte) : Context := ctxOf [runSlot (kTab l)] none
def dTab (l : List Byte) (m : List Host.Cell) : Dev := { devOf (cTab l) with tables := [table2], mem := m }

/-- GATHER of one row, without pooling, and with offsets that the store has as zeros. -/
def lGather (pool : Nat) : List Byte :=
  line 0x0401 [(16, 2, 2), (18, 1, pool), (19, 1, 1), (20, 4, 1), (24, 4, 1), (32, 8, 0x108000), (40, 8, if pool = 0 then 0 else 0x109000), (56, 8, 0x110000)]

theorem witness_gather :
    let k := kTab (lGather 0)
    let d := dTab (lGather 0) []
    let e := d.setCaps r0 [ext1]
    let need : Need := ⟨fieldAt k.line 56 8, fieldAt k.line 20 4 * k.outStride ver1, true, 56⟩
    (st d).runs r0 .gather (cTab (lGather 0)) k ∧ k.version = some ver1 ∧ k.counting = false ∧ bit (lineFlags k.line) 0 = false ∧ k.pooling = 0 ∧
    d.captures r0 (cTab (lGather 0)) k [need] e k ∧ e.missing k (k.spans 1 (fieldAt k.line 32 8) 4) = [] ∧
    e.array32 1 k (fieldAt k.line 32 8) 1 = [some 0] ∧ badOffset 1 1 ((List.range 2).map some) = none ∧ 0 < ver1.rows ∧
    e.missing k (k.spans 1 (fieldAt k.line 32 8) 4 ++ ver1.remapSpans [0]) = [] := by
  unfold State.runs Dev.captures
  exact ⟨by decide +kernel, rfl, by decide +kernel, by decide +kernel, by decide +kernel, ⟨[ext1], by decide +kernel, rfl, rfl⟩, by decide +kernel,
    by decide +kernel, by decide +kernel, by decide +kernel, by decide +kernel⟩

theorem witness_gatherBad :
    let k := kTab (lGather 1)
    let e := (dTab (lGather 1) [(0x10000008000, 9)]).setCaps r0 [ext1]
    (st (dTab (lGather 1) [(0x10000008000, 9)])).runs r0 .gather (cTab (lGather 1)) k ∧ k.pooling = 1 ∧
    e.missing k (k.spans 1 (fieldAt k.line 32 8) 4 ++ k.spans 1 (fieldAt k.line 40 8) 8) = [] ∧
    badOffset 1 1 (e.array32 1 k (fieldAt k.line 40 8) 2) = some 1 ∧
    (let k := kTab (lGather 0)
     let e := (dTab (lGather 0) [(0x10000008000, 9)]).setCaps r0 [ext1]
     (e.array32 1 k (fieldAt k.line 32 8) 1)[0]? = some (some 9) ∧ ver1.rows ≤ 9) := by
  unfold State.runs; decide +kernel

/-- SCATTER_UPDATE of one row by ADD (optimizer 1). -/
def lScatter : List Byte := line 0x0402 [(16, 2, 2), (18, 1, 1), (19, 1, 1), (20, 4, 1), (24, 8, 0x108000), (32, 8, 0x10A000)]

theorem witness_scatterUpdate :
    let k := kTab lScatter
    let d := dTab lScatter []
    let e := d.setCaps r0 [ext1]
    let poor : Dev := { e with image := some { img1 with domains := [{ dom1 with dramQuota := 0 }] } }
    (st d).runs r0 .scatterUpdate (cTab lScatter) k ∧ k.version = some ver1 ∧ ver1.stateKind = optState (fieldAt k.line 18 1) ∧ ver1.kind = 1 ∧
    d.captures r0 (cTab lScatter) k [⟨fieldAt k.line 32 8, 128, false, 32⟩] e k ∧ e.missing k (k.spans 1 (fieldAt k.line 24 8) 4) = [] ∧
    e.array32 1 k (fieldAt k.line 24 8) 1 = [some 0] ∧ e.dramRoom 1 128 = true ∧ poor.dramRoom 1 128 = false ∧
    poor.missing k (k.spans 1 (fieldAt k.line 24 8) 4) = [] := by
  unfold State.runs Dev.captures
  exact ⟨by decide +kernel, rfl, by decide +kernel, by decide, ⟨[ext1], by decide +kernel, rfl, rfl⟩, by decide +kernel,
    by decide +kernel, by decide +kernel, by decide +kernel, by decide +kernel⟩

theorem witness_scatterDenied :
    let v := { ver1 with kind := 2 }
    let w := { ver1 with stateKind := 1, stateCva := 0x100000 }
    let k := { kTab lScatter with version := some v }
    let j := { kTab lScatter with version := some w }
    (st (devOf (ctxOf [runSlot k] none))).runs r0 .scatterUpdate (ctxOf [runSlot k] none) k ∧ k.version = some v ∧ v.kind ≠ 1 ∧
    (st (devOf (ctxOf [runSlot j] none))).runs r0 .scatterUpdate (ctxOf [runSlot j] none) j ∧ j.version = some w ∧ w.kind = 1 ∧
    w.stateKind ≠ optState (fieldAt j.line 18 1) := by
  unfold State.runs; decide +kernel

/-- PUBLISH_TABLE in its five modes; the descriptor is in the store at 0x100000. -/
def lTable (mode : Nat) (fs : List (Nat × Nat × Nat)) : List Byte := line 0x0403 ([(16, 2, 2), (18, 1, mode)] ++ fs)
def desc1 : List Byte := bytesOf 64 [(0, 4, 4), (4, 2, 32), (6, 1, 1), (7, 1, 1), (8, 8, 0x108000), (16, 8, 160), (24, 8, 0x104000)]
def memDesc : List Host.Cell := memWrite [] 0x10000000000 desc1
def lCreate : List Byte := lTable 1 [(32, 8, 0x100000)]
def lDescriptor (expected : Nat) : List Byte := lTable 2 [(20, 4, expected), (32, 8, 0x100000)]
def sTable (l : List Byte) (ts : List Table) : State := st { devOf (cOf l) with tables := ts, mem := memDesc }

/-- The same table, homed on member 1 of a collection of two. -/
def far2 : Table := { table2 with versions := [], home := 1 }
def sTableAway (l : List Byte) : State := st { devOf (cOf l) with tables := [far2], mem := memDesc, coll := coll2 }

theorem witness_create :
    let k := kOf lCreate
    let d := (sTable lCreate []).dev
    let ss := k.spans 1 (fieldAt k.line 32 8) 64
    let f := (sTableAway lCreate).dev
    (sTable lCreate []).runs r0 .publishTable (cOf lCreate) k ∧ fieldAt k.line 18 1 = 1 ∧ d.table? 1 (fieldAt k.line 16 2) = none ∧
    d.badSpans k ss = false ∧ d.missing k ss = [] ∧ versionOf (d.loadAll k ss) = some { ver1 with rowsCva := 0x108000 } ∧
    d.tableHome 1 (fieldAt k.line 16 2) = d.coll.geoId ∧
    (sTableAway lCreate).runs r0 .publishTable (cOf lCreate) k ∧ f.tableHome 1 (fieldAt k.line 16 2) ≠ f.coll.geoId ∧
    f.badSpans k ss = false ∧ f.missing k ss = [] ∧ versionOf (f.loadAll k ss) = some { ver1 with rowsCva := 0x108000 } := by
  unfold State.runs; decide +kernel

theorem witness_publishDescriptor :
    let k := kOf (lDescriptor 1)
    let s := sTable (lDescriptor 1) [table2]
    let full := sTable (lDescriptor 1) [{ table2 with versions := ver1 :: List.replicate 7 { ver1 with state := .draining } }]
    let stale := sTable (lDescriptor 7) [table2]
    let ss := k.spans 1 (fieldAt k.line 32 8) 64
    s.dev.missing k ss = [] ∧ s.dev.badSpans k ss = false ∧ (versionOf (s.dev.loadAll k ss)).isSome = true ∧ s.dev.tableHome 1 2 = s.dev.coll.geoId ∧
    s.runs r0 .publishTable (cOf (lDescriptor 1)) k ∧ fieldAt k.line 18 1 = 2 ∧ s.dev.table? 1 (fieldAt k.line 16 2) = some table2 ∧
    table2.current = some ver1 ∧ ver1.number.toNat = fieldAt k.line 20 4 ∧ table2.versions.length < 8 ∧
    full.runs r0 .publishTable (cOf (lDescriptor 1)) k ∧ ((full.dev.table? 1 2).map fun t => t.versions.length) = some 8 ∧
    stale.runs r0 .publishTable (cOf (lDescriptor 7)) (kOf (lDescriptor 7)) ∧ ver1.number.toNat ≠ fieldAt (kOf (lDescriptor 7)).line 20 4 := by
  unfold State.runs; decide +kernel

def lStaged : List Byte := lTable 3 [(20, 4, 1), (24, 4, 2)]

theorem witness_publishStaged :
    let k := kOf lStaged
    let t := { table2 with versions := [ver1, { ver1 with number := 2, state := .staged }] }
    let s := sTable lStaged [t]
    let none' := sTable lStaged [table2]
    s.dev.tableHome 1 2 = s.dev.coll.geoId ∧ s.runs r0 .publishTable (cOf lStaged) k ∧ fieldAt k.line 18 1 = 3 ∧ s.dev.table? 1 2 = some t ∧ t.current = some ver1 ∧
    ver1.number.toNat = fieldAt k.line 20 4 ∧ ((t.version? (BitVec.ofNat 32 (fieldAt k.line 24 4))).any fun x => x.state == .staged) = true ∧
    none'.runs r0 .publishTable (cOf lStaged) k ∧ ((table2.version? (BitVec.ofNat 32 (fieldAt k.line 24 4))).any fun x => x.state == .staged) = false := by
  unfold State.runs; decide +kernel

theorem witness_waitReclaim :
    let l := lTable 4 [(24, 4, 1)]
    let k := { kOf l with started := true, committed := true }
    let d := devOf (ctxOf [runSlot k] none)
    (sOf l).runs r0 .publishTable (cOf l) (kOf l) ∧ fieldAt (kOf l).line 18 1 = 4 ∧ (sOf l).dev.tableHome 1 2 = (sOf l).dev.coll.geoId ∧
    (sTableAway l).runs r0 .publishTable (cOf l) (kOf l) ∧ (sTableAway l).dev.tableHome 1 2 ≠ (sTableAway l).dev.coll.geoId ∧ d.live = true ∧ d.cmd? r0 = some k ∧
    cmdVerb k = some .publishTable ∧ k.committed = true ∧ k.cut = none ∧ k.t0 + fieldAt l 28 4 * 1000 ≤ max d.now 1000 := by
  unfold State.runs; decide +kernel

theorem witness_tableDelete :
    let l := lTable 5 []
    (sTable l [table2]).runs r0 .publishTable (cOf l) (kOf l) ∧ fieldAt l 18 1 = 5 ∧ (sTable l [table2]).dev.table? 1 (fieldAt l 16 2) = some table2 ∧
    (sTable l [table2]).dev.tableHome 1 2 = (sTable l [table2]).dev.coll.geoId := by
  unfold State.runs; decide +kernel

/-- REHANG of the four rows to MXFP4-8-element classes: two rows in the first class. -/
def lRehang : List Byte := line 0x0404 [(16, 2, 2), (18, 1, 4), (19, 1, 4), (20, 1, 4), (32, 4, 2)]

/-- The store has room for its class and its remap table, wherever the free placements lie. -/
theorem witness_rehang :
    let k := kTab lRehang
    let d := dTab lRehang []
    let e := d.setCaps r0 [ext1]
    let f := e.modCmd r0 fun x => { x with work := 131072 }
    let poor : Dev := { e with image := some { img1 with domains := [{ dom1 with dramQuota := 0 }] } }
    (st d).runs r0 .rehang (cTab lRehang) k ∧ k.version = some ver1 ∧ fieldAt lRehang 32 4 + fieldAt lRehang 36 4 + fieldAt lRehang 40 4 ≤ ver1.rows ∧
    (k.rehanged ver1).popCva = ver1.popCva ∧ ver1.popCva ≠ 0 ∧ k.rehangSizes ver1 = [65536, 0, 0, 65536] ∧
    ((d.table? 1 2).any fun x => x.home == d.coll.geoId && decide (8 ≤ x.versions.length)) = false ∧
    d.captures r0 (cTab lRehang) k [⟨ver1.popCva, 16, false, 48⟩] e k ∧
    e.dramRoom 1 131072 = true ∧ poor.dramRoom 1 131072 = false ∧
    ∃ e' y, f.placeAll r0 [65536, 0, 0, 65536] = some e' ∧ e'.cmd? r0 = some y := by
  unfold State.runs Dev.captures
  refine ⟨by decide +kernel, rfl, by decide +kernel, by decide +kernel, by decide +kernel, by decide +kernel, by decide +kernel,
    ⟨[ext1], by decide +kernel, rfl, rfl⟩, by decide +kernel, by decide +kernel, ?_⟩
  let f : Dev := ((dTab lRehang []).setCaps r0 [ext1]).modCmd r0 fun x => { x with work := 131072 }
  obtain ⟨a, ha⟩ := placed (d := f) (n := 65536) List.mem_cons_self (by decide +kernel)
  let g : Dev := ((({ f with draws := f.draws + 1 } : Dev).zeroRange a 65536).modCmd r0 fun k => { k with freeing := k.freeing ++ [{ sa := a, len := 65536 }] })
  have hu : g.usedSpans = [⟨0x10000000000, 0x100000⟩, ⟨a, 65536⟩] := rfl
  have hb : g.storeBase = 0 := rfl
  have hs : g.storeBytes = 0x10000000000 := show f.storeBytes = _ by decide +kernel
  suffices ∃ b, g.place 65536 = (some b, { g with draws := g.draws + 1 }) by
    obtain ⟨b, hp⟩ := this
    obtain ⟨y, hy⟩ := Option.isSome_iff_exists.mp (show (((({ g with draws := g.draws + 1 } : Dev).zeroRange b 65536).modCmd r0 fun k =>
      { k with freeing := k.freeing ++ [{ sa := b, len := 65536 }] }).cmd? r0).isSome = true from rfl)
    refine ⟨_, y, ?_, hy⟩
    change f.placeAll r0 [65536, 0, 0, 65536] = _
    simp only [Dev.placeAll, ha]
    change (match g.place 65536 with | (some sa, d) => _ | (none, _) => _) = _
    rw [hp]
  by_cases ho : a + 65536 ≤ 0x14000000 ∨ 0x14000000 + 65536 ≤ a
  · exact (placed (d := g) (n := 65536) (a := 0x14000000) (by simp [hb, reservedBytes, roundUp])
      (freeAt_of (by simp [hb, reservedBytes]) (by omega) (by
        rw [hu]; simp only [List.forall_mem_cons]
        exact ⟨apart (by omega), apart (by omega), fun _ h => by cases h⟩)))
  · exact (placed (d := g) (n := 65536) (a := roundUp (a + 65536) 65536) (by simp [hu])
      (freeAt_of (by simp only [hb, reservedBytes, roundUp]; omega) (by simp only [roundUp]; omega) (by
        rw [hu]; simp only [List.forall_mem_cons, roundUp]
        exact ⟨apart (by omega), apart (by omega), fun _ h => by cases h⟩)))

/-- Index 1 of domain 1: dimension 32, one list. -/
def list0 : IList := { chunks := [], entries := [], gen := 0, retained := none, holders := [], set := 0, lock := none }
def idx1 : Index :=
  { domain := 1, id := 1, dim := 32, metric := 1, codeFormat := 0x0B, subspaces := 8, vecFormat := 1, flashOk := false, capacity := 100,
    metaSa := 0x10000600000, centroids := [List.replicate 32 0], codebook := List.replicate 8 (List.replicate 16 [0, 0, 0, 0]),
    lists := [list0], segments := [], map := [], set := 0, unknown := false }
def sIdx (l : List Byte) (x : Index) : State := st { devOf (cOf l) with indexes := [x] }

def lSearch (host : Nat) : List Byte :=
  line 0x0501 [(2, 1, 16 * host), (16, 2, 1), (18, 1, 1), (20, 2, 1), (22, 2, 1), (24, 2, 1), (32, 8, 0x100000), (56, 8, 0x110000)]

theorem witness_search (x : Nat) (h : x = 0 ∨ x = 1) :
    let k := kOf (lSearch x)
    let d := (sIdx (lSearch x) idx1).dev
    let e := d.setCaps r0 [ext1]
    (sIdx (lSearch x) idx1).runs r0 .search (cOf (lSearch x)) k ∧ d.index? 1 (fieldAt k.line 16 2) = some idx1 ∧
    fieldAt k.line 24 2 ≤ idx1.lists.length ∧ fieldAt k.line 26 2 ≤ idx1.lists.length ∧ 1 * ceilDiv idx1.subspaces 32 * idx1.c * 2 ≤ 196608 ∧
    d.captures r0 (cOf (lSearch x)) k (⟨fieldAt k.line 32 8, 128, false, 32⟩ :: if lineFlags k.line == 1 then [] else [⟨fieldAt k.line 56 8, 64, true, 56⟩]) e k ∧
    (lineFlags k.line == 1) = decide (x = 1) := by
  unfold State.runs Dev.captures
  rcases h with rfl | rfl <;>
    exact ⟨by decide +kernel, by decide +kernel, by decide +kernel, by decide +kernel, by decide +kernel, ⟨[ext1], by decide +kernel, rfl, rfl⟩,
      by decide +kernel⟩

/-- An index whose one list holds an entry that is deleted, and a SEARCH that has a snapshot of the list. -/
def idxTomb : Index :=
  { idx1 with lists := [{ list0 with chunks := [0x10000700000], entries := [{ item := 7, attr := 0, locator := 0, codes := List.replicate 8 0, check := 0, tomb := true }] }] }
def snap0 : ListSnap := { list := 0, gen := 0, set := 0, len := 1 }
def run0 : SearchRun := { stage := 5, key := [], queries := [[]], orders := [[0]], rounds := [[(0, 1)]], snaps := [snap0], dead := [(0, 0, 0)], done := false }

/-- Nothing lost; the scan of a deleted slot; and that slot out of reach. -/
theorem witness_searchRounds :
    let k : Cmd := { kOf (lSearch 0) with search := some run0 }
    let d : Dev := { devOf (ctxOf [runSlot k, Slot.fresh] none) with indexes := [idxTomb] }
    let w : Ready := { r := r0, k := k, domain := 1, at_ := 0, step := { Step.nop with effects := [.scan 1 1 [0] 0 0 1] } }
    (∀ f ∈ d.foundAll idxTomb (lSearch 0) { run0 with queries := [] }, f.lost = none) ∧ (lineFlags (lSearch 0) == 1) = false ∧
    (lineFlags (lSearch 1) == 1) = true ∧ w.step.scan? = some (1, idxTomb.id, [0], snap0.list, 0, 1) ∧ d.cmd? w.r = some k ∧
    k.search = some run0 ∧ d.index? 1 idxTomb.id = some idxTomb ∧ run0.snaps.find? (·.list == snap0.list) = some snap0 ∧
    ((idxTomb.body snap0).2[0]?).any (·.tomb) = true ∧ 0 ≤ 0 ∧ 0 < 0 + 1 ∧ 0 ∈ [0] ∧ (0, snap0.list, 0) ∈ run0.dead := by
  refine ⟨by simp [Dev.foundAll], by decide +kernel, by decide +kernel, by decide +kernel, by decide +kernel, rfl, by decide +kernel,
    by decide +kernel, by decide +kernel, by decide, by decide, by decide, by decide⟩

/-- A record that a SEARCH re-ranks lies in a lost sector. -/
theorem witness_searchLost :
    let x : Index := { idx1 with
      lists := [{ list0 with chunks := [0x10000700000], entries := [{ item := 7, attr := 0, locator := 0, codes := List.replicate 8 0, check := 0, tomb := false }] }]
      segments := [{ set := 0, number := 0, sa := 0x10000800000, sealed := false, replaced := false, records := [{ item := 7, attr := 0, bytes := [] }], holders := [] }] }
    let l := line 0x0501 [(16, 2, 1), (18, 1, 1), (20, 2, 1), (22, 2, 1), (24, 2, 1), (28, 2, 1), (32, 8, 0x100000), (56, 8, 0x110000)]
    let d : Dev := { dev0 with indexes := [x], poison := [0x10000800000 / 32] }
    (d.foundAll x l { run0 with dead := [] }).findSome? (·.lost) = some (0, 0) := by decide +kernel

def lInsert : List Byte := line 0x0502 [(16, 2, 1), (18, 1, 1), (20, 4, 1), (24, 8, 0x100000), (32, 8, 0x108000)]

theorem witness_insert :
    let k := kOf lInsert
    let d := (sIdx lInsert idx1).dev
    let e := d.setCaps r0 [ext1]
    let o := slice k.line 16 48
    (sIdx lInsert idx1).runs r0 .insert (cOf lInsert) k ∧ lineExt k.line = false ∧ d.index? 1 (fieldAt o 0 2) = some idx1 ∧
    d.captures r0 (cOf lInsert) k [⟨fieldAt o 8 8, fieldAt o 4 4 * 128, false, 24⟩] e k ∧
    fieldAt o 24 8 = 0 := by
  unfold State.runs Dev.captures
  exact ⟨by decide +kernel, by decide +kernel, by decide +kernel, ⟨[ext1], by decide +kernel, rfl, rfl⟩, by decide +kernel⟩

def lDelete (mode : Nat) : List Byte := line 0x0503 [(16, 2, 1), (18, 1, mode), (20, 4, if mode = 1 then 2 else 0), (24, 8, if mode = 1 then 0x100000 else 0)]

theorem witness_delete (mode : Nat) (h : mode = 1 ∨ mode = 2) :
    let k := kOf (lDelete mode)
    let s := sIdx (lDelete mode) idx1
    s.runs r0 .delete (cOf (lDelete mode)) k ∧ fieldAt k.line 18 1 = mode ∧ s.dev.index? 1 (fieldAt k.line 16 2) = some idx1 ∧ idx1.unknown = false ∧
    (let u := { idx1 with unknown := true }
     (sIdx (lDelete mode) u).runs r0 .delete (cOf (lDelete mode)) k ∧ (sIdx (lDelete mode) u).dev.index? 1 (fieldAt k.line 16 2) = some u) ∧
    (sOf (lDelete mode)).runs r0 .delete (cOf (lDelete mode)) k ∧ (sOf (lDelete mode)).dev.index? 1 1 = none := by
  unfold State.runs
  rcases h with rfl | rfl <;> decide +kernel

def lCompact (mode first : Nat) : List Byte := line 0x0504 [(16, 2, 1), (18, 1, mode), (20, 4, first)]

theorem witness_compact (mode : Nat) (h : mode = 1 ∨ mode = 2 ∨ mode = 3) :
    let k := kOf (lCompact mode 0)
    let s := sIdx (lCompact mode 0) idx1
    s.runs r0 .compact (cOf (lCompact mode 0)) k ∧ fieldAt k.line 18 1 = mode ∧ s.dev.index? 1 (fieldAt k.line 16 2) = some idx1 ∧
    fieldAt k.line 20 4 < idx1.lists.length ∧ fieldAt k.line 20 4 + 1 ≤ idx1.lists.length := by
  unfold State.runs
  rcases h with rfl | rfl | rfl <;> decide +kernel

theorem witness_compactBeyond :
    let s := sIdx (lCompact 1 1) idx1
    s.runs r0 .compact (cOf (lCompact 1 1)) (kOf (lCompact 1 1)) ∧ idx1.lists.length ≤ fieldAt (lCompact 1 1) 20 4 := by
  unfold State.runs; decide +kernel

/-- A STREAM of one layer of 64 bytes with status words at 0x110000, its descriptor. -/
def streamDesc (mode : Nat) : List Byte :=
  bytesOf 128 [(0, 2, 1), (2, 1, mode), (4, 4, 5), (8, 8, 0x110000), (64, 8, 0x100000), (72, 8, 0x112000), (88, 4, 1), (92, 4, 1)]
def lStream (build : Nat) : List Byte := line 0x0601 [(2, 1, 16 * (2 * build)), (16, 8, 0x120000), (24, 4, 128)]
def kStream (build mode : Nat) : Cmd := cmdOf (lStream build) (streamDesc mode) [ext1]
def cStream (build mode : Nat) : Context := ctxOf [runSlot (kStream build mode)] none

theorem witness_stream (x : Nat) (h : x = 0 ∨ x = 1) :
    let k := kStream x 0
    let s := st (devOf (cStream x 0))
    s.runs r0 .stream (cStream x 0) k ∧ bit (lineFlags k.line) 1 = decide (x = 1) ∧ fieldAt k.desc 0 2 = 1 ∧ bit (lineFlags k.line) 0 = false ∧
    s.dev.missing k ((List.range 1).flatMap fun i => k.spans 1 (streamEntry k.desc i).1 (streamEntry k.desc i).2.2.2.1) = [] := by
  unfold State.runs
  rcases h with rfl | rfl <;> decide +kernel

def layer0 : StreamLayer :=
  { bytes := 64, shadow := 0, shadowBytes := 0, deadline := 1, state := .pending, failed := false, copied := false, time := 0, written := 0 }

theorem witness_streamDeadline (mode : Nat) (h : mode = 0 ∨ mode = 1) :
    let k := { kStream 0 mode with started := true, layers := [layer0], plan := [Step.nop] }
    let d := devOf (ctxOf [runSlot k] none)
    d.live = true ∧ d.cmd? r0 = some k ∧ k.layers[0]? = some layer0 ∧ cmdVerb k = some .stream ∧ bit (lineFlags k.line) 1 = false ∧ k.started = true ∧ k.cut = none ∧
    layer0.state = .pending ∧ fieldAt k.desc 2 1 = mode ∧ k.t0 + layer0.deadline * 1000 ≤ max d.now 6000 ∧
    k.t0 + (layer0.deadline + fieldAt k.desc 4 4) * 1000 ≤ max d.now 6000 := by
  rcases h with rfl | rfl <;> decide +kernel

/-- BULK transfers in the group, overlapping through an alias, and to another group's export. -/
def lBulk (verb kind remote : Nat) : List Byte :=
  line verb [(16, 8, 0x100000), (24, 8, 0x100), (32, 1, kind), (40, 8, remote)]

theorem witness_bulk (verb : Nat) (v : Verb) (h : (verb = 0x0701 ∧ v = .bulkGet) ∨ (verb = 0x0702 ∧ v = .bulkPut)) :
    let l := lBulk verb 1 0x110000
    let k := kOf l
    let here := k.spans 1 (fieldAt l 16 8) (fieldAt l 24 8)
    let there := k.spans 1 (fieldAt l 40 8) (fieldAt l 24 8)
    (sOf l).runs r0 v (cOf l) k ∧ fieldAt l 32 1 = 1 ∧ (∀ a ∈ there, ∀ b ∈ here, overlap a.sa a.len b.sa b.len = false) ∧
    (∀ a ∈ here, ∀ b ∈ there, overlap a.sa a.len b.sa b.len = false) ∧
    there ≠ [] ∧ here ≠ [] := by
  unfold State.runs
  rcases h with ⟨rfl, rfl⟩ | ⟨rfl, rfl⟩ <;> decide +kernel

theorem witness_bulkOverlaps :
    let l := lBulk 0x0701 1 0x300080
    let k := cmdOf l [] [ext1, alias1]
    (st { devOf (ctxOf [runSlot k] none) with extents := [ext1, alias1] }).runs r0 .bulkGet (ctxOf [runSlot k] none) k ∧
    (∃ a ∈ k.spans 1 (fieldAt l 40 8) 0x100, ∃ b ∈ k.spans 1 (fieldAt l 16 8) 0x100, overlap a.sa a.len b.sa b.len = true) := by
  unfold State.runs; decide +kernel

theorem witness_bulkExport (verb : Nat) (v : Verb) (h : (verb = 0x0701 ∧ v = .bulkGet) ∨ (verb = 0x0702 ∧ v = .bulkPut)) :
    let l := lBulk verb 2 0
    let far : Dev := { (sOf l).dev with coll := coll2 }
    (sOf l).runs r0 v (cOf l) (kOf l) ∧ fieldAt l 32 1 ≠ 1 ∧ (sOf l).dev.farPath = false ∧
    (st far).runs r0 v (cOf l) (kOf l) ∧ far.farPath = true := by
  unfold State.runs
  rcases h with ⟨rfl, rfl⟩ | ⟨rfl, rfl⟩ <;> decide +kernel

def lPublish : List Byte := line 0x0703 [(16, 8, 0x100000), (32, 8, 5)]
def lInvalidate : List Byte := line 0x0704 [(16, 8, 0x100000), (24, 8, 0x1000), (32, 1, 1)]

theorem witness_publish : (sOf lPublish).runs r0 .publish (cOf lPublish) (kOf lPublish) ∧ covered (cOf lPublish) (kOf lPublish) = [] ∧
    epochFailed (cOf lPublish) (kOf lPublish) = false ∧ saOf (kOf lPublish).caps 1 (fieldAt lPublish 16 8) = some 0x10000000000 ∧
    (st (devOf (cFailed lPublish))).runs r0 .publish (cFailed lPublish) (kOf lPublish) ∧ epochFailed (cFailed lPublish) (kOf lPublish) = true ∧
    (sOf lInvalidate).runs r0 .invalidate (cOf lInvalidate) (kOf lInvalidate) ∧ lineFlags lInvalidate ≠ 1 := by
  unfold State.runs; decide +kernel

/-- SCAN_CHECK of two blocks of 32 bytes by CRC32C; stored values at 0x110000. -/
def lScan (mode init : Nat) : List Byte :=
  line 0x0801 [(16, 8, 0x100000), (24, 8, 64), (32, 1, 1), (33, 1, mode), (34, 1, init), (36, 4, if mode = 1 then 0 else 32), (48, 8, if mode = 1 then 0 else 0x110000)]

theorem witness_scanCheck (mode : Nat) (h : mode = 1 ∨ mode = 2 ∨ mode = 3) :
    let l := lScan mode 0
    let k := kOf l
    let e := (sOf l).dev
    (sOf l).runs r0 .scanCheck (cOf l) k ∧ (crcPoly (fieldAt l 32 1)).isSome = true ∧ (cOf l).runningAlloc = true ∧
    fieldAt l 33 1 = mode ∧ fieldAt l 34 1 ≠ 2 ∧ hasFailed k = false ∧ e.ctx? r0.ctx = some (cOf l) ∧ e.cmd? r0 = some k ∧
    e.badSpans k (k.scanRange 1) = false ∧ k.scanRange 1 ≠ [] ∧ e.badSpans k (k.scanBlock 1 1).1 = false ∧ e.badSpans k (k.scanBlock 1 1).2 = false := by
  unfold State.runs
  rcases h with rfl | rfl | rfl <;> decide +kernel

theorem witness_scanContinue :
    let l := lScan 1 2
    (sOf l).runs r0 .scanCheck (cOf l) (kOf l) ∧ fieldAt l 33 1 = 1 ∧ fieldAt l 34 1 = 2 ∧ ((cOf l).value (fieldAt l 35 1)).poly ≠ fieldAt l 32 1 := by
  unfold State.runs; decide +kernel

/-- VERIFY of a store of zeros by CRC32C: the stored value of block 0 is right (0x8A9136AA, the known value of 32 zero bytes), that of block 1 is wrong. -/
theorem witness_scanVerify (p : CrcPoly) (hp : crcPoly 1 = some p) :
    let l := lScan 3 0
    let k := kOf l
    let e : Dev := { (sOf l).dev with mem := memWrite [] 0x10000010000 (natLe 0x8A9136AA 8) }
    let block (i : Nat) := k.scanBlock 1 i
    crcOf p (scanSeed p l (0 * 32)) (e.loadAll k (block 0).1) = leNat (e.loadAll k (block 0).2) ∧
    crcOf p (scanSeed p l (1 * 32)) (e.loadAll k (block 1).1) ≠ leNat (e.loadAll k (block 1).2) := by
  cases hp
  decide +kernel

def lSave : List Byte := line 0x0802 [(16, 8, 0x100000), (24, 1, 3)]
def lLoad : List Byte := line 0x0803 [(16, 8, 0x100000), (24, 1, 3)]

theorem witness_checkSaveLoad :
    let k := kOf lLoad
    let s := sOf lLoad
    let bad := st { devOf (cOf lLoad) with mem := [(0x10000000011, 1)] }
    (sOf lSave).runs r0 .checkSave (cOf lSave) (kOf lSave) ∧ (cOf lSave).runningAlloc = true ∧
    s.runs r0 .checkLoad (cOf lLoad) k ∧ (cOf lLoad).runningAlloc = true ∧ s.dev.ctx? r0.ctx = some (cOf lLoad) ∧ s.dev.cmd? r0 = some k ∧
    s.dev.badSpans k (k.spans 1 0x100000 32) = false ∧ hasFailed k = false ∧
    runningOfRecord (s.dev.loadAll k (k.spans 1 0x100000 32)) = some { poly := 0, reg := 0, count := 0 } ∧
    bad.dev.ctx? r0.ctx = some (cOf lLoad) ∧ bad.dev.cmd? r0 = some k ∧ bad.dev.badSpans k (k.spans 1 0x100000 32) = false ∧
    runningOfRecord (bad.dev.loadAll k (k.spans 1 0x100000 32)) = none := by
  unfold State.runs; decide +kernel

/-! ### Collections and the fabric: witnesses -/

/-- Member 0 of a formed collection of two, its master, with link 0 to member 1. -/
def master : Dev := { linkDev with coll := coll2 }

/-- The same device as the other member: member 1 is master, this one the deputy. -/
def deputy : Dev := { linkDev with coll := { coll2 with master := 1, deputy := 0, deputyValid := true } }

/-- The Ledger entry of the session of context 3, and one with an offer of epoch 2 pending. -/
def entry0 : LedgerEntry :=
  { domain := 1, front := 0, ctx := 3, owner := 0, epoch := 1, source := 0, lastOffered := 1, offer := none, unacked := [], reported := false }
def entry1 : LedgerEntry := { entry0 with lastOffered := 2, offer := some (2, 0, 1, 1000) }
def withEntry (e : LedgerEntry) : Dev := { master with coll := { coll2 with ledger := [e] } }

theorem witness_ledger :
    let m := ledgerMsg
    let x : Landing := { member := 1, domain := 1, front := 0, ctx := 3, sa := 0x10001000000, len := 65536, moves := true, accepted := false }
    let target : Dev := { deputy with landings := [x] }
    let here : LedgerMsg := { m with dest := 0 }
    master.live = true ∧ master.coll.state = .formed ∧ master.coll.lost.getLsbD m.sender = false ∧ master.entry? m = none ∧
    target.live = true ∧ target.coll.state = .formed ∧ target.isMaster = false ∧ here.dest = target.coll.geoId ∧ target.landing? here = some x ∧
    (target.session? (target.ctxNum here.front here.ctx)).any (fun y => newer y.epoch here.epoch) = false ∧
    master.session? (master.ctxNum m.front m.ctx) = none ∧
    (withEntry entry0).isMaster = true ∧ m.dest ≠ (withEntry entry0).coll.geoId ∧ (withEntry entry0).entry? m = some entry0 ∧
    newer m.epoch entry0.lastOffered = true ∧ (withEntry entry1).entry? m = some entry1 ∧ entry1.offer = some (m.epoch, 0, m.dest, 1000) ∧
    m.front = deputy.coll.geoId ∧ ({ m with front := 1 } : LedgerMsg).front ≠ deputy.coll.geoId ∧ entry0.epoch = ({ m with epoch := 1 } : LedgerMsg).epoch ∧
    500000 + 1000 ≤ max (withEntry entry1).now 501000 := by decide +kernel

/-- A session whose MIGRATE the master's ABANDON ends, and one that is ahead of a COMMIT. -/
theorem witness_ledgerSession :
    let k := { kOf (lMigrate 1) with started := true, remote := [{ tag := offerTag, home := 1, sa := 0, len := 0, isWrite := true, since := 0, index := 0, fetch := none, bytes := [] }] }
    let y := { sess with state := .moving, offered := 2 }
    let c := ctxOf [runSlot k] (some y)
    let d : Dev := { deputy with ctxs := [c] }
    let m := ledgerMsg
    let ahead := { sess with epoch := 3 }
    d.live = true ∧ d.coll.state = .formed ∧ d.coll.lost.getLsbD m.sender = false ∧ d.isMaster = false ∧ m.source = d.coll.geoId ∧ m.dest ≠ d.coll.geoId ∧
    d.ctx? (d.ctxNum m.front m.ctx) = some c ∧ c.session = some y ∧ y.state = .moving ∧ y.offered = m.epoch ∧
    d.offering (d.ctxNum m.front m.ctx) = some r0 ∧
    (let d : Dev := { deputy with ctxs := [ctxOf [] (some ahead)] }
     d.session? (d.ctxNum m.front m.ctx) = some ahead ∧ newer ahead.epoch m.epoch = true) := by decide +kernel

/-- A command of a session owned by member 1 that has its steps forwarded, and the one orphaned. -/
def forwardedAcc : RemoteAccess := { tag := 9, home := 1, sa := 0, len := 0, isWrite := true, since := 0, index := 0, fetch := none, bytes := [] }
def kForward : Cmd := { kOf lSeal with remote := [forwardedAcc] }
def kOrphan : Cmd := { kOf lSeal with orphan := some 1000 }

theorem witness_notOwner :
    let d := { master with ctxs := [ctxOf [runSlot kForward] (some { sess with owner := 1 })] }
    d.live = true ∧ d.coll.state = .formed ∧ d.coll.lost.getLsbD ledgerMsg.sender = false ∧ d.cmd? r0 = some kForward ∧
    d.sessionKey r0 kForward = (ledgerMsg.front, ledgerMsg.ctx) ∧
    (kForward.remote.any fun a => isStep a && a.home == ledgerMsg.sender) = true := by decide +kernel

theorem witness_orphanTimeout :
    let x := { sess with claimed := false }
    let c := ctxOf [runSlot kOrphan] (some x)
    let d := { master with ctxs := [c] }
    d.live = true ∧ d.ctx? r0.ctx = some c ∧ d.cmd? r0 = some kOrphan ∧ cmdVerb kOrphan ≠ some .fork ∧ c.session = some x ∧ x.claimed = false ∧ kOrphan.orphan = some 1000 ∧
    2000000 + 1000 ≤ max d.now 2001000 := by decide +kernel

theorem witness_commitMoves :
    let x := { sess with state := .moving }
    let c := ctxOf [Slot.fresh] (some x)
    let d := { master with ctxs := [c] }
    let m := ledgerMsg
    (st d).dev.live = true ∧ d.coll.state = .formed ∧ d.coll.lost.getLsbD m.sender = false ∧ m.front = d.coll.geoId ∧ m.dest ≠ d.coll.geoId ∧ m.ctx < 65536 ∧
    d.ctx? m.ctx = some c ∧ c.session = some x ∧ x.owner = d.coll.geoId ∧ x.state = .moving ∧ newer m.epoch x.epoch = true ∧
    d.offering m.ctx = none ∧ (∀ y ∈ d.ctxs, ∀ v ∈ y.slots, v.cmd = none) := by decide +kernel

/-- The deputy with its link to the master down. -/
def cutDeputy : Dev := { deputy with links := deputy.links.map fun (l : Link) => { l with state := .down } }

theorem witness_collection :
    master.live = true ∧ master.coll.state = .formed ∧ master.coll.lost.getLsbD 1 = false ∧ newer master.coll.epoch (1 : W16) = false ∧
    master.isMaster = true ∧ 20000 + master.heard 1 ≤ max master.now 20900 ∧ deputy.isDeputy = true ∧
    20000 + deputy.heard deputy.coll.master ≤ max deputy.now 20900 ∧
    cutDeputy.isDeputy = true ∧ cutDeputy.linksDownTo 1 = true ∧
    deputy.isMaster = false ∧ 200000 + deputy.heard deputy.coll.master ≤ max deputy.now 200900 ∧ newer (2 : W16) deputy.coll.epoch = true ∧
    (let lone : Dev := { master with coll := { coll2 with lost := 2 } }
     lone.live = true ∧ lone.coll.state = .formed ∧ lone.coll.role = 1 ∧ lone.isMaster = true ∧ memberMsg.sender ≠ lone.coll.geoId ∧
     lone.coll.members.getLsbD memberMsg.sender = true ∧ lone.coll.lost.getLsbD memberMsg.sender = true) ∧
    master.coll.lost.getLsbD (msg.src % 16) = false ∧ memberMsg.sender = deputy.coll.master ∧ memberMsg.sender ≠ deputy.coll.geoId ∧ memberMsg.epoch = deputy.coll.epoch ∧
    deputy.coll.lost = 0 ∧ memberMsg.bitmap.getLsbD deputy.coll.geoId = true ∧ bitmapList 4 = [2] ∧ 2 ≠ deputy.coll.geoId ∧ newer deputy.coll.epoch (1 : W16) = false ∧
    ({ deputy with coll := { deputy.coll with mirrorCopying := true } } : Dev).coll.mirrorCopying = true := by decide +kernel

/-- A member that is forming, expecting two. -/
def forming : Dev :=
  ({ linkDev with coll := { Collection.reset with role := 1, state := .forming } } : Dev).setReg 0x7000 (BitVec.ofNat 64 (2000 * 2 ^ 32 + 0x200))

theorem witness_formation :
    let d := forming
    let m := memberMsg
    let acked : Dev := { d with coll := { d.coll with members := 3, rounds := 2 } }
    d.live = true ∧ d.coll.state = .forming ∧ d.coll.role = 1 ∧ m.sender ≠ d.coll.geoId ∧ d.coll.members = 0 ∧ d.field 0x7000 12 8 ≤ 1 + 1 ∧ acked.coll.members ≠ 0 ∧
    (let e := d.setReg 0x7000 (BitVec.ofNat 64 (2000 * 2 ^ 32 + 0x400)); e.live = true ∧ e.coll.state = .forming ∧ 1 + 1 < e.field 0x7000 12 8) ∧
    (d.coll.joins = [] ∧ m.bitmap.getLsbD d.coll.geoId = true) ∧
    (let e : Dev := { d with coll := { d.coll with geoId := 1, joins := [{ geo := 0, serial := 0, fwVersion := 0, variant := 1 }] } };
      (e.coll.joins.map (·.geo)).foldl min e.coll.geoId = ({ m with sender := 0 } : MemberMsg).sender ∧ e.coll.joins ≠ [] ∧ m.bitmap.getLsbD e.coll.geoId = true) ∧
    acked.coll.members.getLsbD m.sender = true ∧ (∀ i ∈ bitmapList acked.coll.members, i = acked.coll.geoId ∨ i ∈ [m.sender]) ∧
    (let e : Dev := { d with coll := { d.coll with members := 7 } }; e.coll.members.getLsbD m.sender = true ∧ (∃ i ∈ bitmapList e.coll.members, i ≠ e.coll.geoId ∧ i ∉ [m.sender])) ∧
    d.coll.members = 0 ∧ (d.coll.joins.map (·.geo)).foldl min d.coll.geoId = d.coll.geoId ∧
    1000000 * d.field 0x7000 47 32 + d.coll.formStart ≤ max d.now 2000000000 ∧ acked.coll.members ≠ 0 ∧
    10000000 + acked.coll.formStart ≤ max acked.now 10000000 ∧ 3 ≤ acked.coll.rounds + 1 ∧
    (let first : Dev := { acked with coll := { acked.coll with rounds := 0 } }; first.coll.members ≠ 0 ∧ 10000000 + first.coll.formStart ≤ max first.now 10000000 ∧ first.coll.rounds + 1 < 3) := by decide +kernel

theorem witness_deputyMajority :
    let lone : Dev := { deputy with now := 10 ^ 9 }
    let three : Dev := { deputy with now := 10 ^ 9, coll := { deputy.coll with members := 7 } }
    deputy.coll.state = .formed ∧ deputy.coll.deputyValid = true ∧
    ((deputy.coll.geoId :: deputy.others).filter fun m => m == deputy.coll.geoId || decide (deputy.now < 20000 + deputy.heard m)).length = 2 ∧
    lone.coll.state = .formed ∧ (lone.coll.geoId :: lone.others).length = 2 ∧
    ((three.coll.geoId :: three.others).filter fun m => m == three.coll.geoId || decide (three.now < 20000 + three.heard m)).length = 1 ∧
    (three.coll.geoId :: three.others).length = 3 ∧ master.coll.deputyValid = false := by decide +kernel

/-- A request of member 1 for 64 bytes of domain 1's extent, which is homed here. -/
def req (arg : W64) (payload : List Byte) : FabMsg := { msg with tag := 5, address := 0x10000000000, arg := arg, payload := payload }

/-- Nothing holds a request for spans of the store: all are local, in no repair and not on flash alone. -/
def freeOf (d : Dev) (ss : List Span) : Prop := d.repairsIn ss = [] ∧ d.coldOf ss [] = [] ∧ ∀ x ∈ ss, d.isLocal x.sa = true

theorem witness_fabricRead :
    let m := req 64 []
    let s := st master
    let d := s.dev.asked m
    let ss : List Span := [{ sa := 0x10000000000, len := 64 }]
    s.asks 0x01 m ∧ 0 < m.rdLen ∧ m.rdLen ≤ 65536 ∧ freeOf d ss ∧ (∀ sec ∈ [0], sectorIn sec ss = false) ∧
    d.mustHold ss false = false ∧ d.poisonedAny ss = false ∧ d.target m m.rdLen false = .spans 1 ss none := by
  unfold State.asks freeOf
  refine ⟨⟨by decide +kernel, by decide +kernel, by decide +kernel⟩, by decide, by decide, by decide +kernel, by decide +kernel, by decide +kernel, by decide +kernel, by rfl⟩

theorem witness_fabricWrite :
    let m := req 0 [1, 2, 3]
    let s := st master
    let d := s.dev.asked m
    let ss : List Span := [{ sa := 0x10000000000, len := 3 }]
    s.asks 0x02 m ∧ m.plainWr = true ∧ freeOf d ss ∧ (∀ sec ∈ [0], partly ss sec = false) ∧ d.mustHold ss true = false ∧
    d.target m m.payload.length true = .spans 1 ss none := by
  unfold State.asks freeOf
  refine ⟨⟨by decide +kernel, by decide +kernel, by decide +kernel⟩, by decide, by decide +kernel, by decide +kernel, by decide +kernel, by rfl⟩

/-- An ATOM that adds 3 to 8 bytes, and a PUB of a record at version 0. -/
def atomReq : FabMsg := req 0 (bytesOf 32 [(8, 8, 3), (24, 1, 1), (25, 1, 8)])
def pubReq (ver : Nat) : FabMsg := req 0 (bytesOf 32 [(0, 8, ver), (8, 8, 7)])

theorem witness_fabricAtom :
    let m := atomReq
    let s := st master
    let d := s.dev.asked m
    let word : Span := { sa := 0x10000000000, len := 8 }
    s.asks 0x03 m ∧ m.payload.length = 32 ∧ atomicOk (fieldAt m.payload 24 1) (fieldAt m.payload 25 1) = true ∧ freeOf d [word] ∧
    (∀ sec ∈ [0], partly [word] sec = false) ∧ d.mustHold [word] true = false ∧ d.poisonedIn word = false ∧
    d.rowLocked m.src 0x10000000000 8 = false ∧ d.coded = false ∧ d.wordTarget m (fieldAt m.payload 25 1) = .ok (1, 0x10000000000) := by
  unfold State.asks freeOf
  refine ⟨⟨by decide +kernel, by decide +kernel, by decide +kernel⟩, by decide +kernel, by decide +kernel, by decide +kernel, by decide +kernel,
    by decide +kernel, by decide +kernel, by decide +kernel, by decide +kernel, by rfl⟩

theorem witness_fabricPub (ver : Nat) (h : ver = 0 ∨ ver = 4) :
    let m := pubReq ver
    let s := st master
    let d := s.dev.asked m
    let cell : Span := { sa := 0x10000000000, len := 16 }
    s.asks 0x04 m ∧ m.payload.length = 32 ∧ freeOf d [cell] ∧ (∀ sec ∈ [0], partly [cell] sec = false) ∧ d.mustHold [cell] true = false ∧
    d.poisonedIn cell = false ∧ d.coded = false ∧ fieldAt m.payload 0 8 = ver ∧
    leNat (memRead d.mem 0x10000000000 8) = 0 ∧ d.wordTarget m 16 = .ok (1, 0x10000000000) := by
  unfold State.asks freeOf
  rcases h with rfl | rfl <;>
  exact ⟨⟨by decide +kernel, by decide +kernel, by decide +kernel⟩, by decide +kernel, by decide +kernel, by decide +kernel, by decide +kernel,
    by decide +kernel, by decide +kernel, by decide +kernel, by decide +kernel, by rfl⟩

/-- An INV; a SEAL forwarded to a member that does not own its session; a row's lock asked for. -/
theorem witness_fabricInvStep :
    let s := st master
    let run := { msg with payload := natLe 0 8 ++ natLe 0 16 ++ lSeal }
    let lock := { msg with payload := natLe 7 8 ++ natLe 0x10000000000 8 ++ natLe 160 8 }
    let d := s.dev.asked run
    s.asks 0x05 msg ∧ s.asks 0x06 run ∧ d.fromGroup run = true ∧ run.stepKind = some .run ∧
    Verb.ofCode (lineVerb (slice run.payload 24 64)) ≠ some .fork ∧ d.session? (d.ctxNum (run.src % 16) run.ctx) = none ∧
    s.asks 0x06 lock ∧ (s.dev.asked lock).fromGroup lock = true ∧ lock.stepKind = some .lock ∧ (s.dev.asked lock).rowLocks = [] := by
  unfold State.asks; decide +kernel

/-- A request that this device has answered. -/
def kept : FabService :=
  { src := 1, tag := 5, home := 0, since := 1000, lastHold := 1000, domain := 1, exportNo := none, await := [],
    answer := some (.fabric 0x83 1 0 1 3 5 0 0 0 []), req := none, got := [] }

theorem witness_repeatedRequest :
    let d := { master with serving := [kept] }
    d.live = true ∧ d.brings 0x03 atomReq = true ∧ d.serving = [kept] ∧ kept.src = atomReq.src ∧ kept.tag = atomReq.tag ∧ kept.await = [] ∧
    kept.answer = some (.fabric 0x83 1 0 1 3 5 0 0 0 []) ∧ d.now ≤ 1000000 + kept.since := by decide +kernel

/-- An access of member 1's store by a verb, and the device that waits for its answer. -/
def acc (w : Bool) (len : Nat) : RemoteAccess :=
  { tag := 5, home := 1, sa := 0x10010000000000, len := len, isWrite := w, since := 0, index := 0, fetch := none, bytes := [] }
def kAcc (l : List Byte) (a : RemoteAccess) : Cmd := { kOf l with started := true, remote := [a] }
def waitDev (l : List Byte) (a : RemoteAccess) : Dev := { master with ctxs := [ctxOf [runSlot (kAcc l a)] none] }
def rsp : FabMsg := { msg with tag := 5 }

theorem witness_fabricResponses :
    (waitDev lCopy (acc false 64)).live = true ∧ (waitDev lCopy (acc false 64)).brings 0x81 rsp = true ∧
    ((waitDev lCopy (acc false 64)).ackSome 0).accessOf rsp = some (r0, kAcc lCopy (acc false 64), acc false 64) ∧ (acc false 64).isWrite = false ∧
    (waitDev lFill (acc true 64)).brings 0x82 rsp = true ∧
    ((waitDev lFill (acc true 64)).ackSome 0).accessOf rsp = some (r0, kAcc lFill (acc true 64), acc true 64) ∧ (acc true 64).isWrite = true ∧
    rsp.status ≠ .dataLost ∧
    (let lost := { rsp with flags := BitVec.ofNat 16 Status.dataLost.code }
     (waitDev lFill (acc true 64)).brings 0x82 lost = true ∧ lost.status = .dataLost ∧
     ((waitDev lFill (acc true 64)).ackSome 0).accessOf lost = some (r0, kAcc lFill (acc true 64), acc true 64)) := by decide +kernel

theorem witness_fabricWordResponses :
    (waitDev lAtomic (acc true 8)).brings 0x83 rsp = true ∧ cmdVerb (kAcc lAtomic (acc true 8)) = some .atomic ∧ rsp.status = .ok ∧
    ((waitDev lAtomic (acc true 8)).ackSome 0).accessOf rsp = some (r0, kAcc lAtomic (acc true 8), acc true 8) ∧
    (waitDev lBatch (acc true 8)).brings 0x83 rsp = true ∧ cmdVerb (kAcc lBatch (acc true 8)) = some .atomicBatch ∧
    ((waitDev lBatch (acc true 8)).ackSome 0).accessOf rsp = some (r0, kAcc lBatch (acc true 8), acc true 8) ∧
    (waitDev lPublish (acc true 16)).brings 0x84 rsp = true ∧ cmdVerb (kAcc lPublish (acc true 16)) = some .publish ∧
    ((waitDev lPublish (acc true 16)).ackSome 0).accessOf rsp = some (r0, kAcc lPublish (acc true 16), acc true 16) := by decide +kernel

theorem witness_fabricOtherResponses (sk : StepKind) :
    let a := { acc true 0 with sa := 0, index := sk.code }
    (waitDev lInvalidate (acc true 0)).brings 0x85 rsp = true ∧ cmdVerb (kAcc lInvalidate (acc true 0)) = some .invalidate ∧
    ((waitDev lInvalidate (acc true 0)).ackSome 0).accessOf rsp = some (r0, kAcc lInvalidate (acc true 0), acc true 0) ∧
    (waitDev lSeal a).brings 0x86 rsp = true ∧ isStep a = true ∧ StepKind.ofCode a.index = some sk ∧
    ((waitDev lSeal a).ackSome 0).accessOf rsp = some (r0, kAcc lSeal a, a) ∧
    ((((waitDev lSeal a).ackSome 0).answered r0 a).ctx? r0.ctx).isSome = true ∧
    ((waitDev lFill (acc true 64)).atTime 2000).brings 0x8F rsp = true ∧
    (((waitDev lFill (acc true 64)).atTime 2000).ackSome 0).accessOf rsp = some (r0, kAcc lFill (acc true 64), acc true 64) := by
  cases sk <;> decide +kernel

theorem witness_holdTimer :
    let x : FabService := { kept with answer := none, req := some (1, req 64 []), await := [(9, 1)] }
    let d : Dev := { master with serving := [x] }
    master.serving = [] ∧ d.live = true ∧ d.serving = [x] ∧ x.src ≠ hostSource ∧ x.home < 16 ∧ x.req = some (1, req 64 []) ∧ x.await ≠ [] ∧
    100000 + x.lastHold ≤ max d.now 101000 ∧ master.brings 0x15 msg = true ∧ master.linkUp 0 = true := by decide +kernel

/-! ### Images, exports, gates: witnesses -/

/-- IMG_CTRL writes: GO with SOURCE and LENGTH; a device in a phase of a load. -/
def wGo (source length : Nat) : RegWrite := wr 0x2000 (BitVec.ofNat 64 (length * 2 ^ 16 + 10 * 2 ^ 8 + source * 2 ^ 4 + 1))
def loading (p : LoadPhase) : Dev := { dev0 with load := { ImageLoad.idle with phase := p, length := 64, drainEnd := 5000, wiping := [3] } }

theorem witness_goRefused :
    (st (loading .fetching)).writes (wGo 0 4) ∧ (wGo 0 4).reg = 0x2000 ∧ (wGo 0 4).sets 0 = true ∧
    ((st (loading .fetching)).dev.accessed (wGo 0 4).src).load.phase ≠ .idle ∧
    (st dev0).writes { wGo 0 4 with src := .docent } ∧ (dev0.accessed .docent).load.phase = .idle ∧
    ((dev0.accessed .docent).plainWrite { wGo 0 4 with src := .docent }).field 0x2000 7 4 = 0 := by
  unfold State.writes; decide +kernel

theorem witness_imgGo (source length : Nat) (h : (source = 0 ∧ (length = 0 ∨ length = 16384)) ∨ ((source = 1 ∨ source = 2) ∧ length = 1)) :
    let w := wGo source length
    let e := ((st dev0).dev.accessed w.src).plainWrite w
    (st dev0).writes w ∧ w.reg = 0x2000 ∧ w.sets 0 = true ∧ ((st dev0).dev.accessed w.src).load.phase = .idle ∧ w.src = .bar 0 5 ∧
    e.field 0x2000 39 16 = length ∧ e.field 0x2000 7 4 = source ∧ (e.reg 0x2008).toNat % 64 = 0 := by
  unfold State.writes
  rcases h with ⟨rfl, rfl | rfl⟩ | ⟨rfl | rfl, rfl⟩ <;> decide +kernel

theorem witness_imagePhases :
    (loading .fetching).live = true ∧ (loading .fetching).load.phase = .fetching ∧ (loading .fetching).validate [] = .error 2 ∧
    (loading .quiescing).live = true ∧ (loading .quiescing).load.phase = .quiescing ∧ (loading .quiescing).load.drainEnd ≤ max (loading .quiescing).now 5000 ∧
    ({ loading .fetching with load := { ImageLoad.idle with phase := .fetching, length := 64, spi := some 0 } } : Dev).load.phase = .fetching ∧
    max (loading .quiescing).now 4999 < (loading .quiescing).load.drainEnd ∧ (loading .wiping).live = true ∧ (loading .wiping).load.phase = .wiping ∧
    (loading .wiping).load.wiping.contains 3 = true ∧ (loading .wiping).load.wiping.filter (· != 3) = [] := by
  refine ⟨by decide +kernel, by decide +kernel, by rfl, ?_⟩
  decide +kernel

/-- EXP_CTRL writes of domain 1 with export 2, its range in EXP_CVA and EXP_LEN. -/
def wExp (op : Nat) : RegWrite := wr (pageOff 1 0x210) (BitVec.ofNat 64 (2 * 2 ^ 10 + 3 * 2 ^ 8 + op))
def expDev (cva len : Nat) (xs : List ExportEntry) : Dev :=
  { (dev0.setReg (pageOff 1 0x200) (BitVec.ofNat 64 cva)).setReg (pageOff 1 0x208) (BitVec.ofNat 64 len) with exports := xs }
def exp2 (clearing : Bool) : ExportEntry :=
  { domain := 1, number := 2, cva := 0x100000, len := 0x10000, rights := 3, peerGroup := 1, peerDomain := 1, anyDomain := false, clearing := clearing }

theorem witness_exportSet (op : Nat) (h : op = 1 ∨ op = 2) :
    let s := st (expDev 0x100000 0x10000 [])
    let d := s.dev.accessed (wExp op).src
    let e := d.plainWrite (wExp op)
    s.writes (wExp op) ∧ isExpOp op (wExp op) = true ∧ pageOf (wExp op).reg = 1 ∧ (d.exports.any fun y => y.domain == 1 && y.clearing) = false ∧
    e.field (pageOff 1 0x200) 56 0 % 65536 = 0 ∧ e.field (pageOff 1 0x208) 39 0 % 65536 = 0 ∧ e.field (pageOff 1 0x208) 39 0 ≠ 0 ∧
    e.expCtl 1 9 8 ≠ 0 ∧
    (st (expDev 0x100000 0x10000 [exp2 true])).writes (wExp op) ∧ (((expDev 0x100000 0x10000 [exp2 true]).toL0 0).exports.any fun y => y.domain == 1 && y.clearing) = true := by
  unfold State.writes
  rcases h with rfl | rfl <;> decide +kernel

theorem witness_exportRanges :
    (∃ es, cover (expDev 0x100000 0x10000 []).extents 1 0x100000 0x10000 = .ok es) ∧ (0x900000 % 65536 = 0) ∧
    (∀ es, cover (expDev 0x900000 0x10000 []).extents 1 0x900000 0x10000 ≠ .ok es) ∧ ¬ ((0x100040 : Nat) % 65536 = 0) :=
  ⟨⟨[ext1], by rfl⟩, by decide, fun es h => by simp [cover, coverFrom, findExtent, expDev, dev0, Dev.setReg, ext1] at h, by decide⟩

theorem witness_exportCleared :
    let d := expDev 0x100000 0x10000 [exp2 true]
    let x : FabService := { kept with exportNo := some 2, answer := none }
    d.live = true ∧ d.exports.find? (fun y => y.domain == 1 && y.clearing) = some (exp2 true) ∧ d.exportHeld 1 2 = false ∧
    ({ d with serving := [x] } : Dev).exportHeld 1 2 = true := by decide +kernel

/-- GATE_CTRL writes of link 0: ARM with two entries, and ARM cleared. -/
def wGate (v : W64) : RegWrite := wr (0x304000 + 0x408) v

theorem witness_gateArm :
    (st dev0).writes (wGate 0x201) ∧ pointOf (wGate 0x201).reg = some ⟨.zherek, 0⟩ ∧ armsTo (dev0.accessed (wGate 0x201).src) (wGate 0x201) true = true ∧
    (st (dev0.setReg (0x304000 + 0x408) 0x201)).writes (wGate 0x200) ∧
    armsTo ((dev0.setReg (0x304000 + 0x408) 0x201).accessed (wGate 0x200).src) (wGate 0x200) false = true := by
  unfold State.writes; decide +kernel

/-- A link point with an armed list at 2000 ns, an active list of two entries, and one granule queued. -/
def gran (m : Option OutMsg) : EgGranule := { lane := false, bytes := 64, cmd := none, enq := 900, msg := m }
def queue1 (m : Option OutMsg) : Queue := { Queue.system with mem := [gran m], upd := 1000 }
def pt (p : Point) (m : Option OutMsg) : EgPoint := { EgPoint.reset p with rate := 1000, queues := [queue1 m] }
def ptDev (p : Point) (m : Option OutMsg) : Dev := { linkDev with points := [pt p m] }

theorem witness_gateTakeover :
    let d := (dev0.setReg (0x304000 + 0x408) 0x201).setReg (0x304000 + 0x410) 2000
    d.live = true ∧ d.pointEnabled ⟨.zherek, 0⟩ = true ∧ d.field (0x304000 + 0x408) 0 0 = 1 ∧
    (d.reg (0x304000 + 0x410)).toNat ≤ max d.now 2000 ∧ max d.now 1999 < (d.reg (0x304000 + 0x410)).toNat ∧ (⟨.zherek, 0⟩ : Point).base = 0x304000 := by
  decide +kernel

theorem witness_gateEntryBoundary :
    let e := { EgPoint.reset ⟨.zherek, 0⟩ with rate := 1000, activeLen := 2, entryEnd := 1500 }
    let d := { dev0 with points := [e] }
    d.live = true ∧ d.point? ⟨.zherek, 0⟩ = some e ∧ e.activeLen ≠ 0 ∧ e.entryEnd ≤ max d.now 1500 := by decide +kernel

theorem witness_shaperGranule (p : Point) (m : Option OutMsg)
    (h : (p = ⟨.zherek, 0⟩ ∧ (m = none ∨ m = some (.control 0 5 0))) ∨ (p = ⟨.cxl, 0⟩ ∧ (m = none ∨ m = some (.eventIrq 0)))) :
    (ptDev p m).live = true ∧ (ptDev p m).point? p = some (pt p m) ∧ (pt p m).rate ≠ 0 ∧
    (let d := (ptDev p m).atTime 1000
     d.pick (d.creditsTo (pt p m) d.now) = some (queue1 m, false) ∧ (queue1 m).next = some (gran m, { queue1 m with mem := [] }) ∧ (gran m).msg = m) := by
  rcases h with ⟨rfl, rfl | rfl⟩ | ⟨rfl, rfl | rfl⟩ <;> decide +kernel

theorem witness_shaperNothing :
    let d := { dev0 with points := [{ EgPoint.reset ⟨.onfi, 2⟩ with rate := 1000 }] }
    (d.atTime 1000).pick ((d.atTime 1000).creditsTo { EgPoint.reset ⟨.onfi, 2⟩ with rate := 1000 } 1000) = none := by decide +kernel

/-- Channel 2 with a program of granule 4 queued, not yet on the media. -/
def chanOp : MediaOp := MediaOp.make .program 4 2 256 1 []
def chanDev : Dev := { dev0 with media := [chanOp], points := [{ EgPoint.reset ⟨.onfi, 2⟩ with rate := 1000, queues := [queue1 none] }] }

theorem witness_shaperChannel :
    let e := { EgPoint.reset ⟨.onfi, 2⟩ with rate := 1000, queues := [queue1 none] }
    chanDev.live = true ∧ chanDev.point? ⟨.onfi, 2⟩ = some e ∧ e.rate ≠ 0 ∧
    ((chanDev.atTime 1000).pick ((chanDev.atTime 1000).creditsTo e (chanDev.atTime 1000).now)).isSome = true ∧
    (queue1 none).next = some (gran none, { queue1 none with mem := [] }) := by decide +kernel

theorem witness_telemSample :
    let d := { dev0 with points := [EgPoint.reset ⟨.cxl, 0⟩] }
    let s (q : Queue) : Queue := { q with globalStats := q.globalStats.add q.depth (q.delay 1000), domainStats := q.domainStats.add q.depth (q.delay 1000) }
    d.live = true ∧ (∀ y ∈ d.points, ∀ z ∈ y.queues, z.globalStats.fills (s z).globalStats = [] ∧ z.domainStats.fills (s z).domainStats = []) := by
  decide +kernel

/-! ### Links: witnesses -/

/-- Link 0 in training with a number of TS1 and TS2 counted. -/
def trainLink (n1 n2 : Nat) : Link :=
  { Link.reset 0 with unit := .joined, nearLanes := 0xFF, farLanes := 0xFF, state := .training, offered := 0xFF, peerLanes := 0xFF, ts1 := n1,
                      ts2 := n2, width := if n2 < 8 then 0 else 8, peerFid := 1, peerMember := true, retrainStart := 1000 }
def trainDev (n1 n2 : Nat) : Dev := { dev0 with links := [trainLink n1 n2] }

theorem witness_ts1 (n : Nat) (h : n = 0 ∨ n = 7) :
    (trainDev n 0).live = true ∧ (trainDev n 0).link? trainMsg.link = some (trainLink n 0) ∧ (trainLink n 0).state = .training ∧
    (trainDev n 0).linkWorks trainMsg.link = true ∧
    (if (trainLink n 0).peerLanes == trainMsg.lanes && (trainLink n 0).peerFid == trainMsg.fid && (trainLink n 0).peerMember == trainMsg.member then (trainLink n 0).ts1 + 1 else 1) = n + 1 := by
  rcases h with rfl | rfl <;> decide +kernel

theorem witness_ts2 :
    (trainDev 8 6).live = true ∧ (trainDev 8 6).link? 0 = some (trainLink 8 6) ∧ (trainLink 8 6).ts2 + 1 ≠ 8 ∧ (trainDev 8 7).link? 0 = some (trainLink 8 7) ∧
    (trainLink 8 7).ts2 + 1 = 8 ∧ (lanesOf ((trainLink 8 7).offered &&& trainMsg.lanes)).1 ≠ 0 ∧ (lanesOf ((trainLink 8 7).offered &&& 0)).1 = 0 := by
  decide +kernel

theorem witness_config :
    (trainDev 8 8).live = true ∧ (trainDev 8 8).link? 0 = some (trainLink 8 8) ∧ (trainLink 8 8).state = .training ∧ 8 ≤ (trainLink 8 8).ts2 ∧
    (trainLink 8 8).width = 8 ∧ 5000000 + (trainLink 8 8).retrainStart ≤ max (trainDev 8 8).now 5001000 ∧
    max (trainDev 8 8).now 5000999 < 5000000 + (trainLink 8 8).retrainStart := by decide +kernel

theorem witness_nak :
    let f (n : Nat) : ReplayFrame := { seq := n, msgs := [], resent := 0 }
    let d := { linkDev with links := modifyAll (·.index == 0) (fun (l : Link) => { l with replay := [f 4, f 5] }) linkDev.links }
    d.live = true ∧ ((d.link? 0).map fun x => (x.state, x.replay.findIdx? (·.seq == 5))) = some (.up, some 1) := by decide +kernel

/-- ZK_CTRL writes of link 0: DISABLE, RETRAIN. -/
def wZk (v : W64) : RegWrite := wr (0x304000 + 0x600) v

theorem witness_linkCtrl :
    (st linkDev).writes (wZk 1) ∧ linkCtrlOf (wZk 1).reg = some 0 ∧ (wZk 1).sets 0 = true ∧ (linkDev.accessed (wZk 1).src).field (linkOff 0 0x600) 0 0 = 0 ∧
    ((linkDev.accessed (wZk 1).src).plainWrite (wZk 1)).field (linkOff 0 0x600) 0 0 = 1 ∧ (st linkDev).writes (wZk 2) ∧ (wZk 2).sets 1 = true ∧
    ((linkDev.accessed (wZk 2).src).plainWrite (wZk 2)).field (linkOff 0 0x600) 0 0 ≠ 1 ∧
    (((linkDev.accessed (wZk 2).src).plainWrite (wZk 2)).modLink 0 fun y => { y with disabled := false }).linkWorks 0 = true := by
  unfold State.writes; decide +kernel

/-! ### Hosts, the vitrine, media, the ladder, fault records: witnesses -/

/-- A window of host 5 onto domain 1's extent, and the reads and writes that reach it. -/
def win1 (accepted : Bool) : Window :=
  { host := 5, dpa := 0x20000000, domain := 1, cva := 0x100000, len := 0x100000, region := 0, loan := 0x10001, accepted := accepted }
def hostDev : Dev := { dev0 with windows := [win1 true] }
def ma (dpa : Nat) : MemAccess := { port := 0, host := 5, dpa := dpa }

theorem witness_hdm :
    let s := st hostDev
    let d := s.dev.reached (.hdmRead (ma 0x20000040) []) 0
    let e := s.dev.reached (.hdmWrite (ma 0x20000040) 0 [] []) 0
    s.dev.serves 0 = true ∧ d.admits = true ∧ e.admits = true ∧ (ma 0x40).dpa < 0x10000000 ∧ 0x10000000 ≤ (ma 0x20000040).dpa ∧
    d.registrar 5 0x20000040 false = .admitted 1 ext1 0x10000000040 ∧ d.portFull 0 1 = false ∧ ext1.rights ≠ .vitrine ∧ d.isLocal 0x10000000040 = true ∧
    d.underRepair { sa := 0x10000000040, len := 64 } = false ∧ d.granule? (0x10000000040 / 65536) = none ∧ d.registrar 5 0x30000000 false = .refused ∧
    e.registrar 5 0x20000040 true = .admitted 1 ext1 0x10000000040 ∧ e.registrar 5 0x30000000 true = .refused := by decide +kernel

/-- A port whose queue of domain 1 holds 128 KiB, the next granule ready to leave. -/
def fullGran : EgGranule := { lane := false, bytes := 128 * 1024, cmd := none, enq := 900, msg := none }
def fullPt : EgPoint := { EgPoint.reset ⟨.cxl, 0⟩ with rate := 1000, queues := [{ Queue.system with domain := 1, mem := [fullGran], upd := 1000 }, Queue.system] }
def fullDev : Dev := { hostDev with points := [fullPt] }

theorem witness_portFull :
    let d := (st fullDev).dev.reached (.hdmRead (ma 0x20000040) []) 0
    (st fullDev).dev.serves 0 = true ∧ d.admits = true ∧ d.registrar 5 0x20000040 false = .admitted 1 ext1 0x10000000040 ∧ d.portFull 0 1 = true := by
  decide +kernel

/-- A read without room waits at the Registrar and is served once a granule has left the port (R302, R316). -/
theorem test_readWaits :
    let d := devHdmRead (ma 0x20000040) [] fullDev
    let e := (devShaperGranule ⟨.cxl, 0⟩ 1000 d).serveReads ⟨.cxl, 0⟩
    d.readWaits = [.hdmRead (ma 0x20000040) []] ∧ d.out = [] ∧ e.readWaits = [] ∧
    (e.points.flatMap fun p => p.queues.flatMap fun q => q.mem.map fun g => (q.domain, g.bytes)) = [(1, 64)] := by decide +kernel

/-- The event of that window before host 5 accepts it. -/
def ev1 : DcEvent :=
  { host := 5, add := true, forced := false, dpa := 0x20000000, len := 0x100000, domain := 1, loan := 0x10001, answered := false, retrieved := false }
def dcDev : Dev := { dev0 with windows := [win1 false], dcEvents := [ev1] }

theorem witness_dynamicCapacity :
    let d := (st dcDev).dev.reached (.addDynamicCapacityResponse 0 5 0x20000000 ev1.len) 0
    let e := (st hostDev).dev.reached (.releaseDynamicCapacity 0 5 0x20000000) 0
    let f := (st dcDev).dev.reached (.eventRetrieval 0 5) 0
    (st dcDev).dev.serves 0 = true ∧ d.mailboxOk 0 5 = true ∧ (d.dcEvents.find? fun y => y.host == 5 && y.add && !y.answered &&
      (ev1.len == 0 || (decide (y.dpa ≤ 0x20000000) && decide (0x20000000 + ev1.len ≤ y.dpa + y.len)))) = some ev1 ∧ (0x20000000 : Nat) = ev1.dpa ∧
    d.windows.find? (fun y => y.host == 5 && y.dpa == ev1.dpa && y.len == ev1.len && !y.accepted) = some (win1 false) ∧
    (st hostDev).dev.serves 0 = true ∧ e.mailboxOk 0 5 = true ∧
    e.windows.find? (fun y => y.host == 5 && y.accepted && decide (y.dpa ≤ 0x20000000) && decide (0x20000000 < y.dpa + y.len)) = some (win1 true) ∧
    f.mailboxOk 0 5 = true ∧ f.dcEvents.find? (fun y => y.host == 5 && !y.retrieved) = some ev1 ∧
    (hostDev.reached (.getDynamicCapacityExtentList 0 5) 0).mailboxOk 0 5 = true ∧
    (hostDev.reached (.eventRetrieval 0 5) 0).dcEvents.find? (fun y => y.host == 5 && !y.retrieved) = none := by decide +kernel

/-- A VITRINE extent, the window onto it, and a line of it. -/
def extV : Extent := { ext1 with rights := .vitrine, sa := 0x20000000000 }
def vitDev : Dev := { hostDev with image := some { img1 with vitrine := [vit1] }, extents := [extV] }
def vLine : Nat := 0x20000000040 / 64
def owned : DirEntry := { line := vLine, domain := 1, west := false, state := .modified, holders := [5], broad := false, granted := 0, kept := none }

theorem witness_vitrine (i : Instr) (h : i = .memrdSnpcur (ma 0x20000040) [] ∨ i = .memrdSnpdata (ma 0x20000040) [] ∨ i = .memrdSnpinv (ma 0x20000040) [] ∨
      i = .meminvSnpinv (ma 0x20000040) ∨ i = .memclnevct (ma 0x20000040) ∨ i = .vitrineMemwr (ma 0x20000040) 0 [] false []) :
    let s := st vitDev
    let d := s.dev.reached i 0
    s.dev.serves 0 = true ∧ d.admits = true ∧ (∀ wr : Bool, d.registrar 5 0x20000040 wr = .admitted 1 extV 0x20000000040) ∧ extV.rights = .vitrine ∧
    d.isLocal 0x20000000040 = true ∧ d.portFull 0 1 = false ∧ d.ownsLine (0x20000000040 / 64) 5 = false ∧ ({ d with directory := [owned] } : Dev).ownsLine (0x20000000040 / 64) 5 = true ∧
    failingParts { a := ma 0x20000040, domain := 1, sa := 0x20000000040 } 0 [] = [] ∧
    d.withdrawnLine (ma 0x20000040) = none ∧ ({ d with directory := [owned] } : Dev).withdrawnLine (ma 0x20000040) = none := by
  rcases h with rfl | rfl | rfl | rfl | rfl | rfl <;> decide +kernel

/-- A window that goes while its host owns a line: the line is snooped for the host, whose writeback still finds it (R346). -/
theorem test_releaseOwned :
    let d := devReleaseDynamicCapacity 0 5 0x20000000 { vitDev with directory := [owned] }
    d.windows = [] ∧ (d.vitTxns.map fun t => (t.line, t.active, t.awaiting)) = [(vLine, true, [5])] ∧ (d.withdrawnLine (ma 0x20000040)).isSome = true := by
  decide +kernel

/-- A transaction that waits for host 5. -/
def txn : VitTxn := { line := vLine, domain := 1, req := .snpData 0 6 0x20000040, active := true, awaiting := [5], since := 1000 }

theorem witness_vitrineAnswers :
    let d := { vitDev with vitTxns := [txn] }
    d.live = true ∧ d.awaits vLine 5 = some txn ∧ txn.since + d.field 0x6000 31 0 * 1000 ≤ max d.now 101000 ∧ d.servesMem 0 = true ∧
    d.vitTxns.find? (·.line == vLine) = some txn ∧ d.portUp 0 = true := by decide +kernel

/-- Media operations on channel 2: a program, an erase and a read of granule 4, all on the media. -/
def op (k : MediaOpKind) (dom : Nat) (discard : Bool) : MediaOp :=
  { MediaOp.make k 4 2 dom 1 [] with onMedia := true, discard := discard }
def gran4 : Granule := { number := 4, domain := 1, residency := .dram, channel := 2, block := 1, lastRead := 0, dropping := false }
def block1 : FlashBlock := { channel := 2, number := 1, erased := false, cycles := 0, reads := 0, lastPatrol := 0, retired := false }
def mediaDev (o : MediaOp) : Dev := { dev0 with media := [o], granules := [gran4], flash := [block1] }

theorem witness_mediaPrograms :
    let found (d : Dev) := d.media.find? fun x => x.kind == .program && x.granule == 4 && x.onMedia
    (mediaDev (op .program 1 true)).live = true ∧ found (mediaDev (op .program 1 true)) = some (op .program 1 true) ∧
    (op .program 1 true).discard = true ∧ found (mediaDev (op .program 1 false)) = some (op .program 1 false) ∧
    (op .program 1 false).discard = false ∧ (op .program 1 false).domain ≠ 256 ∧
    found (mediaDev (op .program 256 false)) = some (op .program 256 false) ∧ (op .program 256 false).domain = 256 ∧
    (mediaDev (op .program 1 false)).granule? 4 = some gran4 ∧ gran4.residency = .dram ∧
    (let d : Dev := { mediaDev (op .program 256 false) with granules := [{ gran4 with residency := .flash }] }
     found d = some (op .program 256 false) ∧ d.granule? 4 = some { gran4 with residency := .flash }) := by decide +kernel

/-- An erase that leaves its block below its rated cycles, where they are more than one, and one that brings it to them. -/
theorem witness_mediaErases (h : 1 < Config.ratedCycles 2) :
    let o := op .erase 256 false
    let worn : Dev := { mediaDev o with flash := [{ block1 with cycles := Config.ratedCycles 2 }] }
    let found (d : Dev) := d.media.find? fun x => x.kind == .erase && x.channel == 2 && x.block == 1 && x.onMedia
    let w (d : Dev) := ((d.endMedia o).modFlash 2 1 fun b => { b with cycles := b.cycles + 1, reads := 0, erased := true }).showWear
    let atRated (d : Dev) := (w d).flash.any fun b => (b.channel == 2 && b.number == 1) && decide (max 1 (Config.ratedCycles 2) ≤ b.cycles)
    found (mediaDev o) = some o ∧ atRated (mediaDev o) = false ∧ found worn = some o ∧ atRated worn = true := by
  refine ⟨by decide +kernel, ?_, by rfl, ?_⟩
  · have e : (((mediaDev (op .erase 256 false)).endMedia (op .erase 256 false)).modFlash 2 1
      fun b => { b with cycles := b.cycles + 1, reads := 0, erased := true }).showWear.flash = [{ block1 with cycles := 1, erased := true }] := by rfl
    simp only [e, List.any_cons, List.any_nil, Bool.or_false, Bool.and_eq_false_iff, decide_eq_false_iff_not]
    exact .inr (by omega)
  have e : ((({ mediaDev (op .erase 256 false) with flash := [{ block1 with cycles := Config.ratedCycles 2 }] } : Dev).endMedia (op .erase 256 false)).modFlash 2 1
    fun b => { b with cycles := b.cycles + 1, reads := 0, erased := true }).showWear.flash = [{ block1 with cycles := Config.ratedCycles 2 + 1, erased := true }] := by rfl
  simp only [e, List.any_cons, List.any_nil, Bool.or_false, Bool.and_eq_true, decide_eq_true_eq]
  exact ⟨by decide, by omega⟩

/-- A read for one host, in a domain without a hot tier, whose sectors are good. -/
theorem witness_mediaReads :
    let h : HostWait := { a := ma 0x20000040, domain := 1, sa := 4 * 65536 + 64 }
    let o := { op .read 1 false with hosts := [h] }
    let d := (mediaDev o).setReg (pageOff 1 0x100) 0
    let u := ({ d.atTime 2000 with draws := d.draws + 1 } : Dev).endMedia o
    d.live = true ∧ d.media.find? (fun x => x.kind == .read && x.granule == 4 && x.onMedia) = some o ∧ o.cmds = [] ∧ o.fabs = [] ∧ o.hosts = [h] ∧
    o.discard = false ∧ u.tierField o.domain 1 1 = 0 ∧ ∀ sec ∈ [0], sec / 2048 ≠ 4 := by decide +kernel

/-- A patrol read of a block that is as worn as its die, and of one that is less worn. -/
theorem witness_flashPatrol :
    let d (bs : List FlashBlock) : Dev := { dev0 with flash := bs }
    let mine (b : FlashBlock) : Bool := b.channel == 2 && b.number == 1
    let p (bs : List FlashBlock) := ((d bs).atTime 2000).modFlash 2 1 fun b => { b with reads := b.reads + 1, lastPatrol := 2000 }
    let more := [block1, { block1 with cycles := 100 }]
    dev0.live = true ∧ (dev0.channels.any fun x => x.index == 2 && x.usable && !x.off) = true ∧
    (d [block1]).flash.find? mine = some block1 ∧ block1.lastPatrol = 0 ∧ (p [block1]).underworn 2 1 = false ∧
    (d more).flash.find? mine = some block1 ∧ (p more).underworn 2 1 = true := by
  refine ⟨by decide +kernel, by decide +kernel, by decide +kernel, rfl, ?_, by decide +kernel, ?_⟩ <;>
    simp [Dev.underworn, Dev.modFlash, Dev.atTime, modifyAll, block1]

/-- A domain whose tier is on, below its high mark with a quota of 4 GiB, and at it with one of 1 GiB filled by an extent. -/
def tierDev (quota : Nat) : Dev :=
  (({ dev0 with extents := [{ ext1 with len := 0x40000000 }], image := some { img1 with domains := [{ dom1 with dramQuota := quota, flashQuota := 1 }] } } : Dev).setReg (pageOff 1 0x100)
    (BitVec.ofNat 64 (0x258 * 2 ^ 32 + 0x5A * 2 ^ 24 + 0x50 * 2 ^ 16 + 3))).setReg 0x4020 (BitVec.ofNat 64 (50 * 2 ^ 16))

/-- The same at its high mark, with a sealed extent of one granule that is in both tiers or in DRAM alone. -/
def sealedExt : Extent := { ext1 with cva := 0x80000000, len := 65536, sa := 0x10080000000, rights := .sealed }
def gran1 (y : Residency) : Granule := { gran4 with number := 0x1008000, residency := y }
def fullTier (gs : List Granule) : Dev :=
  { (tierDev 1) with extents := [{ ext1 with len := 0x40000000 }, sealedExt], granules := gs, now := 10 ^ 12 }

theorem witness_tierCheck :
    (tierDev 4).live = true ∧ (tierDev 4).dramUse 1 * 100 < (tierDev 4).tierField 1 31 24 * (tierDev 4).dramQuota 1 ∧ ((tierDev 1).domainRec 1).isSome = true ∧
    (tierDev 1).tierField 1 0 0 ≠ 0 ∧ (tierDev 1).flashOpen = true ∧ (tierDev 1).tierField 1 31 24 * (tierDev 1).dramQuota 1 ≤ (tierDev 1).dramUse 1 * 100 ∧
    ((tierDev 1).atTime 0).eligibleGranules 1 = [] := by decide +kernel

theorem witness_tierCheckMoves (y : Residency) (h : y = .both ∨ y = .dram) :
    let d := fullTier [gran1 y]
    d.live = true ∧ (d.domainRec 1).isSome = true ∧ d.tierField 1 0 0 ≠ 0 ∧ d.flashOpen = true ∧
    d.tierField 1 31 24 * d.dramQuota 1 ≤ (d.atTime 0).dramUse 1 * 100 ∧ (d.atTime 0).eligibleGranules 1 = [(0x1008000, y, 0)] ∧
    (d.atTime 0).granule? 0x1008000 = some (gran1 y) ∧ (d.atTime 0).usageOver 1 ((d.atTime 0).tierField 1 23 16) 0 = true ∧
    65536 + (d.atTime 0).flashUse 1 ≤ (d.atTime 0).flashQuota 1 ∧
    ((d.atTime 0).media.filter fun x => x.kind == .program && x.domain == 1 && !x.discard) = [] := by
  rcases h with rfl | rfl <;> decide +kernel

/-- A repair of sector 8 on a rung. -/
def rep (rung tries : Nat) : Repair := { sector := 8, rung := rung, tries := tries, waiters := [.patrol] }

theorem witness_repairs (n : Nat) (h : n = 1 ∨ n = 2 ∨ n = 3 ∨ n = 4) :
    let d := { dev0 with repairs := [rep n 2] }
    dev0.live = true ∧ dev0.isLocal (8 * 32) = true ∧ (dev0.repairs.any fun y => y.sector == 8) = false ∧ d.live = true ∧ d.repair? 8 = some (rep n 2) ∧
    (rep n 2).rung = n ∧ 1 < (rep n 2).tries ∧ d.isLocal (8 * 32) = true ∧ (rep 1 1).tries ≤ 1 ∧ (rep 2 2).rung ≠ 1 ∧ d.entryFails 8 = false := by
  rcases h with rfl | rfl | rfl | rfl <;> decide +kernel

/-- A collection with a rebuild plan whose member 1 is lost, in three states of its rebuild. -/
def codedDev (f : Collection → Collection) : Dev := { master with coll := f { coll2 with lost := 2, rebuildTarget := 1, rebuildTotal := 1, planK := 1, planM := 1 } }

theorem witness_unitRebuilt :
    let d := codedDev id
    let e := codedDev fun c => { c with rejoining := 2 }
    let f := codedDev fun c => { c with rejoining := 2, rebuildTotal := 2 }
    d.live = true ∧ d.coll.state = .formed ∧ d.coll.planK ≠ 0 ∧ d.coll.rebuiltUnits.contains 0 = false ∧ d.coll.rejoining.getLsbD d.coll.rebuildTarget = false ∧
    e.coll.state = .formed ∧ e.coll.rejoining.getLsbD e.coll.rebuildTarget = true ∧ e.coll.rebuildTotal ≤ e.coll.rebuiltUnits.length + 1 ∧
    f.coll.rejoining.getLsbD f.coll.rebuildTarget = true ∧ f.coll.rebuiltUnits.length + 1 < f.coll.rebuildTotal := by decide +kernel

/-- A sector of member 1, which is lost: with one member left of two the stripe is decoded, with both lost of it it is not. -/
theorem witness_rebuildDone :
    let sec := 0x10010000000000 / 32
    let d := codedDev id
    let e := codedDev fun c => { c with members := 7, lost := 6, planK := 2 }
    d.live = true ∧ d.isLocal (sec * 32) = false ∧ d.coll.planK ≠ 0 ∧ d.homeServes (sec * 32) 32 = false ∧ d.canDecode (sec * 32) 32 = true ∧
    e.live = true ∧ e.isLocal (sec * 32) = false ∧ e.coll.planK ≠ 0 ∧ e.homeServes (sec * 32) 32 = false ∧ e.canDecode (sec * 32) 32 = false := by
  decide +kernel

/-- A sector of an index's heads, which holds no entry, is made anew; the parity store after reset is good in every sector of a write. -/
theorem witness_recomputeParity :
    let d : Dev := { dev0 with indexes := [idx1], repairs := [{ rep 4 2 with sector := idx1.metaSa / 32 }] }
    (d.recompute (idx1.metaSa / 32)).isSome = true ∧ d.entryFails (idx1.metaSa / 32) = false ∧
    (∀ sec ∈ sectorsOf { sa := 100, len := ([1, 2, 3] : List Byte).length }, dev0.parityGood sec = true) ∧ dev0.parityGood 9 = true := by decide +kernel

/-- A fault record that waits in domain 1's area, and the area enabled. -/
def cell1 : FaultRecord :=
  { area := .domain 1, cls := 2, status := some .badOperand, domain := 1, ctx := 3, time := 1000, seq := 1, host := 0xFFFF, d0 := 0, d1 := 0, d2 := 0,
    recSeq := 0, base := 0x9000, port := 0, enabled := true, vector := none }
def faultDev : Dev :=
  ({ dev0 with faults := [{ area := .domain 1, waiting := [cell1], afterLoss := false, slots := 8 }] } : Dev).setReg (areaBase (.domain 1) + 8) 1

theorem witness_faultOwnedRead :
    let a : FaultArea := .domain 1
    let e := faultDev.setArea { faultDev.areaState a with waiting := [] }
    faultDev.live = true ∧ (faultDev.areaState a).waiting = [cell1] ∧ faultDev.portUp cell1.port = true ∧
    ((e.writeRecord cell1).reg (areaBase a + 0x18 + 8 * cell1.cls)).toNat % 2 ^ 63 ≠ countMax ∧
    ((e.lose cell1).reg (areaBase a + 0x18 + 8 * cell1.cls)).toNat % 2 ^ 63 ≠ countMax := by decide +kernel

theorem witness_faultRecord :
    let a : FaultArea := .domain 1
    let b := areaBase a
    (2 : Nat) ≤ 16 ∧ faultDev.field (b + 8) 0 0 = 1 ∧ (faultDev.areaState a).waiting.length < 64 ∧ faultDev.portUp (faultDev.field (b + 8) 19 18) = true ∧
    (faultDev.areaState a).waiting ≠ [] ∧ dev0.field (b + 8) 0 0 = 0 := by decide +kernel

/-! ### Results worked out from the spec -/

/-- R388: the check of "123456789" under each polynomial. -/
theorem test_crc_checks : ([1, 2, 3, 4].map fun c => (crcPoly c).map fun p => crcOf p p.init (ascii "123456789")) =
    [some 0xE3069283, some 0xAE8B14860A799888, some 0xD0DB, some 0xCBF43926] := by decide +kernel

/-- The worked example of R389: the folds and seeds of a sector at SA 0x12_3456_7880. -/
theorem test_fold : fold 32 0x1234567880 0 = 0x91A2B3C4 ∧ fold 16 0x1234567880 0 = 0x2266 ∧
    ((crcPoly 1).map fun p => foldedSeed p 0x1234567880 0) = some 0x6E5D4C3B := by decide +kernel

/-- The worked example after R140: a row of 64 elements demoted to MXFP4, 13.0, −2.9, 0.74, 0.2 and zeros. -/
theorem test_mxfp4 :
    let v := encodeVec 0x08 ([0x41500000, 0xC039999A, 0x3F3D70A4, 0x3E4CCCCD] ++ List.replicate 60 0)
    v.1.take 16 = [0xB7, 0x01] ++ List.replicate 14 0 ∧ at! v.1 32 0 = 0x80 ∧ v.1.length = 64 ∧
    (decodeVec 0x08 64 v.1).take 4 = [0x41400000, 0xC0400000, 0x3F800000, 0] := by decide +kernel

/-- The known value of SHA3-512 for the empty message (log 47): its first bytes. -/
theorem test_sha3 : (sha3_512 []).take 4 = [0xA6, 0x9F, 0x73, 0xCC] := by decide +kernel

/-- The worked example of R353: a WIDE address of a group of 4 at member 4. -/
theorem test_wide_home : homeOf 4 (4 * 2 ^ 52 + 2 ^ 51 + 0x35000) = (5, 0xD000) := by decide

/-- The end of chapter 03's worked example: H = 0xFFFF_FFF0. -/
theorem test_sequence_wrap :
    let c := { ctx0 with high := 0xFFFFFFF0 }
    c.classify 0x00000005 = .fresh ∧ c.classify 0xFFFFFF70 = .stale ∧ c.classify 0xFFFFFF71 = .fresh ∧ (c.accept 5).high = 5 := by decide +kernel

/-- Chapter 19's worked examples: the registers' offsets, and what the Docent bus sees. -/
theorem test_offsets : pageOff 37 0x310 = 0x0014A310 ∧ docentVisible 0x0014A310 = false ∧ linkOff 5 0x618 = 0x00309618 ∧
    docentVisible 0x00309618 = true ∧ frameOffset (frame [0x45, 0x1C, 0x25, 0x86]) = 0x00309618 ∧ frameOffset (frame [0x45, 0x10, 0x04, 0x00]) = 0x1000 := by
  decide +kernel

/-- Chapter 09's worked example: entry, chunk and record sizes at D = 768, M = 96, UINT8 codes and FP8 vectors. -/
theorem test_index_sizes :
    let x := { idx1 with dim := 768, codeFormat := 0x0A, subspaces := 96, vecFormat := 4 }
    x.entrySize = 120 ∧ x.chunkSlots = 544 ∧ x.recordSize = 800 := by decide +kernel

/-- Chapter 16's worked example: PE 12 of gallery 7 and lane 5 of link 2 fused bad, PEs 5 and 30 failing the screen: GSM-9112
with DEGRADED, gallery 7 failed, east logical 7 is physical 8, west logical 15 is physical 20, stacks 3 and 7 disabled. -/
def badPart : Dev :=
  let f := Fuses.blank
  { booting 3 with
    fuses := { f with badPes := (List.range 40).map (fun i => if i = 7 then 2 ^ 12 else 0), badZkLanes := [0, 0, 2 ^ 5, 0, 0, 0, 0, 0] }
    galleries := Dev.reset.galleries, stackUnits := Dev.reset.stackUnits, links := Dev.reset.links, channels := Dev.reset.channels, ports := Dev.reset.ports }
def badScreen : ScreenResult := { screenGood with failedPes := (List.range 40).map (fun i => if i = 7 then 2 ^ 5 + 2 ^ 30 else 0) }

/-- What a meaning leaves, seen through a function of the device. -/
def after {α : Type} (i : Instr) (d : Dev) (f : Dev → α) : Option α :=
  match exec i (st d) with
  | .next s => some (f s.dev)
  | _ => none

theorem test_screens : after (.screensDone badScreen) badPart (fun d => (d.acc.reported, d.acc.degraded,
      (d.galleries.filter fun g => [7, 8, 15, 20, 34].contains g.physical).map (·.logical), (d.stackUnits.map (·.logical)))) =
    some (2, true, [none, some 7, some 14, some 15, some 29], [some 0, some 1, some 2, none, some 4, some 5, some 6, none]) := by decide +kernel

/-- Three PEs that failed late in the last accession fail their gallery in this one (R433). -/
theorem test_lateFailure : after (.screensDone screenGood) { badPart with acc := { badPart.acc with lateGalleries := [(9, 7)] } } (fun d =>
      ((d.galleries.filter fun g => [8, 9, 10].contains g.physical).map fun g => (g.logical, g.state), d.acc.lateGalleries)) =
    some ([(some 8, .pending), (none, .failed), (some 9, .pending)], []) := by decide +kernel

/-- The image with a pipeline of mover 1 for class 0x01. -/
def imgPipe : Image := { img1 with pipelines := [{ domain := 1, number := 0, galleries := 0, movers := 2, scanners := 0 }], routes := [{ domain := 1, cls := 1, pipeline := 0 }] }

/-- FILL plans one step of 256 bytes of the pattern (R99), which a mover of its pipeline takes up. -/
theorem test_fill :
    after (.fill r0) { (sOf lFill).dev with image := some imgPipe } (fun d => (d.cmd? r0).map fun k => (k.issued, k.plan.map (·.engine), k.plan.flatMap (·.writes))) =
    some (some (1, [some 1], [{ sa := 0x10000000000, bytes := List.replicate 256 0x5A }])) := by decide +kernel

/-- A step's write reaches the store as it retires, and the last one completes the command with OK (R84, R96). -/
theorem test_stepRetire : after (.stepRetire r0 0 []) (devOf cStep) (fun d => (d.mem, (d.slot? r0).map fun x => (x.state, x.status))) =
    some ([(0x10000000000, 9)], some (.done, some .ok)) := by decide +kernel

/-- An ATOMIC ADD of 3 to 0xFFFF_FFFF_FFFF_FFFF wraps to 2 (R105). -/
theorem test_atomic_wraps :
    let d := dev0.write 0x10000000008 (List.replicate 8 0xFF)
    (d.atomicAt 0x10000000008 8 0x01 3 0 Dev.write).1.mem = [(0x10000000008, 2)] := by decide +kernel

/-- COMPARE finds byte 2 and one difference (R101). -/
theorem test_compare : after (.compare r0) sCompare.dev (fun d => ((d.compareAt r0 0 4).cmd? r0).map fun k => (k.w0, k.w1)) = some (some (2, 1)) := by decide +kernel

/-- FENCE after a failed command completes with PRIOR_FAILED (R117). -/
theorem test_fence_priorFailed : after (.fence r0) (devOf (cFailed lFence)) (fun d => (d.slot? r0).map (·.status)) = some (some (some .priorFailed)) := by
  decide +kernel

/-- ACQUIRE whose condition fails with no wait completes with DEADLINE_MISSED (R121). -/
theorem test_acquire_missed : after (.acquire r0 false) (sOf (lAcquire 5)).dev (fun d => (d.slot? r0).map (·.status)) = some (some (some .deadlineMissed)) := by
  decide +kernel

/-- MAP ALLOCATE over a mapped range is BAD_OPERAND and maps nothing (R291). -/
theorem test_map_over : after (.mapAllocate r0) (sOf lAllocateOver).dev (fun d => ((d.slot? r0).map (·.status), d.extents)) =
    some (some (some .badOperand), [ext1]) := by decide +kernel

/-- GATHER names the first bad offset in word 2 (R212). -/
theorem test_gather_badOffset : after (.gather r0) (dTab (lGather 1) []) (fun d => (d.slot? r0).map (·.status)) = some (some (some .badOperand)) := by
  decide +kernel

/-- A stale expected version is a CONFLICT and changes no table (R209). -/
theorem test_publish_conflict : after (.publishDescriptor r0) (sTable (lDescriptor 7) [table2]).dev (fun d => ((d.slot? r0).map (·.status), d.tables)) =
    some (some (some .conflict), [table2]) := by decide +kernel

/-- SCAN_CHECK RUNNING of "123456789" gives the check of R388. -/
theorem test_scanRunning :
    let l := line 0x0801 [(16, 8, 0x100000), (24, 8, 9), (32, 1, 1), (33, 1, 1)]
    after (.scanCheckRunning r0) { devOf (cOf l) with mem := memWrite [] 0x10000000000 (ascii "123456789") } (fun d => ((d.scanRunning r0).cmd? r0).map fun k => (k.w0, k.w1)) =
    some (some (0xE3069283, 9)) := by decide +kernel

/-- A line for a slot that runs a command is SLOT_BUSY and leaves the slot (R78): the context is as it was. -/
theorem test_slotBusy :
    let c := ctxOf [runSlot kFill, Slot.fresh] none
    after (.submissionLine (lineWrite 0)) (devOf c) (fun d => d.ctxs) = some [c] := by decide +kernel

/-- CTX_OP OPEN makes one context with H one below SEQ_BASE (R69, R79). -/
theorem test_ctxOpen : after (.ctxOpen (wCtx 1)) dev0 (fun d => d.ctxs.map fun c => (c.domain, c.usable, c.high, c.slots.length)) =
    some [(1, 64, 0xFFFFFFFF, 64)] := by decide +kernel

/-- A refused register access counts at the port (R494). -/
theorem test_refusedWrite : after (.registerWrite { wr 0x2000 1 with src := .bar 0 6 }) dev0 (fun d => (d.reg (portOff 0 0x210), d.regs.length)) = some (1, 1) := by
  decide +kernel

/-- SLEEP with port 0 in L0 is refused by PORT 0, code 5 (R455). -/
theorem test_sleepRefused : after (.sleep (wPwr 1)) dev0 (fun d => (d.reg 0xA020, d.power.phase)) = some (0x105000000, .none) := by decide +kernel

/-- The trip at 115 °C stops the device, drops LIVE_OUT and drives TRIP_N (R465). -/
theorem test_trip : after (.thermalTrip 115) dev0 (fun d => (d.live, d.pins.liveOut, d.pins.tripN)) = some (false, false, true) ∧
    after (.thermalTrip 114) dev0 (fun d => d.live) = some true := by decide +kernel

/-- A GO while a load runs is discarded and sets GO_REFUSED (R56). -/
theorem test_goRefused : after (.imgGo (wGo 0 4)) (loading .fetching) (fun d => (d.field 0x2010 5 5, d.load.phase)) = some (1, .fetching) := by decide +kernel

/-- A vitrine read of an uncached line by SnpData records a holder (R336). -/
theorem test_snpData : after (.memrdSnpdata (ma 0x20000040) []) vitDev (fun d => d.directory.map fun e => (e.line, e.state, e.holders)) =
    some [(vLine, .shared, [5])] := by decide +kernel

/-- A heartbeat of member 1 is noted at its local time (R355). -/
theorem test_hb : after (.hb 1 1 5000) master (fun d => d.coll.lastHb) = some [(1, 5000)] := by decide +kernel

/-- A PUB at the expected version stores the next version and the value (R377). -/
theorem test_pub : after (.pub (pubReq 0) []) master (fun d => d.mem) = some [(0x10000000000, 1), (0x10000000008, 7)] := by decide +kernel

/-- A tick of an idle device is one nanosecond (log 13). -/
theorem test_idle : step (st dev0) = .next (st { dev0 with now := 1001 }) := rfl

/-- The table of commands gives no word its bits (log 12). -/
theorem test_decode : decodeTableWord 8 0 = none ∧ State.withFetchWord State.reset 8 0 = State.reset := ⟨rfl, rfl⟩

/-- The register table's largest register block entries: reset values of R496 as their chapters state them. -/
theorem test_resetValues : Dev.reset.reg 0xA010 = 1050 ∧ Dev.reset.reg 0x6000 = 100 ∧ Dev.reset.reg 0x7018 = 1000 ∧ Dev.reset.field 0x4018 47 32 = 168 ∧
    Dev.reset.field 0xA000 25 16 = 750 := by decide +kernel

end Sys2Proof.Tests
end

section
/-! PROOF. Which register a BAR0 offset names, which bits of it a write reaches, and what a write that is heard and taken does to
it (R15, R29, R492). -/

namespace Sys2Proof.Machine

/-! ### The bits of a written register (R15, R492) -/

/-- Bit `i` of a register after a write: an RW bit in the lane takes the presented bit, any other keeps its old one, and a W1C bit in
the lane to which a 1 is presented reads 0. -/
theorem getLsbD_written (r : RegDesc) (old : W64) (w : RegWrite) {i : Nat} (hi : i < 64) :
    (written r old w).getLsbD i =
      ((if r.rw.testBit i && (laneMask w.offset w.size).getLsbD i then w.wide.getLsbD i else old.getLsbD i) &&
        !(r.w1c.testBit i && (laneMask w.offset w.size).getLsbD i && w.wide.getLsbD i)) := by
  simp only [written, BitVec.getLsbD_and, BitVec.getLsbD_or, BitVec.getLsbD_not, BitVec.getLsbD_ofNat, hi, decide_true, Bool.true_and]
  cases r.rw.testBit i && (laneMask w.offset w.size).getLsbD i <;> simp

/-- A bit of one of two disjoint masks is not in the other. -/
theorem testBit_eq_false_of_disjoint {a b i : Nat} (h : a &&& b = 0) (ha : a.testBit i = true) : b.testBit i = false := by
  have hab : (a &&& b).testBit i = false := by rw [h, Nat.zero_testBit]
  simpa [Nat.testBit_and, ha] using hab

/-- Settles O17: each clause reads one case off the bit of the written register. -/
theorem writeReachesOnlyItsBits : Obligations.WriteReachesOnlyItsBits := by
  intro r old w i hi hdisj
  rw [getLsbD_written r old w hi]
  refine ⟨fun hlane => ?outsideLane, fun hrw hw1c => ?readOnly, fun hlane hrw => ?readWrite, fun hlane hw1c => ?writeOneClears⟩
  case outsideLane => simp [hlane]
  case readOnly => simp [hrw, hw1c]
  case readWrite => simp [hlane, hrw, testBit_eq_false_of_disjoint hdisj hrw]
  case writeOneClears =>
    have hrw : r.rw.testBit i = false := testBit_eq_false_of_disjoint (Nat.and_comm r.rw r.w1c ▸ hdisj) hw1c
    simp [hlane, hrw, hw1c]

/-! ### Offsets in a domain page (R29) -/

/-- An offset in a domain's page lies in that page's block. -/
theorem blockOf_pageOff {dom off : Nat} (hd : dom < 256) (ho : off < 0x2000) : blockOf (pageOff dom off) = .page dom := by
  have hlow : ¬ pageOff dom off < 0x0010_0000 := by unfold pageOff; omega
  have hhigh : pageOff dom off < 0x0030_0000 := by unfold pageOff; omega
  have hdom : pageOff dom off / 0x2000 - 0x80 = dom := by unfold pageOff; omega
  simp only [blockOf, if_neg hlow, if_pos hhigh, hdom]

/-- The domain whose page an offset lies in. -/
theorem pageOf_pageOff {dom off : Nat} (ho : off < 0x2000) : pageOf (pageOff dom off) = dom := by
  unfold pageOf pageOff; omega

/-- An offset within its page. -/
theorem pageOff_sub_base (dom off : Nat) : pageOff dom off - pageOff dom 0 = off := by
  unfold pageOff; omega

/-- Below the fault registers, a page offset names none of an area (R417). -/
theorem areaAt_pageOff_eq_none {dom off : Nat} (hd : dom < 256) (ho : off < 0x300) : areaAt (pageOff dom off) = none := by
  have hlow : ¬ (pageOff dom 0x300 ≤ pageOff dom off ∧ pageOff dom off ≤ pageOff dom 0x310) := by unfold pageOff; omega
  simp only [areaAt, blockOf_pageOff hd (by omega : off < 0x2000), if_neg hlow]

/-! ### The rule that the one meaning of a write picks (R15) -/

section
variable {d : Dev} {w : RegWrite}

/-- A write to COLL_CFG or FAB_TIMEOUT follows their rule (R381). -/
theorem Dev.applyWrite_collCfg (h : w.reg = 0x7000 ∨ w.reg = 0x7018) : d.applyWrite w = d.collCfg w := by
  rcases h with h | h <;> simp [Dev.applyWrite, Dev.globalWrite, areaAt, blockOf, h]

/-- A write to MEDIA_GOV follows its rule (R274). -/
theorem Dev.applyWrite_mediaGov (h : w.reg = 0x4000) : d.applyWrite w = d.mediaGov w := by
  simp [Dev.applyWrite, Dev.globalWrite, areaAt, blockOf, h]

/-- A write to the device's TELEM_SEL follows its rule (R327). -/
theorem Dev.applyWrite_telemSel (h : w.reg = 0x5088) : d.applyWrite w = d.telemSel w := by
  simp [Dev.applyWrite, Dev.globalWrite, areaAt, blockOf, h]

/-- A write to a page register is a page write. -/
theorem Dev.applyWrite_page {dom off : Nat} (hd : dom < 256) (ho : off < 0x2000) (h : w.reg = pageOff dom off) :
    d.applyWrite w = d.pageWrite w := by
  simp only [Dev.applyWrite, h, blockOf_pageOff hd ho]

/-- A write to a domain's TELEM_SEL follows its rule (R327). -/
theorem Dev.applyWrite_pageTelemSel {dom : Nat} (hd : dom < 256) (h : w.reg = pageOff dom 0x140) : d.applyWrite w = d.telemSel w := by
  rw [Dev.applyWrite_page hd (by decide) h]
  simp [Dev.pageWrite, h, areaAt_pageOff_eq_none hd, pageOf_pageOff, pageOff_sub_base]

/-- A write to a domain's TIER_CTRL follows its rule (R264). -/
theorem Dev.applyWrite_tierCtrl {dom : Nat} (hd : dom < 256) (h : w.reg = pageOff dom 0x100) : d.applyWrite w = d.tierCtrl w := by
  rw [Dev.applyWrite_page hd (by decide) h]
  simp [Dev.pageWrite, h, areaAt_pageOff_eq_none hd, pageOf_pageOff, pageOff_sub_base]

/-- A write to FAULT_CTRL of an area that would set ENABLE from 0 is one that enables the area's faults (R417). -/
theorem Dev.enablesFaults_of_enable {a : FaultArea} (ha : areaAt w.reg = some a) (hr : w.reg = areaBase a + 8)
    (hold : d.field w.reg 0 0 = 0) (hnew : (d.after w).toNat % 2 = 1) : d.enablesFaults w = true := by
  simp only [Dev.enablesFaults, ha, Bool.and_eq_true, beq_iff_eq]
  exact ⟨⟨hr, hold⟩, hnew⟩

end

/-! ### The rows of register writes, heard and taken -/

section
variable {s : State} {w : RegWrite}

/-- REGISTER_WRITE of all but a GO in FW_CTRL over a port applies the write. -/
theorem exec_registerWrite_of_writes (hw : s.writes w) (hgo : w.reg ≠ 0x1010 ∨ w.src = .docent ∨ w.sets 0 = false) :
    exec (.registerWrite w) s = .next { s with dev := (s.dev.accessed w.src).applyWrite w } := by
  refine whenLive_onRegister (i := .registerWrite w) hw rfl ?_
  rcases hgo with h | h | h <;> simp [h]

/-- COLL_CFG_WRITE on COLL_CFG or FAB_TIMEOUT (R381). -/
theorem exec_collCfgWrite_of_writes (hw : s.writes w) (h : w.reg = 0x7000 ∨ w.reg = 0x7018) :
    exec (.collCfgWrite w) s = .next { s with dev := (s.dev.accessed w.src).collCfg w } :=
  whenLive_onRegister (i := .collCfgWrite w) hw rfl (by simpa using h)

/-- MEDIA_GOV_WRITE on MEDIA_GOV (R274). -/
theorem exec_mediaGovWrite_of_writes (hw : s.writes w) (h : w.reg = 0x4000) :
    exec (.mediaGovWrite w) s = .next { s with dev := (s.dev.accessed w.src).mediaGov w } :=
  whenLive_onRegister (i := .mediaGovWrite w) hw rfl (by simpa using h)

/-- TELEM_SEL_WRITE on a TELEM_SEL (R325). -/
theorem exec_telemSelWrite_of_writes (hw : s.writes w) (h : isTelemSel w.reg = true) :
    exec (.telemSelWrite w) s = .next { s with dev := (s.dev.accessed w.src).telemSel w } :=
  whenLive_onRegister (i := .telemSelWrite w) hw rfl h

/-- TIER_CTRL_WRITE on a domain's TIER_CTRL (R264). -/
theorem exec_tierCtrlWrite_of_writes {dom : Nat} (hw : s.writes w) (hd : dom < 256) (h : w.reg = pageOff dom 0x100) :
    exec (.tierCtrlWrite w) s = .next { s with dev := (s.dev.accessed w.src).tierCtrl w } :=
  whenLive_onRegister (i := .tierCtrlWrite w) hw rfl (by simp [h, blockOf_pageOff hd])

/-- FAULT_ENABLE on an area's FAULT_CTRL whose ENABLE it sets from 0 (R417). -/
theorem exec_faultEnable_of_writes {a : FaultArea} (hw : s.writes w) (ha : areaAt w.reg = some a)
    (hen : (s.dev.accessed w.src).enablesFaults w = true) :
    exec (.faultEnable w) s = .next { s with dev := (s.dev.accessed w.src).faultCtrl a w } :=
  (whenLive_onRegister (i := .faultEnable w) hw rfl hen).trans (by simp only [ha])

end

/-- The device's TELEM_SEL is one. -/
theorem isTelemSel_global : isTelemSel 0x5088 = true := rfl

/-- A domain's TELEM_SEL is one. -/
theorem isTelemSel_pageOff {dom : Nat} (hd : dom < 256) : isTelemSel (pageOff dom 0x140) = true := by
  simp [isTelemSel, blockOf_pageOff hd]

/-- Settles O16: each row applies its register's rule, which is the one the register's write follows. -/
theorem registerWritesComplete : Obligations.RegisterWritesComplete := by
  intro s w hw
  refine ⟨exec_registerWrite_of_writes hw, fun h => ?collCfg, fun h => ?mediaGov, fun h => ?telemSel, fun dom hd h => ?pageTelemSel,
    fun dom hd h => ?tierCtrl, fun a ha hr hold hnew => ?faultEnable⟩
  case collCfg => rw [exec_collCfgWrite_of_writes hw h, Dev.applyWrite_collCfg h]
  case mediaGov => rw [exec_mediaGovWrite_of_writes hw h, Dev.applyWrite_mediaGov h]
  case telemSel => rw [exec_telemSelWrite_of_writes hw (h ▸ isTelemSel_global), Dev.applyWrite_telemSel h]
  case pageTelemSel => rw [exec_telemSelWrite_of_writes hw (h ▸ isTelemSel_pageOff hd), Dev.applyWrite_pageTelemSel hd h]
  case tierCtrl => rw [exec_tierCtrlWrite_of_writes hw hd h, Dev.applyWrite_tierCtrl hd h]
  case faultEnable => exact exec_faultEnable_of_writes hw ha (Dev.enablesFaults_of_enable ha hr hold hnew)

end Sys2Proof.Machine
end

section
/-! PROOF. The state after reset (R496), and the load of a structure image: what a GO starts or ends (R55, R56), and what the end
of the fetch, of the drain and of each wipe leads to (R53, R54, R58, R61). -/

namespace Sys2Proof.Machine

/-! ### The reset state -/

/-- With no register stored, each reads its reset value (R496). -/
theorem Dev.reg_of_regs_eq_nil {d : Dev} (h : d.regs = []) (off : Nat) : d.reg off = resetValue d off := by
  simp [Dev.reg, h]

/-- After reset every Zherek link is DOWN (R382). -/
theorem Dev.reset_links_down : ∀ l ∈ Dev.reset.links, l.state = .down :=
  List.forall_mem_map.2 fun _ _ => rfl

/-- After reset every CXL port is untrained. -/
theorem Dev.reset_ports_down : ∀ p ∈ Dev.reset.ports, p.link = .down :=
  List.forall_mem_map.2 fun _ _ => rfl

/-- After reset no egress point follows a gate list (R326). -/
theorem Dev.reset_points_ungated : ∀ e ∈ Dev.reset.points, e.activeLen = 0 :=
  List.forall_mem_map.2 fun _ _ => rfl

/-- Settles O4: the single values and the empty store (log 49) are the reset state's by definition; units and registers have a
lemma each. -/
theorem resetStateHoldsSpecValues : Obligations.ResetStateHoldsSpecValues :=
  ⟨rfl, rfl, rfl, rfl, rfl, rfl, rfl, rfl, rfl, rfl, rfl, rfl, rfl, rfl, rfl, Dev.reset_links_down, Dev.reset_ports_down,
    Dev.reset_points_ungated, rfl, rfl, fun _ => rfl, Dev.reg_of_regs_eq_nil rfl⟩

/-! ### GO in IMG_CTRL (R55, R56) -/

/-- A register access finds the load as it was: at most it brings a port to L0 (R452). -/
@[simp] theorem Dev.accessed_load (d : Dev) (x : Src) : (d.accessed x).load = d.load := by
  cases x <;> rfl

/-- IMG_GO on a GO that is heard and taken follows IMG_CTRL's rule. -/
theorem exec_imgGo_of_writes {s : State} {w : RegWrite} (hw : s.writes w) (hreg : w.reg = 0x2000) (hgo : w.sets 0 = true) :
    exec (.imgGo w) s = .next { s with dev := (s.dev.accessed w.src).imgCtrl w } :=
  whenLive_onRegister (i := .imgGo w) hw rfl (by simp [hreg, hgo])

/-- A GO while a load is in progress only sets GO_REFUSED (R56). -/
theorem Dev.imgCtrl_of_loading {d : Dev} {w : RegWrite} (hgo : w.sets 0 = true) (h : d.load.phase ≠ .idle) :
    d.imgCtrl w = d.setField 0x2010 5 5 1 := by
  simp [Dev.imgCtrl, hgo, h]

/-- A device that fetches an image of `n` units of 64 bytes, from an offset of the boot flash or from host memory. -/
def Dev.fetching (d : Dev) (n : Nat) (spi : Option Nat) : Dev :=
  { d with load := { d.load with phase := .fetching, length := 64 * n, spi := spi } }

section
variable {d e : Dev} {w : RegWrite} {port host : Nat} (hgo : w.sets 0 = true) (hidle : d.load.phase = .idle)
  (he : d.plainWrite w = e)
include hgo hidle he

/-- A GO for host memory over the Docent bus, which has none, ends as SOURCE_FAULT, before its length is looked at (R56, log 69). -/
theorem Dev.imgCtrl_docentHostMemory (hsrc : w.src = .docent) (hfrom : e.field 0x2000 7 4 = 0) :
    d.imgCtrl w = e.endLoad 0x0F 0xFFFF := by
  simp [Dev.imgCtrl, hgo, hidle, he, hsrc, hfrom]

/-- A GO over a port with a length outside 1 to 16,384 ends as BAD_LENGTH, whatever its source (R55, log 69). -/
theorem Dev.imgCtrl_badLength (hsrc : w.src = .bar port host) (hn : e.field 0x2000 39 16 = 0 ∨ 16384 < e.field 0x2000 39 16) :
    d.imgCtrl w = e.endLoad 0x02 0xFFFF := by
  simp [Dev.imgCtrl, hgo, hidle, he, hsrc, hn]

variable (hsrc : w.src = .bar port host) (hpos : e.field 0x2000 39 16 ≠ 0) (hmax : e.field 0x2000 39 16 ≤ 16384)
include hsrc hpos hmax

/-- A GO over a port with an unknown source or a misaligned address ends as SOURCE_FAULT (R55). -/
theorem Dev.imgCtrl_badSource (hbad : 1 < e.field 0x2000 7 4 ∨ (e.reg 0x2008).toNat % 64 ≠ 0) :
    d.imgCtrl w = e.endLoad 0x0F 0xFFFF := by
  simp [Dev.imgCtrl, hgo, hidle, he, hsrc, hpos, Nat.not_lt.2 hmax, hbad]

/-- A GO over a port for an image in host memory asks that port for it (R55). -/
theorem Dev.imgCtrl_hostMemory (hfrom : e.field 0x2000 7 4 = 0) (haddr : (e.reg 0x2008).toNat % 64 = 0) :
    d.imgCtrl w = (e.fetching (e.field 0x2000 39 16) none).toPort port 256 true 0 none
      (.fetch port (e.reg 0x2008).toNat (64 * e.field 0x2000 39 16)) := by
  simp [Dev.imgCtrl, hgo, hidle, he, hsrc, hpos, Nat.not_lt.2 hmax, hfrom, haddr, Dev.fetching]

/-- A GO over a port for an image in the boot flash starts its fetch from there (R55). -/
theorem Dev.imgCtrl_bootFlash (hfrom : e.field 0x2000 7 4 = 1) (haddr : (e.reg 0x2008).toNat % 64 = 0) :
    d.imgCtrl w = e.fetching (e.field 0x2000 39 16) (some (e.reg 0x2008).toNat) := by
  simp [Dev.imgCtrl, hgo, hidle, he, hsrc, hpos, Nat.not_lt.2 hmax, hfrom, haddr, Dev.fetching]

end

/-- Settles O51: the GO reaches IMG_CTRL's rule, which discards it while a load is in progress, and else sees the Docent bus before
the length (log 69). -/
theorem goIsRefusedWhileLoading : Obligations.GoIsRefusedWhileLoading := by
  intro s w hw hreg hgo
  refine ⟨fun hload => ⟨?discarded, ?undisturbed⟩, fun hidle hsrc hfrom => ?docent⟩
  case discarded => rw [exec_imgGo_of_writes hw hreg hgo, Dev.imgCtrl_of_loading hgo hload]
  case undisturbed => rw [Dev.setField_load, Dev.accessed_load]
  case docent => rw [exec_imgGo_of_writes hw hreg hgo, Dev.imgCtrl_docentHostMemory hgo hidle rfl hsrc hfrom]

/-! ### The end of the fetch (R53, R54) -/

section
variable {d : Dev} {image : List Byte}

/-- The bytes that a fetch has brought: of the host's answer, or of the boot flash, the length that GO named. -/
def Dev.fetched (d : Dev) (image : List Byte) : List Byte :=
  d.load.spi.elim (image.take d.load.length) fun a => memRead d.bootFlash a d.load.length

/-- A fetch that fails ends the load as SOURCE_FAULT and names no domain (R54, log 122). -/
theorem devImageFetchDone_failed (h : d.load.phase = .fetching) : devImageFetchDone false image d = d.endLoad 0x0F 0xFFFF := by
  simp [devImageFetchDone, h]

/-- An image that validation rejects ends the load with the code of the first failing check (R53, R54). -/
theorem devImageFetchDone_rejected {code : Nat} (h : d.load.phase = .fetching) (hv : d.validate (d.fetched image) = .error code) :
    devImageFetchDone true image d = d.endLoad code (namedDomain (d.fetched image)) := by
  simp only [Dev.fetched] at hv
  simp [devImageFetchDone, h, hv, Dev.fetched]

/-- An image that passes every check is loaded (R53, R58, R62). -/
theorem devImageFetchDone_accepted {img : Image} (h : d.load.phase = .fetching) (hv : d.validate (d.fetched image) = .ok img) :
    devImageFetchDone true image d = d.loadValidated img := by
  simp only [Dev.fetched] at hv
  simp [devImageFetchDone, h, hv]

/-! ### Drain and wipe (R58, R61) -/

/-- Drained, a quiescing load goes on to its wipes. -/
theorem devQuiesceDrained_of_quiescing (t : Nat) (h : d.load.phase = .quiescing) : devQuiesceDrained t d = (d.atTime t).toWipe :=
  if_pos (by simp [h])

/-- At the drain limit what still runs is aborted before the wipes. -/
theorem devDrainLimitExpiry_of_reached {t : Nat} (h : d.load.phase = .quiescing) (ht : d.load.drainEnd ≤ max d.now t) :
    devDrainLimitExpiry t d = (d.atTime t).abortLoading.toWipe :=
  if_pos (Bool.and_eq_true_iff.2 ⟨beq_iff_eq.2 h, decide_eq_true ht⟩)

/-- Before the drain limit nothing but time passes. -/
theorem devDrainLimitExpiry_of_early {t : Nat} (ht : max d.now t < d.load.drainEnd) : devDrainLimitExpiry t d = d.atTime t :=
  if_neg (by simp [Nat.not_le.2 ht])

/-- A gallery's wipe: it is off the list, no PE read cache line of it stays, and its store holds zeros. -/
def Dev.wipedGallery (d : Dev) (g : Nat) : Dev :=
  { d with
    load := { d.load with wiping := d.load.wiping.filter (· != g) }
    peCache := d.peCache.filter fun l => !((d.galleries.filter fun x => x.logical == some g).map (·.physical)).contains (l.owner / 34)
    galleries := d.galleries.map fun (x : Gallery) => if x.logical == some g then { x with words := [] } else x }

/-- A load whose galleries are wiped commits. -/
def Dev.commitWiped (d : Dev) : Dev :=
  ({ d with load := { d.load with phase := .committing } } : Dev).commitImage

/-- The end of a wipe that the load waits for: the wipe alone while others are left, and after the last one the commit. -/
theorem devGalleryWipeDone_of_wiping {g : Nat} (h : d.load.phase = .wiping) (hg : d.load.wiping.contains g = true) :
    devGalleryWipeDone g d =
      if (d.load.wiping.filter (· != g)).isEmpty then (d.wipedGallery g).commitWiped else d.wipedGallery g :=
  if_neg (by rw [h, hg]; decide)

end

/-! ### The whole load -/

/-- Settles O52: a GO reaches IMG_CTRL's rule, and each later row its own rule on the live device, case by case of what the row
finds. -/
theorem imageCommandsComplete : Obligations.ImageCommandsComplete := by
  intro s w image img code port host t g
  refine ⟨?badLength, ?goodLength, ?fetching, ?quiescing, ?wiping⟩
  case badLength =>
    rintro ⟨hw, hreg, hgo, hidle, hsrc⟩ hn
    rw [exec_imgGo_of_writes hw hreg hgo, Dev.imgCtrl_badLength hgo hidle rfl hsrc hn]
  case goodLength =>
    rintro ⟨hw, hreg, hgo, hidle, hsrc⟩ hpos hmax
    rw [exec_imgGo_of_writes hw hreg hgo]
    refine ⟨fun hbad => ?badSource, fun haddr => ⟨fun hfrom => ?hostMemory, fun hfrom => ?bootFlash⟩⟩
    case badSource => rw [Dev.imgCtrl_badSource hgo hidle rfl hsrc (Nat.ne_of_gt hpos) hmax hbad]
    case hostMemory => rw [Dev.imgCtrl_hostMemory hgo hidle rfl hsrc (Nat.ne_of_gt hpos) hmax hfrom haddr, if_neg (by simp [hfrom])]; rfl
    case bootFlash => rw [Dev.imgCtrl_bootFlash hgo hidle rfl hsrc (Nat.ne_of_gt hpos) hmax hfrom haddr, if_pos hfrom]; rfl
  case fetching =>
    rintro ⟨hlive, hphase⟩
    refine ⟨?_, fun hv => ?_, fun hv => ?_⟩
    · exact (whenLive_of_live hlive).trans (by rw [devImageFetchDone_failed hphase])
    · exact (whenLive_of_live hlive).trans (by rw [devImageFetchDone_rejected hphase hv]; rfl)
    · exact (whenLive_of_live hlive).trans (by rw [devImageFetchDone_accepted hphase hv])
  case quiescing =>
    rintro ⟨hlive, hphase⟩
    refine ⟨?_, fun ht => ?_, fun ht => ?_⟩
    · exact (whenLive_of_live hlive).trans (by rw [devQuiesceDrained_of_quiescing t hphase])
    · exact (whenLive_of_live hlive).trans (by rw [devDrainLimitExpiry_of_reached hphase ht])
    · exact (whenLive_of_live hlive).trans (by rw [devDrainLimitExpiry_of_early ht])
  case wiping =>
    rintro ⟨hlive, hphase⟩ hg
    refine ⟨fun hleft => ?_, fun hleft => ?_⟩
    · exact (whenLive_of_live hlive).trans (by rw [devGalleryWipeDone_of_wiping hphase hg, if_neg (by simpa using hleft)]; rfl)
    · exact (whenLive_of_live hlive).trans (by rw [devGalleryWipeDone_of_wiping hphase hg, if_pos (by simp [hleft])]; rfl)

end Sys2Proof.Machine
end

section
/-! PROOF. Serial comparison of sequence numbers (R79, R420), and that a number once accepted stays classed as seen while the highest
accepted one moves on by less than the replay range. -/

namespace Sys2Proof.Machine

/-! ### Serial comparison (R79, R420) -/

/-- What serial comparison says of the distance between two numbers. -/
theorem newer_iff {w : Nat} {a b : BitVec w} : newer a b = true ↔ 0 < (a - b).toNat ∧ (a - b).toNat < 2 ^ (w - 1) := by
  simp [newer]

/-- Different numbers lie apart. -/
theorem toNat_sub_pos {w : Nat} {a b : BitVec w} (h : a ≠ b) : 0 < (a - b).toNat := by
  refine Nat.pos_of_ne_zero fun h0 => h ?_
  have hzero : a - b = 0#w := BitVec.eq_of_toNat_eq h0
  rw [BitVec.sub_eq_iff_eq_add.1 hzero, BitVec.zero_add]

/-- The distances between two different numbers, one way and the other, make up the whole range. -/
theorem toNat_sub_add_toNat_sub {w : Nat} {a b : BitVec w} (h : a ≠ b) : (a - b).toNat + (b - a).toNat = 2 ^ w := by
  have hneg : b - a = -(a - b) := by rw [BitVec.neg_sub, BitVec.add_comm, ← BitVec.sub_eq_add_neg]
  have hpos := toNat_sub_pos h
  have hlt := (a - b).isLt
  rw [hneg, BitVec.toNat_neg, Nat.mod_eq_of_lt (by omega)]
  omega

/-- Settles O23: the distances both ways make up the range, so at most one lies below its half, and where neither does both are the
half. -/
theorem newerIsAsymmetric : Obligations.NewerIsAsymmetric := by
  intro w a b hw
  have hhalf : 2 ^ w = 2 ^ (w - 1) + 2 ^ (w - 1) := by
    rw [← Nat.two_mul, ← Nat.pow_succ', Nat.succ_eq_add_one, Nat.sub_add_cancel hw]
  have hself : newer a a = false := by simp [newer]
  refine ⟨fun hab => ?asymmetric, fun hne hab hba => ?half, hself⟩
  case asymmetric =>
    have hne : a ≠ b := fun h => by simp [h, newer] at hab
    have hsum := toNat_sub_add_toNat_sub hne
    rw [newer_iff] at hab
    rw [Bool.eq_false_iff, ne_eq, newer_iff]
    omega
  case half =>
    have hsum := toNat_sub_add_toNat_sub hne
    rw [Bool.eq_false_iff, ne_eq, newer_iff] at hab hba
    have ha := (a - b).isLt
    have hb := (b - a).isLt
    refine BitVec.eq_of_toNat_eq ?_
    rw [BitVec.toNat_ofNat, Nat.mod_eq_of_lt (by omega)]
    omega

/-! ### The window of a context (R79, R80) -/

/-- A sequence number that still lies in a context's window has its entry there. -/
def Context.Remembers (c : Context) (q : W32) : Prop :=
  (c.high - q).toNat ≤ 127 → ∃ x ∈ c.window, x.seq = q

/-- A number by less than half the range behind another is not newer than it. -/
theorem newer_eq_false_of_behind {q h : W32} (hb : (h - q).toNat < 2 ^ 31) : newer q h = false := by
  rw [Bool.eq_false_iff, ne_eq, newer_iff]
  rintro ⟨hpos, hlt⟩
  have hne : q ≠ h := fun he => by simp [he] at hpos
  have := toNat_sub_add_toNat_sub hne
  omega

/-- A number is new where it is newer than the highest, or in reach of the window without an entry there (R79). -/
theorem Context.classify_eq_fresh_iff {c : Context} {q : W32} :
    c.classify q = .fresh ↔ newer q c.high = true ∨ (c.high - q).toNat ≤ 127 ∧ ∀ x ∈ c.window, x.seq ≠ q := by
  unfold Context.classify
  by_cases hnew : newer q c.high = true
  · simp only [hnew, if_true, true_or]
  · rw [if_neg hnew]
    by_cases hnear : (c.high - q).toNat ≤ 127
    · rw [if_pos hnear]
      cases hf : c.window.find? (·.seq == q) with
      | none => simpa only [hnew, hnear, false_or, true_and, true_iff, beq_iff_eq, Bool.false_eq_true] using List.find?_eq_none.1 hf
      | some x =>
        have hq : x.seq = q := by simpa using List.find?_some hf
        have hx : ¬ ∀ y ∈ c.window, y.seq ≠ q := fun hall => hall x (List.mem_of_find?_eq_some hf) hq
        simp only [hnew, hnear, hx, false_or, and_false, reduceCtorEq, Bool.false_eq_true]
    · simp only [hnew, hnear, if_false, false_or, false_and, reduceCtorEq, Bool.false_eq_true]

/-- A remembered number less than half the range behind the highest is not new. -/
theorem Context.classify_ne_fresh {c : Context} {q : W32} (hr : c.Remembers q) (hb : (c.high - q).toNat < 2 ^ 31) :
    c.classify q ≠ .fresh := by
  rw [ne_eq, Context.classify_eq_fresh_iff, newer_eq_false_of_behind hb]
  rintro (hnew | ⟨hnear, hnone⟩)
  · cases hnew
  · obtain ⟨x, hx, hq⟩ := hr hnear
    exact hnone x hx hq

/-- A number classed as new lies at most 127 behind the highest once it is accepted. -/
theorem Context.near_of_accepted {c : Context} {q : W32} (h : c.classify q = .fresh) : ((c.accept q).high - q).toNat ≤ 127 := by
  simp only [Context.accept]
  split
  · simp
  · rename_i hold
    exact ((Context.classify_eq_fresh_iff.1 h).resolve_left hold).1

/-- What a context accepts, it remembers. -/
theorem Context.remembers_accept (c : Context) (q : W32) : (c.accept q).Remembers q :=
  fun _ => ⟨_, List.mem_append_right _ (List.mem_singleton.2 rfl), rfl⟩

/-- How far behind the highest number `q` lies once another number is accepted: further by what the highest one moved. -/
theorem Context.behind_accept {c : Context} {q s : W32}
    (h : (c.high - q).toNat + ((c.accept s).high - c.high).toNat < 2 ^ 32) :
    ((c.accept s).high - q).toNat = (c.high - q).toNat + ((c.accept s).high - c.high).toNat := by
  have hsplit : (c.accept s).high - q = (c.high - q) + ((c.accept s).high - c.high) := by
    rw [← BitVec.add_sub_comm, BitVec.add_comm, BitVec.sub_add_cancel]
  rw [hsplit, BitVec.toNat_add, Nat.mod_eq_of_lt h]

/-- Accepting another number forgets none that is still within the window. -/
theorem Context.Remembers.accept {c : Context} {q s : W32} (hr : c.Remembers q)
    (h : (c.high - q).toNat + ((c.accept s).high - c.high).toNat < 2 ^ 32) : (c.accept s).Remembers q := by
  intro hnear
  obtain ⟨x, hx, hq⟩ := hr (by rw [c.behind_accept h] at hnear; omega)
  subst hq
  exact ⟨x, List.mem_append_left _ (List.mem_filter.2 ⟨hx, decide_eq_true hnear⟩), rfl⟩

/-- Over a series of accepted numbers that moves the highest one on by less than half the range from `q`, the context remembers `q`
throughout. -/
theorem Context.remembers_acceptAll {c e : Context} {q : W32} {qs : List W32} (hr : c.Remembers q)
    (hall : c.acceptAll qs = some e) (hlt : (c.high - q).toNat + c.advance qs < 2 ^ 31) :
    e.Remembers q ∧ (e.high - q).toNat < 2 ^ 31 := by
  induction qs generalizing c with
  | nil =>
    obtain rfl : c = e := by simpa [Context.acceptAll] using hall
    exact ⟨hr, by simpa [Context.advance] using hlt⟩
  | cons s qs ih =>
    simp only [Context.advance] at hlt
    have hmove : (c.high - q).toNat + ((c.accept s).high - c.high).toNat < 2 ^ 32 := by omega
    have hnext : (c.accept s).acceptAll qs = some e := by
      simp only [Context.acceptAll] at hall
      split at hall
      · exact hall
      · cases hall
    exact ih (hr.accept hmove) hnext (by rw [c.behind_accept hmove]; omega)

/-- Settles O24: once accepted, a number lies at most 127 behind the highest and is remembered; both facts pass along the series. -/
theorem acceptedCommandNeverRunsTwice : Obligations.AcceptedCommandNeverRunsTwice := by
  intro c e q qs hfresh hall hlt
  have hnear := Context.near_of_accepted hfresh
  obtain ⟨hr, hb⟩ := Context.remembers_acceptAll (c.remembers_accept q) hall (by omega)
  exact Context.classify_ne_fresh hr hb

end Sys2Proof.Machine
end

section
/-! PROOF. Power-up, RESET_N, PERST_N, the thermal trip and rail faults (R88, R349, R423, R465, R472, R475, R484): what each row does
in each case that it finds. -/

namespace Sys2Proof.Machine

/-- A row that acts in every state answers what its meaning gives. -/
theorem always_of_eq {f : Dev → Dev} {s : State} {e : Dev} (h : f s.dev = e) : always f s = .next { s with dev := e } := by
  rw [always_next, h]

/-- A row of a live device answers what its meaning gives. -/
theorem whenLive_of_eq {f : Dev → Dev} {s : State} {e : Dev} (hlive : s.dev.live = true) (h : f s.dev = e) :
    whenLive f s = .next { s with dev := e } := by
  rw [whenLive_of_live hlive, h]

/-- A test that a change keeps finds one of the changed elements where it found one before. -/
theorem any_modifyAll {α : Type} {p q : α → Bool} {f : α → α} (hf : ∀ x, p (f x) = p x) (xs : List α) :
    (modifyAll q f xs).any p = xs.any p := by
  rw [modifyAll, List.any_map]
  congr 1
  funext x
  simp only [Function.comp]
  split
  · exact hf x
  · rfl

section
variable {d : Dev} {geo role port tj : Nat}

/-! ### RESET_N (R349, R423, R475, R484) -/

/-- The device once RESET_N is released: the straps are sampled and accession is in its first phase (R349, R422, R484). -/
def Dev.sampled (d : Dev) (geo role : Nat) : Dev :=
  { d with
    acc := { d.acc with resetLow := false, warm := decide (0 < d.acc.accessions) && d.acc.passRecords
                        passRecords := true, accessions := d.acc.accessions + 1, releaseTime := d.now, phase := 1 }
    coll := { Collection.reset with geoId := if role % 4 = 0 then 0 else geo % 16, role := role % 4 }
    docent := { d.docent with address := 0x40 + geo % 16 } }

/-- RESET_N released with a ROLE that is in use starts accession. -/
theorem devResetNRelease_of_role (hp : d.acc.powered = true) (hl : d.acc.resetLow = true) (hr : role % 4 < 2) :
    devResetNRelease geo role d = d.sampled geo role := by
  simp [devResetNRelease, hp, hl, Nat.not_le.2 hr, Dev.sampled]

/-- RESET_N released with a reserved ROLE refuses ready (R349). -/
theorem devResetNRelease_of_reservedRole (hp : d.acc.powered = true) (hl : d.acc.resetLow = true) (hr : 2 ≤ role % 4) :
    devResetNRelease geo role d = (d.sampled geo role).refuse 4 := by
  simp [devResetNRelease, hp, hl, hr, Dev.sampled]

/-! ### PERST_N (R88, R477) -/

/-- PERST_N asserted on a port that is trained takes the port down. -/
theorem devPerstNAssert_of_trained (hlive : d.live = true)
    (hport : (d.ports.any fun x => x.index == port && x.link != .down) = true) :
    devPerstNAssert port d = (((d.modPort port fun x => { x with perstReleased := false }).portLost port).modPort port fun x =>
      { x with link := .down, width := 0 }).settle := by
  have hport' : ((d.modPort port fun x => { x with perstReleased := false }).ports.any
      fun x => x.index == port && x.link != .down) = true := by
    rw [Dev.modPort_ports, any_modifyAll (hf := ?keeps), hport]
    case keeps => exact fun _ => rfl
  exact if_pos (Bool.and_eq_true_iff.2 ⟨hlive, hport'⟩)

/-! ### The two stops (R465, R472) -/

/-- At 115 °C the device trips (R465). -/
theorem devThermalTrip_of_hot (h : 115 ≤ tj) :
    devThermalTrip tj d = { d with
      power := { d.power with tripped := true, tjC := tj % 256 }, pins := { d.pins with liveOut := false, tripN := true } } :=
  if_neg (Nat.not_lt.2 h)

/-- A fault of a rail that is not always on stops a device out of reset (R472). -/
theorem devRailFault_of_running (hp : d.acc.powered = true) (hl : d.acc.resetLow = false) :
    devRailFault false d = { d with power := { d.power with railFault := true }, pins := { d.pins with liveOut := false } } := by
  simp [devRailFault, hp, hl]

end

/-- Settles O8: each row in the case that its clause names; the failures kept over POWER_UP are log 101, the TAP's state log 103, the
Docent address kept over RESET_N log 81, and what else reset leaves logs 2 and 50. -/
theorem resetAndPowerCommandsComplete : Obligations.ResetAndPowerCommandsComplete := by
  intro s port geo role tj
  refine ⟨?powerUp, fun hp => ⟨_, rfl, ?assert⟩, fun hp hl hr => ?release, fun hp hl hr => ?reserved,
    fun hlive hport => ?perst, ?perstUp, fun hlive ht => ?trip, fun hp hl => ?rail, ?alwaysOn⟩
  case powerUp => exact always_of_eq rfl
  case assert =>
    rw [devResetNAssert, hp]
    exact ⟨rfl, rfl, rfl, rfl, rfl, rfl, rfl, rfl, rfl, rfl, rfl, rfl, rfl, rfl⟩
  case release => exact always_of_eq (devResetNRelease_of_role hp hl hr)
  case reserved => exact ⟨_, always_of_eq (devResetNRelease_of_reservedRole hp hl hr), rfl, rfl⟩
  case perst => exact always_of_eq (devPerstNAssert_of_trained hlive hport)
  case perstUp => exact always_of_eq rfl
  case trip => exact whenLive_of_eq hlive (devThermalTrip_of_hot ht)
  case rail => exact always_of_eq (devRailFault_of_running hp hl)
  case alwaysOn => exact always_of_eq rfl

end Sys2Proof.Machine
end

section
/-! PROOF. OPEN, CLOSE and REHOME of a context (R68, R69): the operation that a write of CTX_CMD gives, and what each operation does
or answers. -/

namespace Sys2Proof.Machine

/-! ### A free context number -/

/-- Among more numbers than are taken one is free. -/
theorem exists_mem_range_notMem {xs : List Nat} {n : Nat} (h : xs.length < n) : ∃ m ∈ List.range n, m ∉ xs := by
  refine Classical.byContradiction fun hall => ?_
  have hsub : List.range n ⊆ xs := fun m hm => Classical.byContradiction fun hfree => hall ⟨m, hm, hfree⟩
  have hlen : (List.range n).length ≤ xs.length := List.nodup_range.length_le_of_subset hsub
  rw [List.length_range] at hlen
  omega

/-- The number that OPEN gives to a new context: the one drawn, or the lowest free one where that is taken (R69). -/
def Dev.openNum (d : Dev) : Nat :=
  let want := Config.freeNat d.draws % 65536
  if d.ctxs.any (·.num == want) then ((List.range 65536).find? fun n => !(d.ctxs.any (·.num == n))).getD 0 else want

/-- While a number is free, OPEN gives one that no context has. -/
theorem Dev.openNum_free {d : Dev} (h : d.ctxs.length < 65536) : (d.ctxs.any (·.num == d.openNum)) = false ∧ d.openNum < 65536 := by
  unfold Dev.openNum
  dsimp only
  split
  · obtain ⟨m, hm, hfree⟩ := exists_mem_range_notMem (xs := d.ctxs.map (·.num)) (by simpa using h)
    cases hf : (List.range 65536).find? fun n => !(d.ctxs.any (·.num == n)) with
    | none =>
      have := List.find?_eq_none.1 hf m hm
      simp_all
    | some k =>
      exact ⟨by simpa using List.find?_some hf, List.mem_range.1 (List.mem_of_find?_eq_some hf)⟩
  · rename_i hfree
    exact ⟨Bool.eq_false_iff.2 hfree, Nat.mod_lt _ (by decide)⟩

/-! ### OPEN (R69) -/

section
variable {d : Dev} {dom n : Nat} {c : Context} {x : DomainRec}

/-- A domain's open contexts, those that another member fronts left out (R69). -/
def Dev.openCount (d : Dev) (dom : Nat) : Nat := (d.ctxs.filter fun y => y.domain == dom && !y.isGuest).length

/-- The context that OPEN makes of CTX_ARG, under a number (R68, R69). -/
def Dev.opened (d : Dev) (dom num : Nat) : Context :=
  { num := num, domain := dom, usable := d.ctxArg dom 16 10, homePort := d.ctxArg dom 19 18, msixEn := d.ctxArg dom 20 20 == 1
    vector := d.ctxArg dom 31 21, high := BitVec.ofNat 32 (d.ctxArg dom 63 32) - 1, window := []
    slots := List.replicate (d.ctxArg dom 16 10) Slot.fresh, fails := [], lastClose := 0
    running := List.replicate 8 { poly := 0, reg := 0, count := 0 }, runningAlloc := false, session := none }

section
variable (hx : d.domainRec dom = some x)
include hx

/-- OPEN at the domain's ceiling answers NO_CONTEXT. -/
theorem Dev.ctxOpen_atCeiling (h : x.ctxCeiling ≤ d.openCount dom) : d.ctxOpen dom = d.ctxResult dom 1 0 := by
  unfold Dev.openCount at h
  simp [Dev.ctxOpen, hx, h]

variable (hroom : d.openCount dom < x.ctxCeiling)
include hroom

/-- OPEN with a slot count outside 1 to 64 answers BAD_ARG. -/
theorem Dev.ctxOpen_badSlots (h : d.ctxArg dom 16 10 = 0 ∨ 64 < d.ctxArg dom 16 10) : d.ctxOpen dom = d.ctxResult dom 4 0 := by
  unfold Dev.openCount at hroom
  simp [Dev.ctxOpen, hx, Nat.not_le.2 hroom, h]

variable (hpos : 1 ≤ d.ctxArg dom 16 10) (hmax : d.ctxArg dom 16 10 ≤ 64)
include hpos hmax

/-- OPEN at a port that is down answers PORT_DOWN. -/
theorem Dev.ctxOpen_portDown (h : d.portUp (d.ctxArg dom 19 18) = false) : d.ctxOpen dom = d.ctxResult dom 5 0 := by
  unfold Dev.openCount at hroom
  simp [Dev.ctxOpen, hx, Nat.not_le.2 hroom, Nat.ne_of_gt hpos, Nat.not_lt.2 hmax, h]

/-- OPEN that can be done adds the context that CTX_ARG describes. -/
theorem Dev.ctxOpen_done (h : d.portUp (d.ctxArg dom 19 18) = true) :
    d.ctxOpen dom = ({ d with draws := d.draws + 1, ctxs := d.ctxs ++ [d.opened dom d.openNum] } : Dev).ctxResult dom 0 d.openNum := by
  unfold Dev.openCount at hroom
  simp [Dev.ctxOpen, hx, Nat.not_le.2 hroom, Nat.ne_of_gt hpos, Nat.not_lt.2 hmax, h, Dev.opened, Dev.openNum]

end

/-! ### CLOSE and REHOME (R69) -/

/-- CLOSE of a context that the domain does not have. -/
theorem Dev.ctxClose_foreign (h : ∀ c, d.ctx? n = some c → c.domain ≠ dom) : d.ctxClose dom n = d.ctxResult dom 2 n := by
  unfold Dev.ctxClose
  cases hc : d.ctx? n with
  | none => rfl
  | some c => exact if_pos (bne_iff_ne.2 (h c hc))

/-- REHOME of a context that the domain does not have. -/
theorem Dev.ctxRehome_foreign (h : ∀ c, d.ctx? n = some c → c.domain ≠ dom) : d.ctxRehome dom n = d.ctxResult dom 2 n := by
  unfold Dev.ctxRehome
  cases hc : d.ctx? n with
  | none => rfl
  | some c => exact if_pos (bne_iff_ne.2 (h c hc))

section
variable (hc : d.ctx? n = some c) (hdom : c.domain = dom)
include hc hdom

/-- CLOSE of a context that holds a command. -/
theorem Dev.ctxClose_busy (h : ∃ y ∈ c.slots, y.state = .waiting ∨ y.state = .running) : d.ctxClose dom n = d.ctxResult dom 3 n := by
  have hbusy : (c.slots.any fun s => s.state == .waiting || s.state == .running) = true := by simpa using h
  simp [Dev.ctxClose, hc, hdom, hbusy]

/-- CLOSE of a context that holds no command: its session and then the context go, its slots counted where an ABORT waits (R91). -/
theorem Dev.ctxClose_idle (h : ∀ y ∈ c.slots, y.state = .free ∨ y.state = .done) :
    d.ctxClose dom n =
      let e := (List.range c.slots.length).foldl (fun (e : Dev) i => e.retake { ctx := n, slot := i }) (d.dropSession n)
      (({ e with ctxs := e.ctxs.filter (fun x => x.num != n) } : Dev).settle).ctxResult dom 0 n := by
  have hidle : (c.slots.any fun s => s.state == .waiting || s.state == .running) = false := by
    rw [List.any_eq_false]
    intro y hy
    rcases h y hy with hs | hs <;> simp [hs]
  simp only [Dev.ctxClose, hc, hdom, hidle, bne_self_eq_false, Bool.false_eq_true, if_false]

/-- REHOME to a port that is up. -/
theorem Dev.ctxRehome_done (h : d.portUp (d.ctxArg dom 19 18) = true) :
    d.ctxRehome dom n = (d.modCtx n fun c => { c with
      homePort := d.ctxArg dom 19 18, vector := d.ctxArg dom 31 21, msixEn := d.ctxArg dom 20 20 == 1 }).ctxResult dom 0 n := by
  simp only [Dev.ctxRehome, hc, hdom, h, bne_self_eq_false, Bool.not_true, Bool.false_eq_true, if_false]

end

end

/-! ### The rows, heard and taken -/

/-- A write of CTX_CMD's low half names the operation in its OP field (R68). -/
theorem isCtxCmd_of_op {w : RegWrite} {dom op : Nat} (hd : dom < 256) (hreg : w.reg = pageOff dom 0x48) (hlow : w.offset % 8 = 0)
    (hop : w.fieldOf 3 0 = op) : isCtxCmd op w = true := by
  simp [isCtxCmd, hreg, hlow, hop, blockOf_pageOff hd]

section
variable {s : State} {w : RegWrite} {dom : Nat} {e : Dev} (hw : s.writes w) (hd : dom < 256) (hreg : w.reg = pageOff dom 0x48)
  (hlow : w.offset % 8 = 0)
include hw hd hreg hlow

/-- CTX_OPEN is the domain's OPEN. -/
theorem exec_ctxOpen_of_writes (hop : w.fieldOf 3 0 = 1) (h : (s.dev.accessed w.src).ctxOpen dom = e) :
    exec (.ctxOpen w) s = .next { s with dev := e } := by
  rw [← h, ← pageOf_pageOff (dom := dom) (off := 0x48) (by decide), ← hreg]
  exact whenLive_onRegister (i := .ctxOpen w) hw rfl (isCtxCmd_of_op hd hreg hlow hop)

/-- CTX_CLOSE is the domain's CLOSE. -/
theorem exec_ctxClose_of_writes (hop : w.fieldOf 3 0 = 2) (h : (s.dev.accessed w.src).ctxClose dom (w.fieldOf 31 16) = e) :
    exec (.ctxClose w) s = .next { s with dev := e } := by
  rw [← h, ← pageOf_pageOff (dom := dom) (off := 0x48) (by decide), ← hreg]
  exact whenLive_onRegister (i := .ctxClose w) hw rfl (isCtxCmd_of_op hd hreg hlow hop)

/-- CTX_REHOME is the domain's REHOME. -/
theorem exec_ctxRehome_of_writes (hop : w.fieldOf 3 0 = 3) (h : (s.dev.accessed w.src).ctxRehome dom (w.fieldOf 31 16) = e) :
    exec (.ctxRehome w) s = .next { s with dev := e } := by
  rw [← h, ← pageOf_pageOff (dom := dom) (off := 0x48) (by decide), ← hreg]
  exact whenLive_onRegister (i := .ctxRehome w) hw rfl (isCtxCmd_of_op hd hreg hlow hop)

end

/-- Settles O20: each row is its operation, and the operation does what the case it finds says. -/
theorem contextCommandsComplete : Obligations.ContextCommandsComplete := by
  refine ⟨?done, ?refused⟩
  case done =>
    intro s w dom n c hw hd hreg hlow
    refine ⟨fun hop x hx hroom hpos hmax hup => ?opens, fun hop hn hc hdom hidle => ?closes, fun hop hn hc hdom hup => ?rehomes⟩
    case opens =>
      exact ⟨_, exec_ctxOpen_of_writes hw hd hreg hlow hop (Dev.ctxOpen_done hx hroom hpos hmax hup), Dev.openNum_free⟩
    case closes => exact exec_ctxClose_of_writes hw hd hreg hlow hop (hn ▸ Dev.ctxClose_idle hc hdom hidle)
    case rehomes => exact exec_ctxRehome_of_writes hw hd hreg hlow hop (hn ▸ Dev.ctxRehome_done hc hdom hup)
  case refused =>
    intro s w dom n x hw hd hreg hlow d hx hn
    refine ⟨fun hop h => ?ceiling, fun hop hroom h => ?slots, fun hop hroom hpos hmax h => ?port, fun hop h => ?foreignClose, ?busy,
      fun hop h => ?foreignRehome⟩
    case ceiling => exact exec_ctxOpen_of_writes hw hd hreg hlow hop (Dev.ctxOpen_atCeiling hx h)
    case slots => exact exec_ctxOpen_of_writes hw hd hreg hlow hop (Dev.ctxOpen_badSlots hx hroom h)
    case port => exact exec_ctxOpen_of_writes hw hd hreg hlow hop (Dev.ctxOpen_portDown hx hroom hpos hmax h)
    case foreignClose => exact exec_ctxClose_of_writes hw hd hreg hlow hop (hn ▸ Dev.ctxClose_foreign h)
    case busy =>
      rintro hop ⟨c, hc, hdom, hbusy⟩
      exact exec_ctxClose_of_writes hw hd hreg hlow hop (hn ▸ Dev.ctxClose_busy hc hdom hbusy)
    case foreignRehome => exact exec_ctxRehome_of_writes hw hd hreg hlow hop (hn ▸ Dev.ctxRehome_foreign h)

end Sys2Proof.Machine
end

section
/-! PROOF. Submission and reads of slots, misses served, ABORT and the reset of command state (R65 to R96): what each row does in the
cases its statement names. -/

namespace Sys2Proof.Machine

/-! ### Traffic as it arrives -/

/-- Traffic that has arrived at a port changed no more than the ports and the identities noted on them (R343, R452). -/
theorem Dev.reached_eq (d : Dev) (i : Instr) (port : Nat) : ∃ ps cs, d.reached i port = { d with ports := ps, carried := cs } := by
  unfold Dev.reached Dev.carries
  split
  · split <;> exact ⟨_, _, rfl⟩
  · exact ⟨_, _, rfl⟩

/-- The command state and the store are as they were when traffic has arrived. -/
theorem Dev.reached_frame (d : Dev) (i : Instr) (port : Nat) :
    (d.reached i port).ctxs = d.ctxs ∧ (d.reached i port).mem = d.mem ∧ (d.reached i port).order = d.order := by
  obtain ⟨ps, cs, h⟩ := d.reached_eq i port
  rw [h]
  exact ⟨rfl, rfl, rfl⟩

/-! ### Lines (R65 to R79) -/

/-- What a write or a read in the command aperture passes at the Registrar: its port is up, the device admits, the offset lies in the
aperture, and the image knows the identity (R65, R67, R424). -/
def Dev.apertureOpen (d : Dev) (port host offset : Nat) : Prop :=
  d.portUp port = true ∧ d.admits = true ∧ offset < 0x1000_0000 ∧ d.knows host = true

/-- A served port's traffic from a known identity finds the aperture open. -/
theorem Dev.apertureOpen_of_serves {d : Dev} {i : Instr} {port host offset : Nat} (hs : d.serves port = true)
    (ha : (d.reached i port).admits = true) (ho : offset < 0x1000_0000) (hk : (d.reached i port).knows host = true) :
    (d.reached i port).apertureOpen port host offset :=
  ⟨Dev.reached_portUp hs, ha, ho, hk⟩

section
variable {d : Dev} {w : LineWrite} {c : Context} {x : Slot} {slot : Nat}

/-- A line in an open context, from an identity with the submit right, goes on to the slot's checks (R67). -/
theorem devSubmissionLine_of_submitter (h : d.apertureOpen w.port w.host w.offset) (hc : d.ctx? (w.offset / 0x1000) = some c)
    (hr : bit (d.rightsOf w.host c.domain) 0 = true) : devSubmissionLine w d = d.submit w c (w.offset % 0x1000 / 0x40) := by
  obtain ⟨hup, hadm, hoff, hknow⟩ := h
  simp [devSubmissionLine, hup, hadm, Nat.not_le.2 hoff, hknow, hc, hr]

/-- A whole line at or above SLOTS is refused with BAD_OPERAND (R77). -/
theorem Dev.submit_aboveSlots (he : w.enables = BitVec.allOnes 64) (hs : c.usable ≤ slot) :
    d.submit w c slot = d.refuseLine c slot w.data .badOperand := by
  simp [Dev.submit, he, hs]

/-- A whole line with a valid completion address and a new sequence number, into a slot that holds no command, is accepted (R73, R79). -/
theorem Dev.submit_accepted (he : w.enables = BitVec.allOnes 64) (hs : slot < c.usable) (hx : c.slots[slot]? = some x)
    (hfree : x.state = .free ∨ x.state = .done) (hcompl : complOk (lineCompl w.data) = true)
    (hnew : c.classify (lineSeq w.data) = .fresh) : d.submit w c slot = d.acceptLine w c slot := by
  have hidle : (x.state == .waiting || x.state == .running) = false := by rcases hfree with h | h <;> rw [h] <;> rfl
  simp only [Dev.submit, he, bne_self_eq_false, Bool.false_eq_true, if_false, Nat.not_le.2 hs, hx, hidle, hcompl, Bool.not_true, hnew]

variable {line : List Byte} {st : Status}

/-- A refused line with a valid completion address on a port that is up is answered by a record (R88, R96). -/
theorem Dev.refuseLine_answered (hcompl : complOk (lineCompl line) = true) (hup : d.portUp c.homePort = true) :
    d.refuseLine c slot line st = d.postRecord c (lineCompl line) (lineVerb line) (lineNotify line) false
      { seq := lineSeq line, status := st, replayed := false, degraded := false, steps := 0, w0 := 0, w1 := 0, w2 := 0 }
      { ctx := c.num, slot := slot } := by
  rw [Dev.refuseLine, hcompl, hup]; rfl

/-- A refused line that no record can answer is reported by a SUBMIT fault record (R88, R96, R413). -/
theorem Dev.refuseLine_reported (h : complOk (lineCompl line) = false ∨ d.portUp c.homePort = false) :
    d.refuseLine c slot line st = d.submitFault c slot line st := by
  rw [Dev.refuseLine, if_neg]
  rcases h with h | h <;> simp [h]

/-- A completion record leaves the command state and the store. -/
theorem Dev.postRecord_frame (d : Dev) (c : Context) (addr verb : Nat) (notify own : Bool) (rc : Record) (r : SlotRef) :
    (d.postRecord c addr verb notify own rc r).ctxs = d.ctxs ∧ (d.postRecord c addr verb notify own rc r).mem = d.mem ∧
      (d.postRecord c addr verb notify own rc r).order = d.order := by
  obtain ⟨ps, ms, h⟩ := d.postRecord_eq c addr verb notify own rc r
  rw [h]
  exact ⟨rfl, rfl, rfl⟩

/-- A SUBMIT fault record leaves the command state and the store. -/
theorem Dev.submitFault_frame (d : Dev) (c : Context) (slot : Nat) (line : List Byte) (st : Status) :
    (d.submitFault c slot line st).ctxs = d.ctxs ∧ (d.submitFault c slot line st).mem = d.mem ∧
      (d.submitFault c slot line st).order = d.order := by
  obtain ⟨hctxs, hmem, -, -, horder, -⟩ := (d.reports_fault (.domain c.domain) 0x02 (some st) c.domain c.num (lineSeq line) 0xFFFF
    (apertureOf c.num slot) (lineCompl line) (lineVerb line)).frame
  exact ⟨hctxs, hmem, horder⟩

end

section
variable {s : State} {w : LineWrite} {e : Dev}

/-- SUBMISSION_LINE over a served port does what the line does as it arrives. -/
theorem exec_submissionLine_of_serves (hs : s.dev.serves w.port = true)
    (h : devSubmissionLine w (s.dev.reached (.submissionLine w) w.port) = e) :
    exec (.submissionLine w) s = .next { s with dev := e } := by
  rw [← h]
  exact whenLive_onTraffic hs

end

/-- Settles O22: the line reaches the slot's checks and is refused there, by a record or, where none can be written, by a fault record
(R88, R96); neither touches the command state. -/
theorem slotAboveSlotsIsRefused : Obligations.SlotAboveSlotsIsRefused := by
  intro s w c hs d ha ho hk hc hr he hslot rc answered reported
  have hrefused : devSubmissionLine w d = d.refuseLine c (w.offset % 0x1000 / 0x40) w.data .badOperand := by
    rw [devSubmissionLine_of_submitter (Dev.apertureOpen_of_serves hs ha ho hk) hc hr, Dev.submit_aboveSlots he hslot]
  obtain ⟨hctxs, hmem, horder⟩ := s.dev.reached_frame (.submissionLine w) w.port
  obtain ⟨actxs, amem, aorder⟩ := d.postRecord_frame c (lineCompl w.data) (lineVerb w.data) (lineNotify w.data) false rc
    { ctx := c.num, slot := w.offset % 0x1000 / 0x40 }
  obtain ⟨rctxs, rmem, rorder⟩ := d.submitFault_frame c (w.offset % 0x1000 / 0x40) w.data .badOperand
  refine ⟨fun hcompl hup => ?record, fun hnone => ?fault, actxs.trans hctxs, amem.trans hmem, aorder.trans horder, rctxs.trans hctxs,
    rmem.trans hmem, rorder.trans horder⟩
  case record => exact exec_submissionLine_of_serves hs (hrefused.trans (Dev.refuseLine_answered hcompl hup))
  case fault => exact exec_submissionLine_of_serves hs (hrefused.trans (Dev.refuseLine_reported hnone))

/-! ### Reads of slots, misses (R26, R74, R294) -/

section
variable {d : Dev} {port host offset : Nat} {c : Context}

/-- A read of a slot for which its port has room is answered: with the slot's line, or with zeros without the submit right (R67, R74). -/
theorem devSlotRead_of_room (h : d.apertureOpen port host offset) (hc : d.ctx? (offset / 0x1000) = some c)
    (hroom : d.portFull port c.domain = false) :
    devSlotRead port host offset d = d.toPort port c.domain false 64 none (.slotLine port
      (if bit (d.rightsOf host c.domain) 0 then d.slotLine c (offset % 0x1000 / 0x40) else List.replicate 64 0)) := by
  obtain ⟨hup, hadm, hoff, hknow⟩ := h
  by_cases hr : bit (d.rightsOf host c.domain) 0 = true <;>
    simp [devSlotRead, hup, hadm, Nat.not_le.2 hoff, hknow, hc, hroom, hr]

/-- A miss is served at its domain's turn, by a pair that works (R23, R26, R294). -/
theorem devXlateMissServed_of_turn {r : SlotRef} {x : Slot} (hx : d.slot? r = some x) (hst : x.state = .waiting) (hmiss : x.reason = .miss)
    (hp : 0 < d.workingPairs) :
    let west := x.cmd.any fun k => westPort k.port
    let dom := d.domainOf r
    nextAfter (if west then d.missTurn.2 else d.missTurn.1) (d.missDomains west) = some dom →
    devXlateMissServed r d =
      ((({ d with missTurn := if west then (d.missTurn.1, dom) else (dom, d.missTurn.2) } : Dev).countPage dom 0x120 1).decode r
        true).settle := by
  intro west dom hturn
  simp only [devXlateMissServed, hx]
  exact if_pos (by rw [hturn]; simp [hst, hmiss, hp, dom])

end

/-! ### ABORT (R90 to R93) -/

section
variable {d : Dev} {r : SlotRef} {c : Context} {x : Slot} {k : Cmd}

/-- An ABORT ends once no command of its scope is left and no ABORT inside the scope still runs (R91, R93). -/
theorem Dev.abortEnds_of_ended (hc : d.ctx? r.ctx = some c) (hk : d.cmd? r = some k) (hstarted : k.started = true)
    (hgone : ∀ v ∈ k.waits, d.cmd? v = none) (hinner : d.innerAbort c k = false) :
    d.abortEnds r =
      let n := (k.waits.filter d.wasAborted).length
      d.complete r .ok (k.w0 + BitVec.ofNat 64 n) (k.w1 + BitVec.ofNat 64 (k.waits.length - n)) 0 := by
  have hall : (k.waits.all fun v => (d.cmd? v).isNone) = true := List.all_eq_true.2 fun v hv => by rw [hgone v hv]; rfl
  simp only [Dev.abortEnds, hc, hk, hstarted, hall, hinner, Bool.not_false, Bool.and_self, if_true]

/-- An ABORT does not end while a command of its scope is left. -/
theorem Dev.abortEnds_of_left (hk : d.cmd? r = some k) (hleft : ∃ v ∈ k.waits, d.cmd? v ≠ none) : d.abortEnds r = d := by
  obtain ⟨v, hv, hne⟩ := hleft
  have hall : (k.waits.all fun v => (d.cmd? v).isNone) = false :=
    List.all_eq_false.2 ⟨v, hv, by simpa [Option.isNone_iff_eq_none] using hne⟩
  cases hc : d.ctx? r.ctx with
  | none => simp only [Dev.abortEnds, hc]
  | some c => simp only [Dev.abortEnds, hc, hk, hall, Bool.and_false, Bool.false_and, Bool.false_eq_true, if_false]

section
variable (hc : d.ctx? r.ctx = some c) (hx : d.slot? r = some x) (hk : x.cmd = some k) (hst : x.state = .running)
  (hverb : cmdVerb k = some .abort)
include hc hx hk hst hverb

/-- An ABORT that has begun only looks whether it ends. -/
theorem devAbort_of_started (hstarted : k.started = true) : devAbort r d = (d.abortEnds r).settle := by
  simp [devAbort, hc, hx, hk, hst, hverb, hstarted]

/-- An ABORT of its whole domain begins: it aborts the commands of its scope and waits for them (R90, R91). -/
theorem devAbort_of_domainScope (hnew : k.started = false) (hscope : fieldAt k.line 16 1 = 3) :
    let rs := d.abortScope fun y i => abortCovers c k y i
    devAbort r d = (((d.modCmd r fun k => { k with started := true, waits := rs }).abortAll rs).abortEnds r).settle := by
  simp [devAbort, hc, hx, hk, hst, hverb, hnew, hscope]

end

end

/-! ### The reset of command state (R94) -/

/-- The reset ends, and sets DONE, once no command that it aborts runs; under a full image's load it ends with the load (R62, R94). -/
theorem devCmdResetDone_of_over {d : Dev} (hactive : d.resetActive = true)
    (hload : d.load.phase = .idle ∨ ∀ i, d.load.next = some i → i.partialLoad = true)
    (hnone : (d.slotsWhere fun y z => !y.isGuest && z.state == .running && z.cmd.any fun k => cmdVerb k != some .abort) = []) :
    devCmdResetDone d = d.resetEnds.settle := by
  have hfree : (d.load.phase != .idle && d.load.next.any (!·.partialLoad)) = false := by
    rcases hload with h | h
    · simp [h]
    · cases hn : d.load.next with
      | none => simp
      | some i => simp [h i hn]
  simp [devCmdResetDone, hactive, hfree, hnone]

/-- Settles O21: each row in the case that its clause names; the domain served next at an ingress is log 105's, the order in which what
follows settles log 71's. -/
theorem submissionAndAbortComplete : Obligations.SubmissionAndAbortComplete := by
  refine ⟨fun s w r c x k => ⟨fun hw hreg hgo => ?reset, fun hlive hactive hload hnone => ?resetDone, ?ended, ?begins⟩,
    fun s w c x r => ⟨?accepted, ?read, ?miss⟩⟩
  case reset => exact whenLive_onRegister (i := .cmdReset w) hw rfl (by simp [hreg, hgo])
  case resetDone => exact whenLive_of_eq hlive (devCmdResetDone_of_over hactive hload hnone)
  case ended =>
    intro hlive hc hx hk hst hverb hstarted hgone hinner n
    have hcmd : s.dev.cmd? r = some k := by rw [Dev.cmd?, hx]; exact hk
    refine whenLive_of_eq hlive ?_
    rw [devAbort_of_started hc hx hk hst hverb hstarted, Dev.abortEnds_of_ended hc hcmd hstarted hgone hinner]
  case begins =>
    rintro hlive hc hx hk hst hverb hnew hscope rs d ⟨j, hj, hleft⟩
    refine whenLive_of_eq hlive ?_
    rw [devAbort_of_domainScope hc hx hk hst hverb hnew hscope, Dev.abortEnds_of_left hj hleft]
  case accepted =>
    intro hs d ha ho hk hc hr he hslot hx hfree hcompl hnew
    refine exec_submissionLine_of_serves hs ?_
    rw [devSubmissionLine_of_submitter (Dev.apertureOpen_of_serves hs ha ho hk) hc hr, Dev.submit_accepted he hslot hx hfree hcompl hnew]
  case read =>
    intro hs d ha ho hk hc hroom
    exact (whenLive_onTraffic hs).trans (by rw [devSlotRead_of_room (Dev.apertureOpen_of_serves hs ha ho hk) hc hroom])
  case miss =>
    intro hlive hx hst hmiss hp west dom hturn
    exact whenLive_of_eq hlive (devXlateMissServed_of_turn hx hst hmiss hp hturn)

end Sys2Proof.Machine
end

section
/-! PROOF. Host accesses to memory and the Dynamic Capacity mailbox (R65, R302, R303, R316): what each row does in the cases its
statement names. -/

namespace Sys2Proof.Machine

/-! ### Reads (R65, R302, R316) -/

section
variable {d : Dev} {a : MemAccess} {fails : List Nat} {dom sa : Nat} {x : Extent}

/-- A read of the command aperture is a slot read (R65). -/
theorem devHdmRead_aperture (hserves : d.servesMem a.port = true) (h : a.dpa < 0x1000_0000) :
    devHdmRead a fails d = devSlotRead a.port a.host a.dpa d := by
  simp [devHdmRead, hserves, h]

/-- A line read that nothing holds here is answered with its data (R302). -/
theorem Dev.readLine_answered (hrep : d.underRepair { sa := sa, len := 64 } = false)
    (hcold : ∀ g, d.granule? (sa / 65536) = some g → g.residency ≠ .flash) :
    d.readLine { a := a, domain := dom, sa := sa } =
      (d.touch [sa / 65536]).toPort a.port dom false 64 none (.memData a.port a.host a.dpa (d.lineData sa)) := by
  cases hg : d.granule? (sa / 65536) with
  | none => simp [Dev.readLine, hrep, hg]
  | some g =>
    have hnum : g.number = sa / 65536 := by simpa using List.find?_some hg
    simp [Dev.readLine, hrep, hg, hcold g hg, hnum]

/-- A read of a line homed here whose sectors check is the line's read. -/
theorem Dev.hostRead_local (hloc : d.isLocal sa = true) :
    d.hostRead { a := a, domain := dom, sa := sa } false [] = d.readLine { a := a, domain := dom, sa := sa } := by
  simp [Dev.hostRead, hloc]

section
variable (hserves : d.servesMem a.port = true) (h : 0x1000_0000 ≤ a.dpa)
include hserves h

/-- An admitted read whose answer finds no room waits at the Registrar (R302, R316). -/
theorem devHdmRead_full (hadm : d.registrar a.host a.dpa false = .admitted dom x sa) (hfull : d.portFull a.port dom = true) :
    devHdmRead a fails d = d.waitRoom (.hdmRead a fails) := by
  simp [devHdmRead, hserves, Nat.not_lt.2 h, Dev.admitRead, hadm, hfull]

/-- An admitted read with room goes on to its home (R302). -/
theorem devHdmRead_admitted (hadm : d.registrar a.host a.dpa false = .admitted dom x sa) (hroom : d.portFull a.port dom = false) :
    devHdmRead a fails d = d.hostRead { a := a, domain := dom, sa := sa } (x.rights == .vitrine) fails := by
  simp [devHdmRead, hserves, Nat.not_lt.2 h, Dev.admitRead, hadm, hroom]

/-- An admitted read with room, of a line homed here that no vitrine, flash or repair holds, is answered with its data (R302). -/
theorem devHdmRead_answered (hadm : d.registrar a.host a.dpa false = .admitted dom x sa) (hroom : d.portFull a.port dom = false)
    (hvit : x.rights ≠ .vitrine) (hloc : d.isLocal sa = true) (hfails : fails = [])
    (hrep : d.underRepair { sa := sa, len := 64 } = false) (hcold : ∀ g, d.granule? (sa / 65536) = some g → g.residency ≠ .flash) :
    devHdmRead a fails d = (d.touch [sa / 65536]).toPort a.port dom false 64 none (.memData a.port a.host a.dpa (d.lineData sa)) := by
  rw [devHdmRead_admitted hserves h hadm hroom, beq_eq_false_iff_ne.2 hvit, hfails, Dev.hostRead_local hloc,
    Dev.readLine_answered hrep hcold]

/-- A read that the Registrar refuses is counted and answered with poison (R302). -/
theorem devHdmRead_refused (href : d.registrar a.host a.dpa false = .refused) :
    devHdmRead a fails d = (d.count (portOff a.port 0x208) 1).toPort a.port 256 false 64 none (.memData a.port a.host a.dpa none) := by
  simp [devHdmRead, hserves, Nat.not_lt.2 h, Dev.admitRead, Dev.admitHost, href, Dev.refuseHost]

end

end

/-! ### Writes (R302) -/

section
variable {d : Dev} {a : MemAccess} {en : BitVec 64} {data : List Byte} {fails : List Nat} {dom sa : Nat} {x : Extent}

/-- A write to a line homed here none of whose sectors fails its check is the line's write. -/
theorem Dev.hostWrite_local (hloc : d.isLocal sa = true) :
    d.hostWrite { a := a, domain := dom, sa := sa } false en data [] = d.writeLine { a := a, domain := dom, sa := sa } en data := by
  simp [Dev.hostWrite, hloc, Dev.writeHome, failingParts]

section
variable (hserves : d.servesMem a.port = true) (h : 0x1000_0000 ≤ a.dpa)
include hserves h

/-- An admitted write goes on to its home (R302). -/
theorem devHdmWrite_admitted (hadm : d.registrar a.host a.dpa true = .admitted dom x sa) :
    devHdmWrite a en data fails d = d.hostWrite { a := a, domain := dom, sa := sa } (x.rights == .vitrine) en data fails := by
  simp [devHdmWrite, hserves, Nat.not_lt.2 h, Dev.admitHost, hadm]

/-- An admitted write to a line homed here that no vitrine holds, none of whose sectors fails its check, writes the line (R302). -/
theorem devHdmWrite_written (hadm : d.registrar a.host a.dpa true = .admitted dom x sa) (hvit : x.rights ≠ .vitrine)
    (hloc : d.isLocal sa = true) (hfails : fails = []) :
    devHdmWrite a en data fails d = d.writeLine { a := a, domain := dom, sa := sa } en data := by
  rw [devHdmWrite_admitted hserves h hadm, beq_eq_false_iff_ne.2 hvit, hfails, Dev.hostWrite_local hloc]

/-- A write that the Registrar refuses is counted and completed (R302). -/
theorem devHdmWrite_refused (href : d.registrar a.host a.dpa true = .refused) :
    devHdmWrite a en data fails d = (d.count (portOff a.port 0x208) 1).emit (.ndr a.port a.host a.dpa 0) := by
  simp [devHdmWrite, hserves, Nat.not_lt.2 h, Dev.admitHost, href, Dev.refuseHost]

end

end

/-! ### The mailbox (R303) -/

/-- The events kept once the response to one has come: the event too while the host has not fetched it. -/
def Dev.eventsAnswered (d : Dev) (ev : DcEvent) : List DcEvent :=
  if ev.retrieved then d.dcEvents.erase ev else replaceFirst (· == ev) { ev with answered := true } d.dcEvents

/-- The events kept once one is fetched: the event too while it waits for its response. -/
def Dev.eventsFetched (d : Dev) (ev : DcEvent) : List DcEvent :=
  if ev.add && !ev.answered then replaceFirst (· == ev) { ev with retrieved := true } d.dcEvents else d.dcEvents.erase ev

section
variable {d : Dev} {port host dpa : Nat} {ev : DcEvent} {v : Window} (hok : d.mailboxOk port host = true)
include hok

/-- A response that accepts the whole range of an Add Capacity event admits its window (R291, R303). -/
theorem devAddDynamicCapacityResponse_accepted (hev : (d.dcEvents.find? fun y => y.host == host && y.add && !y.answered &&
      (ev.len == 0 || (decide (y.dpa ≤ ev.dpa) && decide (ev.dpa + ev.len ≤ y.dpa + y.len)))) = some ev)
    (hv : d.windows.find? (fun y => y.host == host && y.dpa == ev.dpa && y.len == ev.len && !y.accepted) = some v) :
    devAddDynamicCapacityResponse port host ev.dpa ev.len d =
      { ({ d with dcEvents := d.eventsAnswered ev } : Dev).emit (.mailbox port []) with
        windows := replaceFirst (· == v) { v with accepted := true } d.windows } := by
  simp only [devAddDynamicCapacityResponse, hok, Bool.not_true, Bool.false_eq_true, if_false, hev, Dev.emit, hv, if_true, decide_true,
    Bool.and_self, Dev.eventsAnswered]

/-- A release takes the window that holds the address away, with the lines cached under it (R303). -/
theorem devReleaseDynamicCapacity_of_window
    (hv : d.windows.find? (fun y => y.host == host && y.accepted && decide (y.dpa ≤ dpa) && decide (dpa < y.dpa + y.len)) = some v) :
    devReleaseDynamicCapacity port host dpa d =
      (((d.emit (.mailbox port [])).dropWindow v false).evictLines ((d.emit (.mailbox port [])).cachedBy [v])).settle := by
  have hv' : (d.emit (.mailbox port [])).windows.find?
      (fun y => y.host == host && y.accepted && decide (y.dpa ≤ dpa) && decide (dpa < y.dpa + y.len)) = some v := hv
  simp only [devReleaseDynamicCapacity, hok, Bool.not_true, Bool.false_eq_true, if_false, hv']

/-- The list of a view's windows (R303), in the form that log 33 gives it. -/
theorem devGetDynamicCapacityExtentList_of_ok :
    devGetDynamicCapacityExtentList port host d = d.emit (.mailbox port
      ((sortOrd (fun (y z : Window) => decide (y.dpa < z.dpa)) (d.windows.filter fun y => y.host == host && y.accepted)).flatMap
        fun y => natLe y.dpa 8 ++ natLe y.len 8)) := by
  simp only [devGetDynamicCapacityExtentList, hok, Bool.not_true, Bool.false_eq_true, if_false]

/-- With no event left to fetch the answer is empty. -/
theorem devEventRetrieval_none (hev : d.dcEvents.find? (fun y => y.host == host && !y.retrieved) = none) :
    devEventRetrieval port host d = d.emit (.mailbox port []) := by
  simp only [devEventRetrieval, hok, Bool.not_true, Bool.false_eq_true, if_false, hev]

/-- The oldest event left is fetched (R303). -/
theorem devEventRetrieval_some (hev : d.dcEvents.find? (fun y => y.host == host && !y.retrieved) = some ev) :
    devEventRetrieval port host d = ({ d with dcEvents := d.eventsFetched ev } : Dev).emit (.mailbox port ev.record) := by
  simp only [devEventRetrieval, hok, Bool.not_true, Bool.false_eq_true, if_false, hev, Dev.eventsFetched]

end

/-! ### The rows over a served port -/

/-- A traffic row of a served port answers what its meaning gives on the device as reached. -/
theorem onTraffic_of_eq {s : State} {i : Instr} {port : Nat} {f : Dev → Dev} {e : Dev} (h : s.dev.serves port = true)
    (he : f (s.dev.reached i port) = e) : whenLive (onTraffic i port f) s = .next { s with dev := e } := by
  rw [whenLive_onTraffic h, he]

/-- A served port of a device that admits serves memory accesses (R424, R454). -/
theorem Dev.servesMem_reached {d : Dev} {i : Instr} {port : Nat} (hs : d.serves port = true) (ha : (d.reached i port).admits = true) :
    (d.reached i port).servesMem port = true := by
  rw [Dev.servesMem, Dev.reached_portUp hs, ha]; rfl

/-- Settles O56: each row in the case that its clause names; a read that waits for room is log 63's, and the bytes of the extent list
and of an event are log 33's. -/
theorem hostAccessesComplete : Obligations.HostAccessesComplete := by
  intro s a en data fails dom sa port host dpa x ev v d e line reads writes
  refine ⟨?aperture, ?read, ?write, fun hs => ⟨?respond, ?release, ?list, ?retrieve⟩⟩
  case aperture =>
    rintro ⟨hs, ha⟩ hlow
    exact onTraffic_of_eq hs (devHdmRead_aperture (Dev.servesMem_reached hs ha) hlow)
  case read =>
    rintro ⟨hs, ha⟩ hhigh
    have hserves := Dev.servesMem_reached hs ha
    refine ⟨fun hadm hfull => ?full, fun hadm hroom hvit hloc hfails hrep hcold => ?answered, fun href => ?refused⟩
    case full => exact onTraffic_of_eq hs (devHdmRead_full hserves hhigh hadm hfull)
    case answered => exact onTraffic_of_eq hs (devHdmRead_answered hserves hhigh hadm hroom hvit hloc hfails hrep hcold)
    case refused => exact onTraffic_of_eq hs (devHdmRead_refused hserves hhigh href)
  case write =>
    rintro ⟨hs, ha⟩ hhigh
    have hserves := Dev.servesMem_reached hs ha
    refine ⟨fun hadm hvit hloc hfails => ?written, fun href => ?refused⟩
    case written => exact onTraffic_of_eq hs (devHdmWrite_written hserves hhigh hadm hvit hloc hfails)
    case refused => exact onTraffic_of_eq hs (devHdmWrite_refused hserves hhigh href)
  case respond =>
    rintro d hok hev rfl hv
    exact ⟨_, onTraffic_of_eq hs (devAddDynamicCapacityResponse_accepted hok hev hv)⟩
  case release => exact fun hok hv => onTraffic_of_eq hs (devReleaseDynamicCapacity_of_window hok hv)
  case list => exact fun hok => onTraffic_of_eq hs (devGetDynamicCapacityExtentList_of_ok hok)
  case retrieve =>
    intro d hok
    refine ⟨fun hev => ?none, fun hev => ?some⟩
    case none => exact onTraffic_of_eq hs (devEventRetrieval_none hok hev)
    case some => exact ⟨_, onTraffic_of_eq hs (devEventRetrieval_some hok hev)⟩

end Sys2Proof.Machine
end

section
/-! PROOF. What a step writes (R110), and the steps of FILL and COMPARE (R99, R101). -/

namespace Sys2Proof.Machine

/-! ### Writes of a step to this member's store (R110) -/

/-- `e` comes of `d` by writes to the store: no more than the store, poison that goes, the PE read caches and the free draws change,
and of the store only bytes that a write covers. -/
structure Dev.Stores (ws : List MemWrite) (d e : Dev) : Prop where
  frame : e = { d with draws := e.draws, peCache := e.peCache, mem := e.mem, poison := e.poison }
  bytes : ∀ a, (∀ w ∈ ws, a < w.sa ∨ w.sa + w.bytes.length ≤ a) → memGet e.mem a = memGet d.mem a
  poison : ∀ x ∈ e.poison, x ∈ d.poison

section
variable {d e f : Dev} {ws vs : List MemWrite}

/-- Writes after writes. -/
theorem Dev.Stores.trans (h : d.Stores ws e) (g : e.Stores vs f) : d.Stores (ws ++ vs) f where
  frame := by rw [g.frame, h.frame]
  bytes a ha := by
    rw [g.bytes a fun w hw => ha w (List.mem_append_right _ hw), h.bytes a fun w hw => ha w (List.mem_append_left _ hw)]
  poison x hx := h.poison x (g.poison x hx)

/-- Writes do not make a store coded. -/
theorem Dev.Stores.coded_eq (h : Dev.Stores ws d e) : e.coded = d.coded := by rw [h.frame]; rfl

/-- Writes leave every home as it was. -/
theorem Dev.Stores.isLocal_eq (h : Dev.Stores ws d e) (sa : Nat) : e.isLocal sa = d.isLocal sa := by rw [h.frame]; rfl

end

/-- Choosing the PE that a step writes with writes nothing. -/
theorem Dev.stores_readerOf (d : Dev) (kind : EngineKind) (engine : Option Nat) : Dev.Stores [] d (d.readerOf kind engine).2 := by
  unfold Dev.readerOf
  split <;> exact ⟨rfl, fun _ _ => rfl, fun _ h => h⟩

/-- A PE's own read cache is all that follows its write. -/
theorem Dev.peWrote_eq (d : Dev) (pe : Option Nat) (w : MemWrite) : ∃ pc, d.peWrote pe w = { d with peCache := pc } := by
  cases pe <;> exact ⟨_, rfl⟩

/-- Outside a coded collection a step's write to this member's store is a write to the store. -/
theorem Dev.storeWrite_of_uncoded {d : Dev} (r : SlotRef) (sa : Nat) (bs : List Byte) (hc : d.coded = false) :
    d.storeWrite r sa bs = d.write sa bs := by
  have hcoded : (d.write sa bs).coded = false := hc
  simp only [Dev.storeWrite, Dev.parityAfter, hcoded, Bool.not_false, if_true, Dev.awaitParity, List.isEmpty_nil]

/-- A write homed here, outside a coded collection, is a write to the store, and at most the PE read caches follow it. -/
theorem Dev.stepWrite_of_local {d : Dev} (r : SlotRef) (pe : Option Nat) {w : MemWrite} (hc : d.coded = false) (hl : d.isLocal w.sa = true) :
    ∃ pc, d.stepWrite r pe w = { d.write w.sa w.bytes with peCache := pc } := by
  obtain ⟨pc, hpc⟩ := d.peWrote_eq pe w
  have hlocal : Dev.isLocal { d with peCache := pc } w.sa = true := hl
  rw [Dev.stepWrite, hpc]
  exact ⟨pc, (if_pos hlocal).trans (Dev.storeWrite_of_uncoded r w.sa w.bytes hc)⟩

/-- A step's write stores its bytes and nothing else. -/
theorem Dev.stores_stepWrite {d : Dev} (r : SlotRef) (pe : Option Nat) {w : MemWrite} (hc : d.coded = false) (hl : d.isLocal w.sa = true) :
    Dev.Stores [w] d (d.stepWrite r pe w) := by
  obtain ⟨pc, h⟩ := Dev.stepWrite_of_local r pe hc hl
  rw [h]
  exact ⟨rfl, fun a ha => memGet_memWrite_other _ _ (ha w (List.mem_singleton_self w)), fun x hx => (List.mem_filter.1 hx).1⟩

/-- A step's writes store their bytes and nothing else. -/
theorem Dev.stores_stepWrites (r : SlotRef) (pe : Option Nat) {ws : List MemWrite} {d : Dev} (hc : d.coded = false)
    (hl : ∀ w ∈ ws, d.isLocal w.sa = true) : Dev.Stores ws d (ws.foldl (fun d w => d.stepWrite r pe w) d) := by
  induction ws generalizing d with
  | nil => exact ⟨rfl, fun _ _ => rfl, fun _ h => h⟩
  | cons w ws ih =>
    have hw := Dev.stores_stepWrite r pe hc (hl w List.mem_cons_self)
    exact hw.trans (ih (hw.coded_eq.trans hc) fun v hv => (hw.isLocal_eq v.sa).trans (hl v (List.mem_cons_of_mem w hv)))

/-- Settles O26: the step's writes, made with the PE that it is given, store their bytes and nothing else. -/
theorem stepWritesOnlyItsBytes : Obligations.StepWritesOnlyItsBytes := by
  intro d r c ws kind engine a hc hl
  have hread := d.stores_readerOf kind engine
  have hstores := hread.trans (Dev.stores_stepWrites r (d.readerOf kind engine).1 (hread.coded_eq.trans hc)
    fun w hw => (hread.isLocal_eq w.sa).trans (hl w hw))
  intro e
  have he : Dev.Stores ws d e := hstores
  refine ⟨he.bytes a, ?_, ?_, ?_, ?_, ?_, he.poison⟩ <;> rw [he.frame]

/-! ### A verb's row on a command that is ready -/

/-- A verb's row on a command that runs and has not begun answers what its meaning makes of the command. -/
theorem State.runs.next {s : State} {r : SlotRef} {v : Verb} {c : Context} {k : Cmd} {f : Dev → Dev} {e : Dev} (h : s.runs r v c k)
    (hf : s.dev.ready r v = some (c, k) → f s.dev = e) : whenLive f s = .next { s with dev := e } :=
  whenLive_of_eq h.1 (hf h.2)

/-- What is joined from the elements of a list depends on what each of them gives. -/
theorem flatMap_eq_of_forall_mem {α β : Type} {f g : α → List β} {xs : List α} (h : ∀ x ∈ xs, f x = g x) : xs.flatMap f = xs.flatMap g := by
  rw [List.flatMap_def, List.flatMap_def, List.map_congr_left h]

/-- Steps with one effect each have those effects in order. -/
theorem flatMap_effects_map {α : Type} {f : α → Step} {g : α → Effect} (h : ∀ x, (f x).effects = [g x]) (xs : List α) :
    (xs.map f).flatMap (·.effects) = xs.map g := by
  rw [List.flatMap_map, List.map_eq_flatMap]
  exact flatMap_eq_of_forall_mem fun x _ => h x

/-! ### FILL (R99) -/

/-- The bytes at `i` of a pattern repeated whole `q` times and then begun once more. -/
theorem getElem?_cycle {α : Type} (pat : List α) {q m i : Nat} (hm : m ≤ pat.length) (hi : i < q * pat.length + m) :
    ((List.replicate q pat).flatten ++ pat.take m)[i]? = pat[i % pat.length]? := by
  induction q generalizing i with
  | zero =>
    rw [Nat.zero_mul, Nat.zero_add] at hi
    simp [hi, Nat.mod_eq_of_lt (Nat.lt_of_lt_of_le hi hm)]
  | succ q ih =>
    rw [List.replicate_succ, List.flatten_cons, List.append_assoc]
    by_cases hlow : i < pat.length
    · rw [List.getElem?_append_left hlow, Nat.mod_eq_of_lt hlow]
    · have hle := Nat.le_of_not_lt hlow
      rw [List.getElem?_append_right hle, ih (by rw [Nat.succ_mul] at hi; omega), ← Nat.mod_eq_sub_mod hle]

/-- The bytes that FILL writes to a span: its pattern over and over (R99). -/
def Cmd.fillBytes (k : Cmd) (n : Nat) : List Byte :=
  let w := fieldAt k.line 40 1
  (List.replicate (n / w) (slice k.line 32 w)).flatten ++ (slice k.line 32 w).take (n % w)

/-- The step of FILL for a span (R99, R103). -/
def Cmd.fillStep (k : Cmd) (x : Span) : Step :=
  { Step.nop with kind := .mover, free := true, writes := [{ sa := x.sa, bytes := k.fillBytes x.len }], w0 := x.len }

/-- A ready FILL begins with a step for each span of its range. -/
theorem devFill_of_ready {d : Dev} {r : SlotRef} {c : Context} {k : Cmd} (h : d.ready r .fill = some (c, k)) :
    devFill r d = d.begin r ((k.spans c.domain (fieldAt k.line 16 8) (fieldAt k.line 24 8)).map k.fillStep) 0 0 0 :=
  Dev.onReady_of_ready _ h

section
variable {k : Cmd} (hline : k.line.length = 64) (hmax : fieldAt k.line 40 1 ≤ 8)
include hline hmax

/-- A FILL's pattern is as long as its width. -/
theorem Cmd.fillPattern_length : (slice k.line 32 (fieldAt k.line 40 1)).length = fieldAt k.line 40 1 := by
  simp only [slice, List.length_take, List.length_drop, hline]
  omega

/-- FILL writes as many bytes as its span has. -/
theorem Cmd.fillBytes_length (n : Nat) (hpos : 0 < fieldAt k.line 40 1) : (k.fillBytes n).length = n := by
  have hrest : n % fieldAt k.line 40 1 ≤ fieldAt k.line 40 1 := Nat.le_of_lt (Nat.mod_lt n hpos)
  simp only [Cmd.fillBytes, List.length_append, List.length_flatten, List.map_replicate, List.sum_replicate_nat, List.length_take,
    Cmd.fillPattern_length hline hmax, Nat.min_eq_left hrest, Nat.div_add_mod' n]

/-- Byte `i` that FILL writes to a span is byte `i` mod w of its pattern (R99). -/
theorem Cmd.fillBytes_at {n i : Nat} (hpos : 0 < fieldAt k.line 40 1) (hi : i < n) :
    at! (k.fillBytes n) i 0 = at! k.line (32 + i % fieldAt k.line 40 1) 0 := by
  have hlen := Cmd.fillPattern_length hline hmax
  have hcycle : (k.fillBytes n)[i]? = (slice k.line 32 (fieldAt k.line 40 1))[i % fieldAt k.line 40 1]? := by
    have := getElem?_cycle (slice k.line 32 (fieldAt k.line 40 1)) (q := n / fieldAt k.line 40 1) (m := n % fieldAt k.line 40 1) (i := i)
    rw [hlen, Nat.div_add_mod' n] at this
    exact this (Nat.le_of_lt (Nat.mod_lt n hpos)) hi
  rw [at!, hcycle, slice, List.getElem?_take_of_lt (Nat.mod_lt i hpos), List.getElem?_drop, at!]

end

/-- Settles O29: the plan is a step for each span, and each writes its pattern. -/
theorem fillWritesPattern : Obligations.FillWritesPattern := by
  intro s r c k hrun hline hpos hmax
  refine ⟨_, hrun.next devFill_of_ready, ?places, ?counts, ?pattern⟩
  case places => rw [List.map_map]; rfl
  case counts => rw [List.map_map]; rfl
  case pattern =>
    intro st hst
    obtain ⟨x, -, rfl⟩ := List.mem_map.1 hst
    have hlen : (k.fillBytes x.len).length = x.len := Cmd.fillBytes_length hline hmax x.len hpos
    exact ⟨_, rfl, hlen, fun i hi => Cmd.fillBytes_at hline hmax hpos (hlen ▸ hi)⟩

/-! ### COMPARE (R101) -/

/-- The step of COMPARE for a piece of its ranges (R101, R103). -/
def Cmd.compareStep (k : Cmd) (dom : Nat) (p : Nat × Nat) : Step :=
  { Step.nop with
    kind := .scanner, free := true, effects := [.compare p.1 p.2]
    reads := k.spans dom (fieldAt k.line 16 8 + p.1) p.2 ++ k.spans dom (fieldAt k.line 24 8 + p.1) p.2 }

/-- A ready COMPARE begins with a step for each 32 KiB of its ranges, and all ones in word 0. -/
theorem devCompare_of_ready {d : Dev} {r : SlotRef} {c : Context} {k : Cmd} (h : d.ready r .compare = some (c, k)) :
    devCompare r d = d.begin r ((pieces (fieldAt k.line 32 8) 32768).map (k.compareStep c.domain)) (BitVec.allOnes 64) 0 0 :=
  Dev.onReady_of_ready _ h

/-- A list whose first element is its least gives its first element. -/
theorem foldl_min_cons_of_le {x : Nat} {xs : List Nat} (a : Nat) (h : ∀ y ∈ xs, x ≤ y) : (x :: xs).foldl min a = min a x := by
  induction xs with
  | nil => rfl
  | cons y ys ih =>
    have hy : min (min a x) y = min a x := Nat.min_eq_left (Nat.le_trans (Nat.min_le_right a x) (h y List.mem_cons_self))
    rw [List.foldl_cons, List.foldl_cons, hy, ← List.foldl_cons, ih fun z hz => h z (List.mem_cons_of_mem y hz)]

/-- The differing offsets of two byte lists rise. -/
theorem diffs_pairwise_lt (a b : List Byte) : (diffs a b).Pairwise (· < ·) := List.pairwise_lt_range.filter _

/-- The differing offsets, from the start of the ranges, that a COMPARE step finds for a piece (R101). -/
def Dev.differences (d : Dev) (k : Cmd) (dom : Nat) (p : Nat × Nat) : List Nat :=
  (diffs (d.loadAll k (k.spans dom (fieldAt k.line 16 8 + p.1) p.2)) (d.loadAll k (k.spans dom (fieldAt k.line 24 8 + p.1) p.2))).map (p.1 + ·)

/-- What steps of a COMPARE that found the differences `ds` have made of the device and of the command (R101): no more than words 0
and 1 and the plan changed; word 0 holds the lowest and word 1 their number, which FIRST_ONLY leaves at zero. -/
structure Dev.Compared (r : SlotRef) (d : Dev) (k : Cmd) (ds : List Nat) (e : Dev) (j : Cmd) : Prop where
  dev : e = { d with ctxs := e.ctxs }
  domain : e.domainOf r = d.domainOf r
  holds : e.cmd? r = some j
  cmd : j = { k with w0 := j.w0, w1 := j.w1, plan := j.plan }
  lowest : j.w0.toNat = ds.foldl min k.w0.toNat
  count : lineFlags k.line ≠ 1 → j.w1 = k.w1 + BitVec.ofNat 64 ds.length
  uncounted : lineFlags k.line = 1 → k.w1 = 0 → j.w1 = 0

section
variable {r : SlotRef} {d e f : Dev} {k j i : Cmd} {ds es : List Nat}

/-- With no step retired, nothing has been found. -/
theorem Dev.Compared.refl (hk : d.cmd? r = some k) : Dev.Compared r d k [] d k :=
  ⟨rfl, rfl, hk, rfl, rfl, fun _ => (BitVec.add_zero _).symm, fun _ h => h⟩

/-- Steps after steps find what both found. -/
theorem Dev.Compared.trans (h : Dev.Compared r d k ds e j) (g : Dev.Compared r e j es f i) : Dev.Compared r d k (ds ++ es) f i where
  dev := by rw [g.dev, h.dev]
  domain := g.domain.trans h.domain
  holds := g.holds
  cmd := by rw [g.cmd, h.cmd]
  lowest := by rw [g.lowest, h.lowest, List.foldl_append]
  count hflags := by
    have hline : j.line = k.line := by rw [h.cmd]
    rw [g.count (hline ▸ hflags), h.count hflags, List.length_append, BitVec.ofNat_add, BitVec.add_assoc]
  uncounted hflags hzero := by
    have hline : j.line = k.line := by rw [h.cmd]
    exact g.uncounted (hline ▸ hflags) (h.uncounted hflags hzero)

/-- What a later step finds is what it would have found at first: the words and the plan are nothing that it reads. -/
theorem Dev.Compared.differences_eq (h : Dev.Compared r d k ds e j) (dom : Nat) (p : Nat × Nat) :
    e.differences j dom p = d.differences k dom p := by
  rw [h.dev, h.cmd]; rfl

/-- Changing a command leaves the domain of its context. -/
@[simp] theorem Dev.domainOf_modCmd (d : Dev) (r : SlotRef) (f : Cmd → Cmd) : (d.modCmd r f).domainOf r = d.domainOf r := by
  rw [Dev.domainOf, Dev.modCmd, Dev.modSlot, Dev.ctx?_modCtx _ _ _ (by simp), Option.map_map]
  rfl

/-- Without poison, here or known of another home, no span that a command reads is bad. -/
theorem Dev.badSpans_of_clean (hp : d.poison = []) (hs : k.spoiled = []) (ss : List Span) : d.badSpans k ss = false := by
  simp [Dev.badSpans, Dev.badSpan, Dev.poisonedIn, hp, hs]

/-- A step of COMPARE on ranges without poison finds the differences of its piece (R101). -/
theorem Dev.compareAt_compared (hk : d.cmd? r = some k) (hp : d.poison = []) (hs : k.spoiled = []) (hr : .poisoned ∉ k.raised)
    (p : Nat × Nat) : ∃ j, Dev.Compared r d k (d.differences k (d.domainOf r) p) (d.compareAt r p.1 p.2) j := by
  have hraised : k.raised.contains .poisoned = false := by simpa using hr
  simp only [Dev.compareAt, hk, Dev.badSpans_of_clean hp hs, hraised, Bool.false_eq_true, if_false, Dev.differences]
  have hsorted := diffs_pairwise_lt (d.loadAll k (k.spans (d.domainOf r) (fieldAt k.line 16 8 + p.1) p.2))
    (d.loadAll k (k.spans (d.domainOf r) (fieldAt k.line 24 8 + p.1) p.2))
  generalize diffs (d.loadAll k (k.spans (d.domainOf r) (fieldAt k.line 16 8 + p.1) p.2))
    (d.loadAll k (k.spans (d.domainOf r) (fieldAt k.line 24 8 + p.1) p.2)) = ds at hsorted
  cases ds with
  | nil => exact ⟨k, .refl hk⟩
  | cons x xs =>
    have hleast : ∀ y ∈ xs.map (p.1 + ·), p.1 + x ≤ y := by
      intro y hy
      obtain ⟨z, hz, rfl⟩ := List.mem_map.1 hy
      exact Nat.add_le_add_left (Nat.le_of_lt (List.rel_of_pairwise_cons hsorted hz)) p.1
    have hlow : min k.w0.toNat (p.1 + x) < 2 ^ 64 := Nat.lt_of_le_of_lt (Nat.min_le_left _ _) k.w0.isLt
    rw [List.head?_cons]
    refine ⟨_, ⟨rfl, Dev.domainOf_modCmd _ _ _, by rw [Dev.cmd?_modCmd, hk]; rfl, rfl, ?lowest, fun hflags => ?count,
      fun hflags _ => ?uncounted⟩⟩
    case lowest => rw [List.map_cons, foldl_min_cons_of_le _ hleast]; exact Nat.mod_eq_of_lt hlow
    case count => simp [hflags]
    case uncounted => simp [hflags]

/-- Steps of COMPARE on ranges without poison, in whatever order, find the differences of their pieces (R101). -/
theorem Dev.foldl_compareAt_compared (ps : List (Nat × Nat)) (hk : d.cmd? r = some k) (hp : d.poison = []) (hs : k.spoiled = [])
    (hr : .poisoned ∉ k.raised) :
    ∃ j, Dev.Compared r d k (ps.flatMap (d.differences k (d.domainOf r))) (ps.foldl (fun d p => d.compareAt r p.1 p.2) d) j := by
  induction ps generalizing d k with
  | nil => exact ⟨k, .refl hk⟩
  | cons p ps ih =>
    obtain ⟨j, hstep⟩ := Dev.compareAt_compared hk hp hs hr p
    have hpoison : (d.compareAt r p.1 p.2).poison = [] := by rw [hstep.dev]; exact hp
    have hspoiled : j.spoiled = [] := by rw [hstep.cmd]; exact hs
    have hraised : .poisoned ∉ j.raised := by rw [hstep.cmd]; exact hr
    obtain ⟨i, hrest⟩ := ih hstep.holds hpoison hspoiled hraised
    have hsame : ps.flatMap ((d.compareAt r p.1 p.2).differences j ((d.compareAt r p.1 p.2).domainOf r)) =
        ps.flatMap (d.differences k (d.domainOf r)) := by
      rw [hstep.domain]
      exact flatMap_eq_of_forall_mem fun q _ => hstep.differences_eq (d.domainOf r) q
    rw [List.flatMap_cons, ← hsame]
    exact ⟨i, hstep.trans hrest⟩

end

/-- Settles O30: the plan is a step for each piece, and the steps together find what each of them finds. -/
theorem compareFindsDifferences : Obligations.CompareFindsDifferences := by
  refine ⟨fun s r c k hrun => ⟨_, hrun.next devCompare_of_ready, flatMap_effects_map (fun _ => rfl) _, ?silent⟩,
    fun d r k ps hk hp hs hr => ?found⟩
  case silent =>
    intro st hst
    obtain ⟨p, -, rfl⟩ := List.mem_map.1 hst
    exact ⟨rfl, rfl, rfl, rfl, rfl⟩
  case found =>
    obtain ⟨j, h⟩ := Dev.foldl_compareAt_compared ps hk hp hs hr
    exact ⟨j, h.holds, by rw [h.dev], by rw [h.cmd], h.lowest, h.count, h.uncounted⟩

end Sys2Proof.Machine
end

section
/-! PROOF. How FILL, COPY, REDUCE, ATOMIC and ATOMIC_BATCH begin (R99 to R109), and that a step of REDUCE counts its elements in word 0
(R102). -/

namespace Sys2Proof.Machine

/-! ### Pieces of work -/

/-- Work is cut into its quotient, rounded up, of pieces. -/
@[simp] theorem pieces_length (total n : Nat) : (pieces total n).length = ceilDiv total n := by simp [pieces]

/-- A piece has no more units than the cut. -/
theorem snd_le_of_mem_pieces {total n : Nat} {p : Nat × Nat} (h : p ∈ pieces total n) : p.2 ≤ n := by
  obtain ⟨i, -, rfl⟩ := List.mem_map.1 h
  exact Nat.min_le_left _ _

/-! ### COPY (R100) -/

section
variable {d : Dev} {r : SlotRef} {c : Context} {k : Cmd} (h : d.ready r .copy = some (c, k))
include h

/-- COPY of ranges that lie apart begins with its moves. -/
theorem devCopy_of_apart (hapart : ∀ a ∈ k.spans c.domain (fieldAt k.line 16 8) (fieldAt k.line 32 8),
      ∀ b ∈ k.spans c.domain (fieldAt k.line 24 8) (fieldAt k.line 32 8), overlap a.sa a.len b.sa b.len = false) :
    devCopy r d = d.begin r (moveSteps (k.spans c.domain (fieldAt k.line 16 8) (fieldAt k.line 32 8))
      (k.spans c.domain (fieldAt k.line 24 8) (fieldAt k.line 32 8))) 0 0 0 := by
  rw [devCopy, Dev.onReady_of_ready _ h]
  refine if_neg fun hmeet => ?_
  obtain ⟨a, ha, hany⟩ := List.any_eq_true.1 hmeet
  obtain ⟨b, hb, hover⟩ := List.any_eq_true.1 hany
  exact Bool.false_ne_true ((hapart a ha b hb).symm.trans hover)

/-- COPY of ranges that overlap in SA is refused. -/
theorem devCopy_of_overlap (hmeet : ∃ a ∈ k.spans c.domain (fieldAt k.line 16 8) (fieldAt k.line 32 8),
      ∃ b ∈ k.spans c.domain (fieldAt k.line 24 8) (fieldAt k.line 32 8), overlap a.sa a.len b.sa b.len = true) :
    devCopy r d = d.reject r .badOperand := by
  rw [devCopy, Dev.onReady_of_ready _ h]
  obtain ⟨a, ha, b, hb, hover⟩ := hmeet
  exact if_pos (List.any_eq_true.2 ⟨a, ha, List.any_eq_true.2 ⟨b, hb, hover⟩⟩)

end

/-! ### REDUCE (R102, R103) -/

/-- Of steps that read before one that acts, that one alone has effects. -/
@[simp] theorem Dev.readThen_effects (d : Dev) (ss : List Span) (out : Nat) (fin : Step) :
    (d.readThen ss out fin).flatMap (·.effects) = fin.effects := by
  rw [Dev.readThen, List.flatMap_append, List.flatMap_eq_nil_iff.2 ?silent]
  · exact List.flatMap_singleton _ _
  case silent =>
    intro st hst
    obtain ⟨g, -, rfl⟩ := List.mem_map.1 hst
    rfl

/-- Steps that read before one that acts run on its kind of engine, and write at most what it writes. -/
theorem Dev.mem_readThen {d : Dev} {ss : List Span} {out : Nat} {fin st : Step} (h : st ∈ d.readThen ss out fin) :
    st.kind = fin.kind ∧ (st.writes = [] ∨ st.writes = fin.writes) ∧ (st.outs = [] ∨ st.outs = fin.outs) := by
  rcases List.mem_append.1 h with hread | hlast
  · obtain ⟨g, -, rfl⟩ := List.mem_map.1 hread
    exact ⟨rfl, .inl rfl, .inl rfl⟩
  · rw [List.mem_singleton.1 hlast]
    exact ⟨rfl, .inr rfl, .inr rfl⟩

/-- The last step of a REDUCE under SCALAR: it combines what all steps read (R102). -/
def reduceAllStep : Step := { Step.nop with kind := .pe, effects := [.reduceAll] }

/-- The steps of a REDUCE under SCALAR. -/
def Dev.scalarPlan (d : Dev) (k : Cmd) (dom : Nat) : List Step :=
  let o := reduceOps k.line
  d.readThen ((List.range o.m).flatMap fun j => (k.reduceSpans dom o j 0 o.n).flatten) 0 reduceAllStep

/-- The step of a REDUCE that writes a piece of its output (R102). -/
def Cmd.reduceStep (k : Cmd) (dom : Nat) (p : Nat × Nat) : Step :=
  let o := reduceOps k.line
  { Step.nop with
    kind := .pe, free := true, effects := [.reduce p.1 p.2]
    outs := k.spans dom (o.dst + p.1 * (elemBits o.fo / 8)) (p.2 * (elemBits o.fo / 8)) }

/-- The steps of a REDUCE without SCALAR: for each piece those that read and the one that writes (R103). -/
def Dev.elementPlan (d : Dev) (k : Cmd) (dom : Nat) : List Step :=
  let o := reduceOps k.line
  (pieces o.n o.perStep).flatMap fun p =>
    d.readThen ((List.range o.m).flatMap fun j => (k.reduceSpans dom o j p.1 p.2).flatten) (p.2 * (elemBits o.fo / 8)) (k.reduceStep dom p)

section
variable {d : Dev} {k : Cmd} {dom : Nat} {st : Step}

/-- Each step of a REDUCE under SCALAR runs on a PE and writes nothing. -/
theorem Dev.mem_scalarPlan (h : st ∈ d.scalarPlan k dom) : st.kind = .pe ∧ st.writes = [] ∧ st.outs = [] := by
  obtain ⟨hkind, hwrites, houts⟩ := Dev.mem_readThen h
  exact ⟨hkind, hwrites.elim id id, houts.elim id id⟩

/-- Each step of a REDUCE without SCALAR runs on a PE and has no writes of its own. -/
theorem Dev.mem_elementPlan (h : st ∈ d.elementPlan k dom) : st.kind = .pe ∧ st.writes = [] := by
  obtain ⟨p, -, hp⟩ := List.mem_flatMap.1 h
  obtain ⟨hkind, hwrites, -⟩ := Dev.mem_readThen hp
  exact ⟨hkind, hwrites.elim id id⟩

/-- A REDUCE under SCALAR combines all elements once. -/
theorem Dev.scalarPlan_effects (d : Dev) (k : Cmd) (dom : Nat) : (d.scalarPlan k dom).flatMap (·.effects) = [.reduceAll] :=
  d.readThen_effects _ _ _

/-- The steps of a REDUCE without SCALAR cover the elements in order. -/
theorem Dev.elementPlan_effects (d : Dev) (k : Cmd) (dom : Nat) :
    (d.elementPlan k dom).flatMap (·.effects) =
      (pieces (fieldAt k.line 32 4) (reduceOps k.line).perStep).map fun p => Effect.reduce p.1 p.2 := by
  rw [Dev.elementPlan, List.flatMap_assoc, List.map_eq_flatMap]
  exact flatMap_eq_of_forall_mem fun p _ => d.readThen_effects _ _ _

/-- A ready REDUCE begins with the plan of its form. -/
theorem devReduce_of_ready {r : SlotRef} {c : Context} (h : d.ready r .reduce = some (c, k)) :
    devReduce r d = d.begin r (if lineFlags k.line = 1 then d.scalarPlan k c.domain else d.elementPlan k c.domain) 0 0 0 := by
  rw [devReduce, Dev.onReady_of_ready _ h]
  by_cases hscalar : lineFlags k.line = 1
  · rw [if_pos hscalar]; exact if_pos (beq_iff_eq.2 hscalar)
  · rw [if_neg hscalar]; exact if_neg (mt beq_iff_eq.1 hscalar)

end

/-! ### ATOMIC and ATOMIC_BATCH (R106, R107) -/

/-- The step of ATOMIC: its one operation at the target (R106). -/
def Cmd.atomicStep (k : Cmd) (sa : Nat) : Step :=
  { Step.nop with
    kind := .atomic
    effects := [.atomic sa (fieldAt k.line 41 1) (fieldAt k.line 40 1) (BitVec.ofNat 64 (fieldAt k.line 24 8))
      (BitVec.ofNat 64 (fieldAt k.line 32 8)) (lineFlags k.line == 1)]
    outs := [{ sa := sa, len := fieldAt k.line 41 1 }] }

/-- A ready ATOMIC begins with its one step. -/
theorem devAtomic_of_ready {d : Dev} {r : SlotRef} {c : Context} {k : Cmd} {sa : Nat} (h : d.ready r .atomic = some (c, k))
    (hsa : saOf k.caps c.domain (fieldAt k.line 16 8) = some sa) : devAtomic r d = d.begin r [k.atomicStep sa] 0 0 0 := by
  rw [devAtomic, Dev.onReady_of_ready _ h, hsa]; rfl

/-- The step of ATOMIC_BATCH for a piece of its entries (R107). -/
def Cmd.batchStep (k : Cmd) (dom : Nat) (p : Nat × Nat) : Step :=
  { Step.nop with
    kind := .atomic, effects := [.entries p.1 p.2], reads := k.entrySpans dom p.1 p.2
    outs := if fieldAt k.line 32 8 = 0 then [] else k.spans dom (fieldAt k.line 32 8 + 8 * p.1) (8 * p.2) }

/-- A ready ATOMIC_BATCH begins with a step for each 256 entries. -/
theorem devAtomicBatch_of_ready {d : Dev} {r : SlotRef} {c : Context} {k : Cmd} (h : d.ready r .atomicBatch = some (c, k)) :
    devAtomicBatch r d = d.begin r ((pieces (fieldAt k.line 24 4) 256).map (k.batchStep c.domain)) 0 0 (BitVec.allOnes 64) :=
  Dev.onReady_of_ready _ h

/-! ### Word 0 of a command while a step of REDUCE retires

Word 0 depends on the contexts alone, so it is enough to say of most operations that they leave those. -/

/-- Word 0 of the command that a slot holds. -/
def Dev.word0 (d : Dev) (r : SlotRef) : Option W64 := (d.cmd? r).map (·.w0)

/-- What each turn of a fold leaves, the fold leaves. -/
theorem foldl_leaves {σ α β : Type} {f : σ → α → σ} {g : σ → β} (h : ∀ s x, g (f s x) = g s) (xs : List α) (s : σ) :
    g (xs.foldl f s) = g s := by
  induction xs generalizing s with
  | nil => rfl
  | cons x xs ih => rw [List.foldl_cons, ih, h]

section
variable {d e : Dev} {r : SlotRef}

/-- With the contexts, word 0 stays. -/
theorem Dev.word0_of_ctxs (h : e.ctxs = d.ctxs) : e.word0 r = d.word0 r := by
  simp only [Dev.word0, Dev.cmd?, Dev.slot?, Dev.ctx?, h]

/-- Word 0 after a change of its command. -/
theorem Dev.word0_modCmd {f : Cmd → Cmd} {g : W64 → W64} (h : ∀ k, (f k).w0 = g k.w0) : (d.modCmd r f).word0 r = (d.word0 r).map g := by
  simp only [Dev.word0, Dev.cmd?_modCmd, Option.map_map, Function.comp_def, h]

/-- A change of its command that leaves word 0. -/
theorem Dev.word0_modCmd_same {f : Cmd → Cmd} (h : ∀ k, (f k).w0 = k.w0) : (d.modCmd r f).word0 r = d.word0 r := by
  rw [Dev.word0_modCmd (g := id) h, Option.map_id_fun, id]

end

/-- Counting for a domain leaves the contexts. -/
theorem Dev.countEvents_ctxs (d : Dev) (dom : Nat) (ev : NumEvents) : (d.countEvents dom ev).ctxs = d.ctxs :=
  ((d.reports_countPage dom 0x60 ev.range).trans (Dev.reports_countPage _ dom 0x68 ev.nan)).frame.1

/-- A retrain leaves the contexts. -/
theorem Dev.retrainLink_ctxs (d : Dev) (l : Nat) : (d.retrainLink l).ctxs = d.ctxs := by
  refine Eq.trans ?_ (d.reports_count (linkOff l 0x628) 1).frame.1
  rw [Dev.retrainLink, Dev.train]
  split <;> rfl

/-- Finding the link that a message takes leaves the contexts. -/
theorem Dev.route_ctxs (d : Dev) (fid : Nat) : (d.route fid).2.ctxs = d.ctxs := by
  unfold Dev.route
  split
  · rfl
  · dsimp only
    split
    · exact Dev.retrainLink_ctxs _ _
    · rfl

/-- A fabric message leaves the contexts. -/
theorem Dev.sendFab_ctxs (d : Dev) (type dst dom ctx tag : Nat) (flags : W16) (address arg : W64) (payload : List Byte)
    (r : Option SlotRef) : (d.sendFab type dst dom ctx tag flags address arg payload r).ctxs = d.ctxs := by
  have hroute := d.route_ctxs dst
  unfold Dev.sendFab Dev.sendFabFrom
  split
  · rfl
  · next l e he =>
    rw [he] at hroute
    exact (apply_ite Dev.ctxs _ _ _).trans ((ite_self _).trans hroute)

/-- Parity deltas of a piece of a write leave the contexts. -/
theorem Dev.sendDeltas_ctxs (d : Dev) (member o dom ctx : Nat) (delta : List Byte) (r : Option SlotRef) :
    (d.sendDeltas member o dom ctx delta r).1.ctxs = d.ctxs := by
  refine foldl_leaves (g := fun acc : Dev × List (Nat × Nat) => acc.1.ctxs) (fun acc h => ?_) _ _
  split
  · rfl
  · split
    · rfl
    · exact Dev.sendFab_ctxs _ _ _ _ _ _ _ _ _ _ _

/-- Parity deltas of a write leave the contexts. -/
theorem Dev.parityAfter_ctxs (d : Dev) (old : List Host.Cell) (sa len dom ctx : Nat) (r : Option SlotRef) :
    (d.parityAfter old sa len dom ctx r).1.ctxs = d.ctxs := by
  unfold Dev.parityAfter
  split
  · rfl
  · refine foldl_leaves (g := fun acc : Dev × List (Nat × Nat) => acc.1.ctxs) (fun acc i => ?_) _ _
    exact Dev.sendDeltas_ctxs _ _ _ _ _ _ _

section
variable (d : Dev) (r : SlotRef)

/-- A raised status leaves word 0. -/
theorem Dev.word0_raise (st : Status) : (d.raise r st).word0 r = d.word0 r := Dev.word0_modCmd_same fun _ => rfl

/-- A wait for parity homes leaves word 0. -/
theorem Dev.word0_awaitParity (sa : Nat) (ts : List (Nat × Nat)) : (d.awaitParity r sa ts).word0 r = d.word0 r := by
  unfold Dev.awaitParity
  split
  · rfl
  · exact Dev.word0_modCmd_same fun _ => rfl

/-- A write to this member's store leaves word 0. -/
theorem Dev.word0_storeWrite (sa : Nat) (bs : List Byte) : (d.storeWrite r sa bs).word0 r = d.word0 r :=
  (Dev.word0_awaitParity _ r sa _).trans (Dev.word0_of_ctxs (Dev.parityAfter_ctxs _ _ _ _ _ _ _))

/-- A write to another member's store leaves word 0. -/
theorem Dev.word0_writeRemote (sa : Nat) (bs : List Byte) : (d.writeRemote r sa bs).word0 r = d.word0 r := by
  unfold Dev.writeRemote
  dsimp only
  split
  · exact d.word0_raise r _
  · exact (Dev.word0_of_ctxs (Dev.sendFab_ctxs _ _ _ _ _ _ _ _ _ _ _)).trans (Dev.word0_modCmd_same fun _ => rfl)

/-- A step's write leaves word 0. -/
theorem Dev.word0_stepWrite (pe : Option Nat) (w : MemWrite) : (d.stepWrite r pe w).word0 r = d.word0 r := by
  obtain ⟨pc, hpc⟩ := d.peWrote_eq pe w
  unfold Dev.stepWrite
  rw [hpc]
  dsimp only
  split
  · exact Dev.word0_storeWrite _ r _ _
  · exact Dev.word0_writeRemote _ r _ _

/-- Poisoning a sector leaves word 0. -/
theorem Dev.word0_poisonAt (sec : Nat) : (d.poisonAt r sec).word0 r = d.word0 r := by
  unfold Dev.poisonAt
  split
  · rfl
  · exact d.word0_writeRemote r _ _

end

section
variable (d : Dev) (pe : Option Nat) (dom : Nat)

/-- A line that enters a PE's read cache leaves the contexts. -/
theorem Dev.peFill_ctxs (l : CacheLine) : (d.peFill l).ctxs = d.ctxs := by
  unfold Dev.peFill
  dsimp only
  split
  · rfl
  · split <;> rfl

/-- A PE's read of a line leaves the contexts. -/
theorem Dev.peLine_ctxs (addr : Nat) (cur : List Byte) : (d.peLine pe dom addr cur).2.ctxs = d.ctxs := by
  unfold Dev.peLine
  split
  · rfl
  · split
    · rfl
    · split
      · dsimp only
        split
        · rfl
        · exact Dev.peFill_ctxs _ _
      · exact d.peFill_ctxs _

/-- A PE's read of a span leaves the contexts. -/
theorem Dev.peRead_ctxs (k : Cmd) (s : Span) : (d.peRead pe dom k s).2.ctxs = d.ctxs := by
  unfold Dev.peRead
  split
  · rfl
  · refine foldl_leaves (g := fun acc : List Byte × Dev => acc.2.ctxs) (fun acc i => ?_) _ _
    dsimp only
    split
    · exact Dev.peLine_ctxs _ _ _ _ _
    · rfl

/-- A PE's read of spans leaves the contexts. -/
theorem Dev.peReadAll_ctxs (k : Cmd) (ss : List Span) : (d.peReadAll pe dom k ss).2.ctxs = d.ctxs := by
  refine foldl_leaves (g := fun acc : List Byte × Dev => acc.2.ctxs) (fun acc s => ?_) ss _
  exact acc.2.peRead_ctxs pe dom k s

/-- A PE's read of elements of a vector leaves the contexts. -/
theorem Dev.reduceRow_ctxs (k : Cmd) (o : ReduceOps) (j lo n : Nat) : (d.reduceRow pe k dom o j lo n).2.ctxs = d.ctxs := by
  have hparts := foldl_leaves (g := fun acc : List (List Byte) × Dev => acc.2.ctxs)
    (f := fun acc ss => (acc.1 ++ [(acc.2.peReadAll pe dom k ss).1], (acc.2.peReadAll pe dom k ss).2))
    (fun acc ss => acc.2.peReadAll_ctxs pe dom k ss) (k.reduceSpans dom o j lo n) ([], d)
  unfold Dev.reduceRow
  dsimp only
  split <;> exact hparts

/-- A PE's read of elements of every vector leaves the contexts. -/
theorem Dev.reduceRows_ctxs (k : Cmd) (o : ReduceOps) (lo n : Nat) : (d.reduceRows pe k dom o lo n).2.ctxs = d.ctxs :=
  foldl_leaves (g := fun acc : List (List W32) × Dev => acc.2.ctxs) (fun acc j => acc.2.reduceRow_ctxs pe dom k o j lo n) _ _

end

/-- A step of REDUCE counts its elements in word 0 (R102). -/
theorem Dev.word0_reduceAt {d : Dev} {r : SlotRef} {k : Cmd} (pe : Option Nat) (lo n : Nat) (hk : d.cmd? r = some k) :
    (d.reduceAt r pe lo n).word0 r = some (k.w0 + BitVec.ofNat 64 n) := by
  have hword : d.word0 r = some k.w0 := by rw [Dev.word0, hk]; rfl
  have hwrites (ws : List MemWrite) (e : Dev) : (ws.foldl (fun d w => d.stepWrite r pe w) e).word0 r = e.word0 r :=
    foldl_leaves (g := fun e : Dev => e.word0 r) (fun e w => e.word0_stepWrite r pe w) ws e
  have hpoison (secs : List Nat) (e : Dev) : (secs.foldl (fun d sec => d.poisonAt r sec) e).word0 r = e.word0 r :=
    foldl_leaves (g := fun e : Dev => e.word0 r) (fun e sec => e.word0_poisonAt r sec) secs e
  have hcounted (e : Dev) (dom : Nat) (ev : NumEvents) : (e.countEvents dom ev).word0 r = e.word0 r :=
    Dev.word0_of_ctxs (e.countEvents_ctxs dom ev)
  have hrows := Dev.word0_of_ctxs (r := r) (d.reduceRows_ctxs pe (d.domainOf r) k (reduceOps k.line) lo n)
  simp only [Dev.reduceAt, hk, apply_ite (fun e : Dev => e.word0 r), Dev.word0_raise, ite_self]
  rw [Dev.word0_modCmd (g := (· + BitVec.ofNat 64 n)) fun _ => rfl, hcounted, hpoison, hwrites, hrows, hword, Option.map_some]

/-- Settles O28: each verb begins with its plan, and a step of REDUCE counts its elements in word 0. -/
theorem memoryVerbsComplete : Obligations.MemoryVerbsComplete := by
  refine ⟨?begins, fun d r k pe lo n hk => ?counts⟩
  case begins =>
    intro s r c k n src dst
    refine ⟨fun hrun => ?fill, fun hrun hapart => ?copy, fun hrun hmeet => ?overlap, fun hrun => ?reduce, fun hrun sa hsa => ?atomic,
      fun hrun => ?batch⟩
    case fill =>
      refine ⟨_, hrun.next devFill_of_ready, by rw [List.map_map]; rfl, fun st hst => ?_⟩
      obtain ⟨x, -, rfl⟩ := List.mem_map.1 hst
      exact ⟨rfl, rfl, rfl, rfl, rfl⟩
    case copy => exact hrun.next fun h => devCopy_of_apart h hapart
    case overlap => exact hrun.next fun h => devCopy_of_overlap h hmeet
    case reduce =>
      refine ⟨_, hrun.next devReduce_of_ready, ?_⟩
      by_cases hscalar : lineFlags k.line = 1
      · rw [if_pos hscalar]
        exact ⟨fun st hst => ⟨(Dev.mem_scalarPlan hst).1, (Dev.mem_scalarPlan hst).2.1⟩,
          fun _ => ⟨s.dev.scalarPlan_effects k c.domain, fun st hst => (Dev.mem_scalarPlan hst).2.2⟩, fun hnot => absurd hscalar hnot⟩
      · rw [if_neg hscalar]
        exact ⟨fun st hst => Dev.mem_elementPlan hst, fun h => absurd h hscalar, fun _ => s.dev.elementPlan_effects k c.domain⟩
    case atomic => exact hrun.next fun h => devAtomic_of_ready h hsa
    case batch =>
      refine ⟨_, hrun.next devAtomicBatch_of_ready, by simp, fun st hst => ?_, flatMap_effects_map (fun _ => rfl) _,
        fun p hp => snd_le_of_mem_pieces hp⟩
      obtain ⟨p, -, rfl⟩ := List.mem_map.1 hst
      exact ⟨rfl, rfl⟩
  case counts => exact Option.map_eq_some_iff.1 (Dev.word0_reduceAt pe lo n hk)

end Sys2Proof.Machine
end

section
/-! PROOF. The ordering verbs (R116 to R126) and the atomic operations (R105, R106). -/

namespace Sys2Proof.Machine

/-! ### Atomic operations (R105, R106) -/

section
variable {d : Dev} {sa w : Nat} (put : Dev → Nat → List Byte → Dev)

/-- A poisoned target is left alone (R106, R387). -/
theorem Dev.atomicAt_of_poisoned (op x cmp : Nat) (h : d.poisonedIn { sa := sa, len := w } = true) :
    d.atomicAt sa w op x cmp put = (d, 0, false, true) := by
  simp only [Dev.atomicAt, h, if_true]

/-- On a whole target an operation that writes puts the value that it names (R105). -/
theorem Dev.atomicAt_of_writes {op x cmp v : Nat} (h : d.poisonedIn { sa := sa, len := w } = false) (hx : x < 2 ^ (8 * w))
    (hcmp : cmp < 2 ^ (8 * w)) (hv : atomicResult op w (leNat (memRead d.mem sa w)) x cmp = (v, true)) :
    d.atomicAt sa w op x cmp put = (put d sa (natLe v w), leNat (memRead d.mem sa w), true, false) := by
  simp only [Dev.atomicAt, h, Nat.mod_eq_of_lt hx, Nat.mod_eq_of_lt hcmp, hv, Bool.false_eq_true, if_false, if_true]

/-- On a whole target an operation that does not write leaves it (R105). -/
theorem Dev.atomicAt_of_skips {op x cmp v : Nat} (h : d.poisonedIn { sa := sa, len := w } = false) (hx : x < 2 ^ (8 * w))
    (hcmp : cmp < 2 ^ (8 * w)) (hv : atomicResult op w (leNat (memRead d.mem sa w)) x cmp = (v, false)) :
    d.atomicAt sa w op x cmp put = (d, leNat (memRead d.mem sa w), false, false) := by
  simp only [Dev.atomicAt, h, Nat.mod_eq_of_lt hx, Nat.mod_eq_of_lt hcmp, hv, Bool.false_eq_true, if_false]

end

/-- COMPARE_SWAP (R105): it gives the new value where the target holds what it compares with, and else does not write. -/
theorem atomicResult_compareSwap (w cur x cmp : Nat) : atomicResult 0x0D w cur x cmp = if cur = cmp then (x, true) else (cur, false) := rfl

/-- Settles O32: each operation gives its value, and a COMPARE_SWAP that fails the old one. -/
theorem atomicsComputeTheirOperation : Obligations.AtomicsComputeTheirOperation := by
  intro d sa w x cmp put _ hx hcmp cur
  refine ⟨fun hp op => Dev.atomicAt_of_poisoned put op x cmp hp, fun hp => ?whole⟩
  have writes {op v : Nat} (hv : atomicResult op w cur x cmp = (v, true)) :
      d.atomicAt sa w op x cmp put = (put d sa (natLe v w), cur, true, false) := Dev.atomicAt_of_writes put hp hx hcmp hv
  refine ⟨writes rfl, writes rfl, writes rfl, writes rfl, writes rfl, writes rfl, writes rfl, fun heq => ?swaps, fun hne => ?fails⟩
  case swaps => exact writes (by rw [atomicResult_compareSwap, if_pos heq])
  case fails => exact Dev.atomicAt_of_skips put hp hx hcmp (by rw [atomicResult_compareSwap, if_neg hne])

/-! ### FENCE and FENCE_FULL (R117, R118) -/

section
variable {d : Dev} {r : SlotRef} {c : Context} {k : Cmd}

/-- No earlier command of the context has failed. -/
theorem failedBefore_eq_false (h : ∀ o ∈ c.fails, k.order ≤ o) : (c.fails.any fun o => decide (o < k.order)) = false := by
  simpa using h

/-- An earlier command of the context has failed. -/
theorem failedBefore_eq_true (h : ∃ o ∈ c.fails, o < k.order) : (c.fails.any fun o => decide (o < k.order)) = true := by
  simpa using h

section
variable (h : d.ready r .fence = some (c, k)) (hdone : ∀ x ∈ covered c k, stepsDone x = true)
include h hdone

/-- FENCE ends with OK where no command that it covers has failed. -/
theorem devFence_ok (hold : ∀ o ∈ c.fails, k.order ≤ o) (hnew : ∀ x ∈ covered c k, hasFailed x = false) :
    devFence r d = (d.complete r .ok 0 0 0).settle := by
  have hcovered : (covered c k).any hasFailed = false := List.any_eq_false.2 fun x hx => by simp [hnew x hx]
  rw [devFence, Dev.onReady_of_ready _ h]
  simp only [List.all_eq_true.2 hdone, failedBefore_eq_false hold, hcovered, Bool.or_self, Bool.false_eq_true, if_true, if_false]

/-- FENCE ends with PRIOR_FAILED where a command that it covers has failed. -/
theorem devFence_priorFailed (hbad : (∃ o ∈ c.fails, o < k.order) ∨ ∃ x ∈ covered c k, hasFailed x = true) :
    devFence r d = (d.complete r .priorFailed 0 0 0).settle := by
  have hfailed : ((c.fails.any fun o => decide (o < k.order)) || (covered c k).any hasFailed) = true :=
    Bool.or_eq_true_iff.2 (hbad.imp failedBefore_eq_true List.any_eq_true.2)
  rw [devFence, Dev.onReady_of_ready _ h]
  simp only [List.all_eq_true.2 hdone, hfailed, if_true]

end

section
variable (h : d.ready r .fenceFull = some (c, k)) (hdone : covered c k = [])
include h hdone

/-- FENCE_FULL ends with OK where no earlier command has failed. -/
theorem devFenceFull_ok (hold : ∀ o ∈ c.fails, k.order ≤ o) : devFenceFull r d = (d.complete r .ok 0 0 0).settle := by
  rw [devFenceFull, Dev.onReady_of_ready _ h]
  simp [hdone, failedBefore_eq_false hold]

/-- FENCE_FULL ends with PRIOR_FAILED where an earlier command has failed. -/
theorem devFenceFull_priorFailed (hbad : ∃ o ∈ c.fails, o < k.order) : devFenceFull r d = (d.complete r .priorFailed 0 0 0).settle := by
  rw [devFenceFull, Dev.onReady_of_ready _ h]
  simp [hdone, failedBefore_eq_true hbad]

end

/-! ### RELEASE (R119, R120) -/

/-- The step of RELEASE: its flag is written, or added to, as one atomic at the flag's home (R119). -/
def Cmd.releaseStep (k : Cmd) (sa : Nat) : Step :=
  { Step.nop with
    kind := .atomic
    outs := [{ sa := sa, len := 8 }]
    effects := [.atomic sa 8 (if fieldAt k.line 32 1 = 1 then 0x0C else 0x01) (BitVec.ofNat 64 (fieldAt k.line 24 8)) 0 true] }

section
variable (h : d.ready r .release = some (c, k)) (hdone : covered c k = [])
include h hdone

/-- RELEASE of an epoch with a failed command writes no flag (R120). -/
theorem devRelease_priorFailed (hbad : epochFailed c k = true) : devRelease r d = d.reject r .priorFailed := by
  rw [devRelease, Dev.onReady_of_ready _ h]
  simp [hdone, hbad]

/-- RELEASE of an epoch without a failed command begins with the write of its flag. -/
theorem devRelease_flag {sa : Nat} (hgood : epochFailed c k = false) (hsa : saOf k.caps c.domain (fieldAt k.line 16 8) = some sa) :
    devRelease r d = d.begin r [k.releaseStep sa] 0 0 0 := by
  rw [devRelease, Dev.onReady_of_ready _ h]
  simp [hdone, hgood, hsa, Cmd.releaseStep]

end

/-! ### ACQUIRE (R121, R122) -/

section
variable {fails : Bool} (h : d.ready r .acquire = some (c, k)) (hcur : d.current k = true)
include h hcur

/-- ACQUIRE without a condition reads no flag. -/
theorem Dev.acquireRead_unconditional (hcond : fieldAt k.line 32 1 = 0) : d.acquireRead r fails = d.acquireDone r c k 0 := by
  rw [Dev.acquireRead, Dev.onReady_of_ready _ h]
  simp [hcur, hcond]

section
variable {sa : Nat} (hcond : fieldAt k.line 32 1 ≠ 0) (hsa : saOf k.caps c.domain (fieldAt k.line 16 8) = some sa)
  (hhere : d.isLocal sa = true → d.underRepair { sa := sa, len := 8 } = false ∧ fails = false)
  (hvit : d.vitConflicts [{ sa := sa, len := 8 }] [] = []) (hgood : d.badSpan k { sa := sa, len := 8 } = false)
  (hmiss : d.missing k [{ sa := sa, len := 8 }] = [])
include hcond hsa hhere hvit hgood hmiss

/-- With nothing that holds its read, ACQUIRE ends where its condition holds, or where it asks for a single read; else it reads again. -/
theorem Dev.acquireRead_of_flag :
    d.acquireRead r fails =
      if acquireHolds (fieldAt k.line 32 1) (leNat (d.loadSpan k { sa := sa, len := 8 })) (fieldAt k.line 24 8) then
        d.acquireDone r c k (leNat (d.loadSpan k { sa := sa, len := 8 }))
      else if fieldAt k.line 36 4 = 0 then (d.complete r .deadlineMissed 0 0 0).settle
      else d.modCmd r fun k => { k with fetched := [] } := by
  have hsound : (d.isLocal sa && (d.underRepair { sa := sa, len := 8 } || (fails && !d.poisonedIn { sa := sa, len := 8 }))) = false := by
    cases hl : d.isLocal sa with
    | false => rfl
    | true => obtain ⟨hrepair, hfails⟩ := hhere hl; simp [hrepair, hfails]
  rw [Dev.acquireRead, Dev.onReady_of_ready _ h]
  simp only [hcur, hcond, hsa, hsound, hvit, hgood, Dev.withRemote_of_here _ hmiss, List.isEmpty_nil, Bool.not_true, Bool.false_eq_true,
    if_false]

end

end

/-- At its limit, counted from its tag, ACQUIRE ends with DEADLINE_MISSED (R121, R122). -/
theorem devAcquireWaitLimit_passed {t : Nat} (h : (d.atTime t).ready r .acquire = some (c, k)) (hlimit : fieldAt k.line 36 4 ≠ 0)
    (hpassed : k.t0 + fieldAt k.line 36 4 * 1000 ≤ max d.now t) :
    devAcquireWaitLimit r t d = ((d.atTime t).complete r .deadlineMissed 0 0 0).settle := by
  rw [devAcquireWaitLimit, Dev.onReady_of_ready _ h]
  exact if_pos ⟨hlimit, hpassed⟩

end

/-- Settles O33: each row in the case that its clause names. -/
theorem orderingVerbsComplete : Obligations.OrderingVerbsComplete := by
  intro s r c k sa t fails flag
  refine ⟨fun hrun hdone => ⟨fun hold hnew => ?fence, fun hbad => ?fenceFailed⟩,
    fun hrun hdone => ⟨fun hold => ?fenceFull, fun hbad => ?fenceFullFailed⟩,
    fun hrun hdone => ⟨fun hbad => ?releaseFailed, fun hgood hsa => ?release⟩, fun hrun hcur hcond => ?unconditional,
    fun hrun hcur hcond hsa hhere hvit hgood hmiss => ?flag, fun hlive hready hlimit hpassed => ?limit⟩
  case fence => exact hrun.next fun h => devFence_ok h hdone hold hnew
  case fenceFailed => exact hrun.next fun h => devFence_priorFailed h hdone hbad
  case fenceFull => exact hrun.next fun h => devFenceFull_ok h hdone hold
  case fenceFullFailed => exact hrun.next fun h => devFenceFull_priorFailed h hdone hbad
  case releaseFailed => exact hrun.next fun h => devRelease_priorFailed h hdone hbad
  case release => exact hrun.next fun h => devRelease_flag h hdone hgood hsa
  case unconditional => exact hrun.next fun h => Dev.acquireRead_unconditional h hcur hcond
  case flag =>
    have hread := Dev.acquireRead_of_flag hrun.2 hcur hcond hsa hhere hvit hgood hmiss
    refine ⟨fun hholds => ⟨hrun.next fun _ => ?_, hrun.next fun _ => ?_⟩, fun hnot hsingle => hrun.next fun _ => ?_⟩
    · exact hread.trans (if_pos hholds)
    · exact hread.trans (if_pos hholds)
    · exact hread.trans ((if_neg (by rw [hnot]; exact Bool.false_ne_true)).trans (if_pos hsingle))
  case limit => exact whenLive_of_eq hlive (devAcquireWaitLimit_passed hready hlimit hpassed)

end Sys2Proof.Machine
end

section
/-! PROOF. What traffic, reports and freed store leave of a device: its contexts, what it knows of its collection, and the copies that
landed here. With no command in any slot, what follows of itself is freed store alone. -/

namespace Sys2Proof.Machine

/-! ### What sessions and the Ledger rest on -/

/-- Contexts with their sessions, the collection, and the store that copies lie in are the same. -/
structure Dev.SameSessions (d e : Dev) : Prop where
  ctxs : e.ctxs = d.ctxs
  coll : e.coll = d.coll
  landings : e.landings = d.landings

section
variable {d e f : Dev}

/-- A device has its own sessions. -/
theorem Dev.SameSessions.refl (d : Dev) : d.SameSessions d := ⟨rfl, rfl, rfl⟩

/-- One change after another. -/
theorem Dev.SameSessions.trans (h : d.SameSessions e) (g : e.SameSessions f) : d.SameSessions f :=
  ⟨g.ctxs.trans h.ctxs, g.coll.trans h.coll, g.landings.trans h.landings⟩

/-- A series of changes. -/
theorem Dev.SameSessions.foldl {α : Type} {f : Dev → α → Dev} (h : ∀ (d : Dev) x, d.SameSessions (f d x)) (xs : List α) (d : Dev) :
    d.SameSessions (xs.foldl f d) := by
  induction xs generalizing d with
  | nil => exact .refl d
  | cons x xs ih => exact (h d x).trans (ih _)

/-- Either of two changes. -/
theorem Dev.SameSessions.ite {p : Prop} [Decidable p] (h : d.SameSessions e) (g : d.SameSessions f) :
    d.SameSessions (if p then e else f) := by
  split
  · exact h
  · exact g

/-- A report leaves sessions. -/
theorem Dev.Reports.sameSessions (h : d.Reports e) : d.SameSessions e := by
  rw [h.1]
  exact ⟨rfl, rfl, rfl⟩

/-- A context is found as before. -/
theorem Dev.SameSessions.ctx?_eq (h : d.SameSessions e) (n : Nat) : e.ctx? n = d.ctx? n := by
  simp only [Dev.ctx?, h.ctxs]

/-- A session is found as before. -/
theorem Dev.SameSessions.session?_eq (h : d.SameSessions e) (n : Nat) : e.session? n = d.session? n := by
  simp only [Dev.session?, h.ctx?_eq]

/-- A landed copy is found as before. -/
theorem Dev.SameSessions.landing?_eq (h : d.SameSessions e) (m : LedgerMsg) : e.landing? m = d.landing? m := by
  simp only [Dev.landing?, h.landings]

end

/-! ### Lists of blocks, of store given up and of indexes -/

/-- Other lists of blocks and of store given up leave sessions. -/
theorem Dev.sameSessions_blocks (d : Dev) (bs : List Block) (ls : List (Nat × Span)) : d.SameSessions { d with blocks := bs, leaving := ls } :=
  ⟨rfl, rfl, rfl⟩

/-- Another list of indexes leaves sessions. -/
theorem Dev.sameSessions_indexes (d : Dev) (xs : List Index) : d.SameSessions { d with indexes := xs } := ⟨rfl, rfl, rfl⟩

/-! ### Messages -/

/-- A training that starts leaves sessions. -/
theorem Dev.sameSessions_train (d : Dev) (l : Nat) : d.SameSessions (d.train l) := by
  unfold Dev.train
  split
  · exact .refl d
  · exact ⟨rfl, rfl, rfl⟩

/-- A retrain leaves sessions. -/
theorem Dev.sameSessions_retrainLink (d : Dev) (l : Nat) : d.SameSessions (d.retrainLink l) :=
  (d.reports_count (linkOff l 0x628) 1).sameSessions.trans (Dev.sameSessions_train _ l)

/-- Finding the link that a message takes leaves sessions. -/
theorem Dev.sameSessions_route (d : Dev) (fid : Nat) : d.SameSessions (d.route fid).2 := by
  unfold Dev.route
  split
  · exact .refl d
  · dsimp only
    split
    · exact (d.reports_setReg _ _).sameSessions.trans (Dev.sameSessions_retrainLink _ _)
    · exact .refl d

/-- A fabric message leaves sessions. -/
theorem Dev.sameSessions_sendFab (d : Dev) (type dst dom ctx tag : Nat) (flags : W16) (address arg : W64) (payload : List Byte)
    (r : Option SlotRef) : d.SameSessions (d.sendFab type dst dom ctx tag flags address arg payload r) := by
  have hroute := d.sameSessions_route dst
  unfold Dev.sendFab Dev.sendFabFrom
  split
  · exact .refl d
  · next l e he =>
    rw [he] at hroute
    exact .ite hroute (hroute.trans ⟨rfl, rfl, rfl⟩)

/-- A LEDGER message leaves sessions. -/
theorem Dev.sameSessions_sendLedger (d : Dev) (dest sub dom ctx src dst front : Nat) (e : W32) :
    d.SameSessions (d.sendLedger dest sub dom ctx src dst front e) := by
  unfold Dev.sendLedger
  dsimp only
  split
  · exact (d.reports_emit _).sameSessions
  · exact d.sameSessions_sendFab _ _ _ _ _ _ _ _ _ _

/-- A record for the deputy leaves sessions. -/
theorem Dev.sameSessions_mirror (d : Dev) (e : LedgerEntry) : d.SameSessions (d.mirror e) := by
  unfold Dev.mirror
  split
  · exact .refl d
  · exact d.sameSessions_sendFab _ _ _ _ _ _ _ _ _ _

/-- A STEP message that nothing waits for leaves sessions. -/
theorem Dev.sameSessions_tellStep (d : Dev) (kind : StepKind) (home dom ctx : Nat) (args : List Nat) :
    d.SameSessions (d.tellStep kind home dom ctx args) :=
  Dev.SameSessions.trans (e := d.freshTag.2) ⟨rfl, rfl, rfl⟩ (Dev.sameSessions_sendFab _ _ _ _ _ _ _ _ _ _ _)

/-- News of a table leaves sessions. -/
theorem Dev.sameSessions_tellTable (d : Dev) (t : Table) (gone : Bool) : d.SameSessions (d.tellTable t gone) :=
  Dev.SameSessions.foldl (fun d _ => d.sameSessions_sendFab _ _ _ _ _ _ _ _ _ _) d.others d

/-- An answer to a STEP message that waited leaves sessions. -/
theorem Dev.sameSessions_answerWaiting (d : Dev) (x : FabService) (m : FabMsg) (st : Status) (words : List Nat) :
    d.SameSessions (d.answerWaiting x m st words) := by
  unfold Dev.answerWaiting
  refine Dev.SameSessions.trans ?_ (Dev.sameSessions_sendFab _ _ _ _ _ _ _ _ _ _ _)
  exact ⟨rfl, rfl, rfl⟩

/-- Answers to the WAIT_RECLAIMs of other members leave sessions. -/
theorem Dev.sameSessions_answerReclaims (d : Dev) : d.SameSessions d.answerReclaims := by
  refine Dev.SameSessions.foldl (fun d x => ?_) d.serving d
  dsimp only
  split
  · split
    · exact d.sameSessions_answerWaiting _ _ _ _
    · exact .refl d
  · exact .refl d

/-! ### Freed store (R160, R211, R245, R298) -/

/-- A wiped range leaves sessions. -/
theorem Dev.sameSessions_wipeSpan (d : Dev) (s : Span) : d.SameSessions (d.wipeSpan s) := ⟨rfl, rfl, rfl⟩

/-- Freed spans leave sessions. -/
theorem Dev.sameSessions_freeSpans (d : Dev) (ss : List Span) : d.SameSessions (d.freeSpans ss) :=
  Dev.SameSessions.foldl Dev.sameSessions_wipeSpan _ d

/-- Freed blocks and store leave sessions. -/
theorem Dev.sameSessions_reclaimBlocks (d : Dev) : d.SameSessions d.reclaimBlocks := by
  unfold Dev.reclaimBlocks
  refine Dev.SameSessions.trans ?_ (Dev.SameSessions.foldl (fun d b => d.sameSessions_tellStep _ _ _ _ _) _ _)
  exact ((Dev.SameSessions.foldl Dev.sameSessions_wipeSpan _ d).trans (Dev.sameSessions_freeSpans _ _)).trans (Dev.sameSessions_blocks _ _ _)

/-- Reclaimed versions leave sessions. -/
theorem Dev.sameSessions_reclaimVersions (d : Dev) : d.SameSessions d.reclaimVersions := by
  unfold Dev.reclaimVersions
  refine Dev.SameSessions.trans ?_ (Dev.sameSessions_answerReclaims _)
  refine Dev.SameSessions.trans ?_ (Dev.SameSessions.foldl (fun d t => d.sameSessions_tellTable t true) _ _)
  refine Dev.SameSessions.trans ?_ (Dev.SameSessions.foldl (fun d x => ?_) _ _)
  · exact ⟨rfl, rfl, rfl⟩
  · split
    · exact d.sameSessions_wipeSpan _
    · exact d.sameSessions_tellStep _ _ _ _ _

/-- Reclaimed bodies of lists leave sessions. -/
theorem Dev.sameSessions_reclaimBodies (d : Dev) : d.SameSessions d.reclaimBodies := by
  unfold Dev.reclaimBodies
  exact (Dev.SameSessions.foldl Dev.sameSessions_wipeSpan _ d).trans (Dev.sameSessions_indexes _ _)

/-! ### A device that holds no command -/

/-- No slot of any context holds a command. -/
def Dev.Idle (d : Dev) : Prop := ∀ c ∈ d.ctxs, ∀ v ∈ c.slots, v.cmd = none

/-- A context whose slots hold no command has none to list. -/
theorem Context.held_eq_nil {c : Context} (h : ∀ v ∈ c.slots, v.cmd = none) : c.held = [] := by
  refine List.filterMap_eq_nil_iff.2 fun i _ => ?_
  split
  · next v hv => rw [h v (List.mem_of_getElem? hv)]; rfl
  · rfl

section
variable {d e : Dev}

/-- With its contexts, a device stays without commands. -/
theorem Dev.Idle.of_same (h : d.Idle) (hs : d.SameSessions e) : e.Idle := by
  unfold Dev.Idle
  rw [hs.ctxs]
  exact h

/-- A change of a session brings no command. -/
theorem Dev.Idle.modSession (h : d.Idle) (n : Nat) (f : Session → Session) : (d.modSession n f).Idle := by
  intro c hc
  obtain ⟨b, hb, rfl⟩ := List.mem_map.1 hc
  split <;> exact h b hb

/-- Without commands no offer is out. -/
theorem Dev.Idle.offering_eq (h : d.Idle) (n : Nat) : d.offering n = none := by
  have hnone : d.slotsWhere (fun c s => c.num == n && s.cmd.any fun k => k.remote.any fun a => a.tag == offerTag) = [] := by
    refine List.flatMap_eq_nil_iff.2 fun c hc => List.filterMap_eq_nil_iff.2 fun i _ => ?_
    split
    · next v hv => simp [h c hc v (List.mem_of_getElem? hv)]
    · rfl
  rw [Dev.offering, hnone]
  rfl

/-- Without commands only freed store follows of itself. -/
theorem Dev.Idle.sameSessions_settle (h : d.Idle) : d.SameSessions d.settle := by
  have hfreed := (d.sameSessions_reclaimBlocks.trans (Dev.sameSessions_reclaimVersions _)).trans (Dev.sameSessions_reclaimBodies _)
  have hheld : ∀ c ∈ d.reclaimBlocks.reclaimVersions.reclaimBodies.ctxs, c.held = [] :=
    fun c hc => Context.held_eq_nil (h.of_same hfreed c hc)
  have hfuel : (d.reclaimBlocks.reclaimVersions.reclaimBodies.ctxs.flatMap fun c => c.held.map fun e => 16 + e.2.2.plan.length) = [] :=
    List.flatMap_eq_nil_iff.2 fun c hc => by rw [hheld c hc]; rfl
  simp only [Dev.settle, hfuel]
  exact hfreed

end

/-! ### Sessions -/

/-- The session changed. -/
theorem Dev.session?_modSession (d : Dev) (n : Nat) (f : Session → Session) : (d.modSession n f).session? n = (d.session? n).map f := by
  rw [Dev.session?, Dev.session?, Dev.modSession, Dev.ctx?_modCtx _ _ _ (by simp)]
  cases d.ctx? n <;> rfl

/-- Two changes of one session are one change. -/
theorem Dev.modSession_modSession (d : Dev) (n : Nat) (f g : Session → Session) :
    (d.modSession n f).modSession n g = d.modSession n fun s => g (f s) := by
  simp only [Dev.modSession, Dev.modCtx]
  rw [modifyAll_modifyAll _ _ _ (by simp)]
  simp only [Option.map_map, Function.comp_def]

/-- A change of references leaves sessions. -/
theorem Dev.sameSessions_refBlock (d : Dev) (id : Nat) (up : Bool) : d.SameSessions (d.refBlock id up) := by
  unfold Dev.refBlock
  split
  · exact .refl d
  · split
    · exact .refl d
    · refine .ite ?_ ⟨rfl, rfl, rfl⟩
      refine Dev.SameSessions.trans ?_ (Dev.reports_fault _ _ _ _ _ _ _ _ _ _ _).sameSessions
      exact ⟨rfl, rfl, rfl⟩

/-- What the source of a move keeps of its session: neither store nor blocks (R166). -/
def Session.givenUp (s : Session) : Session :=
  { s with stateSa := 0, moved := none, layers := s.layers.map fun (l : Layer) => { l with blocks := [] } }

/-- The source gives its copy up. -/
theorem Dev.giveUp_eq (d : Dev) (n : Nat) (s : Session) : ∃ e, d.SameSessions e ∧ d.giveUp n s = e.modSession n Session.givenUp := by
  refine ⟨_, ?_, rfl⟩
  exact (Dev.SameSessions.foldl (fun d id => d.sameSessions_refBlock id false) _ d).trans (Dev.sameSessions_blocks _ _ _)

end Sys2Proof.Machine
end

section
/-! PROOF. LEDGER messages and the times of the Ledger (R166 to R168): what each row does in the case that it finds, and the session that
a COMMIT leaves at its front (R166). -/

namespace Sys2Proof.Machine

/-- A member that is not declared lost is heard (R356). -/
theorem Dev.fromMember_of_live {d : Dev} {sender : Nat} (f : Dev → Dev) (h : d.coll.lost.getLsbD sender = false) :
    d.fromMember sender f = f d := by
  simp [Dev.fromMember, h]

/-! ### OFFER (R166) -/

/-- A number is newer than the one before it. -/
theorem newer_sub_one (a : W32) : newer a (a - 1#32) = true := by
  have hone : a - (a - 1#32) = 1#32 := by bv_omega
  rw [newer, hone]
  rfl

/-- What an OFFER does at the Ledger: one of a new epoch is recorded, and mirrored. -/
def Dev.recordOffer (d : Dev) (m : LedgerMsg) : Dev :=
  if !d.isMaster then d
  else
    let e := { d.ledgerOf m with lastOffered := if (d.entry? m).isSome then (d.ledgerOf m).lastOffered else m.epoch - 1 }
    if newer m.epoch e.lastOffered then
      let e' := { e with lastOffered := m.epoch, offer := some (m.epoch, m.source, m.dest, d.now) }
      (d.setEntry e').mirror e'
    else d

/-- What an OFFER does at its target: it accepts where it holds the copy. -/
def Dev.acceptOffer (d : Dev) (m : LedgerMsg) : Dev :=
  match d.landing? m with
  | some x =>
    if m.dest = d.coll.geoId && d.coll.state == .formed then
      ({ d with landings := replaceFirst (· == x) { x with accepted := true } d.landings } : Dev).sendLedger d.coll.master 2 m.domain m.ctx m.source
        m.dest m.front m.epoch
    else d
  | none => d

/-- A Ledger entry with an offer that is pending since a time. -/
def LedgerEntry.withOffer (e : LedgerEntry) (m : LedgerMsg) (now : Nat) : LedgerEntry :=
  { e with lastOffered := m.epoch, offer := some (m.epoch, m.source, m.dest, now) }

/-- OFFER is both, in this order. -/
theorem devOffer_eq (m : LedgerMsg) (t : Nat) (d : Dev) :
    devOffer m t d = (d.atTime t).fromMember m.sender fun d => (d.recordOffer m).acceptOffer m := rfl

section
variable {d : Dev} {m : LedgerMsg} {e : LedgerEntry} {x : Landing} {t : Nat}

/-- A member that is not the master keeps no Ledger. -/
theorem Dev.recordOffer_of_member (h : d.isMaster = false) : d.recordOffer m = d := by
  simp [Dev.recordOffer, h]

/-- A member that no offer is for does not answer it. -/
theorem Dev.acceptOffer_of_other (h : m.dest ≠ d.coll.geoId) : d.acceptOffer m = d := by
  unfold Dev.acceptOffer
  split
  · simp [h]
  · rfl

/-- The target of an offer accepts it where it holds the copy. -/
theorem Dev.acceptOffer_of_landing (hformed : d.coll.state = .formed) (hdest : m.dest = d.coll.geoId) (hx : d.landing? m = some x) :
    d.acceptOffer m = ({ d with landings := replaceFirst (· == x) { x with accepted := true } d.landings } : Dev).sendLedger d.coll.master 2
      m.domain m.ctx m.source m.dest m.front m.epoch := by
  simp [Dev.acceptOffer, hx, hdest, hformed]

section
variable (hheard : d.coll.lost.getLsbD m.sender = false)
include hheard

/-- The target of an offer accepts it where it holds the copy. -/
theorem devOffer_accepted (hmember : d.isMaster = false) (hformed : d.coll.state = .formed) (hdest : m.dest = d.coll.geoId)
    (hx : d.landing? m = some x) :
    devOffer m t d = ({ d.atTime t with landings := replaceFirst (· == x) { x with accepted := true } d.landings } : Dev).sendLedger
      d.coll.master 2 m.domain m.ctx m.source m.dest m.front m.epoch := by
  have hkept : (d.atTime t).recordOffer m = d.atTime t := Dev.recordOffer_of_member hmember
  rw [devOffer_eq, Dev.fromMember_of_live _ (by exact hheard), hkept]
  exact Dev.acceptOffer_of_landing (d := d.atTime t) hformed hdest hx

/-- What the master records of an offer for another member is all that the offer does there. -/
theorem devOffer_recorded (hdest : m.dest ≠ d.coll.geoId) (hr : (d.atTime t).recordOffer m = ((d.atTime t).setEntry e).mirror e) :
    devOffer m t d = ((d.atTime t).setEntry e).mirror e := by
  have hself : (((d.atTime t).setEntry e).mirror e).coll.geoId = d.coll.geoId := by
    rw [(Dev.sameSessions_mirror _ e).coll]
    rfl
  rw [devOffer_eq, Dev.fromMember_of_live _ (by exact hheard), hr]
  exact Dev.acceptOffer_of_other (hself ▸ hdest)

/-- The master records an offer of a new epoch of a session that it has an entry of. -/
theorem devOffer_known (hmaster : d.isMaster = true) (hdest : m.dest ≠ d.coll.geoId) (he : d.entry? m = some e)
    (hnew : newer m.epoch e.lastOffered = true) :
    devOffer m t d = ((d.atTime t).setEntry (e.withOffer m (max d.now t))).mirror (e.withOffer m (max d.now t)) := by
  have hmaster' : (d.atTime t).isMaster = true := hmaster
  have he' : (d.atTime t).entry? m = some e := he
  refine devOffer_recorded hheard hdest ?_
  simp [Dev.recordOffer, Dev.ledgerOf, hmaster', he', hnew, LedgerEntry.withOffer]

/-- The master records the first offer of a session. -/
theorem devOffer_first (hmaster : d.isMaster = true) (hdest : m.dest ≠ d.coll.geoId) (he : d.entry? m = none) :
    devOffer m t d = ((d.atTime t).setEntry ((d.ledgerOf m).withOffer m (max d.now t))).mirror ((d.ledgerOf m).withOffer m (max d.now t)) := by
  have hmaster' : (d.atTime t).isMaster = true := hmaster
  have he' : (d.atTime t).entry? m = none := he
  refine devOffer_recorded hheard hdest ?_
  simp [Dev.recordOffer, Dev.ledgerOf, hmaster', he, he', newer_sub_one, LedgerEntry.withOffer]

end

end

/-! ### ACCEPT, ABANDON, COMMIT_ACK (R166) -/

section
variable {d : Dev} {m : LedgerMsg} {e : LedgerEntry} {src dst t0 : Nat} (hheard : d.coll.lost.getLsbD m.sender = false)
include hheard

/-- The master commits an offer that its target accepts. -/
theorem devAccept_committed (hmaster : d.isMaster = true) (he : d.entry? m = some e) (ho : e.offer = some (m.epoch, src, m.dest, t0)) :
    devAccept m d = d.commitEpoch e m.epoch src m.dest := by
  rw [devAccept, Dev.fromMember_of_live _ hheard]
  simp [he, ho, hmaster]

/-- The master voids a pending offer. -/
theorem devAbandon_voided (hmaster : d.isMaster = true) (he : d.entry? m = some e) (ho : e.offer = some (m.epoch, src, dst, t0)) :
    devAbandon m d = d.abandonOffer e := by
  rw [devAbandon, Dev.fromMember_of_live _ hheard]
  simp [he, ho, hmaster]

/-- The master notes an acknowledgement of the epoch that it has committed. -/
theorem devCommitAck_noted (hmaster : d.isMaster = true) (he : d.entry? m = some e) (hepoch : e.epoch = m.epoch) :
    devCommitAck m d = d.setEntry { e with unacked := e.unacked.filter (· != m.sender) } := by
  rw [devCommitAck, Dev.fromMember_of_live _ hheard]
  simp [he, hepoch, hmaster]

end

/-- A change of a session leaves the offers that are out. -/
theorem Dev.offering_modSession (d : Dev) (n ctx : Nat) (f : Session → Session) : (d.modSession n f).offering ctx = d.offering ctx := by
  simp only [Dev.offering, Dev.slotsWhere, Dev.modSession, Dev.modCtx, modifyAll, List.flatMap_map]
  congr 1
  refine flatMap_eq_of_forall_mem fun c _ => ?_
  by_cases h : (c.num == n) = true <;> simp [h]

/-- What an ABANDON does to a session that is offered: it serves again (R166). -/
def Session.abandoned (s : Session) (epoch : W32) (me : Nat) : Session :=
  if s.state == .moving && s.offered == epoch then { s with state := .active, target := me, moved := none } else s

/-- The source of an abandoned offer ends its MIGRATE, with TARGET_DEAD where it was not aborted (log 29). -/
theorem devAbandon_ended {d : Dev} {m : LedgerMsg} {r : SlotRef} (hheard : d.coll.lost.getLsbD m.sender = false) (hmember : d.isMaster = false)
    (hsource : m.source = d.coll.geoId) (hdest : m.dest ≠ d.coll.geoId) (ho : d.offering (d.ctxNum m.front m.ctx) = some r) :
    devAbandon m d = (d.modSession (d.ctxNum m.front m.ctx) fun s => s.abandoned m.epoch d.coll.geoId).endOffer r fun k =>
      if k.cut.isSome then k else { k with raised := k.raised ++ [.targetDead] } := by
  rw [devAbandon, Dev.fromMember_of_live _ hheard]
  simp only [hmember, hsource, if_neg hdest, bne_self_eq_false, Bool.false_eq_true, if_false, Dev.offering_modSession, ho]
  rfl

/-! ### COMMIT (R166) -/

section
variable {d : Dev} {m : LedgerMsg} {x : Landing}

/-- The acknowledgement of a COMMIT. -/
def Dev.ackCommit (d : Dev) (m : LedgerMsg) : Dev := d.sendLedger d.coll.master 5 m.domain m.ctx m.source m.dest m.front m.epoch

/-- An acknowledgement leaves sessions. -/
theorem Dev.sameSessions_ackCommit (d : Dev) (m : LedgerMsg) : d.SameSessions (d.ackCommit m) := d.sameSessions_sendLedger _ _ _ _ _ _ _ _

section
variable (hformed : d.coll.state = .formed) (hheard : d.coll.lost.getLsbD m.sender = false)
include hformed hheard

/-- A COMMIT that a formed member hears is acknowledged; one older than what it knows changes no more. -/
theorem devCommit_eq :
    devCommit m d =
      if (d.session? (d.ctxNum m.front m.ctx)).any fun s => newer s.epoch m.epoch then d.ackCommit m
      else if m.dest = d.coll.geoId then ((d.ackCommit m).commitHere m (d.ctxNum m.front m.ctx)).settle
      else ((d.ackCommit m).commitAway m (d.ctxNum m.front m.ctx)).settle := by
  have hsame := d.sameSessions_ackCommit m
  rw [← hsame.session?_eq, ← congrArg Collection.geoId hsame.coll, devCommit, Dev.fromMember_of_live _ hheard]
  simp only [hformed, bne_self_eq_false, Bool.false_eq_true, if_false]
  rfl

/-- A COMMIT of a session that this member knows nothing of is acknowledged. -/
theorem devCommit_unknown (hs : d.session? (d.ctxNum m.front m.ctx) = none) (hdest : m.dest ≠ d.coll.geoId) :
    devCommit m d = (d.ackCommit m).settle := by
  have hs' : (d.ackCommit m).session? (d.ctxNum m.front m.ctx) = none := by rw [(d.sameSessions_ackCommit m).session?_eq, hs]
  rw [devCommit_eq hformed hheard, if_neg (by simp [hs]), if_neg hdest, Dev.commitAway, hs']

/-- A COMMIT older than what this member knows is acknowledged. -/
theorem devCommit_stale {y : Session} (hs : d.session? (d.ctxNum m.front m.ctx) = some y) (hold : newer y.epoch m.epoch = true) :
    devCommit m d = d.ackCommit m := by
  rw [devCommit_eq hformed hheard, if_pos (by simp [hs, hold])]

/-- At the member that holds the copy, the copy becomes its session. -/
theorem devCommit_installed (hdest : m.dest = d.coll.geoId) (hx : d.landing? m = some x)
    (hold : (d.session? (d.ctxNum m.front m.ctx)).any (fun y => newer y.epoch m.epoch) = false) :
    devCommit m d = ((d.ackCommit m).installImage x (d.ctxNum m.front m.ctx) ((d.session? (d.ctxNum m.front m.ctx)).elim 0 (·.logSa))
      m.epoch).settle := by
  have hsame := d.sameSessions_ackCommit m
  rw [devCommit_eq hformed hheard, if_neg (by rw [hold]; exact Bool.false_ne_true), if_pos hdest, Dev.commitHere, hsame.landing?_eq, hx,
    hsame.session?_eq]

end

/-- A COMMIT away from this member moves a session that it owned and fronts: its copy is given up, and the owner and the epoch are the
COMMIT's (R166). -/
theorem Dev.commitAway_of_owner {n : Nat} {s : Session} (hidle : d.Idle) (hn : n < 65536) (hs : d.session? n = some s)
    (howner : s.owner = d.coll.geoId) :
    ∃ e, d.SameSessions e ∧ d.commitAway m n = e.modSession n fun s => s.givenUp.committed m.dest m.epoch := by
  obtain ⟨e, hsame, hgive⟩ := d.giveUp_eq n s
  have hmoved : ((d.giveUp n s).modSession n fun s => s.committed m.dest m.epoch) =
      e.modSession n fun s => s.givenUp.committed m.dest m.epoch := by
    rw [hgive, Dev.modSession_modSession]
  have hoffer : (e.modSession n fun s => s.givenUp.committed m.dest m.epoch).offering n = none :=
    ((hidle.of_same hsame).modSession n _).offering_eq n
  exact ⟨e, hsame, by simp only [Dev.commitAway, hs, howner, if_true, hmoved, hoffer, if_pos hn]⟩

end

/-! ### NOT_OWNER, QUERY, ANSWER (R167, R168) -/

section
variable {d : Dev} {m : LedgerMsg} (hheard : d.coll.lost.getLsbD m.sender = false)
include hheard

/-- A command that its session's member does not own is held, and the Ledger asked. -/
theorem devNotOwner_held {r : SlotRef} {k : Cmd} (hk : d.cmd? r = some k) (hkey : d.sessionKey r k = (m.front, m.ctx))
    (hsent : (k.remote.any fun a => isStep a && a.home == m.sender) = true) :
    let e := (d.unforward r k).modSession (d.ctxNum m.front m.ctx) fun y => { y with claimed := y.claimed && y.owner == d.coll.geoId }
    devNotOwner m r d = (e.holdOrphan r).sendLedger e.coll.master 7 m.domain m.ctx m.source m.dest m.front m.epoch := by
  rw [devNotOwner, Dev.fromMember_of_live _ hheard]
  simp [hk, hkey, hsent]

/-- The master answers with the owner, and sends it COMMIT again. -/
theorem devQuery_answered (hmaster : d.isMaster = true) :
    let e := { d.ledgerOf m with reported := true }
    devQuery m d =
      ((d.setEntry e).sendLedger m.sender 8 e.domain e.ctx e.source e.owner e.front e.epoch).sendCommit e e.source [e.owner] := by
  rw [devQuery, Dev.fromMember_of_live _ hheard]
  simp [hmaster]

/-- The front member learns the owner, and its FORKs that waited go on. -/
theorem devAnswer_front (hfront : m.front = d.coll.geoId) :
    let e := d.modSession m.ctx fun y =>
      if newer y.epoch m.epoch then y else { y with owner := m.dest, epoch := m.epoch, claimed := y.claimed || m.dest != d.coll.geoId }
    devAnswer m d = (e.waitingForks m).foldl (fun d r => d.answerFork m r) e := by
  rw [devAnswer, Dev.fromMember_of_live _ hheard]
  simp [hfront]

/-- At another member the FORKs that waited go on. -/
theorem devAnswer_away (hfront : m.front ≠ d.coll.geoId) :
    devAnswer m d = (d.waitingForks m).foldl (fun d r => d.answerFork m r) d := by
  rw [devAnswer, Dev.fromMember_of_live _ hheard]
  simp [hfront]

end

/-! ### The times of the Ledger (R166 to R168) -/

section
variable {d : Dev} {t t0 : Nat}

/-- An offer without an answer is abandoned in time. -/
theorem devOfferTimeout_passed {m : LedgerMsg} {e : LedgerEntry} {ep : W32} {src dst : Nat} (hmaster : d.isMaster = true)
    (he : d.entry? m = some e) (ho : e.offer = some (ep, src, dst, t0)) (ht : 500000 + t0 ≤ max d.now t) :
    devOfferTimeout m t d = (d.atTime t).abandonOffer e := by
  have he' : (d.atTime t).entry? m = some e := he
  have hmaster' : (d.atTime t).isMaster = true := hmaster
  have ht' : 500000 + t0 ≤ (d.atTime t).now := ht
  simp only [devOfferTimeout, he', ho, hmaster', ht', decide_true, Bool.and_self, if_true]

/-- Entries not acknowledged or reported are sent again. -/
theorem devLedgerAudit_of_master (hmaster : d.isMaster = true) :
    devLedgerAudit t d = (d.coll.ledger.filter fun e => !e.unacked.isEmpty || e.reported).foldl
      (fun d e => (d.setEntry { e with reported := false }).sendCommit e e.source
        ((e.owner :: e.unacked).eraseDups.filter fun m => !d.coll.lost.getLsbD m))
      (d.atTime t) := by
  have hmaster' : (d.atTime t).isMaster = true := hmaster
  simp [devLedgerAudit, hmaster']

/-- An orphaned command ends in time. -/
theorem devOrphanTimeout_passed {r : SlotRef} {c : Context} {k : Cmd} {x : Session} (hc : d.ctx? r.ctx = some c) (hk : d.cmd? r = some k)
    (hverb : cmdVerb k ≠ some .fork) (hs : c.session = some x) (hx : x.claimed = false) (ho : k.orphan = some t0)
    (ht : 2000000 + t0 ≤ max d.now t) : devOrphanTimeout r t d = ((d.atTime t).complete r .orphanTimeout 0 0 0).settle := by
  have hc' : (d.atTime t).ctx? r.ctx = some c := hc
  have hk' : (d.atTime t).cmd? r = some k := hk
  have ht' : 2000000 + t0 ≤ (d.atTime t).now := ht
  have hverb' : (cmdVerb k == some .fork) = false := beq_eq_false_iff_ne.2 hverb
  simp only [devOrphanTimeout, hc', hk', hverb', hs, Option.any_some, hx, ho, ht', Bool.not_false, decide_true, Bool.and_self,
    Bool.false_eq_true, if_true, if_false]

end

/-! ### The obligations -/

/-- Settles O40: the acknowledgement leaves the session, the source gives its copy up and learns the new owner, and without commands
nothing but freed store follows. -/
theorem commitMovesTheSession : Obligations.CommitMovesTheSession := by
  intro s m c x hlive hformed hheard hfront hdest hctx hc hs howner hmoving hnew _ hidle
  have hnum : s.dev.ctxNum m.front m.ctx = m.ctx := if_pos hfront
  have hsession : s.dev.session? m.ctx = some x := by rw [Dev.session?, hc]; exact hs
  have hold : ¬ (s.dev.session? m.ctx).any (fun y => newer y.epoch m.epoch) = true := by
    rw [hsession, Option.any_some, (newerIsAsymmetric 32 m.epoch x.epoch (by decide)).1 hnew]
    exact Bool.false_ne_true
  have hack := s.dev.sameSessions_ackCommit m
  have hidle' := Dev.Idle.of_same hidle hack
  obtain ⟨e, hsame, haway⟩ := Dev.commitAway_of_owner (m := m) hidle' hctx (by rw [hack.session?_eq, hsession]) (by rw [howner, hack.coll])
  have hsettled := ((hidle'.of_same hsame).modSession m.ctx fun s => s.givenUp.committed m.dest m.epoch).sameSessions_settle
  have hcommit : devCommit m s.dev = (e.modSession m.ctx fun s => s.givenUp.committed m.dest m.epoch).settle := by
    rw [devCommit_eq hformed hheard, hnum, if_neg hold, if_neg hdest, haway]
  refine ⟨_, whenLive_of_eq hlive hcommit, { c with session := some (x.givenUp.committed m.dest m.epoch) }, x.givenUp.committed m.dest m.epoch,
    ?found, rfl, rfl, rfl, ?active, rfl, rfl, ?empty⟩
  case found =>
    rw [hsettled.ctx?_eq, Dev.modSession, Dev.ctx?_modCtx _ _ _ (by simp), hsame.ctx?_eq, hack.ctx?_eq, hc, Option.map_some, hs, Option.map_some]
  case active => simp [Session.committed, Session.givenUp, hmoving]
  case empty =>
    intro l hl
    obtain ⟨y, -, rfl⟩ := List.mem_map.1 hl
    rfl

/-- Settles O39: each row in the case that its clause names; the mirror's record is log 28's, and the end of a MIGRATE whose offer is
abandoned log 29's. -/
theorem ledgerCommandsComplete : Obligations.LedgerCommandsComplete := by
  refine ⟨fun s m r t t0 src dst e k x hlive => ?messages, fun s m r t t0 src dst ep e c k x hlive => ?times⟩
  case messages =>
    intro d hformed hheard acked num
    refine ⟨fun hmember hdest hx => ?accepted, fun hmaster hdest he hnew => ?known, fun hmaster hdest he => ?first, fun hmaster he ho => ?accept,
      fun hs hdest => ?unknown, fun y hs hold => ?stale, fun hdest hx hold => ?installed, fun hmaster he ho => ?voided,
      fun c y hmember hsource hdest _ _ _ _ ho => ?ended, fun hmaster he hepoch => ?noted, fun hk hkey hsent => ?held, fun hmaster => ?answered,
      fun hfront => ?front, fun hfront => ?away⟩
    case accepted => exact whenLive_of_eq hlive (devOffer_accepted hheard hmember hformed hdest hx)
    case known => exact whenLive_of_eq hlive (devOffer_known hheard hmaster hdest he hnew)
    case first => exact whenLive_of_eq hlive (devOffer_first hheard hmaster hdest he)
    case accept => exact whenLive_of_eq hlive (devAccept_committed hheard hmaster he ho)
    case unknown => exact whenLive_of_eq hlive (devCommit_unknown hformed hheard hs hdest)
    case stale => exact whenLive_of_eq hlive (devCommit_stale hformed hheard hs hold)
    case installed => exact whenLive_of_eq hlive (devCommit_installed hformed hheard hdest hx hold)
    case voided => exact whenLive_of_eq hlive (devAbandon_voided hheard hmaster he ho)
    case ended => exact whenLive_of_eq hlive (devAbandon_ended hheard hmember hsource hdest ho)
    case noted => exact whenLive_of_eq hlive (devCommitAck_noted hheard hmaster he hepoch)
    case held => exact whenLive_of_eq hlive (devNotOwner_held hheard hk hkey hsent)
    case answered => exact whenLive_of_eq hlive (devQuery_answered hheard hmaster)
    case front => exact whenLive_of_eq hlive (devAnswer_front hheard hfront)
    case away => exact whenLive_of_eq hlive (devAnswer_away hheard hfront)
  case times =>
    refine ⟨fun hmaster he ho ht => ?offer, fun hmaster => ?audit, fun hc hk hverb hs hx ho ht => ?orphan⟩
    case offer => exact whenLive_of_eq hlive (devOfferTimeout_passed hmaster he ho ht)
    case audit => exact whenLive_of_eq hlive (devLedgerAudit_of_master hmaster)
    case orphan => exact whenLive_of_eq hlive (devOrphanTimeout_passed hc hk hverb hs hx ho ht)

end Sys2Proof.Machine
end

section
/-! PROOF. How the class 0x03 verbs begin on an ACTIVE session that this member owns (R146 to R165, R175): APPEND, SEAL, FORK, DROP,
MIGRATE, FETCH_BLOCKS and SELECT_ATTEND, and the session that DROP TRUNCATE leaves (R161). -/

namespace Sys2Proof.Machine

/-! ### A verb on an ACTIVE session (R146, R171) -/

/-- A context's session is ACTIVE and whole, and this member owns it. -/
def Dev.ActiveSession (d : Dev) (c : Context) (x : Session) : Prop :=
  c.session = some x ∧ x.state = .active ∧ x.rebuilding = false ∧ x.claimed = true ∧ d.owns x = true

section
variable {d : Dev} {r : SlotRef} {v : Verb} {c : Context} {k : Cmd} {x : Session}

/-- A context is found under its own number. -/
theorem Dev.num_of_ctx? {n : Nat} (h : d.ctx? n = some c) : c.num = n := by
  simpa using List.find?_some h

/-- An ACTIVE session has lost nothing. -/
theorem Session.lostFrom_of_active (h : x.state = .active) : x.lostFrom = none := by
  rw [Session.lostFrom, h]

namespace Dev.ActiveSession

/-- A verb on an ACTIVE session goes on. -/
theorem onSession (hx : d.ActiveSession c x) (f : Context → Cmd → Session → Dev) (h : d.ready r v = some (c, k)) :
    d.onSession r v f = f c k x := by
  obtain ⟨hs, hactive, hwhole, hclaimed, howns⟩ := hx
  exact Dev.onSession_of_owned f h hs (by simp [hactive]) hwhole hclaimed howns

/-- A verb that reaches any position of an ACTIVE session goes on. -/
theorem unlessLost (hx : d.ActiveSession c x) (ctx hi : Nat) (f : Dev) : d.unlessLost r ctx x hi f = f :=
  Dev.unlessLost_of_whole (Session.lostFrom_of_active hx.2.1)

/-- The session of a ready command's context. -/
theorem session?_eq (hx : d.ActiveSession c x) (h : d.ready r v = some (c, k)) : d.session? c.num = some x := by
  have hc := Dev.ctx?_of_ready h
  rw [Dev.session?, Dev.num_of_ctx? hc, hc]
  exact hx.1

end Dev.ActiveSession

end

/-- What holds of the elements of a list and of one more holds of all. -/
theorem forall_mem_concat {α : Type} {P : α → Prop} {xs : List α} {x : α} (h : ∀ y ∈ xs, P y) (hx : P x) : ∀ y ∈ xs ++ [x], P y := by
  intro y hy
  rcases List.mem_append.1 hy with hy | hy
  · exact h y hy
  · rwa [List.mem_singleton.1 hy]

/-! ### APPEND (R146, R153) -/

section
variable {d : Dev} {r : SlotRef} {c : Context} {k : Cmd} {x : Session}

/-- APPEND of rows at the end of a layer begins with its plan. -/
theorem devAppend_rows (h : d.ready r .append = some (c, k)) (hx : d.ActiveSession c x) (hplain : lineFlags k.line ≠ 1) (hsa : x.stateSa ≠ 0)
    (hl : fieldAt (cmdOps k) 0 2 < x.layerCount) (hp : fieldAt (cmdOps k) 4 4 = (x.layer (fieldAt (cmdOps k) 0 2)).n)
    (hn : fieldAt (cmdOps k) 4 4 + fieldAt (cmdOps k) 8 4 ≤ x.limit) :
    devAppend r d = (d.appendPlan c k x []).begin r (BitVec.ofNat 64 (fieldAt (cmdOps k) 4 4)) 0 := by
  rw [devAppend, Dev.onReady_of_ready _ h, if_neg hplain, hx.onSession _ h]
  simp only [appendOps, ← hp, bne_self_eq_false, Bool.or_false, decide_eq_true_eq, Nat.not_le.2 hl, Nat.not_lt.2 hn, hsa, if_false]
  exact hx.unlessLost _ _ _

section
variable {g : Geom}

/-- APPEND with INIT makes its session from its descriptor. -/
theorem devAppend_init (h : d.ready r .append = some (c, k)) (hinit : lineFlags k.line = 1) (hg : initGeom k.desc = some g) :
    devAppend r d = d.appendInit r c k g := by
  rw [devAppend, Dev.onReady_of_ready _ h, if_pos hinit, hg]

/-- A context that has a session gets no other one. -/
theorem Dev.appendInit_taken (hs : c.session = some x) : d.appendInit r c k g = d.reject r .badOperand := by
  simp [Dev.appendInit, hs]

/-- With room for its store, a new session begins with its codebook's copies, which run on movers and have no writes of their own, and
then its rows. -/
theorem Dev.appendInit_placed {y : Session} {e : Dev} (hs : c.session = none) (hp : fieldAt (cmdOps k) 4 4 = 0)
    (hn : fieldAt (cmdOps k) 8 4 ≤ (initSession (cmdOps k) g d.coll.geoId).limit)
    (hplace : d.placeSession c.domain (initSession (cmdOps k) g d.coll.geoId) = some (y, e)) :
    ∃ copies, d.appendInit r c k g = ((e.holdSpans r y.spans).appendPlan c k y copies).begin r 0 0 ∧
      ∀ st ∈ copies, st.kind = .mover ∧ st.writes = [] := by
  simp only [Dev.appendInit, hs, hp, Option.isSome_none, bne_self_eq_false, Bool.or_self, Bool.false_eq_true, Nat.not_lt.2 hn, hplace, if_false]
  refine ⟨_, rfl, ?_⟩
  have hcopies := List.foldlRecOn (motive := fun acc : List Step × Nat => ∀ st ∈ acc.1, st.kind = .mover ∧ st.writes = [])
    (k.spans c.domain (fieldAt (cmdOps k) 64 8) y.codebookBytes) (fun (acc : List Step × Nat) s =>
      (acc.1 ++ [{ Step.nop with kind := .mover, reads := [s], outs := [{ sa := acc.2, len := s.len }], effects := [.copy s.sa acc.2 s.len] }],
        acc.2 + s.len)) (b := (([] : List Step), y.codebook.sa)) (fun st hst => absurd hst List.not_mem_nil) fun acc hacc s _ st hst => ?step
  case step => exact forall_mem_concat hacc ⟨rfl, rfl⟩ st hst
  split
  · exact fun st hst => absurd hst List.not_mem_nil
  · next st ss hlast =>
    rw [List.reverse_eq_cons_iff.1 hlast] at hcopies
    exact forall_mem_concat (fun st hst => hcopies st (List.mem_append_left _ hst)) (hcopies st List.mem_concat_self)

end

/-! ### SEAL (R156) -/

/-- The step that marks a block as sealed (R156). -/
def Block.sealStep (b : Block) : Step :=
  { Step.nop with kind := .gallery, outs := [{ sa := b.summarySa, len := 64 }], effects := [.sealBlock b.id] }

/-- The steps that SEAL has for a block that it does not demote. -/
def Block.sealSteps (b : Block) : List Step := if b.sealed then [] else [b.sealStep]

/-- The blocks that are not sealed get a step each. -/
theorem flatMap_sealSteps (bs : List Block) : bs.flatMap Block.sealSteps = (bs.filter fun b => !b.sealed).map Block.sealStep := by
  induction bs with
  | nil => rfl
  | cons b bs ih =>
    rw [List.flatMap_cons, ih]
    cases h : b.sealed <;> simp [Block.sealSteps, h]

/-- A plan that reserves nothing grows by the steps of each block. -/
theorem foldl_sealSteps {f : AppendPlan × Nat → Block → AppendPlan × Nat}
    (hf : ∀ ss b, f ({ dev := d, steps := ss, ended := false }, 0) b = ({ dev := d, steps := ss ++ b.sealSteps, ended := false }, 0))
    (bs : List Block) (ss : List Step) :
    bs.foldl f ({ dev := d, steps := ss, ended := false }, 0) = ({ dev := d, steps := ss ++ bs.flatMap Block.sealSteps, ended := false }, 0) := by
  induction bs generalizing ss with
  | nil => simp
  | cons b bs ih => rw [List.foldl_cons, hf, ih, List.flatMap_cons, List.append_assoc]

/-- SEAL without DEMOTE begins with a step for each block below the position that is not sealed. -/
theorem devSeal_marks (h : d.ready r .seal = some (c, k)) (hx : d.ActiveSession c x) (hl : fieldAt k.line 20 2 < x.layerCount)
    (hp : ∀ l ∈ x.named (fieldAt k.line 20 2) (fieldAt k.line 22 2), fieldAt k.line 16 4 ≤ (x.layer l).n) (hkeep : lineFlags k.line ≠ 1) :
    devSeal r d = d.begin r ((((x.named (fieldAt k.line 20 2) (fieldAt k.line 22 2)).flatMap fun l =>
      d.blocksBelow x l (fieldAt k.line 16 4)).filter fun b => !b.sealed).map Block.sealStep) 0 0 0 := by
  have hlong : ((x.named (fieldAt k.line 20 2) (fieldAt k.line 22 2)).any fun l => decide ((x.layer l).n < fieldAt k.line 16 4)) = false := by
    simpa using hp
  have hkeep' : (lineFlags k.line == 1) = false := beq_eq_false_iff_ne.2 hkeep
  rw [devSeal, hx.onSession _ h]
  simp only [hlong, decide_eq_true_eq, Bool.or_false, Nat.not_le.2 hl, if_false, hx.unlessLost, hkeep']
  rw [foldl_sealSteps (fun ss b => ?same)]
  case same =>
    simp only [Bool.false_eq_true, Bool.not_false, Bool.true_or, if_false, if_true]
    rfl
  rw [flatMap_sealSteps, List.nil_append]
  simp only [AppendPlan.begin, Bool.not_false, if_true, BitVec.ofNat_eq_ofNat]

/-! ### FORK (R158) -/

/-- FORK of a session that is here begins there. -/
theorem devFork_here {pc : Context} (h : d.ready r .fork = some (c, k)) (hnone : c.session = none) (hguest : c.isGuest = false)
    (hmember : fieldAt k.line 18 1 = d.coll.geoId) (hpc : d.ctx? (d.parentCtx k.line) = some pc) (hdom : pc.domain = c.domain)
    (hx : d.ActiveSession pc x) : devFork r d = d.forkFrom r c k (d.parentCtx k.line) x x.logSa := by
  obtain ⟨hs, hactive, hwhole, hclaimed, howns⟩ := hx
  have hsession : d.session? (d.parentCtx k.line) = some x := by rw [Dev.session?, hpc]; exact hs
  rw [devFork, Dev.onReady_of_ready _ h]
  simp [hnone, hguest, hmember, hpc, hdom, hs, hactive, hwhole, hclaimed, howns, Dev.forkAt, hsession]

/-! ### DROP (R161) -/

/-- DROP of a context without a session has nothing to do (R146). -/
theorem Dev.onDrop_of_none {mode : Nat} (f : Context → Cmd → Session → Dev) (h : d.ready r .drop = some (c, k))
    (hmode : fieldAt k.line 16 1 = mode) (hs : c.session = none) : d.onDrop r mode f = d.reject r .ok := by
  rw [Dev.onDrop, Dev.onReady_of_ready _ h]
  simp [hmode, hs]

/-- DROP of an ACTIVE session goes on. -/
theorem Dev.onDrop_of_active {mode : Nat} (f : Context → Cmd → Session → Dev) (h : d.ready r .drop = some (c, k))
    (hmode : fieldAt k.line 16 1 = mode) (hx : d.ActiveSession c x) : d.onDrop r mode f = f c k x := by
  have hs := hx.1
  rw [Dev.onDrop, Dev.onReady_of_ready _ h, hx.onSession _ h]
  simp [hmode, hs]

/-- Without steps, what the last one would do is done at once. -/
theorem Dev.beginWith_nil (d : Dev) (r : SlotRef) (f : Effect) : d.beginWith r [] f = (d.applyEffect r none f).begin r [] 0 0 0 := rfl

/-- With steps that write nothing, a plan that does what they do and then one thing more begins. -/
theorem Dev.beginWith_plan (d : Dev) (r : SlotRef) {ss : List Step} (f : Effect) (h : ss ≠ []) (hw : ∀ st ∈ ss, st.writes = []) :
    ∃ plan : List Step, d.beginWith r ss f = d.begin r plan 0 0 0 ∧ plan.flatMap (·.effects) = ss.flatMap (·.effects) ++ [f] ∧
      ∀ st ∈ plan, st.writes = [] := by
  rcases List.eq_nil_or_concat ss with rfl | ⟨xs, x, rfl⟩
  · exact absurd rfl h
  · rw [List.concat_eq_append] at hw ⊢
    refine ⟨xs ++ [{ x with effects := x.effects ++ [f] }], by simp [Dev.beginWith], by simp, ?_⟩
    exact forall_mem_concat (fun st hst => hw st (List.mem_append_left _ hst)) (hw x List.mem_concat_self)

/-- References are released in pieces of 4096. -/
theorem releaseSteps_effects (n : Nat) (xs : List (Nat × Nat)) : (releaseSteps n xs).flatMap (·.effects) = (chunks 4096 xs).map (.release n) :=
  flatMap_effects_map (fun _ => rfl) _

/-- A step that releases references writes nothing. -/
theorem mem_releaseSteps {n : Nat} {xs : List (Nat × Nat)} {st : Step} (h : st ∈ releaseSteps n xs) : st.writes = [] := by
  obtain ⟨g, -, rfl⟩ := List.mem_map.1 h
  rfl

/-- Something to release is at least one piece. -/
theorem chunks_ne_nil {α : Type} {n : Nat} {xs : List α} (h : xs ≠ []) : chunks n xs ≠ [] := by
  cases xs with
  | nil => exact absurd rfl h
  | cons x xs => exact List.cons_ne_nil _ _

/-- Something to release takes at least one step. -/
theorem releaseSteps_ne_nil {n : Nat} {xs : List (Nat × Nat)} (h : xs ≠ []) : releaseSteps n xs ≠ [] :=
  mt List.map_eq_nil_iff.1 (chunks_ne_nil h)

/-- The references that a session holds, from each layer's end (R161). -/
def Session.references (x : Session) : List (Nat × Nat) := (List.range x.layerCount).flatMap fun l => (x.layer l).blocks.reverse.map fun b => (l, b)

/-- DROP WHOLE begins with its releases, and the session goes with the last. -/
theorem devDropWhole_active (h : d.ready r .drop = some (c, k)) (hx : d.ActiveSession c x) (hmode : fieldAt k.line 16 1 = 1) :
    devDropWhole r d = d.beginWith r (releaseSteps c.num x.references) (.closeSession c.num) :=
  Dev.onDrop_of_active _ h hmode hx

/-- The layers that a cut shortens (R161). -/
def Session.longer (x : Session) (p : Nat) : List Nat := (List.range x.layerCount).filter fun l => decide (p < (x.layer l).n)

/-- The references above a cut, from each layer's end. -/
def Session.cutReferences (x : Session) (p : Nat) : List (Nat × Nat) :=
  (x.longer p).flatMap fun l => ((x.layer l).blocks.drop (ceilDiv p 64)).reverse.map fun b => (l, b)

/-- The step that takes the rows of a cut block back to the intake (R161). -/
def Dev.straddleStep? (d : Dev) (n : Nat) (x : Session) (p l : Nat) : Option Step :=
  match (if p % 64 = 0 then none else d.blockAt x l (p / 64)) with
  | some b =>
    some { Step.nop with
      reads := [b.frame, b.scaleSpan 0 false, b.scaleSpan 0 true]
      outs := [{ sa := (x.rowSpan l (p / 64 * 64)).sa, len := p % 64 * x.rowBytes }]
      effects := [.straddle n l p] }
  | none => none

/-- A layer has such a step where a framed block lies across the cut. -/
theorem Dev.straddleStep?_isSome (d : Dev) (n : Nat) (x : Session) (p l : Nat) :
    (d.straddleStep? n x p l).isSome = (p % 64 != 0 && (d.blockAt x l (p / 64)).isSome) := by
  unfold Dev.straddleStep?
  by_cases hp : p % 64 = 0
  · simp [hp]
  · cases d.blockAt x l (p / 64) <;> simp [hp]

/-- What such a step does. -/
theorem Dev.straddleStep?_some {n p l : Nat} {st : Step} (h : d.straddleStep? n x p l = some st) :
    st.effects = [.straddle n l p] ∧ st.writes = [] := by
  unfold Dev.straddleStep? at h
  split at h
  · rw [← Option.some.inj h]
    exact ⟨rfl, rfl⟩
  · cases h

/-- Steps of one effect each that only some elements have. -/
theorem flatMap_effects_filterMap {α : Type} {f : α → Option Step} {g : α → Effect} (h : ∀ x st, f x = some st → st.effects = [g x])
    (xs : List α) :
    (xs.filterMap f).flatMap (·.effects) = (xs.filter fun x => (f x).isSome).map g := by
  induction xs with
  | nil => rfl
  | cons x xs ih =>
    cases hx : f x with
    | none => simp [hx, ih]
    | some st => simp [hx, ih, h x st hx]

/-- The steps of DROP TRUNCATE (R161). -/
def Dev.truncateSteps (d : Dev) (n : Nat) (x : Session) (p : Nat) : List Step :=
  releaseSteps n (x.cutReferences p) ++ (x.longer p).filterMap (d.straddleStep? n x p)

/-- The layers whose cut goes through a framed block. -/
def Dev.cutLayers (d : Dev) (x : Session) (p : Nat) : List Nat :=
  (x.longer p).filter fun l => p % 64 != 0 && (d.blockAt x l (p / 64)).isSome

/-- DROP TRUNCATE releases what lies above the cut and takes the cut blocks' rows back. -/
theorem Dev.truncateSteps_effects (d : Dev) (n : Nat) (x : Session) (p : Nat) :
    (d.truncateSteps n x p).flatMap (·.effects) =
      (chunks 4096 (x.cutReferences p)).map (.release n) ++ (d.cutLayers x p).map fun l => Effect.straddle n l p := by
  rw [Dev.truncateSteps, List.flatMap_append, releaseSteps_effects,
    flatMap_effects_filterMap (g := fun l => .straddle n l p) fun l st hst => (Dev.straddleStep?_some hst).1]
  simp only [Dev.straddleStep?_isSome]
  rfl

/-- The steps of DROP TRUNCATE write nothing. -/
theorem Dev.mem_truncateSteps {n p : Nat} {st : Step} (h : st ∈ d.truncateSteps n x p) : st.writes = [] := by
  rcases List.mem_append.1 h with h | h
  · exact mem_releaseSteps h
  · obtain ⟨l, -, hl⟩ := List.mem_filterMap.1 h
    exact (Dev.straddleStep?_some hl).2

/-- With nothing above the cut and no block across it there are no steps. -/
theorem Dev.truncateSteps_eq_nil {n p : Nat} (hgone : x.cutReferences p = []) (hcut : d.cutLayers x p = []) : d.truncateSteps n x p = [] := by
  have hnone : (x.longer p).filterMap (d.straddleStep? n x p) = [] := by
    refine List.filterMap_eq_nil_iff.2 fun l hl => Option.not_isSome_iff_eq_none.1 ?_
    rw [Dev.straddleStep?_isSome]
    exact List.filter_eq_nil_iff.1 hcut l hl
  rw [Dev.truncateSteps, hgone, hnone]
  rfl

/-- With something above the cut or a block across it there are steps. -/
theorem Dev.truncateSteps_ne_nil {n p : Nat} (h : x.cutReferences p ≠ [] ∨ d.cutLayers x p ≠ []) : d.truncateSteps n x p ≠ [] := by
  intro hnil
  have heffects := d.truncateSteps_effects n x p
  rw [hnil] at heffects
  obtain ⟨hgone, hcut⟩ := List.append_eq_nil_iff.1 heffects.symm
  rcases h with h | h
  · exact chunks_ne_nil h (List.map_eq_nil_iff.1 hgone)
  · exact h (List.map_eq_nil_iff.1 hcut)

/-- DROP TRUNCATE begins with its steps, and the session is cut with the last. -/
theorem devDropTruncate_active (h : d.ready r .drop = some (c, k)) (hx : d.ActiveSession c x) (hmode : fieldAt k.line 16 1 = 2) :
    devDropTruncate r d = d.beginWith r (d.truncateSteps c.num x (fieldAt k.line 20 4)) (.truncate c.num (fieldAt k.line 20 4)) :=
  Dev.onDrop_of_active _ h hmode hx

/-- A layer of a session whose layers have all changed. -/
theorem Session.layer_map {s : Session} {f : Layer → Layer} (hf : f { n := 0, blocks := [] } = { n := 0, blocks := [] }) (l : Nat) :
    ({ s with layers := s.layers.map f } : Session).layer l = f (s.layer l) := by
  simp only [Session.layer, at!, List.getElem?_map]
  cases s.layers[l]? with
  | none => exact hf.symm
  | some y => rfl

/-- A cut leaves an ACTIVE session ACTIVE, and each layer at the shorter of its length and the position (R161). -/
theorem Dev.truncateSession_active {n : Nat} (p : Nat) (hs : d.session? n = some x) (hactive : x.state = .active) :
    ∃ y, (d.truncateSession n p).session? n = some y ∧ y.state = .active ∧ ∀ l, (y.layer l).n = min (x.layer l).n p := by
  have hlog : d.SameSessions (if x.logSa != 0 && decide (p < x.limit) && decide (p < max x.top x.lostLen) then
      d.zeroRange (x.logSpan p 0).sa (8 * (x.limit - p)) else d) := .ite ⟨rfl, rfl, rfl⟩ (.refl d)
  refine ⟨{ x with state := .active, layers := x.layers.map fun (l : Layer) => { l with n := min l.n p } }, ?found, rfl, fun l => ?length⟩
  case found =>
    simp only [Dev.truncateSession, hs, hactive]
    rw [Dev.session?_modSession, hlog.session?_eq, hs]
    rfl
  case length => exact congrArg Layer.n (Session.layer_map (s := x) (f := fun l => { l with n := min l.n p }) (by simp) l)

/-! ### MIGRATE (R163) -/

/-- MIGRATE of an ACTIVE session goes on. -/
theorem Dev.onMigrate_of_active {kind : Nat} (f : Context → Cmd → Session → Dev) (h : d.ready r .migrate = some (c, k))
    (hkind : fieldAt k.line 16 1 = kind) (hx : d.ActiveSession c x) : d.onMigrate r kind f = f c k x := by
  rw [Dev.onMigrate, Dev.onReady_of_ready _ h, if_pos hkind, hx.onSession _ h]

/-- The blocks that a MIGRATE to a member finds in its session (R163). -/
def Dev.movedBlocks (d : Dev) (x : Session) : List Block := (x.layers.flatMap (·.blocks)).filterMap d.block?

/-- Those of them that it copies: no other session shares them. -/
def Dev.copiedBlocks (d : Dev) (x : Session) : List Block := (d.movedBlocks x).filter fun b => !d.shared b

/-- MIGRATE to a live member asks it for store, with the offer as its last step; the message's form is log 11's. -/
theorem devMigrateToMember_asks (h : d.ready r .migrate = some (c, k)) (hx : d.ActiveSession c x) (hkind : fieldAt k.line 16 1 = 1)
    (htarget : d.others.contains (fieldAt k.line 17 1) = true) (hfirst : k.remote = []) :
    devMigrateToMember r d =
      ((((d.modCmd r fun j => { j with
        started := true
        plan := [{ Step.nop with
          extra := true, effects := [.offer c.num (fieldAt k.line 17 1) (d.imageLayout x ((d.copiedBlocks x).map (·.id))).1] }]
        w0 := 0
        w1 := BitVec.ofNat 64 ((d.movedBlocks x).length - (d.copiedBlocks x).length)
        w2 := 0 }).askStep r .move (fieldAt k.line 17 1) (d.frontOf c.num).2
          (stepArgs [(d.frontOf c.num).1, (d.imageLayout x ((d.copiedBlocks x).map (·.id))).2])).conclude r).settle) := by
  rw [devMigrateToMember, Dev.onMigrate_of_active _ h hkind hx]
  simp only [htarget, hfirst, Bool.not_true, List.isEmpty_nil, Bool.false_eq_true, if_false, hx.unlessLost]
  rfl

/-- Store, commands and mappings are the same. -/
structure Dev.SameStore (d e : Dev) : Prop where
  mem : e.mem = d.mem
  ctxs : e.ctxs = d.ctxs
  blocks : e.blocks = d.blocks
  extents : e.extents = d.extents

/-- One change after another. -/
theorem Dev.SameStore.trans {e f : Dev} (h : d.SameStore e) (g : e.SameStore f) : d.SameStore f :=
  ⟨g.mem.trans h.mem, g.ctxs.trans h.ctxs, g.blocks.trans h.blocks, g.extents.trans h.extents⟩

/-- A series of changes. -/
theorem Dev.SameStore.foldl {α : Type} {f : Dev → α → Dev} (h : ∀ (d : Dev) x, d.SameStore (f d x)) (xs : List α) (d : Dev) :
    d.SameStore (xs.foldl f d) := by
  induction xs generalizing d with
  | nil => exact ⟨rfl, rfl, rfl, rfl⟩
  | cons x xs ih => exact (h d x).trans (ih _)

/-- A queued program leaves the store until the media have run it. -/
theorem Dev.sameStore_demote (d : Dev) (g dom : Nat) (rs : List SlotRef) : d.SameStore (d.demote g dom rs) := by
  unfold Dev.demote
  dsimp only
  split
  · exact ⟨rfl, rfl, rfl, rfl⟩
  · split
    · exact ⟨rfl, rfl, rfl, rfl⟩
    · unfold Dev.queueMedia
      dsimp only
      split
      · exact ⟨rfl, rfl, rfl, rfl⟩
      · exact ⟨rfl, rfl, rfl, rfl⟩

/-- MIGRATE to flash queues programs, which leave the store, and begins with a step for each granule. -/
theorem devMigrateToFlash_begins (h : d.ready r .migrate = some (c, k)) (hx : d.ActiveSession c x) (hkind : fieldAt k.line 16 1 = 2)
    (hfull : d.acc.state = .availableFull) (hch : d.nextChannel c.domain ≠ none) (hdies : 2 ≤ d.field 0x4020 23 16) :
    ∃ (e : Dev) (plan : List Step) (full : Bool),
      devMigrateToFlash r d = e.dropReady.beginMoves r plan full
        ((d.migrateRange k x).length - ((d.migrateRange k x).filter fun b => b.sealed && d.isLocal b.frameSa).length) ∧
      d.SameStore e ∧ ∀ st ∈ plan, st.writes = [] ∧ st.effects = [] := by
  have hch' : (d.nextChannel c.domain).isNone = false := by simpa [Option.isNone_eq_false_iff, Option.isSome_iff_ne_none] using hch
  rw [devMigrateToFlash, Dev.onMigrate_of_active _ h hkind hx]
  simp only [hfull, bne_self_eq_false, hch', Bool.false_or, decide_eq_true_eq, Nat.not_lt.2 hdies, Bool.false_eq_true, if_false, hx.unlessLost]
  refine ⟨_, _, _, rfl, ?_⟩
  refine List.foldlRecOn
    (motive := fun acc : Dev × List Step × Option Nat => d.SameStore acc.1 ∧ ∀ st ∈ acc.2.1, st.writes = [] ∧ st.effects = []) _ _
    ⟨⟨rfl, rfl, rfl, rfl⟩, by simp⟩ fun acc hacc b _ => ?_
  split
  · exact hacc
  · split
    · exact hacc
    · refine ⟨hacc.1.trans (Dev.SameStore.foldl (fun d g => ?_) _ _), fun st hst => ?_⟩
      · split
        · split
          · exact d.sameStore_demote _ _ _
          · exact ⟨rfl, rfl, rfl, rfl⟩
        · exact d.sameStore_demote _ _ _
      · rcases List.mem_append.1 hst with hst | hst
        · exact hacc.2 st hst
        · obtain ⟨i, -, rfl⟩ := List.mem_map.1 hst
          exact ⟨rfl, rfl⟩

/-- MIGRATE to DRAM begins with a read of each granule. -/
theorem devMigrateToDram_begins (h : d.ready r .migrate = some (c, k)) (hx : d.ActiveSession c x) (hkind : fieldAt k.line 16 1 = 3) :
    ∃ (plan : List Step) (full : Bool),
      devMigrateToDram r d = d.beginMoves r plan full ((d.migrateRange k x).length - ((d.migrateRange k x).filter d.onFlash).length) ∧
      ∀ st ∈ plan, st.writes = [] := by
  rw [devMigrateToDram, Dev.onMigrate_of_active _ h hkind hx]
  simp only [hx.unlessLost]
  refine ⟨_, _, rfl, ?_⟩
  refine List.foldlRecOn (motive := fun acc : List Step × Option Nat => ∀ st ∈ acc.1, st.writes = []) _ _ (by simp) fun acc hacc b _ => ?_
  split
  · exact hacc
  · split
    · exact hacc
    · intro st hst
      rcases List.mem_append.1 hst with hst | hst
      · exact hacc st hst
      · obtain ⟨i, -, rfl⟩ := List.mem_map.1 hst
        rfl

/-! ### FETCH_BLOCKS and SELECT_ATTEND (R162, R175) -/

/-- FETCH_BLOCKS of parts that fit begins with a step for each piece of 64 KiB of its output. -/
theorem devFetchBlocks_pieces (h : d.ready r .fetchBlocks = some (c, k)) (hx : d.ActiveSession c x) {body log : Nat}
    (hbody : body = fetchLen (d.fetchParts x (fetchOps k.line)))
    (hlog : log = if bit (fetchOps k.line).parts 3 then 8 * (fetchOps k.line).covered x else 0)
    (hl : (fetchOps k.line).layer < x.layerCount) (hfits : body + log ≤ (fetchOps k.line).len) (hsa : x.logSa ≠ 0) :
    ∃ plan : List Step, devFetchBlocks r d = d.begin r plan 0 (BitVec.ofNat 64 ((fetchOps k.line).covered x)) 0 ∧
      plan.map (·.w0) = (pieces (body + log) 65536).map Prod.snd ∧
      plan.map (·.outs) = (pieces (body + log) 65536).map fun p => k.spans c.domain ((fetchOps k.line).dst + p.1) p.2 := by
  rw [devFetchBlocks, hx.onSession _ h]
  simp only [Nat.not_le.2 hl, ← hbody, ← hlog, Nat.not_lt.2 hfits, hsa, if_false, hx.unlessLost]
  exact ⟨_, rfl, by simp [Function.comp_def], by simp [Function.comp_def]⟩

/-- The run of a SELECT_ATTEND as it begins: nothing kept or chosen of any head (R187). -/
def Dev.attendRun (d : Dev) (dom : Nat) (k : Cmd) (x : Session) : AttendRun :=
  { key := d.attendKey dom k x (k.ask x)
    heads := (List.range (k.ask x).hc).map fun i => { head := (k.ask x).h0 + i, kept := [], chosen := [], flash := [] } }

/-- SELECT_ATTEND of positions that are there begins with its first stage. -/
theorem devSelectAttend_begins (h : d.ready r .selectAttend = some (c, k)) (hx : d.ActiveSession c x)
    (hq : (k.ask x).p0 + (k.ask x).q ≤ (x.layer (k.ask x).layer).n) :
    devSelectAttend r d = (d.modCmd r fun j => { j with attend := some (d.attendRun c.domain k x) }).begin r
      (d.nextStage k c.domain x (k.ask x) (d.attendRun c.domain k x) 0) 0 0 0 := by
  rw [devSelectAttend, hx.onSession _ h]
  simp only [Nat.not_lt.2 hq, if_false, hx.unlessLost]
  rfl

end

/-- Settles O37: each verb begins as its clause says. Where an APPEND ends for want of a frame and how FETCH_BLOCKS writes an intake is
log 26's, the step in which a FORK seals and shares log 127's, and the message that asks a MIGRATE's target for store log 11's. -/
theorem contextVerbsComplete : Obligations.ContextVerbsComplete := by
  intro s r c k x
  refine ⟨fun hrun hx hplain hsa hl hp hn => ?append, fun g hrun hinit hg => ⟨fun hs => ?initTaken, fun y e hs hp hn hplace => ?initPlaced⟩,
    fun hrun hx hl hp hkeep => ?marks, fun pc hrun hnone hguest hmember hpc hdom hs hactive hwhole hclaimed howns => ?fork,
    fun hrun hs => ⟨fun hmode => ?wholeNone, fun hmode => ?truncateNone⟩, fun hrun hx hmode => ?whole, fun hrun hx hmode => ?truncate,
    fun hrun hx hkind htarget hfirst => ?toMember, fun hrun hx hkind hfull hch hdies => ?toFlash, fun hrun hx hkind => ?toDram,
    fun hrun hx hl hfits hsa => ?fetch, fun hrun hx hq => ?attend⟩
  case append => exact hrun.next fun h => devAppend_rows h hx hplain hsa hl hp hn
  case initTaken => exact hrun.next fun h => (devAppend_init h hinit hg).trans (Dev.appendInit_taken hs)
  case initPlaced =>
    obtain ⟨copies, hbegin, hcopies⟩ := Dev.appendInit_placed (r := r) hs hp hn hplace
    exact ⟨copies, hrun.next fun h => (devAppend_init h hinit hg).trans hbegin, hcopies⟩
  case marks => exact hrun.next fun h => devSeal_marks h hx hl hp hkeep
  case fork => exact hrun.next fun h => devFork_here h hnone hguest hmember hpc hdom ⟨hs, hactive, hwhole, hclaimed, howns⟩
  case wholeNone => exact hrun.next fun h => Dev.onDrop_of_none _ h hmode hs
  case truncateNone => exact hrun.next fun h => Dev.onDrop_of_none _ h hmode hs
  case whole =>
    refine ⟨fun hnone => hrun.next fun h => ?nothingHeld, fun hheld => ?held⟩
    case nothingHeld =>
      rw [devDropWhole_active h hx hmode, show x.references = [] from hnone]
      exact s.dev.beginWith_nil r _
    case held =>
      obtain ⟨plan, hbegin, heffects, hwrites⟩ := s.dev.beginWith_plan r (.closeSession c.num) (releaseSteps_ne_nil (n := c.num) hheld)
        fun st hst => mem_releaseSteps hst
      rw [releaseSteps_effects] at heffects
      exact ⟨plan, hrun.next fun h => (devDropWhole_active h hx hmode).trans hbegin, heffects, hwrites⟩
  case truncate =>
    refine ⟨fun hgone hcut => hrun.next fun h => ?nothingAbove, fun hsome => ?above, ?session⟩
    case nothingAbove =>
      rw [devDropTruncate_active h hx hmode, Dev.truncateSteps_eq_nil hgone hcut]
      exact s.dev.beginWith_nil r _
    case above =>
      obtain ⟨plan, hbegin, heffects, hwrites⟩ := s.dev.beginWith_plan r (.truncate c.num (fieldAt k.line 20 4))
        (Dev.truncateSteps_ne_nil (n := c.num) hsome) fun st hst => Dev.mem_truncateSteps hst
      rw [Dev.truncateSteps_effects] at heffects
      exact ⟨plan, hrun.next fun h => (devDropTruncate_active h hx hmode).trans hbegin, heffects, hwrites⟩
    case session => exact Dev.truncateSession_active _ (Dev.ActiveSession.session?_eq hx hrun.2) hx.2.1
  case toMember => exact hrun.next fun h => devMigrateToMember_asks h hx hkind htarget hfirst
  case toFlash =>
    obtain ⟨e, plan, full, hbegin, hsame, hplan⟩ := devMigrateToFlash_begins hrun.2 hx hkind hfull hch hdies
    exact ⟨e, plan, full, hrun.next fun _ => hbegin, hsame.mem, hsame.ctxs, hsame.blocks, hsame.extents, hplan⟩
  case toDram =>
    obtain ⟨plan, full, hbegin, hplan⟩ := devMigrateToDram_begins hrun.2 hx hkind
    exact ⟨plan, full, hrun.next fun _ => hbegin, hplan⟩
  case fetch =>
    obtain ⟨plan, hbegin, hwords, houts⟩ := devFetchBlocks_pieces hrun.2 hx rfl rfl hl hfits hsa
    exact ⟨plan, hrun.next fun _ => hbegin, hwords, houts⟩
  case attend => exact hrun.next fun h => devSelectAttend_begins h hx hq

end Sys2Proof.Machine
end

section
/-! PROOF. How the class 0x04 verbs begin (R203, R209 to R225): GATHER, SCATTER_UPDATE and REHANG on the version that they are bound to,
and what each mode of PUBLISH_TABLE does at its table's home. -/

namespace Sys2Proof.Machine

/-! ### A verb bound to a version, and its late ranges (R205, R208) -/

/-- A ready verb that is bound to a version goes on. -/
theorem Dev.onBound_of_ready {d : Dev} {r : SlotRef} {verb : Verb} {c : Context} {k : Cmd} {v : Version} (f : Context → Cmd → Version → Dev)
    (h : d.ready r verb = some (c, k)) (hv : k.version = some v) : d.onBound r verb f = f c k v := by
  rw [Dev.onBound, Dev.onReady_of_ready _ h, hv, Option.elim_some]

/-- Capturing ranges leaves a command's line. -/
theorem Dev.captures_line {d e : Dev} {r : SlotRef} {c : Context} {k j : Cmd} {ns : List Need} (h : d.captures r c k ns e j) :
    j.line = k.line := by
  obtain ⟨caps, -, -, rfl⟩ := h
  rfl

/-- Capturing ranges leaves how a GATHER pools. -/
theorem Dev.captures_pooling {d e : Dev} {r : SlotRef} {c : Context} {k j : Cmd} {ns : List Need} (h : d.captures r c k ns e j) :
    j.pooling = k.pooling := by
  rw [Cmd.pooling, Cmd.pooling, Dev.captures_line h]

/-! ### The first bad index (R225) -/

section
variable {rows : Nat} {idx : List (Option Nat)}

/-- No index is bad where all that can be read lie below the rows. -/
theorem badIndex_eq_none (h : ∀ x, some x ∈ idx → x < rows) : badIndex rows idx = none := by
  rw [badIndex, List.findIdx?_eq_none_iff]
  intro o ho
  cases o with
  | none => rfl
  | some x => simpa using h x ho

/-- The bad index is the first that can be read and is at or above the rows. -/
theorem badIndex_eq_some {i x : Nat} (hi : idx[i]? = some (some x)) (hx : rows ≤ x)
    (hfirst : ∀ i' < i, ∀ x', idx[i']? = some (some x') → x' < rows) : badIndex rows idx = some i := by
  obtain ⟨hlt, hget⟩ := List.getElem?_eq_some_iff.1 hi
  rw [badIndex, List.findIdx?_eq_some_iff_getElem]
  refine ⟨hlt, by simpa [hget] using hx, fun i' hi' => ?_⟩
  cases hget' : idx[i'] with
  | none => simp
  | some x' =>
    have hbelow := hfirst i' hi' x' (by rw [List.getElem?_eq_getElem (Nat.lt_trans hi' hlt), hget'])
    simpa using hbelow

end

/-! ### GATHER (R212 to R215, R223, R225) -/

/-- The operand arrays of a GATHER: indices, offsets and weights. -/
def Cmd.gatherArrays (j : Cmd) (dom : Nat) : List Span :=
  j.spans dom (fieldAt j.line 32 8) (4 * fieldAt j.line 24 4) ++
    (if j.pooling = 0 then [] else j.spans dom (fieldAt j.line 40 8) (4 * (fieldAt j.line 20 4 + 1))) ++
    if j.pooling = 3 then j.spans dom (fieldAt j.line 48 8) (4 * fieldAt j.line 24 4) else []

/-- The indices of a GATHER, as they are read. -/
def Dev.gatherIndices (d : Dev) (dom : Nat) (j : Cmd) : List (Option Nat) := d.array32 dom j (fieldAt j.line 32 8) (fieldAt j.line 24 4)

/-- The offsets of its bags; one index to a bag without pooling. -/
def Dev.gatherOffsets (d : Dev) (dom : Nat) (j : Cmd) : List (Option Nat) :=
  if j.pooling = 0 then (List.range (fieldAt j.line 20 4 + 1)).map some else d.array32 dom j (fieldAt j.line 40 8) (fieldAt j.line 20 4 + 1)

/-- The weights of its indices. -/
def Dev.gatherWeights (d : Dev) (dom : Nat) (j : Cmd) : List (Option Nat) :=
  if j.pooling = 3 then d.array32 dom j (fieldAt j.line 48 8) (fieldAt j.line 24 4) else []

/-- The position of the first bad offset of a GATHER. -/
def Dev.gatherBadOffset (d : Dev) (dom : Nat) (j : Cmd) : Option Nat :=
  badOffset (fieldAt j.line 24 4) (fieldAt j.line 20 4) (d.gatherOffsets dom j)

/-- The output of a GATHER that does not go to its host. -/
def Cmd.gatherOut (k : Cmd) (v : Version) : List Need :=
  if bit (lineFlags k.line) 0 then [] else [⟨fieldAt k.line 56 8, fieldAt k.line 20 4 * k.outStride v, true, 56⟩]

/-- What a GATHER does once its operand arrays are here: the position of the first bad offset or index ends it, before a row is read. -/
def Dev.gatherOn (d : Dev) (r : SlotRef) (dom : Nat) (v : Version) (j : Cmd) : Dev :=
  match (d.gatherBadOffset dom j).orElse fun _ => badIndex v.rows (d.gatherIndices dom j) with
  | some i => (d.complete r .badOperand 0 0 (BitVec.ofNat 64 i)).settle
  | none =>
    let idx := d.gatherIndices dom j
    let ws := d.gatherWeights dom j
    let offs := d.gatherOffsets dom j
    d.withRemote r j (j.gatherArrays dom ++ v.remapSpans (idx.filterMap id)) fun d =>
      match d.cmd? r with
      | none => d
      | some k => d.begin r (d.gatherPlan dom k v idx ws offs) 0 0 (BitVec.ofNat 64 v.number.toNat)

section
variable {d e : Dev} {r : SlotRef} {dom : Nat} {c : Context} {k j : Cmd} {v : Version}

/-- GATHER reads its operand arrays once its output is captured and they are here. -/
theorem devGather_of_arrays (h : d.ready r .gather = some (c, k)) (hv : k.version = some v) (hcount : k.counting = false ∨ v.popCva ≠ 0)
    (hcap : d.captures r c k (k.gatherOut v) e j) (hhere : e.missing j (j.gatherArrays c.domain) = []) :
    devGather r d = (e.gatherOn r c.domain v j).settle := by
  have hpop : (k.counting && v.popCva == 0) = false := by
    rcases hcount with hc | hp
    · rw [hc, Bool.false_and]
    · rw [beq_false_of_ne hp, Bool.and_false]
  rw [devGather, Dev.onBound_of_ready _ h hv]
  simp only [hpop, Bool.false_eq_true, if_false]
  refine (Dev.late_of_captures _ (Dev.cmd?_of_ready h) hcap).trans (congrArg Dev.settle ?_)
  simp only [← Dev.captures_line hcap, ← Dev.captures_pooling hcap]
  refine (Dev.withRemote_of_here _ hhere).trans ?_
  unfold Dev.gatherOn Dev.gatherBadOffset Dev.gatherIndices Dev.gatherOffsets Dev.gatherWeights Cmd.gatherArrays
  rfl

/-- A bad offset ends a GATHER with its position. -/
theorem Dev.gatherOn_badOffset {i : Nat} (hoff : d.gatherBadOffset dom j = some i) :
    d.gatherOn r dom v j = (d.complete r .badOperand 0 0 (BitVec.ofNat 64 i)).settle := by
  rw [Dev.gatherOn, hoff]
  rfl

/-- With good offsets, a bad index ends it with its position. -/
theorem Dev.gatherOn_badIndex {i : Nat} (hoff : d.gatherBadOffset dom j = none) (hidx : badIndex v.rows (d.gatherIndices dom j) = some i) :
    d.gatherOn r dom v j = (d.complete r .badOperand 0 0 (BitVec.ofNat 64 i)).settle := by
  rw [Dev.gatherOn, hoff, Option.orElse_none, hidx]

/-- With good operands, and the remap entries of its rows here, it begins with its plan. -/
theorem Dev.gatherOn_begins (hj : d.cmd? r = some j) (hoff : d.gatherBadOffset dom j = none)
    (hidx : badIndex v.rows (d.gatherIndices dom j) = none)
    (hhere : d.missing j (j.gatherArrays dom ++ v.remapSpans ((d.gatherIndices dom j).filterMap id)) = []) :
    d.gatherOn r dom v j =
      d.begin r (d.gatherPlan dom j v (d.gatherIndices dom j) (d.gatherWeights dom j) (d.gatherOffsets dom j)) 0 0
        (BitVec.ofNat 64 v.number.toNat) := by
  simp only [Dev.gatherOn, hoff, Option.orElse_none, hidx]
  rw [Dev.withRemote_of_here _ hhere, hj]

end

/-! ### SCATTER_UPDATE (R219, R221) -/

/-- The indices of a SCATTER_UPDATE, as they are read. -/
def Dev.scatterIndices (d : Dev) (dom : Nat) (j : Cmd) : List (Option Nat) := d.array32 dom j (fieldAt j.line 24 8) (fieldAt j.line 20 4)

/-- The indices that can be read: one for each gradient that it combines. -/
def Dev.scatterGood (d : Dev) (dom : Nat) (j : Cmd) : List Nat := (d.scatterIndices dom j).filterMap id

/-- The rows that it changes, each once and by rising number. -/
def Dev.scatterRows (d : Dev) (dom : Nat) (j : Cmd) : List Nat := sortOrd (fun a b => decide (a < b)) (d.scatterGood dom j).eraseDups

/-- The bytes of its work area. -/
def Cmd.scatterWork (k : Cmd) (v : Version) : Nat := fieldAt k.line 20 4 * 4 * v.dim

/-- The gradients that it reads. -/
def Cmd.scatterGradients (k : Cmd) (v : Version) : List Need :=
  [⟨fieldAt k.line 32 8, fieldAt k.line 20 4 * v.dim * (elemBits (fieldAt k.line 19 1) / 8), false, 32⟩]

/-- What a SCATTER_UPDATE of good indices does: it draws its work area from the quota and begins. -/
def Dev.scatterOn (d : Dev) (r : SlotRef) (dom : Nat) (v : Version) (j : Cmd) : Dev :=
  if !d.dramRoom dom (j.scatterWork v) then d.reject r .capacity
  else (d.modCmd r fun x => { x with work := j.scatterWork v }).begin r (j.scatterPlan dom v (d.scatterIndices dom j) (d.scatterRows dom j)) 0
    (BitVec.ofNat 64 ((d.scatterGood dom j).length - (d.scatterRows dom j).length)) (BitVec.ofNat 64 v.number.toNat)

section
variable {d e : Dev} {r : SlotRef} {c : Context} {k j : Cmd} {v : Version} (h : d.ready r .scatterUpdate = some (c, k)) (hv : k.version = some v)
include h hv

/-- A version that is not for training is not updated. -/
theorem devScatterUpdate_serving (hkind : v.kind ≠ 1) : devScatterUpdate r d = d.reject r .accessDenied := by
  rw [devScatterUpdate, Dev.onBound_of_ready _ h hv]
  simp only [bne_iff_ne.2 hkind, if_true]

/-- An optimizer of another state than the version's is refused. -/
theorem devScatterUpdate_otherState (hkind : v.kind = 1) (hstate : v.stateKind ≠ optState (fieldAt k.line 18 1)) :
    devScatterUpdate r d = d.reject r .badOperand := by
  rw [devScatterUpdate, Dev.onBound_of_ready _ h hv]
  simp only [hkind, bne_self_eq_false, bne_iff_ne.2 hstate, Bool.false_eq_true, if_false, if_true]

/-- It reads every index, once its gradients are captured and the indices are here, before it changes a row. -/
theorem devScatterUpdate_of_indices (hkind : v.kind = 1) (hstate : v.stateKind = optState (fieldAt k.line 18 1))
    (hcap : d.captures r c k (k.scatterGradients v) e j)
    (hhere : e.missing j (j.spans c.domain (fieldAt j.line 24 8) (4 * fieldAt j.line 20 4)) = [])
    (hidx : badIndex v.rows (e.scatterIndices c.domain j) = none) :
    devScatterUpdate r d = (e.scatterOn r c.domain v j).settle := by
  rw [devScatterUpdate, Dev.onBound_of_ready _ h hv]
  simp only [hkind, hstate, bne_self_eq_false, Bool.false_eq_true, if_false]
  refine (Dev.late_of_captures _ (Dev.cmd?_of_ready h) hcap).trans (congrArg Dev.settle ?_)
  simp only [← Dev.captures_line hcap]
  refine (Dev.withRemote_of_here _ hhere).trans ?_
  unfold Dev.scatterIndices at hidx
  simp only [hidx]
  unfold Dev.scatterOn Dev.scatterRows Dev.scatterGood Dev.scatterIndices Cmd.scatterWork
  rfl

end

section
variable {d : Dev} {r : SlotRef} {dom : Nat} {j : Cmd} {v : Version}

/-- Without room for its work area nothing changes. -/
theorem Dev.scatterOn_full (hroom : d.dramRoom dom (j.scatterWork v) = false) : d.scatterOn r dom v j = d.reject r .capacity := by
  rw [Dev.scatterOn, hroom, Bool.not_false, if_pos rfl]

/-- With room it begins. -/
theorem Dev.scatterOn_begins (hroom : d.dramRoom dom (j.scatterWork v) = true) :
    d.scatterOn r dom v j = (d.modCmd r fun x => { x with work := j.scatterWork v }).begin r
      (j.scatterPlan dom v (d.scatterIndices dom j) (d.scatterRows dom j)) 0
      (BitVec.ofNat 64 ((d.scatterGood dom j).length - (d.scatterRows dom j).length)) (BitVec.ofNat 64 v.number.toNat) := by
  rw [Dev.scatterOn, hroom, Bool.not_true, if_neg Bool.false_ne_true]

end

/-! ### PUBLISH_TABLE at its table's home (R209 to R211) -/

/-- The number of a table's CURRENT version; 0 where it has none. -/
def Table.currentNumber (t : Table) : W32 := (t.current.map (·.number)).getD 0

/-- The version that a publishing line expects is CURRENT. -/
def Table.Expects (t : Table) (line : List Byte) : Prop := ∃ x, t.current = some x ∧ x.number.toNat = fieldAt line 20 4

/-- A version enters a table's catalogue as STAGED, under the next number. -/
def Table.stage (t : Table) (v : Version) : Table :=
  { t with nextVersion := t.nextVersion + 1, versions := t.versions ++ [{ v with number := t.nextVersion, state := .staged }] }

section
variable {d : Dev} {dom id : Nat} {line : List Byte} {t : Table} {v : Version}

/-- A free identifier gets version 1. -/
theorem Dev.createTable_free (h : d.table? dom id = none) :
    d.createTable dom id v =
      (let new : Table := { domain := dom, id := id, nextVersion := 2, versions := [v], deleting := false, home := d.coll.geoId, bindings := [] }
       ((d.setTable new).tellTable new false, .ok, 1, 0)) := by
  simp only [Dev.createTable, h, Option.isSome_none, Bool.false_eq_true, if_false]

/-- A publishing mode goes on where its expected version is CURRENT. -/
theorem Dev.ifExpected_of_expects (f : W32 → Dev × Status × W32 × W32) (h : t.Expects line) : d.ifExpected t line f = f t.currentNumber := by
  obtain ⟨x, hx, hnum⟩ := h
  simp only [Dev.ifExpected, Table.currentNumber, hx, hnum, beq_self_eq_true, if_true, Option.map_some, Option.getD_some]

/-- A stale expected version is a CONFLICT that changes nothing. -/
theorem Dev.ifExpected_of_stale (f : W32 → Dev × Status × W32 × W32) (h : ¬ t.Expects line) :
    d.ifExpected t line f = (d, .conflict, t.currentNumber, 0) := by
  unfold Dev.ifExpected Table.currentNumber
  cases hx : t.current with
  | none => rfl
  | some x =>
    have hnum : (x.number.toNat == fieldAt line 20 4) = false := beq_false_of_ne fun hnum => h ⟨x, hx, hnum⟩
    simp only [hnum, Bool.false_eq_true, if_false, Option.map_some, Option.getD_some]

section
variable (h : d.table? dom id = some t)
include h

/-- PUBLISH_DESCRIPTOR makes a version and sets the plinth to it. -/
theorem Dev.publishDescriptor_room (hexp : t.Expects line) (hroom : t.versions.length < 8) :
    d.publishDescriptor dom id line v = (d.setTable ((t.stage v).plinth t.nextVersion), .ok, t.nextVersion, t.currentNumber) := by
  simp only [Dev.publishDescriptor, h, Dev.ifExpected_of_expects _ hexp, Nat.not_le.2 hroom, if_false]
  rfl

/-- A table of eight versions takes no other. -/
theorem Dev.publishDescriptor_full (hexp : t.Expects line) (hfull : 8 ≤ t.versions.length) :
    d.publishDescriptor dom id line v = (d, .capacity, 0, 0) := by
  simp only [Dev.publishDescriptor, h, Dev.ifExpected_of_expects _ hexp, hfull, if_true]

/-- PUBLISH_DESCRIPTOR of a stale expected version is a CONFLICT. -/
theorem Dev.publishDescriptor_stale (hstale : ¬ t.Expects line) :
    d.publishDescriptor dom id line v = (d, .conflict, t.currentNumber, 0) := by
  simp only [Dev.publishDescriptor, h, Dev.ifExpected_of_stale _ hstale]

/-- PUBLISH_STAGED sets the plinth to a STAGED version. -/
theorem Dev.publishStaged_staged (hexp : t.Expects line)
    (hstaged : ((t.version? (BitVec.ofNat 32 (fieldAt line 24 4))).any fun x => x.state == .staged) = true) :
    d.publishStaged dom id line =
      (d.setTable (t.plinth (BitVec.ofNat 32 (fieldAt line 24 4))), .ok, BitVec.ofNat 32 (fieldAt line 24 4), t.currentNumber) := by
  simp only [Dev.publishStaged, h, Dev.ifExpected_of_expects _ hexp, hstaged, if_true]

/-- A target that is not STAGED is BAD_OPERAND. -/
theorem Dev.publishStaged_other (hexp : t.Expects line)
    (hother : ((t.version? (BitVec.ofNat 32 (fieldAt line 24 4))).any fun x => x.state == .staged) = false) :
    d.publishStaged dom id line = (d, .badOperand, 0, 0) := by
  simp only [Dev.publishStaged, h, Dev.ifExpected_of_expects _ hexp, hother, Bool.false_eq_true, if_false]

/-- DELETE leaves every version DRAINING. -/
theorem Dev.deleteTable_known :
    d.deleteTable dom id =
      (d.setTable { t with deleting := true, versions := t.versions.map fun x => { x with state := .draining } }, .ok, 0, t.currentNumber) := by
  simp only [Dev.deleteTable, h]
  rfl

end

end

section
variable {d e : Dev} {r : SlotRef} {dom id mode : Nat} {line desc : List Byte} {c : Context} {k : Cmd} {v : Version} {st : Status} {w0 w1 : W32}

/-- At its table's home a PUBLISH_TABLE ends with what its mode answers. -/
theorem Dev.atHome_here {f : Dev → Dev × Status × W32 × W32} (hhome : d.tableHome dom id = d.coll.geoId) (hf : f d = (e, st, w0, w1)) :
    d.atHome r dom id line desc f = e.endTable r st w0 w1 := by
  simp only [Dev.atHome, hhome, if_true, hf]

/-- Elsewhere it goes to its table's home. -/
theorem Dev.atHome_away (f : Dev → Dev × Status × W32 × W32) (hhome : d.tableHome dom id ≠ d.coll.geoId) :
    d.atHome r dom id line desc f = d.tableAway r (d.tableHome dom id) line desc := by
  simp only [Dev.atHome, hhome, if_false]

/-- A ready PUBLISH_TABLE of a mode takes that mode's meaning. -/
theorem Dev.onTable_of_ready (f : Context → Cmd → Nat → Dev) (h : d.ready r .publishTable = some (c, k)) (hmode : fieldAt k.line 18 1 = mode) :
    d.onTable r mode f = f c k (fieldAt k.line 16 2) := by
  rw [Dev.onTable, Dev.onReady_of_ready _ h, if_pos hmode]

/-- The bytes of a PUBLISH_TABLE's descriptor. -/
def Dev.tableDescriptor (d : Dev) (dom : Nat) (k : Cmd) : List Byte := d.loadAll k (k.spans dom (fieldAt k.line 32 8) 64)

/-- A PUBLISH_TABLE's descriptor is here, can be read and describes a version (R205). -/
def Dev.Describes (d : Dev) (dom : Nat) (k : Cmd) (v : Version) : Prop :=
  d.missing k (k.spans dom (fieldAt k.line 32 8) 64) = [] ∧ d.badSpans k (k.spans dom (fieldAt k.line 32 8) 64) = false ∧
    versionOf (d.tableDescriptor dom k) = some v

/-- A mode with a well formed descriptor goes on with its version. -/
theorem Dev.withDescriptor_of_describes (f : Dev → List Byte → Version → Dev) (h : d.Describes dom k v) :
    d.withDescriptor r dom k f = f d (d.tableDescriptor dom k) v := by
  obtain ⟨hhere, hgood, hv⟩ := h
  unfold Dev.tableDescriptor at hv
  rw [Dev.withDescriptor, Dev.withRemote_of_here _ hhere]
  simp only [hgood, hv, Bool.false_eq_true, if_false]
  rfl

section
variable (h : d.ready r .publishTable = some (c, k))
include h

/-- CREATE is carried out at its table's home. -/
theorem devCreate_atHome (hmode : fieldAt k.line 18 1 = 1) (hdesc : d.Describes c.domain k v) :
    devCreate r d = d.atHome r c.domain (fieldAt k.line 16 2) k.line (d.tableDescriptor c.domain k) fun d =>
      d.createTable c.domain (fieldAt k.line 16 2) v := by
  rw [devCreate, Dev.onTable_of_ready _ h hmode, Dev.withDescriptor_of_describes _ hdesc]

/-- PUBLISH_DESCRIPTOR is carried out at its table's home. -/
theorem devPublishDescriptor_atHome (hmode : fieldAt k.line 18 1 = 2) (hdesc : d.Describes c.domain k v) :
    devPublishDescriptor r d = d.atHome r c.domain (fieldAt k.line 16 2) k.line (d.tableDescriptor c.domain k) fun d =>
      d.publishDescriptor c.domain (fieldAt k.line 16 2) k.line v := by
  rw [devPublishDescriptor, Dev.onTable_of_ready _ h hmode, Dev.withDescriptor_of_describes _ hdesc]

/-- PUBLISH_STAGED is carried out at its table's home. -/
theorem devPublishStaged_atHome (hmode : fieldAt k.line 18 1 = 3) :
    devPublishStaged r d = d.atHome r c.domain (fieldAt k.line 16 2) k.line [] fun d =>
      d.publishStaged c.domain (fieldAt k.line 16 2) k.line := by
  rw [devPublishStaged, Dev.onTable_of_ready _ h hmode]

/-- DELETE is carried out at its table's home. -/
theorem devTableDelete_atHome (hmode : fieldAt k.line 18 1 = 5) :
    devTableDelete r d = d.atHome r c.domain (fieldAt k.line 16 2) k.line [] fun d => d.deleteTable c.domain (fieldAt k.line 16 2) := by
  rw [devTableDelete, Dev.onTable_of_ready _ h hmode]

/-- At its table's home a WAIT_RECLAIM keeps its tag and waits. -/
theorem devWaitReclaim_here (hmode : fieldAt k.line 18 1 = 4) (hhome : d.tableHome c.domain (fieldAt k.line 16 2) = d.coll.geoId) :
    devWaitReclaim r d = (d.modCmd r fun x => { x with started := true, committed := true, retired := 1 }).settle := by
  rw [devWaitReclaim, Dev.onTable_of_ready _ h hmode]
  exact if_pos hhome

/-- Elsewhere it goes to its table's home. -/
theorem devWaitReclaim_away (hmode : fieldAt k.line 18 1 = 4) (hhome : d.tableHome c.domain (fieldAt k.line 16 2) ≠ d.coll.geoId) :
    devWaitReclaim r d = d.tableAway r (d.tableHome c.domain (fieldAt k.line 16 2)) k.line [] := by
  rw [devWaitReclaim, Dev.onTable_of_ready _ h hmode]
  exact if_neg hhome

end

/-- A WAIT_RECLAIM that waits here past its limit ends with DEADLINE_MISSED and the CURRENT version. -/
theorem devWaitReclaimLimit_passed {t : Nat} (hc : d.ctx? r.ctx = some c) (hk : d.cmd? r = some k) (hverb : cmdVerb k = some .publishTable)
    (hmode : fieldAt k.line 18 1 = 4) (hwaits : k.committed = true) (hcut : k.cut = none)
    (hlimit : k.t0 + fieldAt k.line 28 4 * 1000 ≤ max d.now t) :
    devWaitReclaimLimit r t d = ((d.atTime t).complete r .deadlineMissed
      (BitVec.ofNat 64 (d.currentOf c.domain (fieldAt k.line 16 2)).toNat) 0 0).settle := by
  have hc' : (d.atTime t).ctx? r.ctx = some c := hc
  have hk' : (d.atTime t).cmd? r = some k := hk
  simp only [devWaitReclaimLimit, hc', hk', hverb, hmode, hwaits, hcut, Dev.atTime_now, hlimit, beq_self_eq_true, Option.isNone_none, decide_true,
    Bool.and_self, if_true]
  rfl

end

/-! ### REHANG (R216, R217) -/

/-- The popularity counts that a REHANG reads. -/
def Cmd.rehangCounts (k : Cmd) (v : Version) : List Need := [⟨(k.rehanged v).popCva, 4 * v.rows, false, 48⟩]

/-- What a REHANG does once its counts are captured: it places its parts and begins. -/
def Dev.rehangOn (d : Dev) (r : SlotRef) (dom : Nat) (v : Version) (k : Cmd) : Dev :=
  let sizes := k.rehangSizes v
  let bytes := sizes.foldl (· + ·) 0
  if !d.dramRoom dom bytes then d.reject r .capacity
  else
    ((d.modCmd r fun x => { x with work := bytes }).placeAll r sizes).elim (d.reject r .capacity) fun d =>
      (d.cmd? r).elim d fun y => d.begin r (y.rehangPlan dom v) 0 0 0

section
variable {d e : Dev} {r : SlotRef} {c : Context} {k j y : Cmd} {v : Version} {dom : Nat}

/-- A REHANG into a table with room reads its counts once they are captured. -/
theorem devRehang_of_counts (h : d.ready r .rehang = some (c, k)) (hv : k.version = some v)
    (hrows : fieldAt k.line 32 4 + fieldAt k.line 36 4 + fieldAt k.line 40 4 ≤ v.rows) (hpop : (k.rehanged v).popCva ≠ 0)
    (htable : ((d.table? c.domain (fieldAt k.line 16 2)).any fun x => x.home == d.coll.geoId && decide (8 ≤ x.versions.length)) = false)
    (hcap : d.captures r c k (k.rehangCounts v) e j) : devRehang r d = (e.rehangOn r c.domain v k).settle := by
  have hsum : decide (v.rows < ((List.range 3).map fun i => fieldAt k.line (32 + 4 * i) 4).foldl (· + ·) 0) = false := by
    simpa [List.range_succ] using hrows
  rw [devRehang, Dev.onBound_of_ready _ h hv]
  simp only [hsum, beq_false_of_ne hpop, htable, Bool.or_self, Bool.false_eq_true, if_false]
  refine (Dev.late_of_captures _ (Dev.cmd?_of_ready h) hcap).trans (congrArg Dev.settle ?_)
  simp only [Dev.rehangOn]
  cases (e.modCmd r fun x => { x with work := (k.rehangSizes v).foldl (· + ·) 0 }).placeAll r (k.rehangSizes v) with
  | none => simp only [Option.elim]
  | some e' =>
    cases hy : e'.cmd? r with
    | none => simp only [Option.elim, hy]
    | some y => simp only [Option.elim, hy]

/-- Without room for its parts nothing changes. -/
theorem Dev.rehangOn_full (hroom : d.dramRoom dom ((k.rehangSizes v).foldl (· + ·) 0) = false) :
    d.rehangOn r dom v k = d.reject r .capacity := by
  rw [Dev.rehangOn, hroom, Bool.not_false, if_pos rfl]

/-- With its parts placed it begins. -/
theorem Dev.rehangOn_begins (hroom : d.dramRoom dom ((k.rehangSizes v).foldl (· + ·) 0) = true)
    (hplace : (d.modCmd r fun x => { x with work := (k.rehangSizes v).foldl (· + ·) 0 }).placeAll r (k.rehangSizes v) = some e)
    (hy : e.cmd? r = some y) :
    d.rehangOn r dom v k = e.begin r (y.rehangPlan dom v) 0 0 0 := by
  simp only [Dev.rehangOn, hroom, hplace, hy, Option.elim_some, Bool.not_true, Bool.false_eq_true, if_false]

end

/-- Settles O46: each verb begins, and each mode of PUBLISH_TABLE ends, as its clause says. That PUBLISH_STAGED of a version that is not
STAGED is BAD_OPERAND is log 30's, and how the members learn of a table and a command goes to its table's home log 113's. -/
theorem tableVerbsComplete : Obligations.TableVerbsComplete := by
  intro s r c k j y e e' v tbl t
  refine ⟨fun hrun hv hcount hcap hhere => ⟨fun i hoff => ?badOffset,
      fun hoff => ⟨fun i x hi hx hfirst => ?badIndex, fun hall hremap => ?gather⟩⟩,
    fun hrun hv => ⟨fun hkind => ?serving, fun hkind hstate => ?otherState,
      fun hkind hstate hcap hhere hall => ⟨fun hroom => ?scatterFull, fun hroom => ?scatter⟩⟩,
    fun hrun hmode hfree hdesc hhome => ?create, fun hrun hmode hdesc hhome => ?createAway,
    fun hrun hmode htbl hdesc hhome => ⟨fun hexp hroom => ?descriptor, fun hexp hfull => ?descriptorFull, fun hstale => ?descriptorStale⟩,
    fun hrun hmode htbl hexp hhome => ⟨fun hstaged => ?staged, fun hother => ?notStaged⟩,
    fun hrun hmode => ⟨fun hhome => ?wait, fun hhome => ?waitAway⟩,
    fun hlive hc hk hverb hmode hwaits hcut hlimit => ?limit,
    fun hrun hmode htbl hhome => ?delete,
    fun hrun hv hrows hpop htable hcap => ⟨fun hroom => ?rehangFull, fun hroom hplace hy => ?rehang⟩⟩
  case badOffset =>
    rw [← Dev.captures_line hcap, ← Dev.captures_pooling hcap] at hoff hhere
    exact hrun.next fun h => (devGather_of_arrays h hv hcount hcap hhere).trans (congrArg Dev.settle (Dev.gatherOn_badOffset hoff))
  case badIndex =>
    rw [← Dev.captures_line hcap, ← Dev.captures_pooling hcap] at hoff hhere
    rw [← Dev.captures_line hcap] at hi hfirst
    exact hrun.next fun h => (devGather_of_arrays h hv hcount hcap hhere).trans
      (congrArg Dev.settle (Dev.gatherOn_badIndex hoff (badIndex_eq_some hi hx hfirst)))
  case gather =>
    rw [← Dev.captures_line hcap, ← Dev.captures_pooling hcap] at hoff hhere hremap ⊢
    rw [← Dev.captures_line hcap] at hall
    exact hrun.next fun h => (devGather_of_arrays h hv hcount hcap hhere).trans
      (congrArg Dev.settle (Dev.gatherOn_begins (Dev.captures_cmd? (Dev.cmd?_of_ready h) hcap) hoff (badIndex_eq_none hall) hremap))
  case serving => exact hrun.next fun h => devScatterUpdate_serving h hv hkind
  case otherState => exact hrun.next fun h => devScatterUpdate_otherState h hv hkind hstate
  case scatterFull =>
    rw [← Dev.captures_line hcap] at hhere hall hroom
    exact hrun.next fun h => (devScatterUpdate_of_indices h hv hkind hstate hcap hhere (badIndex_eq_none hall)).trans
      (congrArg Dev.settle (Dev.scatterOn_full hroom))
  case scatter =>
    rw [← Dev.captures_line hcap] at hhere hall hroom ⊢
    exact hrun.next fun h => (devScatterUpdate_of_indices h hv hkind hstate hcap hhere (badIndex_eq_none hall)).trans
      (congrArg Dev.settle (Dev.scatterOn_begins hroom))
  case create => exact hrun.next fun h => (devCreate_atHome h hmode hdesc).trans (Dev.atHome_here hhome (Dev.createTable_free hfree))
  case createAway => exact hrun.next fun h => (devCreate_atHome h hmode hdesc).trans (Dev.atHome_away _ hhome)
  case descriptor =>
    exact hrun.next fun h => (devPublishDescriptor_atHome h hmode hdesc).trans (Dev.atHome_here hhome (Dev.publishDescriptor_room htbl hexp hroom))
  case descriptorFull =>
    exact hrun.next fun h => (devPublishDescriptor_atHome h hmode hdesc).trans (Dev.atHome_here hhome (Dev.publishDescriptor_full htbl hexp hfull))
  case descriptorStale =>
    exact hrun.next fun h => (devPublishDescriptor_atHome h hmode hdesc).trans (Dev.atHome_here hhome (Dev.publishDescriptor_stale htbl hstale))
  case staged =>
    exact hrun.next fun h => (devPublishStaged_atHome h hmode).trans (Dev.atHome_here hhome (Dev.publishStaged_staged htbl hexp hstaged))
  case notStaged =>
    exact hrun.next fun h => (devPublishStaged_atHome h hmode).trans (Dev.atHome_here hhome (Dev.publishStaged_other htbl hexp hother))
  case wait => exact hrun.next fun h => devWaitReclaim_here h hmode hhome
  case waitAway => exact hrun.next fun h => devWaitReclaim_away h hmode hhome
  case limit => exact whenLive_of_eq hlive (devWaitReclaimLimit_passed hc hk hverb hmode hwaits hcut hlimit)
  case delete => exact hrun.next fun h => (devTableDelete_atHome h hmode).trans (Dev.atHome_here hhome (Dev.deleteTable_known htbl))
  case rehangFull =>
    exact hrun.next fun h => (devRehang_of_counts h hv hrows hpop htable hcap).trans (congrArg Dev.settle (Dev.rehangOn_full hroom))
  case rehang =>
    exact hrun.next fun h => (devRehang_of_counts h hv hrows hpop htable hcap).trans
      (congrArg Dev.settle (Dev.rehangOn_begins hroom hplace hy))

end Sys2Proof.Machine
end

section
/-! PROOF. How the class 0x05 verbs begin (R227 to R250): SEARCH, INSERT, DELETE and COMPACT; how the output of a SEARCH is planned, and which
slots its scan steps leave out. -/

namespace Sys2Proof.Machine

/-! ### Lists cut into pieces -/

/-- Slices that follow each other join to what lies ahead of them. -/
theorem flatMap_slice_range {bs : List Byte} {n : Nat} (m : Nat) :
    (List.range m).flatMap (fun i => slice bs (i * n) (min n (bs.length - i * n))) = bs.take (m * n) := by
  induction m with
  | zero => simp
  | succ m ih =>
    have hlast : slice bs (m * n) (min n (bs.length - m * n)) = (bs.drop (m * n)).take n := by
      rw [slice, ← List.length_drop, ← List.take_eq_take_min]
    rw [List.range_succ, List.flatMap_append, ih, List.flatMap_singleton, hlast, Nat.succ_mul, List.take_add]

/-- The pieces of a byte list join to it. -/
theorem flatMap_slice_pieces (bs : List Byte) {n : Nat} (hn : 0 < n) :
    (pieces bs.length n).flatMap (fun p => slice bs p.1 p.2) = bs := by
  rw [pieces, List.flatMap_map, flatMap_slice_range]
  refine List.take_of_length_le ?_
  have hcover := Nat.lt_div_mul_add (a := bs.length + n - 1) hn
  rw [ceilDiv]
  omega

/-- A change of one element that keeps a part of it keeps that part of them all. -/
theorem map_modify_of_keeps {α β : Type} {f : α → α} {g : α → β} (h : ∀ x, g (f x) = g x) (xs : List α) (i : Nat) :
    (xs.modify i f).map g = xs.map g := by
  refine List.ext_getElem? fun m => ?_
  rw [List.getElem?_map, List.getElem?_modify, List.getElem?_map]
  cases xs[m]? with
  | none => rfl
  | some x => by_cases hm : i = m <;> simp [hm, h]

/-! ### SEARCH begins (R233 to R235) -/

/-- The ranges of a SEARCH whose sizes its index gives: its queries, and its records where they do not go to its host. -/
def Cmd.searchNeeds (k : Cmd) (x : Index) : List Need :=
  ⟨fieldAt k.line 32 8, fieldAt k.line 20 2 * (x.dim * (elemBits (fieldAt k.line 18 1) / 8)), false, 32⟩ ::
    if lineFlags k.line == 1 then []
    else [⟨fieldAt k.line 56 8, fieldAt k.line 20 2 * roundUp (32 + 16 * fieldAt k.line 22 2) 64, true, 56⟩]

/-- The run of a SEARCH as it begins: its first round is planned for every query, and nothing is read. -/
def Dev.searchRun (d : Dev) (dom : Nat) (k : Cmd) (x : Index) : SearchRun :=
  let qn := fieldAt k.line 20 2
  { stage := 0, key := d.sumKey dom k (k.spans dom (fieldAt k.line 32 8) (qn * (x.dim * (elemBits (fieldAt k.line 18 1) / 8))))
    queries := List.replicate qn [], orders := [], rounds := List.replicate qn [(0, fieldAt k.line 24 2)], snaps := [], dead := [], done := false }

/-- A SEARCH within its index's lists and the tables' room begins with the load of the codebook. -/
theorem devSearch_begins {d e : Dev} {r : SlotRef} {c : Context} {k j : Cmd} {x : Index} (h : d.ready r .search = some (c, k))
    (hx : d.index? c.domain (fieldAt k.line 16 2) = some x) (hnp : fieldAt k.line 24 2 ≤ x.lists.length) (hmp : fieldAt k.line 26 2 ≤ x.lists.length)
    (hroom : fieldAt k.line 20 2 * ceilDiv x.subspaces 32 * x.c * 2 ≤ 196608) (hcap : d.captures r c k (k.searchNeeds x) e j) :
    devSearch r d = ((e.modCmd r fun y => { y with search := some (e.searchRun c.domain j x) }).begin r
      (x.loadSteps (e.searchGalleries c.domain (lineVerb k.line) r.ctx)) 0 0 0).settle := by
  rw [devSearch, Dev.onReady_of_ready _ h]
  simp only [hx, Nat.not_lt.2 hnp, Nat.not_lt.2 hmp, Nat.not_lt.2 hroom, decide_false, Bool.or_self, Bool.false_eq_true, if_false]
  refine (Dev.late_of_captures _ (Dev.cmd?_of_ready h) hcap).trans (congrArg Dev.settle ?_)
  simp only [Dev.searchRun, Dev.captures_line hcap]

/-! ### The output of a SEARCH (R239, R240, R250 to R252) -/

section
variable {d : Dev} {r : SlotRef} {dom : Nat} {k : Cmd} {x : Index} {run : SearchRun}

/-- A SEARCH that is over: its run at the output stage. -/
def SearchRun.ended (run : SearchRun) : SearchRun := { run with stage := 8, done := true }

/-- The device once the numeric events of a SEARCH's results are counted (R144). -/
def Dev.searchCounted (d : Dev) (dom : Nat) (fs : List QueryFound) : Dev :=
  d.countEvents dom (fs.foldl (fun a f => a.plus f.events) .none)

/-- Without a lost record a SEARCH plans its records and sets its words: short, scanned and probed. -/
theorem Dev.searchEnd_found (h : ∀ f ∈ d.foundAll x k.line run, f.lost = none) :
    d.searchEnd r dom k x run =
      (d.searchCounted dom (d.foundAll x k.line run)).modCmd r fun y => { y with
        search := some run.ended
        plan := k.searchOut dom (d.foundAll x k.line run)
        w0 := BitVec.ofNat 64 ((d.foundAll x k.line run).filter fun f => decide (f.passing.length < fieldAt k.line 22 2)).length
        w1 := BitVec.ofNat 64 (((d.foundAll x k.line run).map (·.scanned)).foldl (· + ·) 0)
        w2 := BitVec.ofNat 64 (((d.foundAll x k.line run).map (·.probes)).foldl (· + ·) 0) } := by
  have hnone : (d.foundAll x k.line run).findSome? (·.lost) = none := List.findSome?_eq_none_iff.2 h
  simp only [Dev.searchEnd, hnone, Dev.searchCounted, SearchRun.ended]

/-- A lost record ends a SEARCH with its list and slot, and no output. -/
theorem Dev.searchEnd_lost {list slot : Nat} (h : (d.foundAll x k.line run).findSome? (·.lost) = some (list, slot)) :
    d.searchEnd r dom k x run =
      (d.searchCounted dom (d.foundAll x k.line run)).modCmd r fun y => { y with
        search := some run.ended
        lost := some (BitVec.ofNat 64 list, BitVec.ofNat 64 slot, BitVec.ofNat 64 (2 ^ 63 + fieldAt k.line 16 2)) } := by
  simp only [Dev.searchEnd, h, Dev.searchCounted, SearchRun.ended]

/-- What a piece of a SEARCH's records is for its host: a write of the piece, or nothing where the records go to store. -/
def Cmd.hostPiece (k : Cmd) (recs : List Byte) (p : Nat × Nat) : List HostWrite :=
  if lineFlags k.line == 1 then [{ addr := fieldAt k.line 56 8 + p.1, bytes := slice recs p.1 p.2 }] else []

/-- What a piece of a SEARCH's records is for the store: its writes, or none where the records go to the host. -/
def Cmd.storePiece (k : Cmd) (dom : Nat) (recs : List Byte) (p : Nat × Nat) : List MemWrite :=
  if lineFlags k.line == 1 then [] else spread (k.spans dom (fieldAt k.line 56 8 + p.1) p.2) (slice recs p.1 p.2)

/-- The step that gives out one piece of a SEARCH's records. -/
def Cmd.outStep (k : Cmd) (dom : Nat) (recs : List Byte) (p : Nat × Nat) : Step :=
  { Step.nop with kind := .gallery, free := true, host := k.hostPiece recs p, writes := k.storePiece dom recs p }

/-- The output steps of a SEARCH give out its records piece by piece; that the last one counts and may raise changes only its effects, its
status and whether its engine is free. -/
theorem Cmd.map_searchOut {β : Type} {g : Step → β} (hg : ∀ (st : Step) free effects raises, g { st with free, effects, raises } = g st) (k : Cmd)
    (dom : Nat) (fs : List QueryFound) :
    (k.searchOut dom fs).map g = (pieces (searchRecords k.line fs).length 65536).map fun p => g (k.outStep dom (searchRecords k.line fs) p) := by
  rw [Cmd.searchOut]
  refine (map_modify_of_keeps (fun st => hg st _ _ _) _ _).trans ?_
  rw [List.map_map]
  refine List.map_congr_left fun p _ => congrArg g ?_
  unfold Cmd.outStep Cmd.hostPiece Cmd.storePiece
  split <;> rfl

/-- Each output step of a SEARCH gives out one piece of its records, to its host or to the store. -/
theorem Cmd.mem_searchOut {fs : List QueryFound} {st : Step} (h : st ∈ k.searchOut dom fs) :
    ∃ p, st.host = k.hostPiece (searchRecords k.line fs) p ∧ st.writes = k.storePiece dom (searchRecords k.line fs) p := by
  have hmem := List.mem_map_of_mem (f := fun st => (st.host, st.writes)) h
  rw [Cmd.map_searchOut fun _ _ _ _ => rfl] at hmem
  obtain ⟨p, -, hp⟩ := List.mem_map.1 hmem
  obtain ⟨hhost, hwrites⟩ := Prod.mk.inj hp
  exact ⟨p, hhost.symm, hwrites.symm⟩

/-- The steps of a SEARCH to its host carry its records, whole and in order, and write nothing. -/
theorem Cmd.searchOut_toHost (dom : Nat) (fs : List QueryFound) (hhost : (lineFlags k.line == 1) = true) :
    ((k.searchOut dom fs).flatMap fun st => st.host.flatMap (·.bytes)) = searchRecords k.line fs ∧ ∀ st ∈ k.searchOut dom fs, st.writes = [] := by
  have hpiece : ∀ recs p, k.hostPiece recs p = [{ addr := fieldAt k.line 56 8 + p.1, bytes := slice recs p.1 p.2 }] := fun _ _ => if_pos hhost
  constructor
  · calc (k.searchOut dom fs).flatMap (fun st => st.host.flatMap (·.bytes))
        = ((k.searchOut dom fs).map fun st => st.host.flatMap (·.bytes)).flatten := List.flatMap_def ..
      _ = (pieces (searchRecords k.line fs).length 65536).flatMap fun p => slice (searchRecords k.line fs) p.1 p.2 := by
        rw [Cmd.map_searchOut fun _ _ _ _ => rfl, List.flatMap_def]
        simp only [Cmd.outStep, hpiece, List.flatMap_singleton]
      _ = searchRecords k.line fs := flatMap_slice_pieces _ (by decide)
  · intro st hst
    obtain ⟨p, -, hwrites⟩ := Cmd.mem_searchOut hst
    rw [hwrites, Cmd.storePiece, if_pos hhost]

/-- The steps of a SEARCH to the store send its host nothing. -/
theorem Cmd.searchOut_toStore (dom : Nat) (fs : List QueryFound) (hhost : (lineFlags k.line == 1) = false) :
    ∀ st ∈ k.searchOut dom fs, st.host = [] := by
  intro st hst
  obtain ⟨p, hpiece, -⟩ := Cmd.mem_searchOut hst
  rw [hpiece, Cmd.hostPiece, hhost, if_neg Bool.false_ne_true]

end

/-! ### Slots that a scan step finds tombstoned (R236, R242, R244) -/

/-- The tombstoned slots of a snapshot among those that a scan step reads. -/
def Index.tombSlots (x : Index) (sn : ListSnap) (lo n : Nat) : List Nat :=
  ((List.range n).map (· + lo)).filter fun i => ((x.body sn).2[i]?).any (·.tomb)

section
variable {x : Index} {run : SearchRun} {sn : ListSnap}

/-- A tombstoned slot in a scan step's reach is among those that it finds. -/
theorem Index.mem_tombSlots {lo n b : Nat} (htomb : ((x.body sn).2[b]?).any (·.tomb) = true) (hlo : lo ≤ b) (hhi : b < lo + n) :
    b ∈ x.tombSlots sn lo n :=
  List.mem_filter.2 ⟨List.mem_map.2 ⟨b - lo, List.mem_range.2 (by omega), Nat.sub_add_cancel hlo⟩, htomb⟩

/-- A scan step that starts adds the tombstoned slots of its list's snapshot to each of its queries. -/
theorem Index.startScan_of_snap {list : Nat} (qs : List Nat) (lo n : Nat) (h : run.snaps.find? (·.list == list) = some sn) :
    x.startScan run qs list lo n = { run with dead := run.dead ++ qs.flatMap fun q => (x.tombSlots sn lo n).map fun i => (q, list, i) } := by
  simp only [Index.startScan, h, Index.tombSlots]

/-- A scan step that starts leaves its command but for its run. -/
theorem Dev.cmd?_readTombs {d : Dev} {w : Ready} {k : Cmd} {dom list lo n : Nat} {qs : List Nat}
    (hscan : w.step.scan? = some (dom, x.id, qs, list, lo, n)) (hk : d.cmd? w.r = some k) (hrun : k.search = some run)
    (hx : d.index? dom x.id = some x) :
    (d.readTombs w).cmd? w.r = some { k with search := some (x.startScan run qs list lo n) } := by
  unfold Dev.index? at hx
  simp only [Dev.readTombs, hscan, hx, Dev.cmd?_modCmd, hk, Option.map_some, hrun]

/-- A slot found tombstoned for a query is no candidate of it. -/
theorem Index.slot_ne_of_mem_found {l : List Byte} {i n b : Nat} {tabs : List (List W32)} {t : Candidate} (hdead : (i, n, b) ∈ run.dead)
    (ht : t ∈ x.found run l tabs i n) : t.slot ≠ b := by
  rintro rfl
  obtain ⟨s, -, hs⟩ := List.mem_filterMap.1 ht
  obtain ⟨e, -, he⟩ := Option.bind_eq_some_iff.1 hs
  split at he
  case isTrue hpass =>
    have hslot : s = t.slot := congrArg Candidate.slot (Option.some.inj he)
    simp [hslot, hdead] at hpass
  case isFalse => exact absurd he (Option.some_ne_none t).symm

end

/-! ### INSERT (R246, R247) -/

/-- INSERT into an index begins with the steps that encode its items. -/
theorem devInsert_begins {d e : Dev} {r : SlotRef} {c : Context} {k j : Cmd} {x : Index} (h : d.ready r .insert = some (c, k))
    (hplain : lineExt k.line = false) (hx : d.index? c.domain (fieldAt (insertOps k) 0 2) = some x)
    (hcap : d.captures r c k [⟨fieldAt (insertOps k) 8 8,
      fieldAt (insertOps k) 4 4 * (x.dim * (elemBits (fieldAt (insertOps k) 2 1) / 8)), false, 24⟩] e j) :
    devInsert r d = (e.begin r (j.insertPlan c.domain x) 0 0 (BitVec.allOnes 64)).settle := by
  rw [devInsert, Dev.onReady_of_ready _ h]
  simp only [hplain, Bool.false_eq_true, if_false, hx]
  exact Dev.late_of_captures _ (Dev.cmd?_of_ready h) hcap

/-- An INSERT without INIT has its operands in its line. -/
theorem insertOps_of_plain {k : Cmd} (h : lineExt k.line = false) : insertOps k = slice k.line 16 48 := by
  rw [insertOps, h, if_neg Bool.false_ne_true]

/-! ### DELETE and COMPACT of an index (R244, R245, R248, R249) -/

section
variable {d : Dev} {r : SlotRef} {c : Context} {k : Cmd} {x : Index} {mode : Nat} (f : Context → Cmd → Index → Dev)

/-- A DELETE of a known index goes on. -/
theorem Dev.onDelete_of_known (h : d.ready r .delete = some (c, k)) (hmode : fieldAt k.line 18 1 = mode)
    (hx : d.index? c.domain (fieldAt k.line 16 2) = some x) (hknown : x.unknown = false) : d.onDelete r mode f = f c k x := by
  rw [Dev.onDelete, Dev.onReady_of_ready _ h, if_pos hmode]
  simp only [hx, hknown, Bool.false_eq_true, if_false]

/-- A DELETE of a name that no index has, or that is unknown since an earlier DELETE, is refused. -/
theorem Dev.onDelete_of_unknown (h : d.ready r .delete = some (c, k)) (hmode : fieldAt k.line 18 1 = mode)
    (hgone : d.index? c.domain (fieldAt k.line 16 2) = none ∨
      (d.index? c.domain (fieldAt k.line 16 2) = some x ∧ x.unknown = true)) : d.onDelete r mode f = d.reject r .badOperand := by
  rw [Dev.onDelete, Dev.onReady_of_ready _ h, if_pos hmode]
  rcases hgone with hnone | ⟨hx, hunknown⟩
  · simp only [hnone]
  · simp only [hx, hunknown, if_true]

/-- The steps of a DELETE ITEMS mark their identifiers, piece by piece. -/
theorem Cmd.deleteSteps_effects (k : Cmd) (dom : Nat) (x : Index) :
    (k.deleteSteps dom x).map (·.effects) = (pieces (fieldAt k.line 20 4) 4096).map fun p => [.deleteItems dom x.id p.1 p.2] :=
  List.map_map

/-- The steps of a DELETE ITEMS neither write nor raise a status of their own. -/
theorem Cmd.mem_deleteSteps {dom : Nat} {st : Step} (h : st ∈ k.deleteSteps dom x) : st.writes = [] ∧ st.raises = none := by
  obtain ⟨p, -, rfl⟩ := List.mem_map.1 h
  exact ⟨rfl, rfl⟩

/-- A COMPACT of an index goes on. -/
theorem Dev.onCompact_of_index (h : d.ready r .compact = some (c, k)) (hmode : fieldAt k.line 18 1 = mode)
    (hx : d.index? c.domain (fieldAt k.line 16 2) = some x) : d.onCompact r mode f = f c k x := by
  rw [Dev.onCompact, Dev.onReady_of_ready _ h, if_pos hmode]
  simp only [hx]

end

/-! ### COMPACT LISTS (R245, R249) -/

/-- The number of lists that a COMPACT LISTS names: 0 stands for all from its first on. -/
def Cmd.compactCount (k : Cmd) (x : Index) : Nat :=
  if fieldAt k.line 24 4 = 0 then x.lists.length - fieldAt k.line 20 4 else fieldAt k.line 24 4

/-- The lists that a COMPACT LISTS rewrites: those named that hold tombstones. -/
def Cmd.compactNamed (k : Cmd) (x : Index) : List Nat :=
  ((List.range (k.compactCount x)).map (· + fieldAt k.line 20 4)).filter fun i => (x.lists[i]?).any fun y => y.entries.any (·.tomb)

section
variable {d : Dev} {r : SlotRef} {c : Context} {k : Cmd} {x : Index} (h : d.ready r .compact = some (c, k))
  (hx : d.index? c.domain (fieldAt k.line 16 2) = some x)
include h hx

/-- COMPACT LISTS of lists that there are begins with the rewrite of those that hold tombstones. -/
theorem devCompactLists_named (hmode : fieldAt k.line 18 1 = 1) (hfirst : fieldAt k.line 20 4 < x.lists.length)
    (hlast : fieldAt k.line 20 4 + k.compactCount x ≤ x.lists.length) :
    devCompactLists r d = d.begin r ((k.compactNamed x).flatMap fun i => x.rewriteSteps i false) 0 0 0 := by
  rw [devCompactLists, Dev.onCompact_of_index _ h hmode hx]
  unfold Cmd.compactCount at hlast
  simp only [Nat.not_le.2 hfirst, Nat.not_lt.2 hlast, decide_false, Bool.or_self, Bool.false_eq_true, if_false]
  rfl

/-- COMPACT LISTS of lists that there are not is refused. -/
theorem devCompactLists_outOfRange (hmode : fieldAt k.line 18 1 = 1)
    (hout : x.lists.length ≤ fieldAt k.line 20 4 ∨ x.lists.length < fieldAt k.line 20 4 + k.compactCount x) :
    devCompactLists r d = d.reject r .badOperand := by
  rw [devCompactLists, Dev.onCompact_of_index _ h hmode hx]
  refine if_pos (Bool.or_eq_true_iff.2 (hout.imp ?_ ?_)) <;> exact decide_eq_true

end

/-- Settles O47: each verb begins as its clause says, a SEARCH ends with its records or with DATA_LOST, and a slot that a scan step finds
tombstoned is no candidate of the step's queries. -/
theorem indexVerbsComplete : Obligations.IndexVerbsComplete := by
  intro s r c k j e x run sn w group i b lo m
  refine ⟨fun hrun hx hnp hmp hroom hcap => ?search, fun hgood => ⟨?found, Cmd.searchOut_toHost _ _, Cmd.searchOut_toStore _ _⟩,
    fun list slot hlost => ?lost, fun hscan hk hrun hx hsnap htomb hlo hhi hi => ?scan, fun hdead tabs t ht => ?candidate,
    fun hrun hplain hx hcap => ?insert, fun hrun hmode hx hknown => ⟨?items, ?itemsEffects, ?itemsFrame⟩,
    fun hrun hmode hx hknown => ?index, fun hrun hgone => ⟨fun hmode => ?itemsUnknown, fun hmode => ?indexUnknown⟩,
    fun hrun hmode hx => ⟨fun hfirst hlast => ?lists, fun hout => ?listsOutOfRange⟩,
    fun hrun hmode hx => ?sealed, fun hrun hmode hx => ?full⟩
  case search =>
    simp only [← Dev.captures_line hcap]
    refine hrun.next fun h => (devSearch_begins h hx hnp hmp hroom hcap).trans ?_
    simp only [← Dev.captures_line hcap]
    rfl
  case found => exact Dev.searchEnd_found hgood
  case lost => exact Dev.searchEnd_lost hlost
  case scan =>
    refine ⟨_, group.flatMap fun q => (x.tombSlots sn lo m).map fun i => (q, sn.list, i), Dev.cmd?_readTombs hscan hk hrun hx, ?_⟩
    rw [Index.startScan_of_snap _ _ _ hsnap]
    exact ⟨rfl, rfl, rfl, List.mem_flatMap.2 ⟨i, hi, List.mem_map_of_mem (Index.mem_tombSlots htomb hlo hhi)⟩⟩
  case candidate => exact Index.slot_ne_of_mem_found hdead ht
  case insert =>
    rw [← insertOps_of_plain hplain] at hx hcap
    exact hrun.next fun h => devInsert_begins h hplain hx hcap
  case items => exact hrun.next fun h => Dev.onDelete_of_known _ h hmode hx hknown
  case itemsEffects => exact k.deleteSteps_effects c.domain x
  case itemsFrame => exact fun st hst => Cmd.mem_deleteSteps hst
  case index => exact hrun.next fun h => Dev.onDelete_of_known _ h hmode hx hknown
  case itemsUnknown => exact hrun.next fun h => Dev.onDelete_of_unknown _ h hmode hgone
  case indexUnknown => exact hrun.next fun h => Dev.onDelete_of_unknown _ h hmode hgone
  case lists => exact hrun.next fun h => devCompactLists_named h hx hmode hfirst hlast
  case listsOutOfRange => exact hrun.next fun h => devCompactLists_outOfRange h hx hmode hout
  case sealed => exact hrun.next fun h => Dev.onCompact_of_index _ h hmode hx
  case full => exact hrun.next fun h => Dev.onCompact_of_index _ h hmode hx

end Sys2Proof.Machine
end

section
/-! PROOF. How STREAM and its BUILD_SHADOW begin (R277, R278, R282), and what the deadline and the wait bound of a layer do (R280). -/

namespace Sys2Proof.Machine

/-! ### STREAM begins (R277, R278, R282) -/

/-- A STREAM starts as many layers as its descriptor names. -/
theorem Cmd.length_newLayers (k : Cmd) (now n : Nat) : (k.newLayers now n).length = n := by
  rw [Cmd.newLayers, List.length_map, List.length_range]

/-- A layer starts PENDING, at the time the STREAM begins, with no byte written. -/
theorem Cmd.mem_newLayers {k : Cmd} {now n : Nat} {x : StreamLayer} (h : x ∈ k.newLayers now n) :
    x.state = .pending ∧ x.time = now ∧ x.written = 0 := by
  obtain ⟨i, -, rfl⟩ := List.mem_map.1 h
  exact ⟨rfl, rfl, rfl⟩

/-- The step that puts out the first status words of a STREAM: to its host, or to the store. -/
def Cmd.firstWords (k : Cmd) (dom n : Nat) (words : List Byte) : Step :=
  if bit (lineFlags k.line) 0 then { Step.nop with host := [{ addr := fieldAt k.desc 8 8, bytes := words }] }
  else { Step.nop with writes := spread (k.spans dom (fieldAt k.desc 8 8) (16 * n)) words }

/-- To its host, a STREAM's first words are one host write and no write to the store. -/
theorem Cmd.firstWords_toHost {k : Cmd} (dom n : Nat) (words : List Byte) (hhost : bit (lineFlags k.line) 0 = true) :
    (k.firstWords dom n words).writes = [] ∧ (k.firstWords dom n words).host = [{ addr := fieldAt k.desc 8 8, bytes := words }] := by
  rw [Cmd.firstWords, if_pos hhost]
  exact ⟨rfl, rfl⟩

/-- To the store, a STREAM's first words fill its status array and send the host nothing. -/
theorem Cmd.firstWords_toStore {k : Cmd} (dom n : Nat) (words : List Byte) (hhost : bit (lineFlags k.line) 0 = false) :
    (k.firstWords dom n words).host = [] ∧
      (k.firstWords dom n words).writes = spread (k.spans dom (fieldAt k.desc 8 8) (16 * n)) words := by
  rw [Cmd.firstWords, hhost, if_neg Bool.false_ne_true]
  exact ⟨rfl, rfl⟩

/-- The steps of a layer's shadow write nothing themselves and run on galleries. -/
theorem Cmd.mem_shadowSteps {k : Cmd} {dom i : Nat} {st : Step} (h : st ∈ k.shadowSteps dom i) : st.writes = [] ∧ st.kind = .gallery := by
  obtain ⟨p, -, rfl⟩ := List.mem_map.1 h
  exact ⟨rfl, rfl⟩

/-- A layer's shadow takes one step for each 64 KiB of its source. -/
theorem Cmd.length_shadowSteps (k : Cmd) (dom i : Nat) :
    (k.shadowSteps dom i).length = ceilDiv (streamEntry k.desc i).2.2.2.1 65536 :=
  List.length_map _ |>.trans (pieces_length _ _)

section
variable {d : Dev} {r : SlotRef} {c : Context} {k : Cmd} (h : d.ready r .stream = some (c, k))
include h

/-- A ready STREAM goes on in the form that its line asks for. -/
theorem Dev.onStream_of_ready {build : Bool} (f : Context → Cmd → Nat → Dev) (hbuild : bit (lineFlags k.line) 1 = build) :
    d.onStream r build f = f c k (fieldAt k.desc 0 2) := by
  rw [Dev.onStream, Dev.onReady_of_ready _ h, if_pos hbuild]

/-- A STREAM begins with its status words, then takes its layers in order. -/
theorem devStream_of_ready (hplain : bit (lineFlags k.line) 1 = false) :
    devStream r d = (d.modCmd r fun y => { y with layers := k.newLayers d.now (fieldAt k.desc 0 2) }).begin r
      (k.firstWords c.domain (fieldAt k.desc 0 2) ((k.newLayers d.now (fieldAt k.desc 0 2)).flatMap fun y => y.word k.t0) ::
        (List.range (fieldAt k.desc 0 2)).flatMap fun i => k.layerSteps c.domain i (bit (lineFlags k.line) 0)) 0 0 0 :=
  Dev.onStream_of_ready h _ hplain

/-- BUILD_SHADOW begins with the steps of each layer's shadow. -/
theorem devStreamBuildShadow_of_ready (hbuild : bit (lineFlags k.line) 1 = true) :
    devStreamBuildShadow r d = (d.modCmd r fun y => { y with layers := k.newLayers d.now (fieldAt k.desc 0 2) }).begin r
      ((List.range (fieldAt k.desc 0 2)).flatMap fun i => k.shadowSteps c.domain i) 0 0 0 :=
  Dev.onStream_of_ready h _ hbuild

end

/-! ### Deadlines and wait bounds (R280) -/

section
variable {d : Dev} {r : SlotRef} {k : Cmd} {x : StreamLayer} {i : Nat} {wait : Bool} (f : Dev)

/-- The time of a deadline under another policy than its own leaves the device. -/
theorem Dev.onLate_of_otherPolicy (hk : d.cmd? r = some k) (hpolicy : (fieldAt k.desc 2 1 == 1) ≠ wait) : d.onLate r i wait f = d := by
  simp only [Dev.onLate, hk]
  split
  · rfl
  · exact if_neg fun hall => hpolicy (by simpa using (Bool.and_eq_true_iff.1 hall).2)

/-- A PENDING layer of a running STREAM whose time is up is dealt with. -/
theorem Dev.onLate_of_due (hk : d.cmd? r = some k) (hx : k.layers[i]? = some x) (hverb : cmdVerb k = some .stream)
    (hplain : bit (lineFlags k.line) 1 = false) (hstarted : k.started = true) (hcut : k.cut = none) (hpending : x.state = .pending)
    (hpolicy : (fieldAt k.desc 2 1 == 1) = wait) (hdue : k.t0 + (x.deadline + if wait then fieldAt k.desc 4 4 else 0) * 1000 ≤ d.now) :
    d.onLate r i wait f = (f.conclude r).settle := by
  simp only [Dev.onLate, hk, hx]
  exact if_pos (by simp [hverb, hplain, hstarted, hcut, hpending, hpolicy, hdue])

end

/-- Settles O48: STREAM and BUILD_SHADOW begin as their lines say, and a layer's deadline or wait bound acts under its own policy alone. -/
theorem streamCommandsComplete : Obligations.StreamCommandsComplete := by
  intro s r c k x layer t
  refine ⟨fun hrun hplain => ⟨k.firstWords c.domain _ _, k.length_newLayers _ _, fun y hy => Cmd.mem_newLayers hy, Cmd.firstWords_toHost _ _ _,
      Cmd.firstWords_toStore _ _ _, hrun.next fun h => devStream_of_ready h hplain⟩,
    fun hrun hbuild => ⟨hrun.next fun h => devStreamBuildShadow_of_ready h hbuild, ?silent, ?count⟩,
    fun hlive hk hx hverb hplain hstarted hcut hpending => ⟨fun hpolicy hdue => ?deadline, fun hpolicy => ?transferGoesOn,
      fun hpolicy hdue => ?bound⟩⟩
  case silent =>
    intro st hst
    obtain ⟨i, -, hi⟩ := List.mem_flatMap.1 hst
    exact Cmd.mem_shadowSteps hi
  case count => simp only [List.length_flatMap, Cmd.length_shadowSteps]
  case deadline =>
    exact whenLive_of_eq hlive (Dev.onLate_of_due _ hk hx hverb hplain hstarted hcut hpending (beq_false_of_ne hpolicy) hdue)
  case transferGoesOn =>
    exact whenLive_of_eq hlive (Dev.onLate_of_otherPolicy (wait := false) _ hk (by simp [hpolicy]))
  case bound =>
    exact whenLive_of_eq hlive (Dev.onLate_of_due _ hk hx hverb hplain hstarted hcut hpending (beq_iff_eq.2 hpolicy) hdue)

end Sys2Proof.Machine
end

section
/-! PROOF. Flash programs, erases and reads, the patrol of blocks and the check of a domain's DRAM tier (R256 to R273): what each row does in
the case that its clause names. -/

namespace Sys2Proof.Machine

/-! ### What the Conservator's records leave alone -/

/-- The end of a media operation leaves the granules. -/
@[simp] theorem Dev.granule?_endMedia (d : Dev) (m : MediaOp) (g : Nat) : (d.endMedia m).granule? g = d.granule? g := rfl

/-- A change of a block's record leaves the granules. -/
@[simp] theorem Dev.modFlash_granules (d : Dev) (ch n : Nat) (f : FlashBlock → FlashBlock) : (d.modFlash ch n f).granules = d.granules := by
  unfold Dev.modFlash
  dsimp only
  split <;> rfl

/-- A change of a block's record leaves what granules are known. -/
@[simp] theorem Dev.granule?_modFlash (d : Dev) (ch n g : Nat) (f : FlashBlock → FlashBlock) : (d.modFlash ch n f).granule? g = d.granule? g := by
  rw [Dev.granule?, Dev.modFlash_granules, ← Dev.granule?]

/-- A change of a block's record leaves which granules lie on which block. -/
@[simp] theorem Dev.onBlockOf_modFlash (d : Dev) (ch n ch' blk : Nat) (f : FlashBlock → FlashBlock) :
    (d.modFlash ch n f).onBlockOf ch' blk = d.onBlockOf ch' blk := by
  rw [Dev.onBlockOf, Dev.modFlash_granules, ← Dev.onBlockOf]

/-- Noting that granules are read leaves TIER_CTRL. -/
@[simp] theorem Dev.tierField_touch (d : Dev) (gs : List Nat) (dom hi lo : Nat) : (d.touch gs).tierField dom hi lo = d.tierField dom hi lo := by
  unfold Dev.touch
  refine foldl_leaves (g := fun d : Dev => d.tierField dom hi lo) (fun e g => ?_) _ _
  split
  · rfl
  · split <;> rfl

/-- The operation found for a granule is of that granule. -/
theorem MediaOp.granule_of_found {ms : List MediaOp} {kind : MediaOpKind} {granule : Nat} {m : MediaOp}
    (h : ms.find? (fun x => x.kind == kind && x.granule == granule && x.onMedia) = some m) : m.granule = granule := by
  have hall := List.find?_some h
  simp only [Bool.and_eq_true, beq_iff_eq] at hall
  exact hall.1.2

/-! ### Programs (R259, R260, R267, R270) -/

section
variable {d : Dev} {m : MediaOp} {g : Granule}

/-- The failed program of a void result is not tried again. -/
theorem Dev.programFailed_void (hvoid : m.discard = true) : d.programFailed m = d.retireBlock m.channel m.block 1 := by
  simp only [Dev.programFailed, hvoid, if_true]

/-- The failed program of a copy that moves within the flash is queued again for another block. -/
theorem Dev.programFailed_move (hlive : m.discard = false) (hmove : m.domain = 256) :
    d.programFailed m = (d.retireBlock m.channel m.block 1).queueMedia
      (MediaOp.make .program m.granule m.channel 256 ((d.retireBlock m.channel m.block 1).blockFor m.channel) []) := by
  simp only [Dev.programFailed, hlive, Bool.false_eq_true, if_false, hmove, if_true]

/-- The failed program of a demotion begins the demotion again. -/
theorem Dev.programFailed_demotion (hlive : m.discard = false) (hdom : m.domain ≠ 256) :
    d.programFailed m = (d.retireBlock m.channel m.block 1).demote m.granule m.domain m.cmds := by
  simp only [Dev.programFailed, hlive, Bool.false_eq_true, if_false, hdom]

/-- A granule in DRAM alone is BOTH once its demotion is programmed, and its DRAM copy is droppable. -/
theorem Dev.programmed_ofDram (hg : d.granule? m.granule = some g) (hdram : g.residency = .dram) (hdom : m.domain ≠ 256) :
    d.programmed m =
      ((d.setGranule { g with channel := m.channel, block := m.block, residency := .both, dropping := true }).dropReady).settle := by
  simp only [Dev.programmed, hg, hdram, beq_self_eq_true, if_true, hdom, if_false]

/-- A granule that flash holds leaves its old block for the programmed one. -/
theorem Dev.programmed_ofFlash (hg : d.granule? m.granule = some g) (hflash : g.residency ≠ .dram) :
    d.programmed m = (d.setGranule { g with channel := m.channel, block := m.block }).eraseEmpty g.channel g.block := by
  simp only [Dev.programmed, hg, beq_false_of_ne hflash, Bool.false_eq_true, if_false]

end

/-- The device once a program has put a verified copy on its block. -/
def Dev.programGood (d : Dev) (m : MediaOp) : Dev := (d.endMedia m).modFlash m.channel m.block fun b => { b with erased := false }

/-- A verified program leaves what granules are known, until it is noted. -/
@[simp] theorem Dev.granule?_programGood (d : Dev) (m : MediaOp) (g : Nat) : (d.programGood m).granule? g = d.granule? g := by
  rw [Dev.programGood, Dev.granule?_modFlash, Dev.granule?_endMedia]

section
variable {d : Dev} {granule : Nat} {m : MediaOp}
  (hm : d.media.find? (fun x => x.kind == .program && x.granule == granule && x.onMedia) = some m)
include hm

/-- A program that fails, or whose copy does not verify, has failed. -/
theorem devFlashProgramDone_failed {ok verified : Bool} (hbad : ok = false ∨ verified = false) :
    devFlashProgramDone granule ok verified d = (d.endMedia m).programFailed m := by
  simp only [devFlashProgramDone, hm]
  exact if_pos (by simpa using hbad)

/-- The verified program of a void result leaves its block to be erased. -/
theorem devFlashProgramDone_void (hvoid : m.discard = true) :
    devFlashProgramDone granule true true d = (d.programGood m).eraseEmpty m.channel m.block := by
  simp only [devFlashProgramDone, hm, hvoid, Bool.not_true, Bool.or_self, Bool.false_eq_true, if_false, if_true, Dev.programGood]

/-- The verified program of a wanted result counts. -/
theorem devFlashProgramDone_verified (hlive : m.discard = false) :
    devFlashProgramDone granule true true d = (d.programGood m).programmed m := by
  simp only [devFlashProgramDone, hm, hlive, Bool.not_true, Bool.or_self, Bool.false_eq_true, if_false, Dev.programGood]

end

/-! ### Erases (R270) -/

section
variable {d : Dev} {channel block : Nat} {m : MediaOp}

/-- The device once a block's erase is counted and the wear shown. -/
def Dev.eraseCounted (d : Dev) (channel block : Nat) : Dev :=
  (d.modFlash channel block fun b => { b with cycles := b.cycles + 1, reads := 0, erased := true }).showWear

/-- Whether a block has had the cycles that it is rated for. -/
def Dev.wornOut (d : Dev) (channel block : Nat) : Bool :=
  d.flash.any fun b => (b.channel == channel && b.number == block) && decide (max 1 (Config.ratedCycles channel) ≤ b.cycles)

/-- A block within its rated cycles stays in use after an erase. -/
theorem Dev.erasedOnce_sound (h : (d.eraseCounted channel block).wornOut channel block = false) :
    d.erasedOnce channel block = d.eraseCounted channel block :=
  if_neg (Bool.eq_false_iff.1 h)

/-- A block that reaches its rated cycles is retired. -/
theorem Dev.erasedOnce_worn (h : (d.eraseCounted channel block).wornOut channel block = true) :
    d.erasedOnce channel block = (d.eraseCounted channel block).retireBlock channel block 4 :=
  if_pos h

/-- The result of an erase counts it, or retires its block. -/
theorem devFlashEraseDone_of_running (ok : Bool)
    (hm : d.media.find? (fun x => x.kind == .erase && x.channel == channel && x.block == block && x.onMedia) = some m) :
    devFlashEraseDone channel block ok d =
      if ok then (d.endMedia m).erasedOnce channel block else (d.endMedia m).retireBlock channel block 2 := by
  simp only [devFlashEraseDone, hm]

end

/-! ### Reads (R256 to R258, R262, R270) -/

section
variable {d : Dev} {granule t : Nat} {fails : List Nat} {m : MediaOp}

/-- A corrected read none of whose sectors is named has no failing sector. -/
theorem Dev.fillFails_of_whole (d : Dev) (hwhole : ∀ sec ∈ fails, sec / 2048 ≠ granule) : d.fillFails granule true fails = [] := by
  have hown : (fails.filter fun sec => sec / 2048 == granule) = [] :=
    List.filter_eq_nil_iff.2 fun sec hsec => by simpa using hwhole sec hsec
  simp only [Dev.fillFails, hown, Bool.not_true, Bool.and_false, Bool.false_eq_true, if_false]

/-- Where a domain does not promote, a filled granule is not retained. -/
theorem Dev.retain_of_noPromote {dom : Nat} (g : Nat) (h : d.tierField dom 1 1 = 0) : d.retain g dom = d := if_pos h

/-- A whole granule that one host waits for, and that is not promoted, gives the host its line. -/
theorem Dev.filled_oneHost {h : HostWait} (hcmds : m.cmds = []) (hfabs : m.fabs = []) (hhosts : m.hosts = [h]) (hlive : m.discard = false)
    (hpromote : d.tierField m.domain 1 1 = 0) :
    d.filled m [] = (d.touch [m.granule]).toPort h.a.port h.domain false 64 none
      (.memData h.a.port h.a.host h.a.dpa ((d.touch [m.granule]).lineData h.sa)) := by
  have hkept : (d.touch [m.granule]).retain m.granule m.domain = d.touch [m.granule] :=
    Dev.retain_of_noPromote _ ((Dev.tierField_touch ..).trans hpromote)
  simp only [Dev.filled, hcmds, hfabs, hhosts, hlive, Dev.climbFor, List.foldl_nil, List.foldl_cons, Bool.false_eq_true, if_false,
    hkept, ite_self, Dev.fillHost, List.filter_nil]

/-- The block of a read that could not be corrected is counted and retired, and its other granules move. -/
theorem Dev.blockRead_uncorrected (d : Dev) (m : MediaOp) :
    d.blockRead m false = (((d.modFlash m.channel m.block fun b => { b with reads := b.reads + 1 }).retireBlock m.channel m.block 3).relocateAll
      ((d.onBlockOf m.channel m.block).filter fun x => x.number != m.granule)) := by
  simp only [Dev.blockRead, Bool.not_false, if_true, Dev.onBlockOf_modFlash]

/-- The end of a read fills what waits for its granule; then its block is looked at, and what waits is served. -/
theorem devFlashReadDone_of_running (ok : Bool) (fails : List Nat)
    (hm : d.media.find? (fun x => x.kind == .read && x.granule == granule && x.onMedia) = some m) :
    devFlashReadDone granule ok fails t d =
      (((({ d.atTime t with draws := (d.atTime t).draws + 1 } : Dev).endMedia m).filled m ((d.atTime t).fillFails granule ok fails)).blockRead
        m ok).serveWaiting := by
  simp only [devFlashReadDone, Dev.atTime_media, hm]

end

/-! ### Patrol reads (R270, R452) -/

/-- The device once a block is patrol-read. -/
def Dev.patrolled (d : Dev) (channel block : Nat) : Dev :=
  d.modFlash channel block fun b => { b with reads := b.reads + 1, lastPatrol := d.now }

/-- A patrol read of a known block on a powered channel is counted; a marginal block is relocated, and so are the cold granules of a little
worn one. -/
theorem devFlashPatrol_of_powered {d : Dev} {channel block : Nat} {b : FlashBlock} (marginal : Bool) (t : Nat)
    (hpowered : (d.channels.any fun x => x.index == channel && x.usable && !x.off) = true)
    (hb : d.flash.find? (fun b => b.channel == channel && b.number == block) = some b) :
    devFlashPatrol channel block marginal t d =
      let p := (d.atTime t).patrolled channel block
      if marginal then p.relocate channel block
      else if p.underworn channel block then p.relocateAll ((p.onBlockOf channel block).filter fun x => decide (x.lastRead ≤ b.lastPatrol))
      else p := by
  simp only [devFlashPatrol, Dev.atTime_channels, hpowered, if_true, Dev.atTime_flash, hb, Option.map_some, Option.getD_some]
  rfl

/-! ### The check of a DRAM tier (R263) -/

section
variable {d : Dev} {domain t : Nat}

/-- A tier is left alone without its domain, its switch or its flash, and below its high mark. -/
theorem devTierCheck_left (h : d.domainRec domain = none ∨ d.tierField domain 0 0 = 0 ∨ d.flashOpen = false ∨
      (d.atTime t).dramUse domain * 100 < d.tierField domain 31 24 * d.dramQuota domain) :
    devTierCheck domain t d = d.atTime t := by
  unfold devTierCheck
  dsimp only
  split
  · rfl
  · rename_i hopen
    simp only [Bool.or_eq_true, decide_eq_true_eq, not_or, Option.isNone_iff_eq_none, Bool.not_eq_true', Bool.not_eq_false] at hopen
    obtain ⟨⟨hrec, hon⟩, hflash⟩ := hopen
    refine if_pos (decide_eq_true ?_)
    rcases h with h | h | h | h
    · exact absurd h hrec
    · exact absurd h hon
    · exact absurd (hflash.symm.trans h) (by decide)
    · exact h

/-- A tier at its high mark drops its copies that flash has too, then demotes the rest. -/
theorem devTierCheck_full (hrec : (d.domainRec domain).isSome = true) (hon : d.tierField domain 0 0 ≠ 0) (hflash : d.flashOpen = true)
    (hhigh : d.tierField domain 31 24 * d.dramQuota domain ≤ (d.atTime t).dramUse domain * 100) :
    devTierCheck domain t d = (((d.atTime t).dropBoth domain ((d.atTime t).eligibleGranules domain)).demoteDown domain
      ((d.atTime t).eligibleGranules domain)).settle := by
  have hnone : ((d.atTime t).domainRec domain).isNone = false := Option.isNone_eq_false_iff.2 hrec
  have hflash' : (d.atTime t).flashOpen = true := hflash
  have hon' : (d.atTime t).tierField domain 0 0 ≠ 0 := hon
  have hhigh' : ¬ (d.atTime t).dramUse domain * 100 < (d.atTime t).tierField domain 31 24 * (d.atTime t).dramQuota domain := Nat.not_lt.2 hhigh
  simp only [devTierCheck, hnone, hflash', hon', hhigh', decide_false, Bool.not_true, Bool.or_self, Bool.false_eq_true, if_false]

end

section
variable {d : Dev} {domain granule last : Nat} {g : Granule}

/-- With nothing eligible nothing is dropped. -/
@[simp] theorem Dev.dropBoth_nil (d : Dev) (dom : Nat) : d.dropBoth dom [] = d := rfl

/-- With nothing eligible nothing is demoted. -/
@[simp] theorem Dev.demoteDown_nil (d : Dev) (dom : Nat) : d.demoteDown dom [] = d := by
  simp only [Dev.demoteDown, List.filter_nil, List.take_nil, List.foldl_nil]

/-- A granule that is BOTH loses its DRAM copy while its domain uses too much. -/
theorem Dev.dropBoth_both (hg : d.granule? granule = some g) (hover : d.usageOver domain (d.tierField domain 23 16) 0 = true) :
    d.dropBoth domain [(granule, .both, last)] = (d.setGranule { g with dropping := true }).dropReady := by
  have hboth : [(granule, Residency.both, last)].filter (·.2.1 == .both) = [(granule, .both, last)] := rfl
  simp only [Dev.dropBoth, hboth, List.foldl_cons, List.foldl_nil, hover, if_true, hg]

/-- A granule that is BOTH is not demoted. -/
theorem Dev.demoteDown_both (d : Dev) (domain granule last : Nat) : d.demoteDown domain [(granule, .both, last)] = d := by
  have hnone : ∀ under : List Nat, [(granule, Residency.both, last)].filter (fun e => e.2.1 == .dram && !under.contains e.1) = [] :=
    fun _ => rfl
  simp only [Dev.demoteDown, hnone, List.take_nil, List.foldl_nil]

/-- A granule in DRAM alone has no copy to drop. -/
theorem Dev.dropBoth_dram (d : Dev) (domain granule last : Nat) : d.dropBoth domain [(granule, .dram, last)] = d := rfl

/-- A granule in DRAM alone is demoted while its domain uses too much, no program of it is under way and the flash has room. -/
theorem Dev.demoteDown_dram (hover : d.usageOver domain (d.tierField domain 23 16) 0 = true)
    (hroom : 65536 + d.flashUse domain ≤ d.flashQuota domain)
    (hidle : (d.media.filter fun x => x.kind == .program && x.domain == domain && !x.discard) = []) :
    d.demoteDown domain [(granule, .dram, last)] = d.demote granule domain [] := by
  obtain ⟨n, hn⟩ : ∃ n, (d.flashQuota domain - d.flashUse domain) / 65536 = n + 1 :=
    Nat.exists_eq_add_one.2 (Nat.div_pos (by omega) (by decide))
  have hdram : [(granule, Residency.dram, last)].filter (fun e => e.2.1 == .dram && !([] : List Nat).contains e.1) =
      [(granule, .dram, last)] := rfl
  simp only [Dev.demoteDown, hidle, List.map_nil, List.length_nil, Nat.sub_zero, Nat.mul_zero, hdram, hn, List.take_succ_cons, List.take_nil,
    List.foldl_cons, List.foldl_nil, hover, if_true]

end

/-- Settles O58: each row does what its clause says of the operation, block or tier that it finds; when a block is worn or little worn, and
which of its granules are cold, is the choice of log 42. -/
theorem mediaCommandsComplete : Obligations.MediaCommandsComplete := by
  intro s m g h b fails granule channel block domain last t verified ok
  refine ⟨fun ⟨hlive, hm⟩ => ?programs, fun ⟨hlive, hm⟩ => ?erases, fun ⟨hlive, hm⟩ => ?reads, fun hlive => whenLive_of_live hlive,
    fun hlive hpowered hb hlast => ?patrol, fun hlive => ⟨fun hleft => ?left, fun hrec hon hflash hhigh => ?full⟩⟩
  case programs =>
    obtain rfl := MediaOp.granule_of_found hm
    have hknown := fun n => s.dev.granule?_programGood m n
    refine ⟨fun hbad => ⟨fun hvoid => ?void, fun hwanted hmove => ?move, fun hwanted hdom => ?demotion⟩, fun hvoid => ?erased,
      fun hwanted hg => ⟨fun hdram hdom => ?ofDram, fun hres => ?ofFlash⟩⟩
    case void => exact whenLive_of_eq hlive ((devFlashProgramDone_failed hm hbad).trans (Dev.programFailed_void hvoid))
    case move => exact whenLive_of_eq hlive ((devFlashProgramDone_failed hm hbad).trans (Dev.programFailed_move hwanted hmove))
    case demotion => exact whenLive_of_eq hlive ((devFlashProgramDone_failed hm hbad).trans (Dev.programFailed_demotion hwanted hdom))
    case erased => exact whenLive_of_eq hlive (devFlashProgramDone_void hm hvoid)
    case ofDram =>
      exact whenLive_of_eq hlive ((devFlashProgramDone_verified hm hwanted).trans (Dev.programmed_ofDram ((hknown _).trans hg) hdram hdom))
    case ofFlash =>
      exact whenLive_of_eq hlive ((devFlashProgramDone_verified hm hwanted).trans (Dev.programmed_ofFlash ((hknown _).trans hg) hres))
  case erases =>
    have hdone := fun ok => devFlashEraseDone_of_running ok hm
    exact ⟨fun hsound => whenLive_of_eq hlive ((hdone true).trans (Dev.erasedOnce_sound hsound)),
      fun hworn => whenLive_of_eq hlive ((hdone true).trans (Dev.erasedOnce_worn hworn)), whenLive_of_eq hlive (hdone false)⟩
  case reads =>
    obtain rfl := MediaOp.granule_of_found hm
    refine ⟨whenLive_of_eq hlive (devFlashReadDone_of_running ok fails hm),
      fun hcmds hfabs hhosts hwanted hpromote hwhole => whenLive_of_eq hlive ?_, Dev.blockRead_uncorrected _ _⟩
    rw [devFlashReadDone_of_running true fails hm, Dev.fillFails_of_whole _ hwhole, Dev.filled_oneHost hcmds hfabs hhosts hwanted hpromote]
  case patrol =>
    subst hlast
    have hread := fun marginal => devFlashPatrol_of_powered marginal t hpowered hb
    exact ⟨fun hworn => whenLive_of_eq hlive ((hread false).trans (if_neg (Bool.eq_false_iff.1 hworn))),
      fun hunder => whenLive_of_eq hlive ((hread false).trans (if_pos hunder)), whenLive_of_eq hlive (hread true)⟩
  case left => exact whenLive_of_eq hlive (devTierCheck_left hleft)
  case full =>
    have hcheck := devTierCheck_full hrec hon hflash hhigh
    refine ⟨whenLive_of_eq hlive hcheck, fun hgs => ?nothing, fun hgs hg hover => ?dropped, fun hgs hover hroom hidle => ?demoted⟩
    case nothing => exact whenLive_of_eq hlive (by rw [hcheck, hgs, Dev.dropBoth_nil, Dev.demoteDown_nil])
    case dropped => exact whenLive_of_eq hlive (by rw [hcheck, hgs, Dev.dropBoth_both hg hover, Dev.demoteDown_both])
    case demoted => exact whenLive_of_eq hlive (by rw [hcheck, hgs, Dev.dropBoth_dram, Dev.demoteDown_dram hover hroom hidle])

end Sys2Proof.Machine
end

section
/-! PROOF. The store of a member: a write reads back and clears the poison of the sectors that it covers whole (R386, R387), and a zeroed
range reads zeros (R291). -/

namespace Sys2Proof.Machine

/-! ### Writes of bytes -/

section
variable {m : List Host.Cell} {a b : Nat} {bs : List Byte}

/-- A store in canonical form holds each byte of a write in its place. -/
theorem memGet_memWrite_at {i : Nat} (h : Memory.wf m = true) (hi : i < bs.length) : memGet (memWrite m a bs) (a + i) = bs[i] := by
  induction bs generalizing m a i with
  | nil => exact absurd hi (Nat.not_lt_zero i)
  | cons b bs ih =>
    rw [memWrite]
    cases i with
    | zero => exact (memGet_memWrite_other _ bs (.inl (Nat.lt_succ_self a))).trans (memGet_memSet_self a b h)
    | succ i =>
      rw [← Nat.succ_add_eq_add_succ a i]
      exact ih (memSet_wf a b h) (Nat.lt_of_succ_lt_succ hi)

/-- A store in canonical form reads back what is written. -/
theorem memRead_memWrite_same (h : Memory.wf m = true) : memRead (memWrite m a bs) a bs.length = bs := by
  refine List.ext_getElem (by rw [memRead, List.length_map, List.length_range]) fun i _ hi => ?_
  simp only [memRead, List.getElem_map, List.getElem_range]
  exact memGet_memWrite_at h hi

/-! ### Zeroed ranges (R291) -/

/-- A store whose cells are chosen by their addresses reads as before at the chosen ones, and 0 at the others. -/
theorem memGet_filter_address (p : Nat → Bool) : memGet (m.filter fun c => p c.1) b = if p b then memGet m b else 0 := by
  induction m with
  | nil => exact (ite_self 0).symm
  | cons c t ih =>
    obtain ⟨k, v⟩ := c
    by_cases hp : p k
    · rw [List.filter_cons, if_pos hp]
      by_cases hk : k = b
      · subst hk; simp only [memGet, hp, if_true]
      · simp only [memGet, hk, if_false, ih]
    · rw [List.filter_cons, if_neg hp, ih]
      by_cases hb : p b
      · have hk : k ≠ b := fun hk => hp (hk ▸ hb)
        simp only [memGet, hb, hk, if_true, if_false]
      · simp only [hb, Bool.false_eq_true, if_false]

/-- Inside a zeroed range a store reads 0. -/
theorem memGet_memZero_inside {n : Nat} (hlow : a ≤ b) (hhigh : b < a + n) : memGet (memZero m a n) b = 0 := by
  have hout : (decide (b < a) || decide (a + n ≤ b)) = false := by simp; omega
  exact (memGet_filter_address fun x => decide (x < a) || decide (a + n ≤ x)).trans (by rw [hout]; rfl)

/-- Zeroing a range leaves every address outside it. -/
theorem memGet_memZero_other {n : Nat} (h : b < a ∨ a + n ≤ b) : memGet (memZero m a n) b = memGet m b := by
  have hout : (decide (b < a) || decide (a + n ≤ b)) = true := by simpa using h
  exact (memGet_filter_address fun x => decide (x < a) || decide (a + n ≤ x)).trans (by rw [hout]; rfl)

end

/-! ### Poison (R386, R387) -/

section
variable {d : Dev} {a x : Nat}

/-- After a write the poisoned sectors are those that it did not clear. -/
theorem Dev.mem_write_poison {bs : List Byte} : x ∈ (d.write a bs).poison ↔ x ∈ d.poison ∧ d.clears a bs.length x = false := by
  simp only [Dev.write, List.mem_filter, Bool.not_eq_true']

/-- Outside the vitrine a write clears the sectors that it covers whole. -/
theorem Dev.clears_outside_vitrine {n : Nat} (h : d.inVitrine (x * 32) = false) :
    d.clears a n x = true ↔ a ≤ x * 32 ∧ x * 32 + 32 ≤ a + n := by
  simp only [Dev.clears, h, Bool.false_eq_true, if_false, Bool.and_eq_true, decide_eq_true_eq]

end

/-- Settles O31: writes and zeroed ranges by what each byte then reads, and poison by what a write clears. -/
theorem storeWriteReadsBack : Obligations.StoreWriteReadsBack := by
  refine ⟨fun d a bs => ⟨memRead_memWrite_same, fun b hb => memGet_memWrite_other _ _ hb, Dev.write_wf a bs, ?poison⟩,
    fun d a n i hi => ⟨memGet_memZero_inside (Nat.le_add_right a i) (Nat.add_lt_add_left hi a), Dev.zeroRange_wf a n,
      fun b hb => memGet_memZero_other hb⟩⟩
  case poison =>
    intro x hx hvit
    rw [Dev.mem_write_poison, ← Dev.clears_outside_vitrine hvit, Bool.not_eq_true]
    exact and_iff_right hx

end Sys2Proof.Machine
end

section
/-! PROOF. MAP and UNMAP (R289 to R292, R298 to R304, R306, R307): what each operation commits in the case that its statement names, and what
refuses an ALLOCATE. -/

namespace Sys2Proof.Machine

/-! ### A MAP with its turn, its loan and its handle -/

/-- A ready MAP of an operation takes that operation's meaning. -/
theorem Dev.onMap_of_ready {d : Dev} {r : SlotRef} {op : Nat} {c : Context} {k : Cmd} (f : Context → Cmd → Dev)
    (h : d.ready r .map = some (c, k)) (hop : fieldAt k.line 16 1 = op) : d.onMap r op f = f c k :=
  (Dev.onReady_of_ready _ h).trans (if_pos hop)

/-- A handle that names no open loan ends its command (R307). -/
theorem Dev.withLoan_of_none {d : Dev} {r : SlotRef} {c : Context} {k : Cmd} {handle : Nat} (f : Loan → Dev)
    (h : d.loan? c.domain handle = none) : d.withLoan r c k handle f = d.reject r .versionGone := by
  rw [Dev.withLoan, h]

/-- A host without authority over the loan gets no use of it (R306). -/
theorem Dev.withLoan_of_stranger {d : Dev} {r : SlotRef} {c : Context} {k : Cmd} {handle : Nat} {l : Loan} (f : Loan → Dev)
    (h : d.loan? c.domain handle = some l) (a : d.mayUse k.host l = false) : d.withLoan r c k handle f = d.reject r .accessDenied := by
  simp only [Dev.withLoan, h, a, Bool.false_eq_true, if_false]

/-- A number read from bytes has as many base-256 digits. -/
theorem leNat_lt (bs : List Byte) : leNat bs < 256 ^ bs.length := by
  induction bs with
  | nil => exact Nat.one_pos
  | cons b bs ih =>
    have hb : b.toNat < 256 := b.isLt
    rw [leNat, List.length_cons, Nat.pow_succ]
    omega

/-- A field of a line is below what its bytes can hold. -/
theorem fieldAt_lt (bs : List Byte) (off n : Nat) : fieldAt bs off n < 256 ^ n :=
  Nat.lt_of_lt_of_le (leNat_lt (slice bs off n)) (Nat.pow_le_pow_right (by decide) (List.length_take_le n _))

/-- A handle of four bytes is the number of its word. -/
theorem toNat_ofNat_fieldAt (bs : List Byte) (off : Nat) : (BitVec.ofNat 32 (fieldAt bs off 4)).toNat = fieldAt bs off 4 :=
  Nat.mod_eq_of_lt (fieldAt_lt bs off 4)

/-- A range with fewer aliases than it may carry has room for one more (R288). -/
theorem Dev.aliasFull_of_fewer {d : Dev} {sa len : Nat} (h : (d.extents.filter fun y => overlap y.sa y.len sa len).length < 65535) :
    d.aliasFull sa len = false :=
  decide_eq_false (Nat.not_le.2 h)

/-! ### ALLOCATE (R291) -/

section
variable {d : Dev} {r : SlotRef} {c : Context} {k : Cmd} {l : Loan} (h : d.ready r .map = some (c, k)) (hop : fieldAt k.line 16 1 = 1)
include h hop

/-- Over a mapped range it is refused. -/
theorem devMapAllocate_mapped (hmapped : (d.extents.any fun x => x.touches c.domain (fieldAt k.line 24 8) (fieldAt k.line 32 8)) = true) :
    devMapAllocate r d = d.reject r .badOperand := by
  rw [devMapAllocate, Dev.onMap_of_ready _ h hop]
  exact if_pos hmapped

section
variable (hfree : (d.extents.any fun x => x.touches c.domain (fieldAt k.line 24 8) (fieldAt k.line 32 8)) = false)
include hfree

/-- A handle of no open loan refuses it (R307). -/
theorem devMapAllocate_unloaned (hloan : d.loan? c.domain (fieldAt k.line 20 4) = none) :
    devMapAllocate r d = d.reject r .versionGone := by
  rw [devMapAllocate, Dev.onMap_of_ready _ h hop]
  exact (if_neg (Bool.eq_false_iff.1 hfree)).trans (Dev.withLoan_of_none _ hloan)

section
variable (hloan : d.loan? c.domain (fieldAt k.line 20 4) = some l)
include hloan

/-- A host without authority over the loan is refused (R306). -/
theorem devMapAllocate_stranger (hmay : d.mayUse k.host l = false) : devMapAllocate r d = d.reject r .accessDenied := by
  rw [devMapAllocate, Dev.onMap_of_ready _ h hop]
  exact (if_neg (Bool.eq_false_iff.1 hfree)).trans (Dev.withLoan_of_stranger _ hloan hmay)

variable (hmay : d.mayUse k.host l = true)
include hmay

/-- Without room in the quota or in the extent trees it is refused (R288). -/
theorem devMapAllocate_full (hroom : d.dramRoom c.domain (fieldAt k.line 32 8) = false ∨ d.treeRoom c.domain 1 = false) :
    devMapAllocate r d = d.reject r .capacity := by
  rw [devMapAllocate, Dev.onMap_of_ready _ h hop]
  refine (if_neg (Bool.eq_false_iff.1 hfree)).trans ((Dev.withLoan_of_mayUse _ hloan hmay).trans (if_pos ?_))
  simpa using hroom

/-- With room, one extent of zeroed store enters (R291). -/
theorem devMapAllocate_placed {sa : Nat} {e : Dev} (hdram : d.dramRoom c.domain (fieldAt k.line 32 8) = true)
    (htree : d.treeRoom c.domain 1 = true) (hplace : d.placeIn (d.placementOf c.domain) (fieldAt k.line 32 8) = (some sa, e)) :
    devMapAllocate r d = (((e.freshGen c.domain).2.zeroRange sa (fieldAt k.line 32 8)).setExtents ((e.freshGen c.domain).2.extents ++
      [{ domain := c.domain, cva := fieldAt k.line 24 8, len := fieldAt k.line 32 8, sa := sa, rights := Rights.ofCode (fieldAt k.line 17 1),
         gen := (e.freshGen c.domain).1, loan := l.handle, placement := e.placementOf c.domain }])).commitTurn r []
        (e.freshGen c.domain).1.toNat 1 := by
  rw [devMapAllocate, Dev.onMap_of_ready _ h hop]
  refine (if_neg (Bool.eq_false_iff.1 hfree)).trans ((Dev.withLoan_of_mayUse _ hloan hmay).trans ((if_neg ?_).trans ?_))
  · simp only [hdram, htree, Bool.not_true, Bool.or_self, Bool.false_eq_true, not_false_iff]
  · rw [hplace]
    rfl

end

end

end

/-! ### ALIAS (R291) -/

/-- Rights that an ALIAS may give to an extent with rights of its own, none of them of the vitrine: no wider ones (R291). -/
def Rights.Narrows (own want : Rights) : Prop := own ≠ .vitrine ∧ (own = .writable ∨ own = want ∨ want = .sealed)

/-- The extent that an ALIAS enters for one of its source: the same store, at the destination. -/
def Cmd.aliasExtent (k : Cmd) (dom : Nat) (gen : W32) (e : Extent) : Extent :=
  let src := fieldAt k.line 40 8
  { domain := dom, cva := fieldAt k.line 24 8 + (max e.cva src - src), len := min (e.cva + e.len) (src + fieldAt k.line 32 8) - max e.cva src
    sa := e.sa + (max e.cva src - e.cva), rights := Rights.ofCode (fieldAt k.line 17 1), gen := gen
    loan := if fieldAt k.line 20 4 = 0 then e.loan else BitVec.ofNat 32 (fieldAt k.line 20 4), placement := e.placement }

/-- An ALIAS enters one extent for each of its source, all of one fresh generation. -/
theorem Dev.aliasExtents_eq (d : Dev) (c : Context) (k : Cmd) (es : List Extent) :
    d.aliasExtents c k es = ((d.freshGen c.domain).2.setExtents ((d.freshGen c.domain).2.extents ++
      es.map (k.aliasExtent c.domain (d.freshGen c.domain).1)), (d.freshGen c.domain).1) := rfl

/-- The extents of its source that an ALIAS must seal first. -/
def Cmd.aliasSeals (k : Cmd) (es : List Extent) : List Extent :=
  if Rights.ofCode (fieldAt k.line 17 1) == .sealed then es.filter fun e => e.rights != .sealed else []

/-- What an ALIAS that nothing refuses does: it seals its source, or enters its extents. -/
def Dev.aliasOn (d : Dev) (r : SlotRef) (c : Context) (k : Cmd) (es : List Extent) : Dev :=
  if (k.aliasSeals es).isEmpty then (d.aliasExtents c k es).1.commitTurn r [] (d.aliasExtents c k es).2.toNat es.length
  else (d.sealExtents (k.aliasSeals es)).1.commitTurn r [] unaliased (d.sealExtents (k.aliasSeals es)).2.1

section
variable {d : Dev} {r : SlotRef} {c : Context} {k : Cmd} {l : Loan} {es : List Extent}

/-- An ALIAS under a loan of its own goes on, where its host may use the loan, its source is mapped with rights as wide as the new ones, and
the trees and the aliases of the source have room. -/
theorem devMapAlias_admitted (h : d.ready r .map = some (c, k)) (hop : fieldAt k.line 16 1 = 2)
    (hfree : (d.extents.any fun x => x.touches c.domain (fieldAt k.line 24 8) (fieldAt k.line 32 8)) = false)
    (hcover : cover d.extents c.domain (fieldAt k.line 40 8) (fieldAt k.line 32 8) = .ok es)
    (hrights : ∀ x ∈ es ++ d.touching c.domain (fieldAt k.line 40 8) (fieldAt k.line 32 8),
      x.rights.Narrows (Rights.ofCode (fieldAt k.line 17 1)))
    (hhandle : fieldAt k.line 20 4 ≠ 0) (hloan : d.loan? c.domain (fieldAt k.line 20 4) = some l) (hmay : d.mayUse k.host l = true)
    (htree : d.treeRoom c.domain es.length = true)
    (hroom : ∀ x ∈ es, (d.extents.filter fun y => overlap y.sa y.len x.sa x.len).length < 65535) :
    devMapAlias r d = d.aliasOn r c k es := by
  have hvit : es.any (·.rights == .vitrine) = false :=
    List.any_eq_false.2 fun x hx => by simpa using (hrights x (List.mem_append_left _ hx)).1
  have hfull : (es.any fun x => d.aliasFull x.sa x.len) = false :=
    List.any_eq_false.2 fun x hx => Bool.eq_false_iff.1 (Dev.aliasFull_of_fewer (hroom x hx))
  rw [devMapAlias, Dev.onMap_of_ready _ h hop]
  refine (if_neg ?narrow).trans ?_
  case narrow =>
    rw [hfree, Bool.false_or, Bool.not_eq_true]
    refine List.any_eq_false.2 fun x hx => ?_
    obtain ⟨hplain, hwant⟩ := hrights x (List.mem_append_right es hx)
    dsimp only
    generalize x.rights = own at hplain hwant ⊢
    generalize Rights.ofCode (fieldAt k.line 17 1) = want at hwant ⊢
    cases own with
    | writable => exact Bool.false_ne_true
    | vitrine => exact absurd rfl hplain
    | readOnly =>
      rcases hwant with hown | rfl | rfl
      · exact absurd hown nofun
      all_goals exact Bool.false_ne_true
    | sealed =>
      rcases hwant with hown | rfl | rfl
      · exact absurd hown nofun
      all_goals exact Bool.false_ne_true
  simp only [hcover, hvit, hhandle, toNat_ofNat_fieldAt, hloan, hmay, htree, hfull, List.any_cons, List.any_nil, Option.isNone_some,
    Option.any_some, Bool.not_true, Bool.or_self, Bool.false_eq_true, if_false]
  rw [Dev.aliasOn, Cmd.aliasSeals]
  cases (if (Rights.ofCode (fieldAt k.line 17 1) == .sealed) = true then es.filter fun e => e.rights != .sealed else []).isEmpty with
  | false => simp only [Bool.not_false, Bool.false_eq_true, if_true, if_false]
  | true => simp only [Bool.not_true, Bool.false_eq_true, if_true, if_false]

/-- With nothing to seal it enters its extents. -/
theorem Dev.aliasOn_enters (hnone : k.aliasSeals es = []) :
    d.aliasOn r c k es = (d.aliasExtents c k es).1.commitTurn r [] (d.aliasExtents c k es).2.toNat es.length := by
  rw [Dev.aliasOn, hnone, List.isEmpty_nil, if_pos rfl]

/-- Read-only extents seal nothing of their source. -/
theorem Cmd.aliasSeals_readOnly (hcode : fieldAt k.line 17 1 = 2) : k.aliasSeals es = [] := by
  rw [Cmd.aliasSeals, hcode]
  rfl

/-- Sealed extents seal what of their source is not sealed. -/
theorem Cmd.aliasSeals_sealed (hcode : fieldAt k.line 17 1 = 3) : k.aliasSeals es = es.filter fun e => e.rights != .sealed := by
  rw [Cmd.aliasSeals, hcode]
  rfl

/-- With something to seal it seals that. -/
theorem Dev.aliasOn_seals (hsome : k.aliasSeals es ≠ []) :
    d.aliasOn r c k es = (d.sealExtents (k.aliasSeals es)).1.commitTurn r [] unaliased (d.sealExtents (k.aliasSeals es)).2.1 :=
  if_neg (mt List.isEmpty_iff.1 hsome)

end

/-! ### SEAL, EXPOSE and VITRINE (R291, R304) -/

/-- The window that an EXPOSE opens (R291, R328). -/
def Cmd.exposed (k : Cmd) (dom : Nat) (es : List Extent) : Window :=
  { host := fieldAt k.line 48 2, dpa := regionBase (fieldAt k.line 19 1) + fieldAt k.line 40 8, domain := dom, cva := fieldAt k.line 24 8
    len := fieldAt k.line 32 8, region := fieldAt k.line 19 1, loan := (es.head?.map (·.loan)).getD 0, accepted := false }

/-- The Add Capacity event of a window (R303). -/
def Window.added (w : Window) : DcEvent :=
  { host := w.host, add := true, forced := false, dpa := w.dpa, len := w.len, domain := w.domain, loan := w.loan, answered := false
    retrieved := false }

section
variable {d : Dev} {r : SlotRef} {c : Context} {k : Cmd} {es : List Extent} (h : d.ready r .map = some (c, k))
include h

/-- Whole extents that are not of the vitrine are sealed. -/
theorem devMapSeal_whole (hop : fieldAt k.line 16 1 = 3) (hcover : cover d.extents c.domain (fieldAt k.line 24 8) (fieldAt k.line 32 8) = .ok es)
    (hwhole : ∀ x ∈ es ++ d.touching c.domain (fieldAt k.line 24 8) (fieldAt k.line 32 8),
      fieldAt k.line 24 8 ≤ x.cva ∧ x.cva + x.len ≤ fieldAt k.line 24 8 + fieldAt k.line 32 8 ∧ x.rights ≠ .vitrine) :
    devMapSeal r d = (d.sealExtents es).1.commitTurn r [] (d.sealExtents es).2.2.toNat (d.sealExtents es).2.1 := by
  have hcut : ((d.touching c.domain (fieldAt k.line 24 8) (fieldAt k.line 32 8)).any fun e =>
      decide (e.cva < fieldAt k.line 24 8) || decide (fieldAt k.line 24 8 + fieldAt k.line 32 8 < e.cva + e.len)) = false := by
    refine List.any_eq_false.2 fun x hx => ?_
    obtain ⟨hlow, hhigh, -⟩ := hwhole x (List.mem_append_right es hx)
    simp [hlow, hhigh]
  have hvit : es.any (·.rights == .vitrine) = false :=
    List.any_eq_false.2 fun x hx => by simpa using (hwhole x (List.mem_append_left _ hx)).2.2
  rw [devMapSeal, Dev.onMap_of_ready _ h hop]
  simp only [hcut, hcover, hvit, Bool.false_eq_true, if_false]

/-- A mapped range outside the vitrine is exposed to a host with the right to it, where its windows leave room (R291). -/
theorem devMapExpose_admitted (hop : fieldAt k.line 16 1 = 4)
    (hcover : cover d.extents c.domain (fieldAt k.line 24 8) (fieldAt k.line 32 8) = .ok es)
    (hplain : ∀ x ∈ d.touching c.domain (fieldAt k.line 24 8) (fieldAt k.line 32 8), x.rights ≠ .vitrine)
    (hregion : fieldAt k.line 19 1 < 6) (hoff : fieldAt k.line 40 8 + fieldAt k.line 32 8 ≤ 2 ^ 50)
    (hright : bit (d.rightsOf (fieldAt k.line 48 2) c.domain) 1 = true)
    (hapart : ∀ w ∈ d.windows, w.host = fieldAt k.line 48 2 →
      overlap w.dpa w.len (regionBase (fieldAt k.line 19 1) + fieldAt k.line 40 8) (fieldAt k.line 32 8) = false)
    (hview : (d.windows.filter (·.host == fieldAt k.line 48 2)).length < 1024) (hall : d.windows.length < 65536) :
    devMapExpose r d = ((({ d with windows := d.windows ++ [k.exposed c.domain es] } : Dev).postEvent
      (k.exposed c.domain es).added).eventIrqs).commitTurn r [] 0 0 := by
  have hlow : decide (6 ≤ fieldAt k.line 19 1) = false := decide_eq_false (Nat.not_le.2 hregion)
  have hkind : ((d.touching c.domain (fieldAt k.line 24 8) (fieldAt k.line 32 8)).any fun e => (e.rights == .vitrine) != false) = false :=
    List.any_eq_false.2 fun x hx => by simpa using hplain x hx
  have hmeets : (d.windows.any fun w => w.host == fieldAt k.line 48 2 &&
      overlap w.dpa w.len (regionBase (fieldAt k.line 19 1) + fieldAt k.line 40 8) (fieldAt k.line 32 8)) = false :=
    List.any_eq_false.2 fun w hw => by simpa using hapart w hw
  rw [devMapExpose, Dev.onMap_of_ready _ h hop]
  simp only [hright, decide_eq_false (Nat.not_lt.2 hoff), hlow, hkind, hmeets, hcover, decide_eq_false (Nat.not_le.2 hview),
    decide_eq_false (Nat.not_le.2 hall), Bool.not_true, Bool.or_self, Bool.false_and, Bool.false_eq_true, if_false]
  rfl

/-- A part of a region enters as one extent of the vitrine (R291). -/
theorem devMapVitrine_admitted {l : Loan} {v : VitrineRec} (hop : fieldAt k.line 16 1 = 5)
    (hrec : (d.image.bind fun i => i.vitrine.find? fun y => y.region == fieldAt k.line 19 1 && y.domain == c.domain) = some v)
    (hlen : fieldAt k.line 40 8 + fieldAt k.line 32 8 ≤ v.len)
    (hfree : (d.extents.any fun x => x.touches c.domain (fieldAt k.line 24 8) (fieldAt k.line 32 8)) = false)
    (hloan : d.loan? c.domain (fieldAt k.line 20 4) = some l) (hmay : d.mayUse k.host l = true) (htree : d.treeRoom c.domain 1 = true)
    (hroom : (d.extents.filter fun y => overlap y.sa y.len (v.base + fieldAt k.line 40 8) (fieldAt k.line 32 8)).length < 65535) :
    devMapVitrine r d = ((d.freshGen c.domain).2.setExtents ((d.freshGen c.domain).2.extents ++
      [{ domain := c.domain, cva := fieldAt k.line 24 8, len := fieldAt k.line 32 8, sa := v.base + fieldAt k.line 40 8, rights := .vitrine,
         gen := (d.freshGen c.domain).1, loan := l.handle, placement := (d.freshGen c.domain).2.placementOf c.domain }])).commitTurn r []
        (d.freshGen c.domain).1.toNat 1 := by
  rw [devMapVitrine, Dev.onMap_of_ready _ h hop]
  simp only [hrec, hfree, decide_eq_false (Nat.not_lt.2 hlen), Bool.or_self, Bool.false_eq_true, if_false]
  refine (Dev.withLoan_of_mayUse _ hloan hmay).trans (if_neg ?_)
  simp only [htree, Dev.aliasFull_of_fewer hroom, Bool.not_true, Bool.or_self, Bool.false_eq_true, not_false_iff]

end

/-! ### UNMAP (R297, R298) -/

/-- The windows on a mapped range that WITHDRAW takes: those of one view, or of every view. -/
def Dev.withdrawnWindows (d : Dev) (dom : Nat) (k : Cmd) : List Window :=
  (d.windowsOn dom (fieldAt k.line 24 8) (fieldAt k.line 32 8)).filter fun w => fieldAt k.line 20 2 == 0xFFFF || w.host == fieldAt k.line 20 2

section
variable {d : Dev} {r : SlotRef} {c : Context} {k : Cmd} (h : d.ready r .unmap = some (c, k))
  (hmapped : (d.extents.any fun x => x.touches c.domain (fieldAt k.line 24 8) (fieldAt k.line 32 8)) = true)
include h hmapped

/-- RANGE withdraws a range of which something is mapped. -/
theorem devUnmapRange_mapped (hop : fieldAt k.line 16 1 = 1) :
    devUnmapRange r d = (d.withdraw c.domain [(fieldAt k.line 24 8, fieldAt k.line 32 8)]).1.commitTurn r
      (d.withdraw c.domain [(fieldAt k.line 24 8, fieldAt k.line 32 8)]).2.2.2 (d.withdraw c.domain [(fieldAt k.line 24 8, fieldAt k.line 32 8)]).2.1
      (d.withdraw c.domain [(fieldAt k.line 24 8, fieldAt k.line 32 8)]).2.2.1 := by
  rw [devUnmapRange, Dev.onReady_of_ready _ h]
  simp only [hop, hmapped, bne_self_eq_false, Bool.not_true, Bool.false_eq_true, if_false]

/-- WITHDRAW takes the windows on a range of which something is mapped, and leaves the range mapped. -/
theorem devUnmapWithdraw_mapped (hop : fieldAt k.line 16 1 = 2) :
    devUnmapWithdraw r d = ((d.dropWindows (d.withdrawnWindows c.domain k)).evictLines (d.cachedBy (d.withdrawnWindows c.domain k))).commitTurn r
      ((d.extents.filter fun x => x.touches c.domain (fieldAt k.line 24 8) (fieldAt k.line 32 8)).map fun x =>
        x.part (fieldAt k.line 24 8) (fieldAt k.line 32 8)) 0 (d.withdrawnWindows c.domain k).length := by
  have hsome : (d.extents.filter fun x => x.touches c.domain (fieldAt k.line 24 8) (fieldAt k.line 32 8)).isEmpty = false := by
    obtain ⟨x, hx, htouch⟩ := List.any_eq_true.1 hmapped
    exact List.isEmpty_eq_false_iff_exists_mem.2 ⟨x, List.mem_filter.2 ⟨hx, htouch⟩⟩
  rw [devUnmapWithdraw, Dev.onReady_of_ready _ h]
  simp only [hop, hsome, bne_self_eq_false, Bool.false_eq_true, if_false]
  rfl

end

/-- Settles O34: each operation with its turn commits what its clause says, and each refusal of ALLOCATE is its status alone. -/
theorem mappingVerbsComplete : Obligations.MappingVerbsComplete := by
  refine ⟨fun s r c k l v sa e es => ⟨?allocate, ?aliasReadOnly, ?aliasSealed, ?sealing, ?expose, ?vitrine, ?range, ?withdraw⟩,
    fun s r c k l hrun hop => ⟨fun hmapped => ?mapped, fun hfree => ⟨fun hnone => ?unloaned, fun hloan =>
      ⟨fun hmay => ?stranger, fun hmay hroom => ?full⟩⟩⟩⟩
  case allocate =>
    rintro hrun hop hfree ⟨hloan, hmay⟩ hdram htree hplace
    exact hrun.next fun h => devMapAllocate_placed h hop hfree hloan hmay hdram htree hplace
  case aliasReadOnly =>
    rintro hrun hop hcode hfree hcover hrights hhandle ⟨hloan, hmay⟩ htree hroom
    have hnarrow : ∀ x ∈ es ++ s.dev.touching c.domain (fieldAt k.line 40 8) (fieldAt k.line 32 8),
        x.rights.Narrows (Rights.ofCode (fieldAt k.line 17 1)) := by
      rw [hcode]
      intro x hx
      rcases hrights x hx with hown | hown <;> rw [hown]
      · exact ⟨nofun, .inl rfl⟩
      · exact ⟨nofun, .inr (.inl rfl)⟩
    have hnone : k.aliasSeals es = [] := Cmd.aliasSeals_readOnly hcode
    refine ⟨es.map (k.aliasExtent c.domain (s.dev.freshGen c.domain).1), List.length_map _, ?new, List.map_map, List.map_map, ?next⟩
    case new =>
      intro x hx
      obtain ⟨y, -, rfl⟩ := List.mem_map.1 hx
      exact ⟨rfl, by rw [Cmd.aliasExtent, hcode]; rfl, rfl, if_neg hhandle⟩
    case next =>
      exact hrun.next fun h => (devMapAlias_admitted h hop hfree hcover hnarrow hhandle hloan hmay htree hroom).trans (Dev.aliasOn_enters hnone)
  case aliasSealed =>
    rintro hrun hop hcode hfree hcover hrights ⟨y, hy, hopen⟩ hhandle ⟨hloan, hmay⟩ htree hroom
    have hnarrow : ∀ x ∈ es ++ s.dev.touching c.domain (fieldAt k.line 40 8) (fieldAt k.line 32 8),
        x.rights.Narrows (Rights.ofCode (fieldAt k.line 17 1)) := fun x hx => ⟨hrights x hx, .inr (.inr (by rw [hcode]; rfl))⟩
    have hseals : k.aliasSeals es = es.filter fun x => x.rights != .sealed := Cmd.aliasSeals_sealed hcode
    have hsome : k.aliasSeals es ≠ [] := by
      rw [hseals]
      exact List.ne_nil_of_mem (List.mem_filter.2 ⟨hy, bne_iff_ne.2 hopen⟩)
    have hnext := hrun.next fun h =>
      (devMapAlias_admitted h hop hfree hcover hnarrow hhandle hloan hmay htree hroom).trans (Dev.aliasOn_seals hsome)
    rw [hseals] at hnext
    exact hnext
  case sealing => exact fun hrun hop hcover hwhole => hrun.next fun h => devMapSeal_whole h hop hcover hwhole
  case expose =>
    intro hrun hop hcover _ hplain hregion hoff hright hapart hview hall
    exact hrun.next fun h => devMapExpose_admitted h hop hcover (fun x hx => hplain x (List.mem_append_right es hx)) hregion hoff hright
      hapart hview hall
  case vitrine =>
    rintro hrun hop hrec hlen hfree ⟨hloan, hmay⟩ htree hroom
    exact hrun.next fun h => devMapVitrine_admitted h hop hrec hlen hfree hloan hmay htree hroom
  case range => exact fun hrun hop hmapped => hrun.next fun h => devUnmapRange_mapped h hmapped hop
  case withdraw => exact fun hrun hop hmapped => hrun.next fun h => devUnmapWithdraw_mapped h hmapped hop
  case mapped => exact hrun.next fun h => devMapAllocate_mapped h hop hmapped
  case unloaned => exact hrun.next fun h => devMapAllocate_unloaned h hop hfree hnone
  case stranger => exact hrun.next fun h => devMapAllocate_stranger h hop hfree hloan hmay
  case full => exact hrun.next fun h => devMapAllocate_full h hop hfree hloan hmay hroom

end Sys2Proof.Machine
end

section
/-! PROOF. LOAN_RENEW (R305 to R308, R331): what each operation commits, which index OPEN gives a loan, and the end of loans at their
expiry. -/

namespace Sys2Proof.Machine

/-! ### A free index (R305) -/

section
variable {d : Dev} {i : Nat}

/-- An open loan has index `i + 1`. -/
def Dev.loanTaken (d : Dev) (i : Nat) : Bool := d.loans.any fun l => !l.gone && l.index == i + 1

/-- OPEN gives the index drawn, or the lowest free one where that is taken (log 20). -/
theorem Dev.freeLoan_eq : d.freeLoan = if d.loanTaken (Config.freeNat d.draws % 16384) then
    (List.range 16384).find? fun i => !d.loanTaken i else some (Config.freeNat d.draws % 16384) := rfl

/-- An index is free where no open loan has it. -/
theorem Dev.loanTaken_eq_false : d.loanTaken i = false ↔ ∀ y ∈ d.loans, y.gone = false → y.index ≠ i + 1 := by
  simp only [Dev.loanTaken, List.any_eq_false, Bool.and_eq_true, Bool.not_eq_true', beq_iff_eq, not_and, ne_eq]

/-- While fewer than 16384 loans are open, an index is free. -/
theorem Dev.exists_free_loan (h : (d.loans.filter (!·.gone)).length < 16384) : ∃ i ∈ List.range 16384, d.loanTaken i = false := by
  obtain ⟨i, hi, hfree⟩ := exists_mem_range_notMem (xs := (d.loans.filter (!·.gone)).map (·.index - 1)) (by rwa [List.length_map])
  refine ⟨i, hi, Dev.loanTaken_eq_false.2 fun y hy hopen hindex => hfree (List.mem_map.2 ⟨y, List.mem_filter.2 ⟨hy, ?_⟩, ?_⟩)⟩
  · rw [hopen]; rfl
  · rw [hindex, Nat.add_sub_cancel]

/-- While fewer than 16384 loans are open, OPEN gives an index that none of them has. -/
theorem Dev.freeLoan_of_room (h : (d.loans.filter (!·.gone)).length < 16384) :
    ∃ i, d.freeLoan = some i ∧ i < 16384 ∧ d.loanTaken i = false := by
  rw [Dev.freeLoan_eq]
  by_cases hwant : d.loanTaken (Config.freeNat d.draws % 16384) = true
  · obtain ⟨j, hj, hfree⟩ := Dev.exists_free_loan h
    have hsome : ((List.range 16384).find? fun i => !d.loanTaken i).isSome := List.find?_isSome.2 ⟨j, hj, by rw [hfree]; rfl⟩
    obtain ⟨i, hi⟩ := Option.isSome_iff_exists.1 hsome
    exact ⟨i, (if_pos hwant).trans hi, List.mem_range.1 (List.mem_of_find?_eq_some hi), by simpa using List.find?_some hi⟩
  · exact ⟨_, if_neg hwant, Nat.mod_lt _ (by decide), Bool.eq_false_iff.2 hwant⟩

end

/-! ### The operations (R306, R307) -/

/-- The loan that OPEN makes at a free index: its generation one above the last of the index, free at its first use (R305). -/
def Dev.newLoan (d : Dev) (dom host term i : Nat) : Loan :=
  { index := i + 1, domain := dom, holder := host, expiry := d.expiryOf term, gone := false
    gen := (d.loans.find? (·.index == i + 1)).elim (BitVec.ofNat 16 (Config.freeNat (d.draws + 1))) fun l => l.gen + 1 }

/-- The extents of a loan that are of the vitrine. -/
def Dev.vitrineExtents (d : Dev) (l : Loan) : List Extent := (d.loanExtents l).filter (·.rights == .vitrine)

/-- The windows of a loan's holder onto its vitrine extents (R331). -/
def Dev.holderWindows (d : Dev) (l : Loan) : List Window :=
  d.windows.filter fun w => w.host == l.holder && (d.vitrineExtents l).any fun e => e.touches w.domain w.cva w.len

/-- A ready LOAN_RENEW of an operation takes that operation's meaning. -/
theorem Dev.onLoan_of_ready {d : Dev} {r : SlotRef} {op : Nat} {c : Context} {k : Cmd} (f : Context → Cmd → Dev)
    (h : d.ready r .loanRenew = some (c, k)) (hop : fieldAt k.line 16 1 = op) : d.onLoan r op f = f c k :=
  (Dev.onReady_of_ready _ h).trans (if_pos hop)

section
variable {d : Dev} {r : SlotRef} {c : Context} {k : Cmd} (h : d.ready r .loanRenew = some (c, k))
include h

/-- OPEN makes a loan of the submitting host at a free index, in place of the one that last had it. -/
theorem devLoanOpen_opens {i : Nat} (hop : fieldAt k.line 16 1 = 1) (hfree : d.freeLoan = some i) :
    devLoanOpen r d = ({ d with
      draws := d.draws + 2
      loans := d.loans.filter (fun y => y.index != i + 1) ++ [d.newLoan c.domain k.host (fieldAt k.line 24 8) i] } : Dev).commitTurn r []
        (d.newLoan c.domain k.host (fieldAt k.line 24 8) i).handle.toNat 0 := by
  rw [devLoanOpen, Dev.onLoan_of_ready _ h hop, Dev.newLoan]
  simp only [hfree]
  cases d.loans.find? (·.index == i + 1) <;> rfl

section
variable {l : Loan} (hloan : d.loan? c.domain (fieldAt k.line 20 4) = some l) (hmay : d.mayUse k.host l = true)
include hloan hmay

/-- RENEW moves the expiry of a loan. -/
theorem devLoanRenew_moves (hop : fieldAt k.line 16 1 = 2) :
    devLoanRenew r d = ({ d with
      loans := modifyAll (fun x => x.handle == l.handle) (fun x => { x with expiry := d.expiryOf (fieldAt k.line 24 8) }) d.loans } : Dev).commitTurn
        r [] ((d.expiryOf (fieldAt k.line 24 8)).getD (2 ^ 64 - 1)) 0 := by
  rw [devLoanRenew, Dev.onLoan_of_ready _ h hop, Dev.withLoan_of_mayUse _ hloan hmay]

/-- CLOSE withdraws the extents of a loan. -/
theorem devLoanClose_withdraws (hop : fieldAt k.line 16 1 = 3) :
    devLoanClose r d = (d.deaccession l).1.commitTurn r (d.deaccession l).2 0 0 := by
  rw [devLoanClose, Dev.onLoan_of_ready _ h hop, Dev.withLoan_of_mayUse _ hloan hmay]

/-- TRANSFER to a host with the submit right withdraws the old holder's vitrine windows first (R331). -/
theorem devLoanTransfer_withdraws (hop : fieldAt k.line 16 1 = 4) (hright : bit (d.rightsOf (fieldAt k.line 32 2) c.domain) 0 = true) :
    devLoanTransfer r d = ((d.dropWindows (d.holderWindows l)).evictLines (d.cachedBy (d.holderWindows l))).commitTurn r
      ((d.vitrineExtents l).map fun e => { sa := e.sa, len := e.len }) 0 0 := by
  rw [devLoanTransfer, Dev.onLoan_of_ready _ h hop, Dev.withLoan_of_mayUse _ hloan hmay]
  exact if_neg (by rw [hright]; exact Bool.false_ne_true)

end

end

/-- While some pair works, the Curator ends the open loans whose expiry a time has reached (R308). -/
theorem devLoanExpiry_working {d : Dev} (t : Nat) (h : 0 < d.workingPairs) :
    devLoanExpiry t d = ((d.loans.filter fun x => !x.gone && x.expiry.any fun y => decide (y ≤ max d.now t)).foldl
      (fun d x => d.expireLoan x) (d.atTime t)).settle :=
  if_neg (Nat.ne_of_gt h)

/-- Settles O35: each operation with its turn commits what its clause says, and the loans due at a time end. The index of a new loan is
free to the part (log 20), and an expired loan's store goes once nothing touches it (log 21). -/
theorem loanVerbsComplete : Obligations.LoanVerbsComplete := by
  intro s r c k l t
  refine ⟨fun hrun hop hroom => ?opens, fun hrun hop ⟨hloan, hmay⟩ => ?renews, fun hrun hop ⟨hloan, hmay⟩ => ?closes,
    fun hrun hop ⟨hloan, hmay⟩ hright => ?transfers, fun hlive hpairs => ?expires⟩
  case opens =>
    obtain ⟨i, hi, hlt, hfree⟩ := Dev.freeLoan_of_room hroom
    exact ⟨s.dev.newLoan c.domain k.host (fieldAt k.line 24 8) i, Nat.succ_pos i, hlt, Dev.loanTaken_eq_false.1 hfree, rfl, rfl, rfl, rfl,
      hrun.next fun h => devLoanOpen_opens h hop hi⟩
  case renews => exact hrun.next fun h => devLoanRenew_moves h hloan hmay hop
  case closes => exact hrun.next fun h => devLoanClose_withdraws h hloan hmay hop
  case transfers => exact hrun.next fun h => devLoanTransfer_withdraws h hloan hmay hop hright
  case expires => exact whenLive_of_eq hlive (devLoanExpiry_working t hpairs)

end Sys2Proof.Machine
end

section
/-! PROOF. The egress shaper (R315 to R326): GATE_CTRL's rows, the takeover and the entries of a gate list, the granules of a point and
a telemetry sample: what each row does in the cases its statement names. -/

namespace Sys2Proof.Machine

/-! ### What the passing of time leaves of a point -/

section
variable (d : Dev) (t : Nat)

@[simp] theorem Dev.reg_atTime (off : Nat) : (d.atTime t).reg off = d.reg off := rfl
@[simp] theorem Dev.field_atTime (off hi lo : Nat) : (d.atTime t).field off hi lo = d.field off hi lo := rfl
@[simp] theorem Dev.point?_atTime (p : Point) : (d.atTime t).point? p = d.point? p := rfl
@[simp] theorem Dev.pointEnabled_atTime (p : Point) : (d.atTime t).pointEnabled p = d.pointEnabled p := rfl

end

/-! ### Gate lists (R321, R322) -/

section
variable {s : State} {w : RegWrite} {p : Point}

/-- GATE_ARM on a point's GATE_CTRL whose ARM it sets from 0 (R322). -/
theorem exec_gateArm_of_writes (hw : s.writes w) (hp : pointOf w.reg = some p) (harm : armsTo (s.dev.accessed w.src) w true = true) :
    exec (.gateArm w) s = .next { s with dev := (s.dev.accessed w.src).gateCtrl p w } :=
  (whenLive_onRegister (i := .gateArm w) hw rfl harm).trans (by rw [Dev.gateCtrlOf, hp])

/-- GATE_DISARM on a point's GATE_CTRL whose ARM it clears from 1 (R322). -/
theorem exec_gateDisarm_of_writes (hw : s.writes w) (hp : pointOf w.reg = some p)
    (hdisarm : armsTo (s.dev.accessed w.src) w false = true) :
    exec (.gateDisarm w) s = .next { s with dev := (s.dev.accessed w.src).gateCtrl p w } :=
  (whenLive_onRegister (i := .gateDisarm w) hw rfl hdisarm).trans (by rw [Dev.gateCtrlOf, hp])

end

section
variable {d : Dev} {p : Point} {e : EgPoint} {t : Nat}

/-- An armed list takes over once its time is reached (R322). -/
theorem devGateTakeover_due (hen : d.pointEnabled p = true) (harm : d.field (p.base + 0x408) 0 0 = 1)
    (hdue : (d.reg (p.base + 0x410)).toNat ≤ max d.now t) : devGateTakeover p t d = (d.atTime t).takeOver p := by
  simp [devGateTakeover, hen, harm, hdue]

/-- Before its time no list takes over. -/
theorem devGateTakeover_early (hearly : max d.now t < (d.reg (p.base + 0x410)).toNat) : devGateTakeover p t d = d.atTime t := by
  simp [devGateTakeover, Nat.not_le.2 hearly]

/-- Once an entry of the active list has run its time, the next one starts with the gate groups as they now stand (R321, R322). -/
theorem devGateEntryBoundary_due (hpoint : d.point? p = some e) (hlen : e.activeLen ≠ 0) (hdue : e.entryEnd ≤ max d.now t) :
    devGateEntryBoundary p t d = (d.atTime t).modPoint p fun _ => { (d.atTime t).creditsTo e e.entryEnd with
      entry := (e.entry + 1) % e.activeLen
      groups := (d.atTime t).gateGroups
      entryEnd := e.entryEnd + ((d.atTime t).gateEntry p e.activeList ((e.entry + 1) % e.activeLen)).2 } := by
  simp only [devGateEntryBoundary, Dev.point?_atTime, hpoint, hlen, decide_false, Bool.false_or, Dev.atTime_now, Nat.not_lt.2 hdue]
  rfl

end

/-! ### Granules (R315 to R318) -/

section
variable {d u : Dev} {p : Point} {e x : EgPoint} {q q' : Queue} {g : EgGranule} {first : Bool} {t : Nat}

/-- The device once a queue of a point has sent a granule until a time, served under its tier (R317, R318). -/
def Dev.sendsGranule (d : Dev) (p : Point) (x : EgPoint) (q' : Queue) (g : EgGranule) (first : Bool) : Dev :=
  d.modPoint p fun _ => x.served (q'.charge g.bytes x.rate first (d.now + sendTime g.bytes x.rate)) first

/-- The message that ends with a granule leaves with it. -/
def Dev.emitLast (d : Dev) (g : EgGranule) : Dev := g.msg.elim d d.emit

/-- A granule inside a message puts nothing out. -/
theorem Dev.emitLast_none (d : Dev) (h : g.msg = none) : d.emitLast g = d := by rw [Dev.emitLast, h]; rfl

/-- The last granule of a message puts it out. -/
theorem Dev.emitLast_some {m : OutMsg} (d : Dev) (h : g.msg = some m) : d.emitLast g = d.emit m := by rw [Dev.emitLast, h]; rfl

section
variable (hu : d.atTime t = u) (hx : u.creditsTo e u.now = x) (hpoint : d.point? p = some e) (hrate : e.rate ≠ 0)
include hu hx hpoint hrate

/-- Where the rule picks no queue, a point only has its credits brought up to the time (R317). -/
theorem devShaperGranule_idle (hpick : u.pick x = none) : devShaperGranule p t d = u.modPoint p fun _ => x := by
  subst hu hx
  simp only [devShaperGranule, Dev.point?_atTime, hpoint, if_neg hrate, hpick]

section
variable (hpick : u.pick x = some (q, first)) (hnext : q.next = some (g, q'))
include hpick hnext

/-- The queue that the rule picks has its turn at a channel (R314, R318). -/
theorem devShaperGranule_channel (hkind : p.kind = .onfi) :
    devShaperGranule p t d = u.channelTurn x q first (u.now + sendTime g.bytes x.rate) := by
  subst hu hx
  simp only [devShaperGranule, Dev.point?_atTime, hpoint, if_neg hrate, hpick, hnext, hkind, beq_self_eq_true, if_true]

/-- The queue that the rule picks sends a granule at a port or on a link, there in a frame (R318, R362). -/
theorem devShaperGranule_sends (hkind : p.kind ≠ .onfi) :
    devShaperGranule p t d = (if p.kind == .zherek then (u.sendsGranule p x q' g first).linkGranule p.index q g
      else u.sendsGranule p x q' g first).emitLast g := by
  subst hu hx
  simp only [devShaperGranule, Dev.point?_atTime, hpoint, if_neg hrate, hpick, hnext, beq_iff_eq, if_neg hkind]
  cases hmsg : g.msg with
  | none => rw [Dev.emitLast_none _ hmsg]; rfl
  | some m => rw [Dev.emitLast_some _ hmsg]; rfl

/-- The queue that the rule picks sends a granule at a port (R318). -/
theorem devShaperGranule_port (hkind : p.kind = .cxl) :
    devShaperGranule p t d = (u.sendsGranule p x q' g first).emitLast g := by
  rw [devShaperGranule_sends hu hx hpoint hrate hpick hnext (by rw [hkind]; decide), hkind]; rfl

/-- The queue that the rule picks sends a granule on a link, in a frame (R318, R362). -/
theorem devShaperGranule_link (hkind : p.kind = .zherek) :
    devShaperGranule p t d = ((u.sendsGranule p x q' g first).linkGranule p.index q g).emitLast g := by
  rw [devShaperGranule_sends hu hx hpoint hrate hpick hnext (by rw [hkind]; decide), hkind]; rfl

end

end

/-- A granule's end at a point lets the host reads that wait for its room go on (log 63). -/
theorem exec_shaperGranule_of_eq {s : State} (hlive : s.dev.live = true) (h : devShaperGranule p t s.dev = d) :
    exec (.shaperGranule p t) s = .next { s with dev := d.serveReads p } :=
  whenLive_of_eq (f := fun d => (devShaperGranule p t d).serveReads p) hlive (congrArg (Dev.serveReads · p) h)

end

/-! ### Telemetry (R324) -/

/-- A queue with one sample of its depth and head delay in both of its sets (R324). -/
def Queue.sampled (t : Nat) (q : Queue) : Queue := { q with
  globalStats := q.globalStats.add q.depth (q.delay t)
  domainStats := q.domainStats.add q.depth (q.delay t) }

/-- A fold none of whose steps changes what it is given ends with what it began with. -/
theorem foldl_eq_of_leaves {α β : Type} {f : α → β → α} {xs : List β} (h : ∀ a, ∀ b ∈ xs, f a b = a) (a : α) : xs.foldl f a = a := by
  induction xs with
  | nil => rfl
  | cons b xs ih => rw [List.foldl_cons, h a b List.mem_cons_self, ih fun a c hc => h a c (List.mem_cons_of_mem b hc)]

/-- A sample that saturates no count adds to every queue's sets and does no more (R324). -/
theorem devTelemSample_unsaturated {d : Dev} {t : Nat}
    (h : ∀ y ∈ d.points, ∀ z ∈ y.queues, z.globalStats.fills (z.sampled (max d.now t)).globalStats = [] ∧
      z.domainStats.fills (z.sampled (max d.now t)).domainStats = []) :
    devTelemSample t d = { d.atTime t with
      points := d.points.map fun (y : EgPoint) => { y with queues := y.queues.map (Queue.sampled (max d.now t)) } } := by
  refine foldl_eq_of_leaves (fun u z hz => ?_) _
  obtain ⟨y, hy, hz⟩ := List.mem_flatMap.1 hz
  obtain ⟨hglobal, hdomain⟩ := h y hy z hz
  simp only [Queue.sampled] at hglobal hdomain
  simp only [Dev.atTime_now, hglobal, hdomain, List.foldl_nil, ite_self]

/-- Settles O54: each row in the case that its clause names. That the reads that wait for a port's room pass the Registrar again as a
granule leaves is log 63's; how GATE_CTRL takes a length and what a takeover leaves as the pending one are log 41's. -/
theorem shaperCommandsComplete : Obligations.ShaperCommandsComplete := by
  intro s w p e q q' g first t d x stop f sample
  refine ⟨exec_gateArm_of_writes, exec_gateDisarm_of_writes, fun hlive hen harm => ⟨fun hdue => ?due, fun hearly => ?early⟩,
    fun hlive hpoint hlen hend => ?boundary, fun hlive hpoint hrate => ⟨fun hpick => ?idle, fun hpick hnext => ?granule⟩,
    fun hlive hfills => ?sample⟩
  case due => exact whenLive_of_eq hlive (devGateTakeover_due hen harm hdue)
  case early => exact whenLive_of_eq hlive (devGateTakeover_early hearly)
  case boundary => exact whenLive_of_eq hlive (devGateEntryBoundary_due hpoint hlen hend)
  case idle => exact exec_shaperGranule_of_eq hlive (devShaperGranule_idle rfl rfl hpoint hrate hpick)
  case granule =>
    have hport := devShaperGranule_port rfl rfl hpoint hrate hpick hnext
    have hlink := devShaperGranule_link rfl rfl hpoint hrate hpick hnext
    refine ⟨fun hkind => ?channel, fun hkind hmsg => ?portInside, fun hkind m hmsg => ?portEnd, fun hkind hmsg => ?linkInside,
      fun hkind m hmsg => ?linkEnd⟩
    case channel => exact exec_shaperGranule_of_eq hlive (devShaperGranule_channel rfl rfl hpoint hrate hpick hnext hkind)
    case portInside => exact exec_shaperGranule_of_eq hlive ((hport hkind).trans (Dev.emitLast_none _ hmsg))
    case portEnd => exact exec_shaperGranule_of_eq hlive ((hport hkind).trans (Dev.emitLast_some _ hmsg))
    case linkInside => exact exec_shaperGranule_of_eq hlive ((hlink hkind).trans (Dev.emitLast_none _ hmsg))
    case linkEnd => exact exec_shaperGranule_of_eq hlive ((hlink hkind).trans (Dev.emitLast_some _ hmsg))
  case sample => exact whenLive_of_eq hlive (devTelemSample_unsaturated hfills)

end Sys2Proof.Machine
end

section
/-! PROOF. The vitrine (R316, R336 to R345, R403): what a host's request for a line kept here does at its order point, a
back-invalidation's answer or timeout, a conflict, and the loss of a port. -/

namespace Sys2Proof.Machine

/-! ### Requests for a line kept here (R336) -/

section
variable {d : Dev} {a : MemAccess} {dom sa : Nat} {x : Extent} (hserves : d.servesMem a.port = true)
include hserves

/-- A read request for a vitrine line kept here whose answer finds room takes its place at the line's order point, the sectors of the
line that fail their check on the ladder (R316, R336, R403). -/
theorem Dev.vitRequest_arrives {i : Instr} {q : VitReq} {fails : List Nat} (hhigh : 0x1000_0000 ≤ a.dpa)
    (hadm : d.registrar a.host a.dpa false = .admitted dom x sa) (hvit : x.rights = .vitrine) (hloc : d.isLocal sa = true)
    (hroom : d.portFull a.port dom = false) :
    d.vitRequest i a q fails = (((fails.filter fun sec => (sectorsOf { sa := sa, len := 64 }).contains sec).foldl
      (fun d sec => d.startRepair sec .patrol) d).vitArrive (sa / 64) dom q).afterSnoop := by
  simp [Dev.vitRequest, hserves, Nat.not_lt.2 hhigh, Dev.admitRead, hadm, hroom, hvit, hloc]

/-- MEMINV_SNPINV for a vitrine line kept here takes its place at the line's order point (R336). -/
theorem devMeminvSnpinv_arrives (hadm : d.registrar a.host a.dpa true = .admitted dom x sa) (hvit : x.rights = .vitrine)
    (hloc : d.isLocal sa = true) :
    devMeminvSnpinv a d = (d.vitArrive (sa / 64) dom (.snpInv a.port a.host a.dpa false)).afterSnoop := by
  simp [devMeminvSnpinv, hserves, Dev.admitHost, hadm, hvit, hloc]

/-- MEMCLNEVCT for a vitrine line kept here takes its place at the line's order point (R336). -/
theorem devMemclnevct_arrives (hadm : d.registrar a.host a.dpa false = .admitted dom x sa) (hvit : x.rights = .vitrine)
    (hloc : d.isLocal sa = true) :
    devMemclnevct a d = (d.vitArrive (sa / 64) dom (.clean a.port a.host a.dpa)).afterSnoop := by
  simp [devMemclnevct, hserves, hadm, hvit, hloc]

section
variable {en : BitVec 64} {data : List Byte} {metaS : Bool} {fails : List Nat} (hkeep : d.withdrawnLine a = none)
  (hadm : d.registrar a.host a.dpa true = .admitted dom x sa) (hvit : x.rights = .vitrine) (hloc : d.isLocal sa = true)
include hkeep hadm hvit hloc

/-- A write by the owner of a vitrine line is its writeback (R336, R339). -/
theorem devVitrineMemwr_owner (howns : d.ownsLine (sa / 64) a.host = true) :
    devVitrineMemwr a en data metaS fails d = d.hostWriteBack { a := a, domain := dom, sa := sa } en data metaS fails := by
  simp [devVitrineMemwr, hserves, hkeep, Dev.admitHost, hadm, hvit, hloc, howns]

/-- A write by another host takes its place at the line's order point (R336, R340). -/
theorem devVitrineMemwr_other (howns : d.ownsLine (sa / 64) a.host = false) :
    devVitrineMemwr a en data metaS fails d = (d.writeOrdered { a := a, domain := dom, sa := sa } en data fails).afterSnoop := by
  simp [devVitrineMemwr, hserves, hkeep, Dev.admitHost, hadm, hvit, hloc, howns]

end

end

/-- A write none of whose partly covered sectors fails its check writes the line. -/
theorem Dev.writeHome_of_sound {d : Dev} {h : HostWait} {en : BitVec 64} {data : List Byte} {fails : List Nat}
    (hsound : failingParts h en fails = []) : d.writeHome h en data fails = d.writeLine h en data := by
  rw [Dev.writeHome, hsound]

/-! ### Back-invalidations (R338, R339, R343 to R345) -/

section
variable {d : Dev} {host line : Nat} {v : VitTxn}

/-- The directory once a holder has answered: it keeps nothing, a shared copy, or what it has (R336). -/
def Dev.biAnswered (d : Dev) (line dom host : Nat) : BiAnswer → Dev
  | .rspI => d.dirRemove line host
  | .rspS => d.dirShare line dom host
  | .rspE => d.dirKeep line host

/-- An awaited answer is recorded, and the line's transaction goes on (R339). -/
theorem devBirsp_awaited (ans : BiAnswer) (h : d.awaits line host = some v) :
    devBirsp host line ans d = ((d.biAnswered line v.domain host ans).vitAnswered line host).afterSnoop := by
  simp only [devBirsp, h]
  cases ans <;> rfl

/-- A host whose answer is awaited for the time that BI_TIMEOUT allows is lost for its lines of the domain (R343 to R345). -/
theorem devBiTimeout_due {t : Nat} (h : d.awaits line host = some v) (hdue : v.since + d.field 0x6000 31 0 * 1000 ≤ max d.now t) :
    devBiTimeout host line t d = ((d.atTime t).vitLose v.domain host 2 fun _ => true).afterSnoop := by
  have h' : (d.atTime t).awaits line host = some v := h
  simp only [devBiTimeout, h']
  exact if_pos hdue

/-- A conflict on a line with a transaction is acknowledged in the transaction's domain (R338). -/
theorem devBiconflict_ofTxn {port : Nat} (hserves : d.servesMem port = true) (h : d.vitTxns.find? (·.line == line) = some v) :
    devBiconflict port host line d = d.toPort port v.domain false 0 none (.ndr port host (line * 64) 3) := by
  simp [devBiconflict, hserves, h]

end

/-- A port that is up loses its link and takes the hosts that it alone carried along (R343). -/
theorem devCxlPortDown_up {d : Dev} {port : Nat} (h : d.portUp port = true) :
    devCxlPortDown port d = (({ d with ports := modifyAll (·.index == port) (fun y => { y with link := .down }) d.ports } : Dev).portLost
      port).settle := by
  simp [devCxlPortDown, h]

/-- Settles O57: each row in the case that its clause names. That an answer that keeps the line leaves its only holder the owner is the
model's reading of R336; the writeback of a line whose window has gone (log 96) is left out by the write's clauses; which hosts a port
takes along goes by the pairs that log 61 keeps. -/
theorem vitrineCommandsComplete : Obligations.VitrineCommandsComplete := by
  intro s a en data metaS fails x v dom sa host line port t climbs kept
  refine ⟨fun hs => ⟨fun hhigh => ⟨?snpCur, ?snpData, ?snpInv⟩, ?inv, ?clean, ?write⟩,
    fun hlive hv => ⟨?rspI, ?rspS, ?rspE, fun hdue => ?timeout⟩,
    fun hlive hserves hv => ?conflict, fun hlive hup => ?portDown⟩
  case snpCur | snpData | snpInv =>
    rintro d ⟨ha, hadm, hvit, hloc⟩ hroom
    exact onTraffic_of_eq hs (Dev.vitRequest_arrives (Dev.servesMem_reached hs ha) hhigh hadm hvit hloc hroom)
  case inv =>
    rintro d ⟨ha, hadm, hvit, hloc⟩
    exact onTraffic_of_eq hs (devMeminvSnpinv_arrives (Dev.servesMem_reached hs ha) hadm hvit hloc)
  case clean =>
    rintro d ⟨ha, hadm, hvit, hloc⟩
    exact onTraffic_of_eq hs (devMemclnevct_arrives (Dev.servesMem_reached hs ha) hadm hvit hloc)
  case write =>
    rintro d hkeep ⟨ha, hadm, hvit, hloc⟩ h wrote
    have hserves := Dev.servesMem_reached hs ha
    exact ⟨Dev.writeHome_of_sound, fun howns => onTraffic_of_eq hs (devVitrineMemwr_owner hserves hkeep hadm hvit hloc howns),
      fun howns => onTraffic_of_eq hs (devVitrineMemwr_other hserves hkeep hadm hvit hloc howns)⟩
  case rspI => exact whenLive_of_eq hlive (devBirsp_awaited .rspI hv)
  case rspS => exact whenLive_of_eq hlive (devBirsp_awaited .rspS hv)
  case rspE => exact whenLive_of_eq hlive (devBirsp_awaited .rspE hv)
  case timeout => exact whenLive_of_eq hlive (devBiTimeout_due hv hdue)
  case conflict => exact whenLive_of_eq hlive (devBiconflict_ofTxn hserves hv)
  case portDown => exact whenLive_of_eq hlive (devCxlPortDown_up hup)

end Sys2Proof.Machine
end

section
/-! PROOF. What every command does of itself: which rows act on a device that is not live, and what they then leave (R424, R465, R472,
R475, R489); the step's tie to the queue. -/

namespace Sys2Proof.Machine

/-! ### The rows that no stop and no reset silences -/

/-- The meaning of a row that acts whatever the device's state: the pins, power and the Docent bus; every other row has none. -/
def Instr.unguarded : Instr → Option (Dev → Dev)
  | .powerUp => some devPowerUp
  | .resetNAssert => some devResetNAssert
  | .resetNRelease geo role => some (devResetNRelease geo role)
  | .perstNAssert port => some (devPerstNAssert port)
  | .perstNRelease port => some (devPerstNRelease port)
  | .railFault alwaysOn => some (devRailFault alwaysOn)
  | .docentRead b => some (devDocentRead b)
  | .docentWrite b => some (devDocentWrite b)
  | .docentResponseAbandon => some devDocentResponseAbandon
  | _ => none

/-- Every command either acts always, by its unguarded meaning, or acts on a live device only. -/
theorem exec_cases (c : Instr) :
    (∃ f, Instr.unguarded c = some f ∧ exec c = always f) ∨ (Instr.unguarded c = none ∧ ∃ f, exec c = whenLive f) := by
  cases c
  case powerUp | resetNAssert | resetNRelease | perstNAssert | perstNRelease | railFault | docentRead | docentWrite |
      docentResponseAbandon => exact .inl ⟨_, rfl, rfl⟩
  case shaperGranule p t => exact .inr ⟨rfl, fun d => (devShaperGranule p t d).serveReads p, rfl⟩
  all_goals exact .inr ⟨rfl, _, rfl⟩

/-- On a device that is not live a command does what its unguarded meaning does, or nothing. -/
theorem exec_of_not_live {c : Instr} {s : State} (h : s.dev.live = false) :
    exec c s = .next { s with dev := (Instr.unguarded c).elim s.dev fun f => f s.dev } := by
  obtain ⟨f, hf, he⟩ | ⟨hn, f, he⟩ := exec_cases c
  · rw [he, hf, always_next, Option.elim_some]
  · rw [he, hn, whenLive_of_dead h, Option.elim_none]

/-- Settles O3: a row acts always or on a live device alone, and either way the queue stays. -/
theorem everyCommandAnswersAndKeepsQueue : Obligations.EveryCommandAnswersAndKeepsQueue := by
  intro c s
  obtain ⟨f, -, he⟩ | ⟨-, f, he⟩ := exec_cases c
  · exact ⟨_, by rw [he, always_next]⟩
  · exact ⟨_, by rw [he, whenLive_next]⟩

/-- Settles O1: the step takes the command off the queue before it runs. -/
theorem stepRunsFrontCommand : Obligations.StepRunsFrontCommand := by
  intro c cs s h
  rw [step, h]

/-- Settles O2: the model's choice (log 13) of what time does on an empty queue. -/
theorem idleStepPassesOneNanosecond : Obligations.IdleStepPassesOneNanosecond := by
  intro s h
  simp only [step, h, idle]

/-- Settles O5: the reset state's stores are empty, and it is held in reset, so not live. -/
theorem resetStateMeetsInvariants : Obligations.ResetStateMeetsInvariants :=
  ⟨rfl, rfl, rfl⟩

/-! ### The Docent bus of a device that is not live (R465, R472, R483, R489) -/

/-- `e` differs from `d` in registers, the state of the Docent bus and the Docent responses that went out, and in nothing else. -/
def Dev.AnswersDocent (d e : Dev) : Prop :=
  e = { d with regs := e.regs, docent := e.docent, out := e.out } ∧ ∃ ms, e.out = d.out ++ ms ∧ ∀ m ∈ ms, ∃ b, m = OutMsg.docent b

/-- A change of registers and of the bus's state alone, with nothing put out. -/
theorem Dev.AnswersDocent.of_silent {d e : Dev} (h : e = { d with regs := e.regs, docent := e.docent }) : d.AnswersDocent e := by
  rw [h]
  exact ⟨rfl, [], by simp, by simp⟩

/-- Nothing is such a change. -/
theorem Dev.AnswersDocent.refl (d : Dev) : d.AnswersDocent d := .of_silent rfl

/-- One such change after another. -/
theorem Dev.AnswersDocent.trans {d e f : Dev} (h : d.AnswersDocent e) (g : e.AnswersDocent f) : d.AnswersDocent f := by
  obtain ⟨h1, ms, h2, h3⟩ := h
  obtain ⟨g1, ns, g2, g3⟩ := g
  refine ⟨by rw [g1, h1], ms ++ ns, by rw [g2, h2, List.append_assoc], ?_⟩
  intro m hm
  exact (List.mem_append.1 hm).elim (h3 m) (g3 m)

/-- Such a change leaves a device as live as it was. -/
theorem Dev.AnswersDocent.live {d e : Dev} (h : d.AnswersDocent e) : e.live = d.live := by
  rw [h.1]
  rfl

/-- A response puts out one Docent frame. -/
theorem Dev.answersDocent_respond (d : Dev) (b : List Byte) : d.AnswersDocent (d.docentRespond b) :=
  ⟨rfl, [.docent (checkedFrame b)], rfl, by simp⟩

/-- An error on the bus of a device that is not live is counted without an event (R483). -/
theorem Dev.answersDocent_docentError {d : Dev} (h : d.live = false) : d.AnswersDocent d.docentError := by
  rw [Dev.docentError, if_neg (by simp [h])]
  exact .of_silent rfl

/-- The RC clear of a read changes registers alone. -/
theorem Dev.answersDocent_readClear (d : Dev) (off : Nat) : d.AnswersDocent (d.readClear off) := by
  unfold Dev.readClear
  split
  · split
    · exact .refl d
    · exact .of_silent rfl
  · exact .refl d

/-- Reading a word over the bus changes registers and the read latch alone. -/
theorem Dev.answersDocent_docentWord (d : Dev) (off : Nat) : d.AnswersDocent (d.docentWord off).2 := by
  unfold Dev.docentWord
  dsimp only
  split
  · exact (d.answersDocent_readClear _).trans (.of_silent rfl)
  · split
    · split
      · exact .of_silent rfl
      · exact .refl d
    · exact .refl d

/-- A register of the always-on domain is device-global and has no rule of its own for a write (R459). -/
theorem Dev.applyWrite_alwaysOn {d : Dev} {w : RegWrite} (h : isAlwaysOn w.reg = true) :
    blockOf w.reg = .global ∧ d.applyWrite w = d.plainWrite w := by
  have hr : w.reg / 8 * 8 = w.reg := by simp only [RegWrite.reg]; omega
  simp only [isAlwaysOn, hr, Bool.or_eq_true, Bool.and_eq_true, decide_eq_true_eq, List.contains_eq_mem, List.mem_cons,
    List.not_mem_nil, or_false] at h
  have hb : blockOf w.reg = .global := if_pos (by omega)
  refine ⟨hb, ?_⟩
  have ha : areaAt w.reg = none := by
    simp only [areaAt, hb]
    exact if_neg (by omega)
  simp only [Dev.applyWrite, hb, Dev.globalWrite, ha]
  iterate 14 rw [if_neg (by omega)]

/-- A write to an always-on register over the bus changes registers alone. -/
theorem Dev.answersDocent_docentApply {d : Dev} {w : RegWrite} (hs : w.src = .docent) (h : isAlwaysOn w.reg = true) :
    d.AnswersDocent (d.docentApply w) := by
  obtain ⟨hb, ha⟩ := Dev.applyWrite_alwaysOn (d := d) h
  have hw : d.AnswersDocent (d.plainWrite w) := by
    unfold Dev.plainWrite
    split
    · exact .of_silent rfl
    · exact .refl d
  simp only [Dev.docentApply, Dev.onWrite, hs, Dev.onBlock, hb, ha, variantHas]
  split
  · exact .refl d
  · split
    · exact hw
    · exact .refl d

/-- A frame that arrives at a device that is not live is counted, ignored, or does what its rule does. -/
theorem Dev.answersDocent_onFrame {d : Dev} {b : List Byte} {f : Dev → Dev} (h : d.live = false)
    (hf : ∀ e : Dev, e.live = false → e.AnswersDocent (f e)) : d.AnswersDocent (d.onFrame b f) := by
  have hn : d.AnswersDocent d.newFrame := .of_silent rfl
  have hl : d.newFrame.live = false := hn.live.trans h
  unfold Dev.onFrame
  split
  · exact .refl d
  · split
    · exact hn.trans (Dev.answersDocent_docentError hl)
    · split
      · exact hn
      · exact hn.trans (hf _ hl)

/-- A device that is not live wakes for no frame, and outside reset serves its always-on registers alone. -/
theorem Dev.docentCase_of_not_live {d : Dev} {off : Nat} {reading : Bool} (h : d.live = false) :
    d.docentCase off reading ≠ .wake ∧ (d.docentCase off reading = .serve → reading = false → isAlwaysOn off = true) := by
  unfold Dev.docentCase
  dsimp only
  split
  · split <;> simp_all
  · split
    · simp
    · split
      · split <;> simp_all
      · simp_all

/-- A Docent READ of a device that is not live is answered, with no other effect than the read's own. -/
theorem devDocentRead_of_not_live {d : Dev} {b : List Byte} (h : d.live = false) : d.AnswersDocent (devDocentRead b d) := by
  refine Dev.answersDocent_onFrame h fun e he => ?_
  have hd : e.AnswersDocent e.dropLatch := .of_silent rfl
  have hl : e.dropLatch.live = false := hd.live.trans he
  dsimp only
  split
  · exact .refl e
  · refine hd.trans ?_
    split
    · exact Dev.answersDocent_respond _ _
    · split
      case h_1 => exact Dev.answersDocent_respond _ _
      case h_2 hc => exact absurd hc (Dev.docentCase_of_not_live hl).1
      case h_3 hc =>
        rw [if_pos (by simp [hl])]
        exact (Dev.answersDocent_docentWord _ _).trans (Dev.answersDocent_respond _ _)

/-- A Docent WRITE of a device that is not live is answered, and reaches an always-on register at most. -/
theorem devDocentWrite_of_not_live {d : Dev} {b : List Byte} (h : d.live = false) : d.AnswersDocent (devDocentWrite b d) := by
  refine Dev.answersDocent_onFrame h fun e he => ?_
  have hd : e.AnswersDocent e.dropLatch := .of_silent rfl
  have hl : e.dropLatch.live = false := hd.live.trans he
  dsimp only
  split
  · exact .refl e
  · split
    · exact hd.trans (Dev.answersDocent_respond _ _)
    · refine hd.trans ?_
      obtain ⟨hwake, hserve⟩ := Dev.docentCase_of_not_live (off := frameOffset b) (reading := false) hl
      split
      case h_1 => exact Dev.answersDocent_respond _ _
      case h_2 hc => exact absurd hc hwake
      case h_3 hc =>
        have hon := hserve hc rfl
        rw [hon, Bool.true_or, if_pos rfl]
        split
        · exact .trans (.of_silent rfl) (Dev.answersDocent_respond _ _)
        · split
          · exact Dev.answersDocent_respond _ _
          · split
            · exact Dev.answersDocent_respond _ _
            · refine (Dev.answersDocent_docentApply rfl ?_).trans (Dev.answersDocent_respond _ _)
              simpa only [isAlwaysOn, RegWrite.reg, Nat.mul_div_cancel _ (Nat.zero_lt_succ 7)] using hon

/-- The end of an abandoned response is counted (R486). -/
theorem devDocentResponseAbandon_of_not_live {d : Dev} (h : d.live = false) : d.AnswersDocent (devDocentResponseAbandon d) := by
  unfold devDocentResponseAbandon
  split
  · have hd : d.AnswersDocent { d with docent := { d.docent with responding := false } } := .of_silent rfl
    exact hd.trans (Dev.answersDocent_docentError (hd.live.trans h))
  · exact .refl d

/-! ### What a device that is not live still does -/

/-- PERST_N of a device that is not live is no more than the pin's level (R477). -/
theorem devPerstNAssert_of_not_live {d : Dev} {port : Nat} (h : d.live = false) :
    devPerstNAssert port d = d.modPort port fun x => { x with perstReleased := false } := by
  have hl : (d.modPort port fun x => { x with perstReleased := false }).live = false := h
  simp [devPerstNAssert, hl]

/-- What every command but RESET_N asserted and a power-up leaves of a device that is not live: its command state, stores and mappings, and
every output but Docent responses; power may be lost, rails may fail, and LIVE_OUT is not raised. -/
structure Dev.StaysDown (d e : Dev) : Prop where
  stopped : d.stopped = true → e.stopped = true
  ctxs : e.ctxs = d.ctxs
  mem : e.mem = d.mem
  poison : e.poison = d.poison
  extents : e.extents = d.extents
  blocks : e.blocks = d.blocks
  media : e.media = d.media
  liveOut : d.pins.liveOut = false → e.pins.liveOut = false
  out : ∃ ms, e.out = d.out ++ ms ∧ ∀ m ∈ ms, ∃ b, m = OutMsg.docent b

/-- A change of registers, the Docent bus and its responses leaves a device down. -/
theorem Dev.AnswersDocent.staysDown {d e : Dev} (h : d.AnswersDocent e) : d.StaysDown e := by
  obtain ⟨he, hout⟩ := h
  rw [he]
  exact ⟨id, rfl, rfl, rfl, rfl, rfl, rfl, id, hout⟩

/-- PERST_N changes a port alone. -/
theorem Dev.staysDown_modPort (d : Dev) (port : Nat) (f : Port → Port) : d.StaysDown (d.modPort port f) :=
  ⟨id, rfl, rfl, rfl, rfl, rfl, rfl, id, [], by simp, by simp⟩

/-- A rail fault takes the power or is noted, and drops LIVE_OUT (R472). -/
theorem devRailFault_staysDown (d : Dev) (alwaysOn : Bool) : d.StaysDown (devRailFault alwaysOn d) := by
  unfold devRailFault
  split
  · exact ⟨id, rfl, rfl, rfl, rfl, rfl, rfl, fun _ => rfl, [], by simp, by simp⟩
  · split
    · exact ⟨id, rfl, rfl, rfl, rfl, rfl, rfl, id, [], by simp, by simp⟩
    · exact ⟨fun _ => Bool.or_true _, rfl, rfl, rfl, rfl, rfl, rfl, fun _ => rfl, [], by simp, by simp⟩

/-- RESET_N released samples the straps and lifts no stop (R472, R475). -/
theorem devResetNRelease_staysDown (d : Dev) (geo role : Nat) : d.StaysDown (devResetNRelease geo role d) := by
  have hs : d.StaysDown (d.sampled geo role) := ⟨id, rfl, rfl, rfl, rfl, rfl, rfl, id, [], by simp [Dev.sampled], by simp⟩
  by_cases hlow : d.acc.powered = true ∧ d.acc.resetLow = true
  · by_cases hrole : role % 4 < 2
    · rwa [devResetNRelease_of_role hlow.1 hlow.2 hrole]
    · rw [devResetNRelease_of_reservedRole hlow.1 hlow.2 (Nat.not_lt.1 hrole)]
      exact ⟨hs.stopped, rfl, rfl, rfl, rfl, rfl, rfl, hs.liveOut, hs.out⟩
  · rw [devResetNRelease, if_pos (by simpa [imp_iff_not_or] using hlow)]
    exact (Dev.AnswersDocent.refl d).staysDown

/-- A command that is neither a power-up nor RESET_N asserted leaves a device that is not live down. -/
theorem exec_staysDown {c : Instr} {s t : State} (h : s.dev.live = false) (hp : c ≠ .powerUp) (ha : c ≠ .resetNAssert)
    (he : exec c s = .next t) : s.dev.StaysDown t.dev := by
  rw [exec_of_not_live h, Host.Outcome.next.injEq] at he
  subst he
  change s.dev.StaysDown ((Instr.unguarded c).elim s.dev fun f => f s.dev)
  cases c
  case powerUp => exact absurd rfl hp
  case resetNAssert => exact absurd rfl ha
  case resetNRelease geo role => exact devResetNRelease_staysDown s.dev geo role
  case perstNAssert port =>
    change s.dev.StaysDown (devPerstNAssert port s.dev)
    exact (devPerstNAssert_of_not_live h).symm ▸ s.dev.staysDown_modPort port _
  case perstNRelease port => exact s.dev.staysDown_modPort port _
  case railFault alwaysOn => exact devRailFault_staysDown s.dev alwaysOn
  case docentRead b => exact (devDocentRead_of_not_live h).staysDown
  case docentWrite b => exact (devDocentWrite_of_not_live h).staysDown
  case docentResponseAbandon => exact (devDocentResponseAbandon_of_not_live h).staysDown
  all_goals exact (Dev.AnswersDocent.refl s.dev).staysDown

/-- Settles O6: a stopped device is not live, so no row but those of the pins and of the Docent bus acts on it, and none of these
lifts the stop; its always-on registers have no rule of their own for a write (log 48). -/
theorem stoppedDeviceLeavesOnlyByReset : Obligations.StoppedDeviceLeavesOnlyByReset := by
  intro c s t hstop ha hp he
  have hdead : s.dev.live = false := by
    simp only [Dev.stopped, Bool.or_eq_true] at hstop
    rcases hstop with h | h <;> simp [Dev.live, h]
  have h := exec_staysDown hdead hp ha he
  exact ⟨h.stopped hstop, h.ctxs, h.mem, h.poison, h.extents, h.blocks, h.media, h.liveOut, h.out⟩

/-! ### Reset (R424, R475) -/

/-- A change of registers, the Docent bus and its responses leaves RESET_N as it is. -/
theorem Dev.AnswersDocent.resetLow {d e : Dev} (h : d.AnswersDocent e) : e.acc.resetLow = d.acc.resetLow := by
  rw [h.1]

/-- A rail fault leaves RESET_N as it is. -/
theorem devRailFault_resetLow (d : Dev) (alwaysOn : Bool) : (devRailFault alwaysOn d).acc.resetLow = d.acc.resetLow := by
  unfold devRailFault
  split
  · rfl
  · split <;> rfl

/-- RESET_N asserted leaves it low, with no command state, and puts nothing out (R496). -/
theorem devResetNAssert_low {d : Dev} (h : d.acc.resetLow = true) :
    (devResetNAssert d).acc.resetLow = true ∧ ((devResetNAssert d).ctxs = d.ctxs ∨ (devResetNAssert d).ctxs = []) ∧
      (devResetNAssert d).out = d.out := by
  unfold devResetNAssert
  split
  · exact ⟨h, .inl rfl, rfl⟩
  · exact ⟨rfl, .inr rfl, rfl⟩

/-- Of a device that is not live no command but RESET_N and a power-up moves RESET_N. -/
theorem exec_resetLow_of_not_live {c : Instr} {s t : State} (h : s.dev.live = false) (hp : c ≠ .powerUp) (ha : c ≠ .resetNAssert)
    (hr : ∀ geo role, c ≠ .resetNRelease geo role) (he : exec c s = .next t) : t.dev.acc.resetLow = s.dev.acc.resetLow := by
  rw [exec_of_not_live h, Host.Outcome.next.injEq] at he
  subst he
  change ((Instr.unguarded c).elim s.dev fun f => f s.dev).acc.resetLow = s.dev.acc.resetLow
  cases c
  case powerUp => exact absurd rfl hp
  case resetNAssert => exact absurd rfl ha
  case resetNRelease geo role => exact absurd rfl (hr geo role)
  case perstNAssert port => exact congrArg (·.acc.resetLow) (devPerstNAssert_of_not_live h)
  case railFault alwaysOn => exact devRailFault_resetLow s.dev alwaysOn
  case docentRead b => exact (devDocentRead_of_not_live h).resetLow
  case docentWrite b => exact (devDocentWrite_of_not_live h).resetLow
  case docentResponseAbandon => exact (devDocentResponseAbandon_of_not_live h).resetLow
  all_goals rfl

/-- Settles O7: a device in reset is not live; a power-up and RESET_N asserted anew hold it in reset, and what else acts leaves the pin. -/
theorem deviceInResetStaysInReset : Obligations.DeviceInResetStaysInReset := by
  intro c s t hlow hr he
  have hdead : s.dev.live = false := by simp [Dev.live, hlow]
  by_cases hp : c = .powerUp
  · subst hp
    rw [← Host.Outcome.next.inj he]
    exact ⟨rfl, .inr rfl, [], (List.append_nil _).symm, by simp⟩
  · by_cases ha : c = .resetNAssert
    · subst ha
      rw [← Host.Outcome.next.inj he]
      obtain ⟨h1, h2, h3⟩ := devResetNAssert_low hlow
      exact ⟨h1, h2, [], by rw [List.append_nil]; exact h3, by simp⟩
    · have h := exec_staysDown hdead hp ha he
      exact ⟨(exec_resetLow_of_not_live hdead hp ha hr he).trans hlow, .inl h.ctxs, h.out⟩

end Sys2Proof.Machine
end

section
/-! PROOF. Fields of stored registers, reads and refused accesses of BAR0, statistics counters, and the record of a fault (R412, R414,
R415, R419, R421, R491, R494). -/

namespace Sys2Proof.Machine

/-! ### Fields of a register -/

/-- Bit `i` of a mask. -/
theorem testBit_mask {hi lo : Nat} (h : lo ≤ hi + 1) (i : Nat) : (mask hi lo).testBit i = (decide (lo ≤ i) && decide (i ≤ hi)) := by
  have hm : mask hi lo = 2 ^ lo * (2 ^ (hi + 1 - lo) - 1) := by
    rw [mask, Nat.mul_sub, ← Nat.pow_add, Nat.add_sub_cancel' h, Nat.mul_one]
  rw [hm, Nat.testBit_two_pow_mul, Nat.testBit_two_pow_sub_one]
  by_cases hlo : lo ≤ i
  · have : i - lo < hi + 1 - lo ↔ i ≤ hi := by omega
    simp [hlo, this]
  · simp [hlo]

/-- Bit `i` of a field. -/
theorem testBit_bits (n hi lo i : Nat) : (bits n hi lo).testBit i = (decide (i ≤ hi - lo) && n.testBit (lo + i)) := by
  rw [bits, Nat.testBit_mod_two_pow, Nat.testBit_div_two_pow]
  simp only [Nat.lt_succ_iff, Nat.add_comm i lo]

/-- Bit `i` of a value with a field replaced: in the field the new one's, elsewhere the old one. -/
theorem testBit_putField {v : W64} {hi lo x : Nat} (h : lo ≤ hi) {i : Nat} (hi64 : i < 64) :
    (putField v hi lo x).toNat.testBit i = if lo ≤ i ∧ i ≤ hi then x.testBit (i - lo) else v.toNat.testBit i := by
  have hx : (x * 2 ^ lo % 2 ^ (hi + 1)).testBit i = (decide (lo ≤ i ∧ i ≤ hi) && x.testBit (i - lo)) := by
    rw [Nat.testBit_mod_two_pow, Nat.mul_comm, Nat.testBit_two_pow_mul]
    by_cases h1 : lo ≤ i <;> by_cases h2 : i ≤ hi <;> simp [h1, h2]
  simp only [BitVec.testBit_toNat, putField, BitVec.getLsbD_or, BitVec.getLsbD_and, BitVec.getLsbD_not, BitVec.getLsbD_ofNat, hi64,
    decide_true, Bool.true_and, testBit_mask (by omega : lo ≤ hi + 1), hx]
  split
  next hin => simp [hin]
  next hout => 
    have : (decide (lo ≤ i) && decide (i ≤ hi)) = false := by simpa using hout
    simp [this, hout]

/-- A field reads what was put into it. -/
theorem bits_putField_same {v : W64} {hi lo x : Nat} (h : lo ≤ hi) (h64 : hi < 64) :
    bits (putField v hi lo x).toNat hi lo = x % 2 ^ (hi - lo + 1) := by
  apply Nat.eq_of_testBit_eq
  intro i
  rw [testBit_bits, Nat.testBit_mod_two_pow]
  by_cases hi' : i ≤ hi - lo
  · rw [testBit_putField h (by omega), if_pos (by omega), Nat.add_sub_cancel_left]
    simp [hi']
  · simp [hi']

/-- A field that shares no bit with the one replaced reads as before. -/
theorem bits_putField_other {v : W64} {hi lo x hi' lo' : Nat} (h : lo ≤ hi) (h64 : hi' < 64) (hle : lo' ≤ hi')
    (hd : hi' < lo ∨ hi < lo') : bits (putField v hi lo x).toNat hi' lo' = bits v.toNat hi' lo' := by
  apply Nat.eq_of_testBit_eq
  intro i
  rw [testBit_bits, testBit_bits]
  by_cases hi' : i ≤ hi' - lo'
  · rw [testBit_putField h (by omega), if_neg (by omega)]
  · simp [hi']

/-- A field of a stored register reads what was set. -/
theorem Dev.field_setField_same (d : Dev) (o : Nat) {hi lo x : Nat} (h : lo ≤ hi) (h64 : hi < 64) :
    (d.setField o hi lo x).field o hi lo = x % 2 ^ (hi - lo + 1) := by
  rw [Dev.field, Dev.setField, Dev.reg_setReg_self, bits_putField_same h h64]

/-- Another field of the same register reads as before. -/
theorem Dev.field_setField_other (d : Dev) (o : Nat) {hi lo x hi' lo' : Nat} (h : lo ≤ hi) (h64 : hi' < 64) (hle : lo' ≤ hi')
    (hd : hi' < lo ∨ hi < lo') : (d.setField o hi lo x).field o hi' lo' = d.field o hi' lo' := by
  rw [Dev.field, Dev.setField, Dev.reg_setReg_self, bits_putField_other h h64 hle hd, ← Dev.field]

/-- A field of a register of another offset reads as before. -/
theorem Dev.field_setField_elsewhere (d : Dev) {o p : Nat} {hi lo x hi' lo' : Nat} (h : o ≠ p) :
    (d.setField o hi lo x).field p hi' lo' = d.field p hi' lo' := by
  rw [Dev.field, Dev.reg_setField_other _ _ _ _ h, ← Dev.field]

/-! ### A fault record (R412, R414, R415) -/

section
variable (d : Dev)

/-- What an area holds beside its registers is no register. -/
theorem Dev.reg_setArea (x : FaultAreaState) (o : Nat) : (d.setArea x).reg o = d.reg o := rfl

/-- A lost record's copy is in its three registers alone. -/
theorem Dev.reg_copyLost_below {o p : Nat} (bytes : List Byte) (h : p < o) : (d.copyLost o bytes).reg p = d.reg p := by
  rw [Dev.copyLost, Dev.reg_setReg_other _ _ (by omega), Dev.reg_setReg_other _ _ (by omega), Dev.reg_setReg_other _ _ (by omega)]

/-- Below FIRST and LATEST, a record counted lost changes its class counter and OVERFLOW alone (R415). -/
theorem Dev.reg_lose_below (f : FaultRecord) {o : Nat} (h : o < areaBase f.area + 0xA0) :
    (d.lose f).reg o = ((d.setReg (areaBase f.area + 0x18 + 8 * f.cls) (bumpCounter (d.reg (areaBase f.area + 0x18 + 8 * f.cls)) 1)).setField
      (areaBase f.area + 0x10) 63 63 1).reg o := by
  unfold Dev.lose
  dsimp only
  rw [Dev.reg_setArea]
  split
  · rw [Dev.reg_copyLost_below _ _ (by omega)]
  · rw [Dev.reg_copyLost_below _ _ h, Dev.reg_copyLost_below _ _ (by omega)]

/-- A record counted lost counts in its class (R415). -/
theorem Dev.reg_lose_counter (f : FaultRecord) (h : f.cls ≤ 16) :
    (d.lose f).reg (areaBase f.area + 0x18 + 8 * f.cls) = bumpCounter (d.reg (areaBase f.area + 0x18 + 8 * f.cls)) 1 := by
  rw [Dev.reg_lose_below d f (by omega), Dev.reg_setField_other _ _ _ _ (by omega), Dev.reg_setReg_self]

/-- A record counted lost sets OVERFLOW (R415). -/
theorem Dev.overflow_lose (f : FaultRecord) : (d.lose f).field (areaBase f.area + 0x10) 63 63 = 1 := by
  rw [Dev.field, Dev.reg_lose_below d f (by omega), ← Dev.field, Dev.field_setField_same _ _ (by omega) (by omega)]
  rfl

/-- A record counted lost leaves SEQ and NEXT (R415). -/
theorem Dev.field_status_lose (f : FaultRecord) {hi lo : Nat} (hle : lo ≤ hi) (h63 : hi < 63) :
    (d.lose f).field (areaBase f.area + 0x10) hi lo = d.field (areaBase f.area + 0x10) hi lo := by
  rw [Dev.field, Dev.reg_lose_below d f (by omega), ← Dev.field,
    Dev.field_setField_other _ _ (by omega) (by omega) hle (by omega), Dev.field, Dev.reg_setReg_other _ _ (by omega), ← Dev.field]

/-- Copying a lost record changes registers alone. -/
theorem Dev.copyLost_eq (o : Nat) (bytes : List Byte) : ∃ rs, d.copyLost o bytes = { d with regs := rs } := ⟨_, rfl⟩

/-- A record counted lost changes registers, and marks its area's next record as after a loss (R415). -/
theorem Dev.lose_eq (f : FaultRecord) :
    ∃ rs, d.lose f = ({ d with regs := rs } : Dev).setArea { d.areaState f.area with afterLoss := true } := by
  unfold Dev.lose
  dsimp only
  obtain ⟨rs, hrs⟩ := Dev.copyLost_eq ((d.setReg (areaBase f.area + 0x18 + 8 * f.cls)
    (bumpCounter (d.reg (areaBase f.area + 0x18 + 8 * f.cls)) 1)).setField (areaBase f.area + 0x10) 63 63 1) (areaBase f.area + 0xB8)
    (f.tail (d.areaState f.area).afterLoss d.coll.geoId)
  rw [hrs]
  split
  · exact ⟨rs, rfl⟩
  · exact ⟨_, rfl⟩

/-- A record counted lost leaves what waits, and marks the next record as after a loss (R415). -/
theorem Dev.areaState_lose (f : FaultRecord) :
    (d.lose f).areaState f.area = { d.areaState f.area with afterLoss := true } := by
  obtain ⟨rs, h⟩ := d.lose_eq f
  rw [h]
  simpa using Dev.areaState_setArea { d with regs := rs } { d.areaState f.area with afterLoss := true }

/-- A record counted lost puts nothing out. -/
theorem Dev.out_lose (f : FaultRecord) : (d.lose f).out = d.out := by
  obtain ⟨rs, h⟩ := d.lose_eq f
  rw [h, Dev.setArea_out]

section
variable (a : FaultArea) (cls : Nat) (st : Option Status) (dom ctx : Nat) (seq : W32) (host d0 d1 d2 : Nat)

/-- The record that a fault makes, under the area's settings and its next sequence number (R412). -/
def Dev.newRecord : FaultRecord :=
  { area := a, cls := cls, status := st, domain := dom, ctx := ctx, time := d.now, seq := seq, host := host, d0 := d0, d1 := d1, d2 := d2
    recSeq := BitVec.ofNat 32 (d.field (areaBase a + 0x10) 31 0), base := d.field (areaBase a) 63 6 * 64
    port := d.field (areaBase a + 8) 19 18, enabled := d.field (areaBase a + 8) 0 0 == 1
    vector := if d.field (areaBase a + 8) 20 20 = 1 then some (d.field (areaBase a + 8) 31 21) else none }

/-- The device once a fault has taken its area's next sequence number (R412). -/
def Dev.numbered : Dev := d.setField (areaBase a + 0x10) 31 0 ((d.field (areaBase a + 0x10) 31 0 + 1) % 2 ^ 32)

/-- An area has room for a record: it is enabled, fewer than 64 wait, and the first needs its port up (R414, R415). -/
def Dev.recordFits : Prop :=
  d.field (areaBase a + 8) 0 0 = 1 ∧ (d.areaState a).waiting.length < 64 ∧
    ((d.areaState a).waiting ≠ [] ∨ d.portUp (d.field (areaBase a + 8) 19 18) = true)

/-- A record without room is counted lost (R415). -/
theorem Dev.faultRecord_of_not_fits (h : ¬ d.recordFits a) :
    d.faultRecord a cls st dom ctx seq host d0 d1 d2 = (d.numbered a).lose (d.newRecord a cls st dom ctx seq host d0 d1 d2) := by
  refine if_pos ?_
  simp only [Dev.recordFits, not_and_or, not_lt, not_or, not_not, Bool.not_eq_true] at h
  change (!(d.field (areaBase a + 8) 0 0 == 1) || decide (64 ≤ (d.areaState a).waiting.length) ||
    ((d.areaState a).waiting.isEmpty && !d.portUp (d.field (areaBase a + 8) 19 18))) = true
  rcases h with h | h | h <;> simp [h]

/-- A record with room waits, and as the first of its area has the owned word of slot NEXT read (R414). -/
theorem Dev.faultRecord_of_fits (h : d.recordFits a) :
    let f := d.newRecord a cls st dom ctx seq host d0 d1 d2
    let e := (d.numbered a).setArea { d.areaState a with waiting := (d.areaState a).waiting ++ [f] }
    d.faultRecord a cls st dom ctx seq host d0 d1 d2 = if (d.areaState a).waiting = [] then e.askOwned f else e := by
  obtain ⟨hen, hlen, hport⟩ := h
  refine (if_neg ?_).trans ?_
  · change ¬ (!(d.field (areaBase a + 8) 0 0 == 1) || decide (64 ≤ (d.areaState a).waiting.length) ||
      ((d.areaState a).waiting.isEmpty && !d.portUp (d.field (areaBase a + 8) 19 18))) = true
    rcases hport with h | h <;> simp [h, hen, hlen]
  · exact if_congr List.isEmpty_iff rfl rfl

end

/-- A fault takes one sequence number (R412). -/
theorem Dev.seq_numbered (a : FaultArea) :
    (d.numbered a).field (areaBase a + 0x10) 31 0 = (d.field (areaBase a + 0x10) 31 0 + 1) % 2 ^ 32 := by
  rw [Dev.numbered, Dev.field_setField_same _ _ (by omega) (by omega)]
  exact Nat.mod_mod _ _

/-- Taking a number leaves the counters of the lost (R412). -/
theorem Dev.reg_numbered (a : FaultArea) (cls : Nat) :
    (d.numbered a).reg (areaBase a + 0x18 + 8 * cls) = d.reg (areaBase a + 0x18 + 8 * cls) :=
  d.reg_setField_other _ _ _ (by omega)

end

/-- Settles O60: the record takes its number, then is counted lost or waits. -/
theorem faultRecordIsQueuedOrCounted : Obligations.FaultRecordIsQueuedOrCounted := by
  intro d a cls dom ctx host d0 d1 d2 st seq hcls b c e port room
  have hframe := (d.reports_faultRecord a cls st dom ctx seq host d0 d1 d2).frame
  obtain ⟨hctxs, hmem, -, -, -, hpoints, -⟩ := hframe
  by_cases hroom : d.recordFits a
  · have he := d.faultRecord_of_fits a cls st dom ctx seq host d0 d1 d2 hroom
    set f := d.newRecord a cls st dom ctx seq host d0 d1 d2 with hf
    set g := (d.numbered a).setArea { d.areaState a with waiting := (d.areaState a).waiting ++ [f] } with hg
    have hask : e = if (d.areaState a).waiting = [] then g.askOwned f else g := he
    have hreg : ∀ o, e.reg o = (d.numbered a).reg o := fun o => by rw [hask]; split <;> rfl
    have hfaults : e.areaState a = g.areaState a := by rw [hask]; split <;> rfl
    refine ⟨?_, hpoints, hmem, hctxs, fun h => absurd hroom h, fun _ => ⟨?_, f, ?_, rfl, rfl, rfl, rfl, rfl, rfl, ?_⟩⟩
    · rw [Dev.field, hreg, ← Dev.field, Dev.seq_numbered]
    · rw [hreg, Dev.reg_numbered]
    · rw [hfaults, hg]
      simpa using congrArg (·.waiting) (Dev.areaState_setArea (d.numbered a) { d.areaState a with waiting := (d.areaState a).waiting ++ [f] })
    · rw [Dev.field, hreg, ← Dev.field, hask]
      split
      · exact Dev.emit_out _ _
      · exact (List.append_nil _).symm
  · have he : e = _ := d.faultRecord_of_not_fits a cls st dom ctx seq host d0 d1 d2 hroom
    set f := d.newRecord a cls st dom ctx seq host d0 d1 d2 with hf
    refine ⟨?_, hpoints, hmem, hctxs, fun _ => ⟨?_, ?_, ?_, ?_, ?_⟩, fun h => absurd h hroom⟩
    · rw [he]; exact (Dev.field_status_lose _ f (by omega) (by omega)).trans (d.seq_numbered a)
    · rw [he]; exact (Dev.reg_lose_counter _ f hcls).trans (congrArg (bumpCounter · 1) (d.reg_numbered a cls))
    · rw [he]; exact Dev.out_lose _ f
    · rw [he]; exact congrArg (·.waiting) (Dev.areaState_lose (d.numbered a) f)
    · rw [he]; exact congrArg (·.afterLoss) (Dev.areaState_lose (d.numbered a) f)
    · rw [he]; exact Dev.overflow_lose _ f

/-! ### Reads and refused accesses of BAR0 (R421, R491, R494) -/

section
variable {s : State} {d : Dev} {port host offset size : Nat}

/-- A register access over a served port finds the port in L0. -/
theorem onSrc_bar {i : Instr} (f : Dev → Dev) (h : d.serves port = true) (hi : senderOf i = none) :
    onSrc i (.bar port host) f d = f (d.toL0 port) := by
  have hr : d.reached i port = d.toL0 port := by simp [Dev.reached, Dev.carries, hi]
  simp only [onSrc]
  rw [onTraffic_of_serves h, hr]

/-- A register write over a served port is admitted on the port in L0. -/
theorem onRegister_bar {i : Instr} {w : RegWrite} {kind : Dev → Bool} {f : Dev → Dev} (h : d.serves port = true)
    (hi : senderOf i = none) (hw : w.src = .bar port host) :
    onRegister i w kind f d = (d.toL0 port).onWrite w fun d => if kind d then f d else d := by
  rw [onRegister, hw, onSrc_bar _ h hi]

/-- A register read over a served port finds the port in L0. -/
theorem exec_counterReadClear_bar (h : s.dev.serves port = true) :
    exec (.counterReadClear { src := .bar port host, offset := offset, size := size }) s =
      .next { s with dev := (s.dev.toL0 port).barRead port host offset size } :=
  whenLive_of_eq (Dev.serves_live h) (onSrc_bar _ h rfl)

/-- A served port is up. -/
theorem Dev.portUp_of_serves (h : d.serves port = true) : (d.toL0 port).portUp port = true := by
  simp only [Dev.serves, Bool.and_eq_true] at h
  rw [Dev.portUp_toL0, h.2]

/-- A read that is misaligned or comes in BOOTING has no data (R491). -/
theorem Dev.barRead_unserved (hup : d.portUp port = true) (h : wellAligned offset size = false ∨ d.acc.state = .booting) :
    d.barRead port host offset size = d.emit (.regData port none) := by
  have hb : (!wellAligned offset size || d.acc.state == .booting) = true := by rcases h with h | h <;> simp [h]
  simp [Dev.barRead, hup, hb]

/-- A read that is refused is counted, and has no data (R494). -/
theorem Dev.barRead_refused (hup : d.portUp port = true) (ha : wellAligned offset size = true) (hb : d.acc.state ≠ .booting)
    (h : d.reaches0 host (offset / 8 * 8) = false) :
    d.barRead port host offset size = (d.count (portOff port 0x210) 1).emit (.regData port none) := by
  simp [Dev.barRead, hup, ha, hb, h]

/-- The domain a read's answer is charged to: the page's, or the system's (R314). -/
def chargedDomain (off : Nat) : Nat :=
  match blockOf off with
  | .page dm => dm
  | _ => 256

/-- An offset lies in the block of its register (R29). -/
theorem blockOf_div_mul_eight (off : Nat) : blockOf (off / 8 * 8) = blockOf off := by
  have hlt : ∀ n, off / 8 * 8 < n * 8 ↔ off < n * 8 := fun n => by omega
  have hdiv : ∀ n, off / 8 * 8 / (8 * n) = off / (8 * n) := fun n => by
    rw [← Nat.div_div_eq_div_mul, Nat.mul_div_cancel _ (by omega), Nat.div_div_eq_div_mul]
  simp only [blockOf, hlt 0x2_0000, hlt 0x6_0000, hlt 0x6_0800, hlt 0x6_1800, hlt 0x6_5800, hlt 0x6_6800, hlt 0x6_B800, hdiv 0x400,
    hdiv 0x200]

/-- The domain of a read, as its statement words it. -/
theorem chargedDomain_of_block {off dom : Nat}
    (h : (∃ dm, blockOf (off / 8 * 8) = .page dm ∧ dom = dm) ∨ ((∀ dm, blockOf (off / 8 * 8) ≠ .page dm) ∧ dom = 256)) :
    dom = chargedDomain off := by
  rw [blockOf_div_mul_eight] at h
  rcases h with ⟨dm, hb, rfl⟩ | ⟨hb, rfl⟩
  · simp [chargedDomain, hb]
  · unfold chargedDomain
    split
    · next dm hdm => exact absurd hdm (hb dm)
    · rfl

/-- A read that is served answers with the whole, cleared, or with the half it names (R421). -/
theorem Dev.barRead_served (hup : d.portUp port = true) (ha : wellAligned offset size = true) (hb : d.acc.state ≠ .booting)
    (h : d.reaches0 host (offset / 8 * 8) = true) :
    d.barRead port host offset size =
      (if size = 8 then d.readClear (offset / 8 * 8) else d).toPort port (chargedDomain offset) false size none (.regData port (some
        (if size = 8 then d.view (offset / 8 * 8) else if offset % 8 = 4 then d.view (offset / 8 * 8) >>> 32
          else d.view (offset / 8 * 8) &&& BitVec.ofNat 64 (mask 31 0)))) := by
  exact (if_neg (by simp [hup])).trans ((if_neg (by simp [ha, hb])).trans (if_neg (by simp [h])))

/-- A write that is misaligned or comes in BOOTING is dropped (R491). -/
theorem Dev.onWrite_unserved {w : RegWrite} (f : Dev → Dev) (h : wellAligned w.offset w.size = false ∨ d.acc.state = .booting) :
    d.onWrite w f = d := by
  refine if_pos ?_
  rcases h with h | h <;> simp [h]

/-- A write that is refused is counted (R494). -/
theorem Dev.onWrite_refused {w : RegWrite} (f : Dev → Dev) (hup : d.portUp port = true) (hs : w.src = .bar port host)
    (ha : wellAligned w.offset w.size = true) (hb : d.acc.state ≠ .booting) (h : d.reaches0 host w.reg = false) :
    d.onWrite w f = d.count (portOff port 0x210) 1 := by
  simp [Dev.onWrite, hup, ha, hb, hs, h]

end

/-- Settles O18: an access that is misaligned or comes in BOOTING is dropped, one that the host identity may not make counted; that a
read in BOOTING is answered without data is log 88. -/
theorem refusedAccessOnlyCounts : Obligations.RefusedAccessOnlyCounts := by
  intro s port host offset size v hs w a d
  have hup : d.portUp port = true := Dev.portUp_of_serves hs
  have hwrite : ∀ e, (∀ f, d.onWrite w f = e) → exec (.registerWrite w) s = .next { s with dev := e } := fun e he =>
    whenLive_of_eq (Dev.serves_live hs) ((onRegister_bar hs rfl rfl).trans (he _))
  have hread : ∀ e, d.barRead port host offset size = e → exec (.counterReadClear a) s = .next { s with dev := e } := fun e he =>
    he ▸ exec_counterReadClear_bar hs
  exact ⟨fun h => ⟨hwrite _ fun f => Dev.onWrite_unserved f h, hread _ (Dev.barRead_unserved hup h)⟩,
    fun ha hb h => ⟨hwrite _ fun f => Dev.onWrite_refused f hup rfl ha hb h, hread _ (Dev.barRead_refused hup ha hb h)⟩⟩

/-! ### Statistics counters (R419) -/

/-- A counter after events, as a number: OVERFLOW and the saturated count. -/
theorem toNat_bumpCounter (v : W64) (n : Nat) :
    (bumpCounter v n).toNat =
      b2n (v.toNat / 2 ^ 63 == 1 || min (v.toNat % 2 ^ 63 + n) countMax == countMax) * 2 ^ 63 + min (v.toNat % 2 ^ 63 + n) countMax := by
  have hc : min (v.toNat % 2 ^ 63 + n) countMax < 2 ^ 63 := lt_of_le_of_lt (Nat.min_le_right _ _) (by decide)
  have hb : ∀ x : Bool, b2n x ≤ 1 := by decide
  rw [bumpCounter, BitVec.toNat_ofNat, Nat.mod_eq_of_lt]
  have := hb (v.toNat / 2 ^ 63 == 1 || min (v.toNat % 2 ^ 63 + n) countMax == countMax)
  omega

/-- Settles O19: a read is served whole, with its clear, or by its half; a counter is its OVERFLOW and its saturated count. -/
theorem countersSaturateAndClear : Obligations.CountersSaturateAndClear := by
  refine ⟨?reads, fun v n => ⟨fun hlt h63 => ?counts, fun hge => ?saturates, fun hovf => ?keeps, rfl⟩⟩
  case reads =>
    intro s port host offset dom hs d hdom hb hreach hoff
    have hup : d.portUp port = true := Dev.portUp_of_serves hs
    have hdom := chargedDomain_of_block hdom
    have hread : ∀ size, wellAligned offset size = true →
        exec (.counterReadClear { src := .bar port host, offset := offset, size := size }) s = .next { s with dev := _ } := fun size ha =>
      (exec_counterReadClear_bar hs).trans (congrArg (fun e => Host.Outcome.next { s with dev := e }) (Dev.barRead_served hup ha hb hreach))
    refine ⟨fun h0 => ⟨(hread 8 ?_).trans ?_, (hread 4 ?_).trans ?_⟩, fun h4 => (hread 4 ?_).trans ?_⟩
    · simp only [wellAligned, Bool.and_eq_true, decide_eq_true_eq]; simp; omega
    · simp [hdom, Nat.div_mul_cancel (Nat.dvd_of_mod_eq_zero h0)]
    · simp only [wellAligned, Bool.and_eq_true, decide_eq_true_eq]; simp; omega
    · simp [hdom, Nat.div_mul_cancel (Nat.dvd_of_mod_eq_zero h0), h0]
    · simp only [wellAligned, Bool.and_eq_true, decide_eq_true_eq]; simp; omega
    · simp [hdom, h4]
  case counts =>
    rw [toNat_bumpCounter]
    have h1 : (v.toNat / 2 ^ 63 == 1) = false := by simp; omega
    have h2 : (min (v.toNat % 2 ^ 63 + n) countMax == countMax) = false := by simp [countMax]; omega
    rw [h1, h2, countMax]
    simp [b2n]
    omega
  case saturates =>
    have hmin : min (v.toNat % 2 ^ 63 + n) countMax = countMax := Nat.min_eq_right hge
    apply BitVec.eq_of_toNat_eq
    rw [toNat_bumpCounter, hmin, beq_self_eq_true, Bool.or_true]
    rfl
  case keeps =>
    have hlt := v.isLt
    have h1 : (v.toNat / 2 ^ 63 == 1) = true := by rw [beq_iff_eq]; omega
    rw [toNat_bumpCounter, h1, Bool.true_or]
    simp only [b2n, if_true, Nat.one_mul]
    exact Nat.le_add_right _ _

end Sys2Proof.Machine
end

section
/-! PROOF. Homes under wide interleave (R353). -/

namespace Sys2Proof.Machine

/-- Under wide interleave the home of an offset: a member of the group by its 4 KiB block, and the block's place on that member. -/
theorem homeOf_wide {g m a : Nat} (hm : m < 16) (ha : a < 2 ^ 51) :
    homeOf g (m * 2 ^ 52 + 2 ^ 51 + a) = (m + a / 4096 % g, a / 4096 / g * 4096 + a % 4096) := by
  have hbit : bit (m * 2 ^ 52 + 2 ^ 51 + a) 51 = true := by
    rw [bit, Nat.testBit_eq_decide_div_mod_eq, decide_eq_true_eq]
    omega
  have hmem : bits (m * 2 ^ 52 + 2 ^ 51 + a) 55 52 = m := by rw [bits]; omega
  have hoff : (m * 2 ^ 52 + 2 ^ 51 + a) % 2 ^ 51 = a := by omega
  simp only [homeOf, hbit, hmem, hoff, if_true]

/-- Settles O36: the member and the offset give the block's remainder and quotient by the width, and so the block; the offset gives the
place in the block. -/
theorem wideInterleaveInjective : Obligations.WideInterleaveInjective := by
  intro g m a b hg _ hle ha hb x y
  have hg0 : 0 < g := by omega
  have hx : homeOf g x = _ := homeOf_wide (by omega) ha
  have hy : homeOf g y = _ := homeOf_wide (by omega) hb
  have hrem := Nat.mod_lt (a / 4096) hg0
  rw [hx, hy]
  refine ⟨fun h => ?_, Nat.le_add_right _ _, Nat.add_lt_add_left hrem m, by rw [Nat.mul_add_mod_self_right, Nat.mod_mod]⟩
  obtain ⟨hmember, hoffset⟩ := Prod.mk.inj h
  have hblockRem : a / 4096 % g = b / 4096 % g := Nat.add_left_cancel hmember
  have hblockQuot : a / 4096 / g = b / 4096 / g := by omega
  have hblock : a / 4096 = b / 4096 := by
    rw [← Nat.div_add_mod (a / 4096) g, ← Nat.div_add_mod (b / 4096) g, hblockRem, hblockQuot]
  omega

end Sys2Proof.Machine
end

section
/-! PROOF. The sideband (R421, R445, R446, R479, R483 to R486): LIVE_IN, Docent frames, and the report and certificate of identity. -/

namespace Sys2Proof.Machine

/-! ### LIVE_IN (R479) -/

/-- Settles O13: that an edge toggles the level kept is log 86. -/
theorem liveInCommandsComplete : Obligations.LiveInCommandsComplete := by
  intro s t hlive
  refine ⟨whenLive_of_eq hlive rfl, fun hquiet => whenLive_of_eq hlive ?_⟩
  exact if_pos hquiet

/-! ### Frames (R483 to R486) -/

section
variable {d : Dev} {b : List Byte} {f : Dev → Dev}

/-- A frame for this device whose check passes takes its meaning. -/
theorem Dev.onFrame_of_ok (hp : d.acc.powered = true) (hok : frameOk b = true) (ha : beField b 0 1 = d.docent.address) :
    d.onFrame b f = f d.newFrame := by
  simp [Dev.onFrame, hp, hok, ha]

/-- A frame whose check fails is counted (R483). -/
theorem Dev.onFrame_of_bad (hp : d.acc.powered = true) (hok : frameOk b = false) : d.onFrame b f = d.newFrame.docentError := by
  simp [Dev.onFrame, hp, hok]

/-- A frame for another device is ignored (R484). -/
theorem Dev.onFrame_of_other (hp : d.acc.powered = true) (hok : frameOk b = true) (ha : beField b 0 1 ≠ d.docent.address) :
    d.onFrame b f = d.newFrame := by
  simp [Dev.onFrame, hp, hok, ha]

/-- A live device has power and is out of reset. -/
theorem Dev.powered_of_live (h : d.live = true) : d.acc.powered = true ∧ d.acc.resetLow = false := by
  simp only [Dev.live, Bool.and_eq_true, Bool.not_eq_true'] at h
  exact ⟨h.1.1.1, h.1.1.2⟩

/-- An awake device is entering no sleep state. -/
theorem Dev.phase_of_awake (h : d.awake = true) : d.power.device = .active ∧ d.power.phase = .none := by
  simpa [Dev.awake] using h

/-- An awake device past BOOTING serves what the bus may see (R499). -/
theorem Dev.docentCase_of_visible {off : Nat} (reading : Bool) (hlive : d.live = true) (hawake : d.awake = true)
    (hstate : d.acc.state = .availableFull) (hvis : docentVisible off = true) : d.docentCase off reading = .serve := by
  obtain ⟨hdev, hphase⟩ := Dev.phase_of_awake hawake
  have hdoze : d.dozing = false := by simp [Dev.dozing, hdev, hphase]
  have hlow := (Dev.powered_of_live hlive).2
  simp [Dev.docentCase, hlow, hstate, hvis, hlive, hdoze]

/-- A frame's request to an awake device past BOOTING is served, with nothing to wake. -/
theorem Dev.frameCase_of_visible {off : Nat} (reading : Bool) (hlive : d.live = true) (hawake : d.awake = true)
    (hstate : d.acc.state = .availableFull) (hvis : docentVisible off = true) :
    d.newFrame.dropLatch.docentCase off reading = .serve ∧ d.newFrame.dropLatch.power.phase = .none :=
  ⟨Dev.docentCase_of_visible reading hlive hawake hstate hvis, (Dev.phase_of_awake hawake).2⟩

end

section
variable {d : Dev} {b : List Byte} (hlive : d.live = true) (hawake : d.awake = true) (hstate : d.acc.state = .availableFull)
  (hok : frameOk b = true) (haddr : beField b 0 1 = d.docent.address) (hvis : docentVisible (frameOffset b) = true)
include hlive hawake hstate hok haddr hvis

/-- A READ is answered with the word, most significant byte first (R421, R483). -/
theorem devDocentRead_of_served (hlen : b.length = 6) (hop : frameOp b = 1) :
    devDocentRead b d =
      ((d.newFrame.dropLatch.docentWord (frameOffset b)).2).respondRead 0 (d.newFrame.dropLatch.docentWord (frameOffset b)).1 := by
  obtain ⟨hcase, hphase⟩ := Dev.frameCase_of_visible true hlive hawake hstate hvis
  rw [devDocentRead, Dev.onFrame_of_ok (Dev.powered_of_live hlive).1 hok haddr]
  simp [hop, hlen, hcase, hphase]

section
variable (hlen : b.length = 10) (hop : frameOp b = 2)
include hlen hop

/-- The low half is latched (R485). -/
theorem devDocentWrite_low (h : frameOffset b % 8 = 0) :
    devDocentWrite b d = ({ d with docent := { d.docent with
      writeLatch := some (frameOffset b / 8 * 8, BitVec.ofNat 32 (beField b 4 4)), responding := false } } : Dev).respondWrite 0 := by
  obtain ⟨hcase, hphase⟩ := Dev.frameCase_of_visible false hlive hawake hstate hvis
  rw [devDocentWrite, Dev.onFrame_of_ok (Dev.powered_of_live hlive).1 hok haddr]
  simp only [hop, hlen, hcase, hphase, h, ne_eq, not_true, if_false, beq_self_eq_true, Bool.or_true, if_true]
  rfl

/-- The high half after the low one of the same register applies both as one write (R485). -/
theorem devDocentWrite_pair {low : W32} (h : frameOffset b % 8 = 4)
    (hlatch : d.docent.writeLatch = some (frameOffset b / 8 * 8, low)) :
    devDocentWrite b d = (d.newFrame.dropLatch.docentApply {
      src := .docent, offset := frameOffset b / 8 * 8, size := 8
      value := BitVec.ofNat 64 ((BitVec.ofNat 32 (beField b 4 4) : W32).toNat * 2 ^ 32 + low.toNat) }).respondWrite 0 := by
  obtain ⟨hcase, hphase⟩ := Dev.frameCase_of_visible false hlive hawake hstate hvis
  have hl : d.newFrame.docent.writeLatch = some (frameOffset b / 8 * 8, low) := hlatch
  have h0 : ¬ frameOffset b % 8 = 0 := by omega
  rw [devDocentWrite, Dev.onFrame_of_ok (Dev.powered_of_live hlive).1 hok haddr]
  simp only [hop, hlen, hcase, hphase, h0, hl, ne_eq, not_true, if_false, beq_self_eq_true, Bool.or_true, if_true]

/-- The high half with nothing latched is BAD_OP (R485). -/
theorem devDocentWrite_alone (h : frameOffset b % 8 = 4) (hlatch : d.docent.writeLatch = none) :
    devDocentWrite b d = d.newFrame.dropLatch.respondWrite 1 := by
  obtain ⟨hcase, hphase⟩ := Dev.frameCase_of_visible false hlive hawake hstate hvis
  have hl : d.newFrame.docent.writeLatch = none := hlatch
  have h0 : ¬ frameOffset b % 8 = 0 := by omega
  rw [devDocentWrite, Dev.onFrame_of_ok (Dev.powered_of_live hlive).1 hok haddr]
  simp only [hop, hlen, hcase, hphase, h0, hl, ne_eq, not_true, if_false, beq_self_eq_true, Bool.or_true, if_true]

end

end

/-- Settles O14: a frame for this device ends the response before it and drops the latch, which the low half sets anew and the high
half completes. -/
theorem docentWritesArriveAsPairs : Obligations.DocentWritesArriveAsPairs := by
  intro s b hlive hawake hstate hok haddr hlen hop hvis reg data bare
  exact ⟨fun h0 => always_of_eq (devDocentWrite_low hlive hawake hstate hok haddr hvis hlen hop h0),
    fun low h4 hlatch => always_of_eq (devDocentWrite_pair hlive hawake hstate hok haddr hvis hlen hop h4 hlatch),
    fun h4 hlatch => always_of_eq (devDocentWrite_alone hlive hawake hstate hok haddr hvis hlen hop h4 hlatch)⟩

/-! ### Identity (R445, R446) -/

section
variable {d : Dev} {port : Nat} {nonce : List Byte} (hup : d.portUp port = true)
include hup

/-- A device that signs answers with its report. -/
theorem devOnaidReport_of_signs (h : d.signs = true) :
    devOnaidReport port nonce d = { d with out := d.out ++ [.mailbox port (d.onaidReport nonce)] } := by
  simp [devOnaidReport, hup, h, Dev.emit]

/-- A device that does not sign yet answers with no data object. -/
theorem devOnaidReport_of_not_signs (h : d.signs = false) :
    devOnaidReport port nonce d = { d with out := d.out ++ [.mailbox port []] } := by
  simp [devOnaidReport, hup, h, Dev.emit]

/-- A device that signs answers with its identity key, its serial and the root's signature. -/
theorem devIdentityCertificate_of_signs (h : d.signs = true) :
    devIdentityCertificate port d = { d with out := d.out ++
      [.mailbox port (fitTo Config.identityKey 2592 ++ natLe d.fuses.serial.toNat 8 ++ fitTo Config.certificateSignature 4627)] } := by
  simp [devIdentityCertificate, hup, h, Dev.emit]

/-- Without signing there is no certificate to give. -/
theorem devIdentityCertificate_of_not_signs (h : d.signs = false) :
    devIdentityCertificate port d = { d with out := d.out ++ [.mailbox port []] } := by
  simp [devIdentityCertificate, hup, h, Dev.emit]

end

/-- Settles O15: that a new frame ends the response before it is log 87; the key and the signatures are log 9. -/
theorem docentReadsAndIdentityComplete : Obligations.DocentReadsAndIdentityComplete := by
  refine ⟨fun s b => ⟨?read, fun hp hbad => ?bad, fun hp hok ha => ?other, fun hresp => ?abandon⟩, fun s port nonce hs => ?identity⟩
  case read =>
    intro hlive hawake hstate hok haddr hlen hop hvis
    exact always_of_eq (devDocentRead_of_served hlive hawake hstate hok haddr hvis hlen hop)
  case bad => exact ⟨always_of_eq (Dev.onFrame_of_bad hp hbad), always_of_eq (Dev.onFrame_of_bad hp hbad)⟩
  case other => exact ⟨always_of_eq (Dev.onFrame_of_other hp hok ha), always_of_eq (Dev.onFrame_of_other hp hok ha)⟩
  case abandon => exact always_of_eq (if_pos hresp)
  case identity =>
    have hup := Dev.reached_portUp (i := .onaidReport port nonce) hs
    exact ⟨fun h => ⟨onTraffic_of_eq hs (devOnaidReport_of_signs hup h), onTraffic_of_eq hs (devIdentityCertificate_of_signs hup h)⟩,
      fun h => ⟨onTraffic_of_eq hs (devOnaidReport_of_not_signs hup h), onTraffic_of_eq hs (devIdentityCertificate_of_not_signs hup h)⟩⟩

end Sys2Proof.Machine
end

section
/-! PROOF. The phases of accession up to AVAILABLE_PARTIAL (R424, R426 to R434, R439, R440). -/

namespace Sys2Proof.Machine

/-! ### The ROM (R426, R427) -/

/-- What the ROM settles and no pair changes: the phase, the firmware and the boot flash. -/
def Dev.romSettled (d : Dev) : Nat × AccState × Firmware × List Host.Cell := (d.acc.phase, d.acc.state, d.fw, d.bootFlash)

/-- A pair that fails leaves what the ROM settles (R22). -/
theorem Dev.romSettled_dropPair (d : Dev) (p : Nat) : (d.dropPair p).romSettled = d.romSettled := by
  unfold Dev.dropPair
  dsimp only
  split <;> rfl

/-- A pass record leaves what the ROM settles (R443). -/
theorem Dev.romSettled_notePass (d : Dev) (u : PassUnit) : (d.notePass u).romSettled = d.romSettled := rfl

/-- A pair runs: the fuses leave it both cores, and it passes its self-test or skips it on the fast path (R430, R443). -/
def Dev.pairRuns (d : Dev) (pairs : Nat) (digest : List Byte) (p : Nat) : Bool :=
  d.fuses.pairOk p && (bit pairs p || d.fastPath (.pair p) digest)

section
variable {d : Dev} {pairs : Nat} {flash : List (Nat × List Byte)} {slot : Nat} {b : List Byte}

/-- With a slot to run and a pair that passes, the ROM runs the slot's firmware, and the screens are next. -/
theorem devRomBootDone_of_pick (hstate : d.acc.state = .booting) (hphase : d.acc.phase = 1) :
    let e : Dev := { d with bootFlash := flash.foldl (fun (m : List Host.Cell) (e : Nat × List Byte) => memWrite m e.1 e.2) d.bootFlash }
    e.pickFirmware = some (slot, b) → (∃ p < 4, e.fuses.pairOk p = true ∧ bit pairs p = true) →
      (devRomBootDone pairs flash d).romSettled =
        (3, .booting, { Firmware.reset with
          version := BitVec.ofNat 64 (fieldAt b 16 8), rollback := fieldAt b 24 4, digest := slice b 32 64, runningSlot := slot
          preferred := (e.bootDir.map preferredSlot).getD 0 }, e.bootFlash) := by
  intro e hpick ⟨p, hp, hfuse, hpass⟩
  have hany : [0, 1, 2, 3].any (e.pairRuns pairs (slice b 32 64)) = true := by
    refine List.any_eq_true.2 ⟨p, by simp; omega, ?_⟩
    rw [Dev.pairRuns, hfuse, hpass, Bool.true_or, Bool.true_and]
  have hstart : (d.acc.state != .booting || d.acc.phase != 1) = false := by simp [hstate, hphase]
  unfold devRomBootDone
  rw [if_neg (by rw [hstart]; exact Bool.false_ne_true)]
  dsimp only
  rw [show (_ : Dev).pickFirmware = some (slot, b) from hpick]
  dsimp only [Option.map_some, Option.getD_some]
  refine (congrArg Dev.romSettled (if_neg (c := (!([0, 1, 2, 3].any (e.pairRuns pairs (slice b 32 64)))) = true) ?_)).trans ?_
  · rw [hany]
    exact Bool.false_ne_true
  rw [foldl_leaves (g := Dev.romSettled) (fun s _ => s.romSettled_notePass _),
    foldl_leaves (g := Dev.romSettled) Dev.romSettled_dropPair]
  simp only [Dev.romSettled, hstate]
  rfl

end

/-! ### Screens and the boot image (R431 to R434, R439, R440) -/

section
variable {d : Dev} {res : ScreenResult} {t v : Nat}

/-- The variant that the screens allow: the highest at or below the marked one whose floor the units meet (R431). -/
def Dev.screenVariant (d : Dev) (res : ScreenResult) : Option Nat :=
  [1, 2, 3].find? fun v => decide (d.fuses.marked ≤ v) && (d.screenUnits res).meetsFloor v

/-- The screens' end in their phase: the variant's maps, or a refusal (R431, R434). -/
theorem devScreensDone_of_phase (hstate : d.acc.state = .booting) (hphase : d.acc.phase = 3) :
    devScreensDone res d = match d.screenVariant res with
      | none => (d.screenUnits res).refuse 3
      | some v => (({ d.screenUnits res with
          acc := { (d.screenUnits res).acc with reported := v, degraded := v != d.fuses.marked, phase := 5 } } : Dev).mapUnits v).fastPorts := by
  have hstart : (d.acc.state != .booting || d.acc.phase != 3) = false := by simp [hstate, hphase]
  exact if_neg (by rw [hstart]; exact Bool.false_ne_true)

/-- A boot image that passes brings AVAILABLE_PARTIAL, and raises LIVE_OUT (R424, R439). -/
theorem devBootImageLoad_of_ok (hstate : d.acc.state = .booting) (hphase : d.acc.phase = 5) (hcut : d.load.abandoned = false)
    {b : List Byte} {i : Image} (hb : ({ d.atTime t with load := ImageLoad.idle } : Dev).bootImage = some b)
    (hi : ({ d.atTime t with load := ImageLoad.idle } : Dev).validate b = .ok i) :
    let e := ({ d.atTime t with load := ImageLoad.idle } : Dev).bootInForce i
    devBootImageLoad t d = ((({ e with
      acc := { e.acc with state := .availablePartial, phase := 7, partialTime := e.now - e.acc.releaseTime }
      pins := { e.pins with liveOut := true } } : Dev).fastGalleries).powerGalleries).checkFull.settle := by
  have hstart : (d.acc.state != .booting || d.acc.phase != 5) = false := by simp [hstate, hphase]
  unfold devBootImageLoad
  rw [if_neg (by rw [hstart]; exact Bool.false_ne_true)]
  dsimp only
  rw [show (d.atTime t).load.abandoned = false from hcut, hb]
  dsimp only
  rw [hi]
  rfl

end

/-- Settles O9: each row in its phase; that the late failures have then been counted is log 101, the signatures of the ROM's choice
log 9, and what IMG_STATUS tells of an abandoned load log 46. -/
theorem bootPhasesComplete : Obligations.BootPhasesComplete := by
  intro s pairs flash res t v hlive hstate
  refine ⟨fun hphase => ?rom, fun hphase hv => ?variant, fun hphase hv => ?refused,
    fun hphase hcut => ?image⟩
  case rom =>
    intro d slot b hpick hpair
    have h := devRomBootDone_of_pick (pairs := pairs) (flash := flash) hstate hphase hpick hpair
    simp only [Dev.romSettled, Prod.mk.injEq] at h
    obtain ⟨h3, hbooting, hfw, hflash⟩ := h
    refine ⟨_, whenLive_of_eq hlive rfl, h3, hbooting, ?_, ?_, ?_, ?_, hflash⟩ <;> rw [hfw]
  case variant =>
    refine whenLive_of_eq hlive ?_
    rw [devScreensDone_of_phase hstate hphase, show s.dev.screenVariant res = some v from hv]
    rfl
  case refused =>
    refine ⟨(s.dev.screenUnits res).refuse 3, whenLive_of_eq hlive ?_, rfl, rfl⟩
    rw [devScreensDone_of_phase hstate hphase, show s.dev.screenVariant res = none from hv]
  case image =>
    intro d b i hb hi
    exact whenLive_of_eq hlive (devBootImageLoad_of_ok hstate hphase hcut hb hi)

end Sys2Proof.Machine
end

section
/-! PROOF. Power requests (R453 to R459, R466): what PWR_CTRL does with each that no refuser stops, and with a SLEEP that one stops. -/

namespace Sys2Proof.Machine

section
variable {d : Dev} {w : RegWrite} {req : Nat}

/-- A request in range that no refuser stops is accepted (R455, R466). -/
theorem Dev.pwrCtrl_of_none (hok : pwrCtrlOk (d.after w) req = true) (hreq : w.fieldOf 3 0 = req) (h0 : req ≠ 0)
    (hnone : (d.plainWrite w).refuser req = none) : d.pwrCtrl w = ((d.plainWrite w).accept req).settle := by
  subst hreq
  simp [Dev.pwrCtrl, hok, h0, Dev.powerRequest, hnone]

/-- A request in range that a refuser stops is counted and noted (R455). -/
theorem Dev.pwrCtrl_of_refuser {code i : Nat} (hok : pwrCtrlOk (d.after w) req = true) (hreq : w.fieldOf 3 0 = req) (h0 : req ≠ 0)
    (hsome : (d.plainWrite w).refuser req = some (code, i)) : d.pwrCtrl w = (d.plainWrite w).refuseRequest req code i := by
  subst hreq
  simp [Dev.pwrCtrl, hok, h0, Dev.powerRequest, hsome]

/-- Roles that pass on leave which pairs work, and so which east pair takes a west pair's roles. -/
theorem Dev.eastPair_passRoles (d : Dev) (src dst p : Nat) : (d.passRoles src dst).eastPair p = d.eastPair p := by
  have hworks : ∀ q, (d.passRoles src dst).pairs.any (fun x => x.index == q && x.works) = d.pairs.any fun x => x.index == q && x.works := by
    intro q
    rw [Dev.passRoles, List.any_map]
    congr 1
    funext x
    simp only [Function.comp]
    split
    · rfl
    · split <;> rfl
  simp only [Dev.eastPair, hworks]

/-- The wing begins to gate once the roles of its pairs have passed on (R453). -/
theorem Dev.gateWing_eq (d : Dev) :
    d.gateWing = ((d.passRoles 2 (d.eastPair 1)).passRoles 3 ((d.passRoles 2 (d.eastPair 1)).eastPair 0)).modPower fun x =>
      { x with west := .gating } := by
  rw [Dev.eastPair_passRoles, Dev.gateWing]

/-- A plain write leaves the power state. -/
theorem Dev.plainWrite_power (d : Dev) (w : RegWrite) : (d.plainWrite w).power = d.power := by
  unfold Dev.plainWrite
  split <;> rfl

/-- A sleeping device begins its exit on a WAKE (R459, R461). -/
theorem Dev.wakeBy_of_sleep (src : Nat) (h : d.power.device = .sleep) :
    (d.wakeBy src).1 = { d with power := { d.power with exiting := true } } := by
  simp [Dev.wakeBy, h]

/-- A write whose source is up finds the device as the access does. -/
theorem devWake_of_up (hup : ∀ port host, w.src = .bar port host → d.portUp port = true) :
    devWake w d = (d.accessed w.src).onWrite w fun e => if requests w reqWake then e.pwrCtrl w else e := by
  unfold devWake Dev.accessed
  cases hsrc : w.src with
  | docent => rfl
  | bar port host => simp [hup port host hsrc]

/-- A WAKE of a sleeping device begins its exit (R459, R461). -/
theorem devWake_of_sleep (hreg : w.reg = 0xA000) (hsleep : d.power.device = .sleep) (hreq : w.fieldOf 3 0 = 2)
    (hup : ∀ port host, w.src = .bar port host → d.portUp port = true) (ht : (d.accessed w.src).takes w = true)
    (hok : pwrCtrlOk ((d.accessed w.src).after w) 2 = true) (hnone : ((d.accessed w.src).plainWrite w).refuser 2 = none) :
    devWake w d = ({ (d.accessed w.src).plainWrite w with
      power := { ((d.accessed w.src).plainWrite w).power with exiting := true } } : Dev).settle := by
  have hpower : ((d.accessed w.src).plainWrite w).power.device = .sleep := by
    rw [Dev.plainWrite_power]
    cases w.src <;> exact hsleep
  rw [devWake_of_up hup, Dev.onWrite_of_takes _ ht, if_pos (by simp [requests, hreg, hreq, reqWake]),
    Dev.pwrCtrl_of_none hok hreq (by decide) hnone]
  exact congrArg Dev.settle (Dev.wakeBy_of_sleep 5 hpower)

end

/-- A power row whose write is taken follows PWR_CTRL's rule. -/
theorem whenLive_powerRow {s : State} {w : RegWrite} {i : Instr} {req : Nat} {e : Dev} (hreg : w.reg = 0xA000) (hw : s.writes w)
    (hi : senderOf i = none) (hreq : w.fieldOf 3 0 = req) (he : (s.dev.accessed w.src).pwrCtrl w = e) :
    whenLive (fun d => onRegister i w (fun _ => requests w req) (fun d => d.pwrCtrl w) d) s = .next { s with dev := e } := by
  rw [whenLive_onRegister hw hi (by simp [requests, hreg, hreq]), he]

/-- Settles O11: the roles that the wing's pairs pass on are log 84, the WAKE write log 82. -/
theorem powerRequestsComplete : Obligations.PowerRequestsComplete := by
  refine ⟨fun s w hreg => ⟨?accepted, ?wake⟩, fun s w code i hreg => ?refused⟩
  case accepted =>
    intro hw hok hnone
    have hctrl : ∀ req, w.fieldOf 3 0 = req → req ≠ 0 →
        (s.dev.accessed w.src).pwrCtrl w = (((s.dev.accessed w.src).plainWrite w).accept req).settle := fun req hreq h0 =>
      Dev.pwrCtrl_of_none (hreq ▸ hok) hreq h0 (hreq ▸ hnone)
    refine ⟨fun h => whenLive_powerRow (i := .sleep w) hreg hw rfl h (hctrl 1 h (by decide)),
      fun h => whenLive_powerRow (i := .offReady w) hreg hw rfl h (hctrl 3 h (by decide)),
      fun h => whenLive_powerRow (i := .offReadyForce w) hreg hw rfl h (hctrl 4 h (by decide)),
      fun h => whenLive_powerRow (i := .gateWest w) hreg hw rfl h ((hctrl 5 h (by decide)).trans ?gate),
      fun h => whenLive_powerRow (i := .ungateWest w) hreg hw rfl h (hctrl 6 h (by decide))⟩
    exact congrArg Dev.settle (Dev.gateWing_eq _)
  case wake =>
    intro hlive hsleep hreq hup ht hok hnone
    exact whenLive_of_eq hlive (devWake_of_sleep hreg hsleep hreq hup ht hok hnone)
  case refused =>
    intro d p hw hok hreq hsome
    exact whenLive_powerRow (i := .sleep w) hreg hw rfl hreq (Dev.pwrCtrl_of_refuser (hreq ▸ hok) hreq (by decide) hsome)

end Sys2Proof.Machine
end

section
/-! PROOF. The exports of a domain (R374, R383): what SET, CLEAR and the end of a CLEAR do in the case that each clause names. -/

namespace Sys2Proof.Machine

section
variable {d e : Dev} {w : RegWrite} {op pg : Nat}

/-- A write of an operation reaches the OP field. -/
theorem isExpOp_reaches (h : isExpOp op w = true) : (w.size != 8 && w.offset % 8 != 0) = false ∧ w.fieldOf 3 0 = op := by
  unfold isExpOp at h
  split at h
  · simp only [Bool.and_eq_true, Bool.or_eq_true, beq_iff_eq] at h
    obtain ⟨⟨-, hop⟩, hreq⟩ := h
    exact ⟨by rcases hop with h | h <;> simp [h], hreq⟩
  · exact absurd h Bool.false_ne_true

/-- A domain has a CLEAR that runs. -/
def Dev.clearRuns (d : Dev) (dom : Nat) : Bool := d.exports.any fun y => y.domain == dom && y.clearing

/-- While a CLEAR runs another operation is discarded (R383). -/
theorem Dev.expCtrl_of_clearRuns (h : isExpOp op w = true) (hc : d.clearRuns (pageOf w.reg) = true) :
    d.expCtrl w = d.setField (pageOff (pageOf w.reg) 0x218) 1 1 1 := by
  have hc' : (d.exports.any fun y => y.domain == pageOf w.reg && y.clearing) = true := hc
  simp [Dev.expCtrl, (isExpOp_reaches h).1, hc']

/-- SET sets the exported range that the registers describe. -/
theorem Dev.expCtrl_set (h : isExpOp 1 w = true) (hc : d.clearRuns (pageOf w.reg) = false) :
    d.expCtrl w = (d.plainWrite w).expSet (pageOf w.reg) := by
  have hc' : (d.exports.any fun y => y.domain == pageOf w.reg && y.clearing) = false := hc
  obtain ⟨hreach, hop⟩ := isExpOp_reaches h
  simp only [Dev.expCtrl, hreach, hc', hop, Bool.false_eq_true, if_false]

/-- CLEAR clears the exported range that its number names. -/
theorem Dev.expCtrl_clear (h : isExpOp 2 w = true) (hc : d.clearRuns (pageOf w.reg) = false) :
    d.expCtrl w = (d.plainWrite w).expClear (pageOf w.reg) := by
  have hc' : (d.exports.any fun y => y.domain == pageOf w.reg && y.clearing) = false := hc
  obtain ⟨hreach, hop⟩ := isExpOp_reaches h
  simp only [Dev.expCtrl, hreach, hc', hop, Bool.false_eq_true, if_false]

/-- The range of a SET is aligned and not empty, and gives a right (R383). -/
def Dev.expAligned (e : Dev) (pg : Nat) : Prop :=
  e.field (pageOff pg 0x200) 56 0 % 65536 = 0 ∧ e.field (pageOff pg 0x208) 39 0 % 65536 = 0 ∧ e.field (pageOff pg 0x208) 39 0 ≠ 0 ∧
    e.expCtl pg 9 8 ≠ 0

/-- A SET whose range is not aligned, is empty or gives no right is BAD_ARG (R383). -/
theorem Dev.expSet_of_not_aligned (h : ¬ e.expAligned pg) : e.expSet pg = e.expResult pg 2 := by
  refine if_pos ?_
  simp only [Dev.expAligned, not_and_or, not_not] at h
  simp only [Bool.or_eq_true, bne_iff_ne, decide_eq_true_eq, or_assoc]
  exact h

/-- Past its arguments, a SET looks for the range's mapping. -/
theorem Dev.expSet_of_aligned (h : e.expAligned pg) :
    e.expSet pg =
      if (cover e.extents pg (e.field (pageOff pg 0x200) 56 0) (e.field (pageOff pg 0x208) 39 0)).toOption.isNone then e.expResult pg 1
      else ({ e with exports := e.exports.filter (fun (y : ExportEntry) => !(y.domain == pg && y.number == e.expCtl pg 15 10)) ++ [{
        domain := pg, number := e.expCtl pg 15 10, cva := e.field (pageOff pg 0x200) 56 0, len := e.field (pageOff pg 0x208) 39 0
        rights := e.expCtl pg 9 8, peerGroup := e.expCtl pg 63 52, peerDomain := e.expCtl pg 47 40
        anyDomain := e.expCtl pg 39 39 == 1, clearing := false }] } : Dev).expResult pg 0 := by
  obtain ⟨hcva, hlen, hne, hrights⟩ := h
  refine if_neg ?_
  simp only [Bool.or_eq_true, bne_iff_ne, decide_eq_true_eq, hcva, hlen, hne, hrights, ne_eq, not_true, or_self, not_false_iff]

/-- With the domain's clearing exported range found, its drain ends the CLEAR unless a request holds it (R374). -/
theorem devExportClearDrained_of_found {dom : Nat} {x : ExportEntry} (h : d.exports.find? (fun y => y.domain == dom && y.clearing) = some x) :
    devExportClearDrained dom d = if d.exportHeld dom x.number then d else d.expCleared dom := by
  simp only [devExportClearDrained, h]

end

/-- Settles O53: which SETs are BAD_ARG, and that a CLEAR takes DONE back as it begins, is log 65. -/
theorem exportCommandsComplete : Obligations.ExportCommandsComplete := by
  intro s w dom x d e pg clearing cva len n aligned
  have hset : s.writes w → isExpOp 1 w = true → ∀ g, d.expCtrl w = g → exec (.exportSet w) s = .next { s with dev := g } :=
    fun hw hop g hg => hg ▸ whenLive_onRegister (i := .exportSet w) hw rfl hop
  have hclear : s.writes w → isExpOp 2 w = true → ∀ g, d.expCtrl w = g → exec (.exportClear w) s = .next { s with dev := g } :=
    fun hw hop g hg => hg ▸ whenLive_onRegister (i := .exportClear w) hw rfl hop
  refine ⟨fun hw hop => ⟨fun hc => hset hw hop _ (Dev.expCtrl_of_clearRuns hop hc), fun hc => ⟨fun ha => ?badArg, fun ha hcover => ?unmapped,
      fun ha hcover => ?made⟩⟩,
    fun hw hop => ⟨fun hc => hclear hw hop _ (Dev.expCtrl_of_clearRuns hop hc), fun hc => hclear hw hop _ (Dev.expCtrl_clear hop hc)⟩,
    fun hlive hx => ⟨fun hheld => ?held, fun hfree => ?drained⟩⟩
  case badArg => exact hset hw hop _ ((Dev.expCtrl_set hop hc).trans (Dev.expSet_of_not_aligned ha))
  case unmapped =>
    refine hset hw hop _ ((Dev.expCtrl_set hop hc).trans ((Dev.expSet_of_aligned ha).trans (if_pos ?_)))
    change (cover e.extents pg cva len).toOption.isNone = true
    cases h : cover e.extents pg cva len with
    | error c => rfl
    | ok es => exact absurd h (hcover es)
  case made =>
    obtain ⟨es, h⟩ := hcover
    refine hset hw hop _ ((Dev.expCtrl_set hop hc).trans ((Dev.expSet_of_aligned ha).trans (if_neg ?_)))
    change ¬ (cover e.extents pg cva len).toOption.isNone = true
    rw [h]
    exact Bool.false_ne_true
  case held => exact whenLive_of_eq hlive ((devExportClearDrained_of_found hx).trans (if_pos hheld))
  case drained => exact whenLive_of_eq hlive ((devExportClearDrained_of_found hx).trans (if_neg (by rw [hfree]; exact Bool.false_ne_true)))

end Sys2Proof.Machine
end

section
/-! PROOF. How BULK_GET, BULK_PUT, PUBLISH and INVALIDATE begin (R376 to R378). -/

namespace Sys2Proof.Machine

/-! ### Bulk moves (R376) -/

section
variable {d : Dev} {r : SlotRef} {src dst : List Span}

/-- A move between ranges that lie apart begins with its steps. -/
theorem Dev.bulkMove_of_apart (h : ∀ a ∈ src, ∀ b ∈ dst, overlap a.sa a.len b.sa b.len = false) :
    d.bulkMove r src dst = d.begin r (moveSteps src dst) 0 0 0 := by
  refine if_neg fun hmeet => ?_
  obtain ⟨a, ha, hany⟩ := List.any_eq_true.1 hmeet
  obtain ⟨b, hb, hover⟩ := List.any_eq_true.1 hany
  exact Bool.false_ne_true ((h a ha b hb).symm.trans hover)

/-- A move between ranges that overlap is refused. -/
theorem Dev.bulkMove_of_overlap (h : ∃ a ∈ src, ∃ b ∈ dst, overlap a.sa a.len b.sa b.len = true) :
    d.bulkMove r src dst = d.reject r .badOperand := by
  obtain ⟨a, ha, b, hb, hover⟩ := h
  exact if_pos (List.any_eq_true.2 ⟨a, ha, List.any_eq_true.2 ⟨b, hb, hover⟩⟩)

end

/-- The step of BULK_GET for a piece of an exported range (R376). -/
def Cmd.getStep (k : Cmd) (dom : Nat) (p : Nat × Nat) : Step :=
  { Step.nop with
    kind := .mover, free := true, outs := k.spans dom (fieldAt k.line 16 8 + p.1) p.2, w0 := p.2
    effects := [.exportRead (bulkFar k.line).1 (bulkFar k.line).2.1 ((bulkFar k.line).2.2 + p.1) p.2 (fieldAt k.line 16 8 + p.1)] }

/-- The step of BULK_PUT for a piece of an exported range (R376). -/
def Cmd.putStep (k : Cmd) (dom : Nat) (p : Nat × Nat) : Step :=
  { Step.nop with
    kind := .mover, free := true, reads := k.spans dom (fieldAt k.line 16 8 + p.1) p.2
    effects := [.exportWrite (bulkFar k.line).1 (bulkFar k.line).2.1 ((bulkFar k.line).2.2 + p.1)
      (k.spans dom (fieldAt k.line 16 8 + p.1) p.2)] }

section
variable {d : Dev} {r : SlotRef} {c : Context} {k : Cmd}

/-- BULK_GET within the group is a move from the source to the destination. -/
theorem devBulkGet_inside (h : d.ready r .bulkGet = some (c, k)) (hkind : fieldAt k.line 32 1 = 1) :
    devBulkGet r d = d.bulkMove r (k.spans c.domain (fieldAt k.line 40 8) (fieldAt k.line 24 8))
      (k.spans c.domain (fieldAt k.line 16 8) (fieldAt k.line 24 8)) := by
  rw [devBulkGet, Dev.onReady_of_ready _ h]
  exact if_pos hkind

/-- BULK_GET from an exported range takes a FAR link. -/
theorem devBulkGet_outside (h : d.ready r .bulkGet = some (c, k)) (hkind : fieldAt k.line 32 1 ≠ 1) :
    devBulkGet r d = if !d.farPath then d.reject r .targetDead
      else d.begin r ((pieces (fieldAt k.line 24 8) 65536).map (k.getStep c.domain)) 0 0 0 := by
  rw [devBulkGet, Dev.onReady_of_ready _ h]
  exact if_neg hkind

/-- BULK_PUT within the group is a move from the source to the destination. -/
theorem devBulkPut_inside (h : d.ready r .bulkPut = some (c, k)) (hkind : fieldAt k.line 32 1 = 1) :
    devBulkPut r d = d.bulkMove r (k.spans c.domain (fieldAt k.line 16 8) (fieldAt k.line 24 8))
      (k.spans c.domain (fieldAt k.line 40 8) (fieldAt k.line 24 8)) := by
  rw [devBulkPut, Dev.onReady_of_ready _ h]
  exact if_pos hkind

/-- BULK_PUT to an exported range takes a FAR link. -/
theorem devBulkPut_outside (h : d.ready r .bulkPut = some (c, k)) (hkind : fieldAt k.line 32 1 ≠ 1) :
    devBulkPut r d = if !d.farPath then d.reject r .targetDead
      else d.begin r ((pieces (fieldAt k.line 24 8) 65536).map (k.putStep c.domain)) 0 0 0 := by
  rw [devBulkPut, Dev.onReady_of_ready _ h]
  exact if_neg hkind

/-! ### PUBLISH and INVALIDATE (R377, R378) -/

/-- A PUBLISH that nothing covers is refused after a failed epoch. -/
theorem devPublish_of_failed (h : d.ready r .publish = some (c, k)) (hcov : covered c k = []) (hfail : epochFailed c k = true) :
    devPublish r d = d.reject r .priorFailed := by
  rw [devPublish, Dev.onReady_of_ready _ h]
  simp [hcov, hfail]

/-- A PUBLISH that nothing covers begins with its one step at the record. -/
theorem devPublish_of_ok {sa : Nat} (h : d.ready r .publish = some (c, k)) (hcov : covered c k = []) (hfail : epochFailed c k = false)
    (hsa : saOf k.caps c.domain (fieldAt k.line 16 8) = some sa) :
    devPublish r d = d.begin r [{ Step.nop with
      kind := .atomic
      outs := [{ sa := sa, len := 16 }]
      effects := [.publish sa (BitVec.ofNat 64 (fieldAt k.line 24 8)) (BitVec.ofNat 64 (fieldAt k.line 32 8))] }] 0 0 0 := by
  rw [devPublish, Dev.onReady_of_ready _ h]
  simp [hcov, hfail, hsa]

/-- An INVALIDATE of this device drops the caches and has no step. -/
theorem devInvalidate_of_here (h : d.ready r .invalidate = some (c, k)) (hall : lineFlags k.line ≠ 1) :
    devInvalidate r d = (d.invalidateHere c.domain (fieldAt k.line 32 1)
      (spansOf k.caps c.domain (fieldAt k.line 16 8) (fieldAt k.line 24 8))).begin r [] 0 0 0 := by
  rw [devInvalidate, Dev.onReady_of_ready _ h]
  exact congrArg (fun e : Dev => e.begin r [] 0 0 0) (if_neg hall)

end

/-- Settles O49: within the group a move as COPY's; with an exported range a plan of one step for each 64 KiB, where a FAR path leads out (log 32). -/
theorem bulkAndPublishComplete : Obligations.BulkAndPublishComplete := by
  intro s r c k sa d l len cva here there fid no off
  refine ⟨fun hr hkind => ⟨fun hapart => ?getMoves, fun hmeet => ?getRefused⟩, fun hr hkind => ⟨fun hfar => ?getDead, fun hfar => ?getSteps⟩,
    fun hr hkind hapart => ?putMoves, fun hr hkind => ⟨fun hfar => ?putDead, fun hfar => ?putSteps⟩,
    fun hr hcov => ⟨fun hfail => ?failed, fun hok hsa => ?published⟩, fun hr hall => ?invalidated⟩
  case getMoves => exact hr.next fun h => (devBulkGet_inside h hkind).trans (Dev.bulkMove_of_apart hapart)
  case getRefused => exact hr.next fun h => (devBulkGet_inside h hkind).trans (Dev.bulkMove_of_overlap hmeet)
  case getDead => exact hr.next fun h => (devBulkGet_outside h hkind).trans (if_pos (by rw [hfar]; rfl))
  case getSteps =>
    refine ⟨_, hr.next fun h => (devBulkGet_outside h hkind).trans (if_neg (by rw [hfar]; exact Bool.false_ne_true)), ?_, ?_⟩
    · rw [List.map_map]; rfl
    · rw [List.map_map]; rfl
  case putMoves => exact hr.next fun h => (devBulkPut_inside h hkind).trans (Dev.bulkMove_of_apart hapart)
  case putDead => exact hr.next fun h => (devBulkPut_outside h hkind).trans (if_pos (by rw [hfar]; rfl))
  case putSteps =>
    refine ⟨_, hr.next fun h => (devBulkPut_outside h hkind).trans (if_neg (by rw [hfar]; exact Bool.false_ne_true)), ?_, ?_⟩
    · rw [List.map_map]; rfl
    · exact List.forall_mem_map.2 fun _ _ => ⟨rfl, rfl⟩
  case failed => exact hr.next fun h => devPublish_of_failed h hcov hfail
  case published => exact hr.next fun h => devPublish_of_ok h hcov hok hsa
  case invalidated => exact hr.next fun h => devInvalidate_of_here h hall

end Sys2Proof.Machine
end

section
/-! PROOF. Check values (R391 to R397): how SCAN_CHECK, CHECK_SAVE and CHECK_LOAD begin, and what their steps do when they retire. -/

namespace Sys2Proof.Machine

section
variable {d : Dev} {r : SlotRef} {c : Context} {k : Cmd} {p : CrcPoly}

/-! ### How the verbs begin -/

/-- A SCAN_CHECK of the mode asked, with a polynomial, takes its meaning. -/
theorem Dev.onScan_of_ready {mode : Nat} (f : Context → Cmd → CrcPoly → Dev) (h : d.ready r .scanCheck = some (c, k))
    (hmode : fieldAt k.line 33 1 = mode) (hp : crcPoly (fieldAt k.line 32 1) = some p) : d.onScan r mode f = f c k p := by
  rw [Dev.onScan, Dev.onReady_of_ready _ h]
  simp [hmode, hp]

section
variable (h : d.ready r .scanCheck = some (c, k)) (hp : crcPoly (fieldAt k.line 32 1) = some p) (hall : c.runningAlloc = true)
include h hp hall

/-- RUNNING reads its range in steps, and acts with the last (R393). -/
theorem devScanCheckRunning_begins (hmode : fieldAt k.line 33 1 = 1)
    (hseed : ¬ (fieldAt k.line 34 1 = 2 ∧ (c.value (fieldAt k.line 35 1)).poly ≠ fieldAt k.line 32 1)) :
    devScanCheckRunning r d = d.begin r (d.readThen (k.scanRange c.domain) 0
      { Step.nop with kind := .scanner, free := true, effects := [.scanRunning] }) 0 0 0 := by
  rw [devScanCheckRunning, Dev.onScan_of_ready _ h hmode hp, if_neg hseed, Dev.withRunning_of_alloc _ hall]

/-- BLOCKED begins with a step for at most 64 KiB of blocks (R396). -/
theorem devScanCheckBlocked_begins (hmode : fieldAt k.line 33 1 = 2) :
    devScanCheckBlocked r d = d.begin r (k.blockSteps c.domain) 0 0 0 := by
  rw [devScanCheckBlocked, Dev.onScan_of_ready _ h hmode hp, Dev.withRunning_of_alloc _ hall]

/-- VERIFY begins with the same steps, no block found wrong yet (R396). -/
theorem devScanCheckVerify_begins (hmode : fieldAt k.line 33 1 = 3) :
    devScanCheckVerify r d = d.begin r (k.blockSteps c.domain) 0 0 (BitVec.allOnes 64) := by
  rw [devScanCheckVerify, Dev.onScan_of_ready _ h hmode hp, Dev.withRunning_of_alloc _ hall]

end

/-- RUNNING that continues a value of another polynomial is refused (R393). -/
theorem devScanCheckRunning_refused (h : d.ready r .scanCheck = some (c, k)) (hp : crcPoly (fieldAt k.line 32 1) = some p)
    (hmode : fieldAt k.line 33 1 = 1) (hseed : fieldAt k.line 34 1 = 2)
    (hpoly : (c.value (fieldAt k.line 35 1)).poly ≠ fieldAt k.line 32 1) : devScanCheckRunning r d = d.reject r .badOperand := by
  rw [devScanCheckRunning, Dev.onScan_of_ready _ h hmode hp, if_pos ⟨hseed, hpoly⟩]

/-- CHECK_SAVE begins with the write of its record (R394). -/
theorem devCheckSave_begins (h : d.ready r .checkSave = some (c, k)) (hall : c.runningAlloc = true) :
    devCheckSave r d = d.begin r
      [{ Step.nop with writes := k.writesAt c.domain (fieldAt k.line 16 8) (c.value (fieldAt k.line 24 1)).record }] 0 0 0 := by
  rw [devCheckSave, Dev.onReady_of_ready _ h, Dev.withRunning_of_alloc _ hall]

/-- CHECK_LOAD begins with the read of its record (R394). -/
theorem devCheckLoad_begins (h : d.ready r .checkLoad = some (c, k)) (hall : c.runningAlloc = true) :
    devCheckLoad r d = d.begin r [{ Step.nop with reads := k.spans c.domain (fieldAt k.line 16 8) 32, effects := [.checkLoad] }] 0 0 0 := by
  rw [devCheckLoad, Dev.onReady_of_ready _ h, Dev.withRunning_of_alloc _ hall]

/-! ### What the steps do -/

/-- The domain of a command is its context's. -/
theorem Dev.domainOf_of_ctx (hc : d.ctx? r.ctx = some c) : d.domainOf r = c.domain := by
  rw [Dev.domainOf, hc]
  rfl

section
variable (hc : d.ctx? r.ctx = some c) (hk : d.cmd? r = some k)
include hc hk

/-- The last step of RUNNING over a sound range sets the running value and the words (R393, R396). -/
theorem Dev.scanRunning_of_sound (hp : crcPoly (fieldAt k.line 32 1) = some p) (hseed : fieldAt k.line 34 1 ≠ 2)
    (hok : hasFailed k = false) (hbad : d.badSpans k (k.scanRange c.domain) = false) :
    d.scanRunning r = (d.setRunning c.num (fieldAt k.line 35 1) {
        poly := fieldAt k.line 32 1
        reg := BitVec.ofNat 64 (crcBytes p (crcStart p (scanSeed p k.line 0)) (d.loadAll k (k.scanRange c.domain)))
        count := min runningMax (fieldAt k.line 24 8) }).modCmd r fun y =>
      { y with w0 := BitVec.ofNat 64 (crcOf p (scanSeed p k.line 0) (d.loadAll k (k.scanRange c.domain)))
               w1 := BitVec.ofNat 64 (min runningMax (fieldAt k.line 24 8)) } := by
  have hcont : (fieldAt k.line 34 1 == 2) = false := beq_false_of_ne hseed
  simp only [Dev.scanRunning, hc, hk, hp, hbad, hok, hcont, Bool.false_eq_true, if_false, Nat.zero_add, crcOf]

section
variable {i : Nat} (hbad : d.badSpans k (k.scanBlock c.domain i).1 = false)
include hbad

/-- BLOCKED writes a sound block's check and counts it (R393). -/
theorem Dev.scanBlock_writes (hmode : fieldAt k.line 33 1 = 2) :
    d.scanBlock r p i = ((spread (k.scanBlock c.domain i).2
      (natLe (crcOf p (scanSeed p k.line (i * fieldAt k.line 36 4)) (d.loadAll k (k.scanBlock c.domain i).1)) 8)).foldl
        (fun d w => d.stepWrite r none w) d).modCmd r fun k => { k with w0 := k.w0 + 1 } := by
  simp only [Dev.scanBlock, hk, Dev.domainOf_of_ctx hc, hbad, hmode, Bool.false_eq_true, if_false, if_true]

/-- VERIFY counts a sound block by whether its check is the one in its slot, and keeps the first that is not (R393). -/
theorem Dev.scanBlock_verifies (hmode : fieldAt k.line 33 1 = 3) (hslot : d.badSpans k (k.scanBlock c.domain i).2 = false) :
    d.scanBlock r p i =
      if crcOf p (scanSeed p k.line (i * fieldAt k.line 36 4)) (d.loadAll k (k.scanBlock c.domain i).1) =
        leNat (d.loadAll k (k.scanBlock c.domain i).2)
      then d.modCmd r fun k => { k with w0 := k.w0 + 1 }
      else d.modCmd r fun k => { k with w1 := k.w1 + 1, w2 := if i < k.w2.toNat then BitVec.ofNat 64 i else k.w2 } := by
  have h2 : ¬ 3 = 2 := by decide
  simp only [Dev.scanBlock, hk, Dev.domainOf_of_ctx hc, hbad, hslot, hmode, h2, Bool.or_false, Bool.not_false, Bool.true_and,
    Bool.false_eq_true, if_false, beq_iff_eq]

end

/-- A bad record is BAD_OPERAND (R394). -/
theorem Dev.checkLoad_of_none (hbad : d.badSpans k (k.spans c.domain (fieldAt k.line 16 8) 32) = false)
    (hrec : runningOfRecord (d.loadAll k (k.spans c.domain (fieldAt k.line 16 8) 32)) = none) :
    d.checkLoad r = d.raise r .badOperand := by
  simp only [Dev.checkLoad, hc, hk, hbad, hrec, Bool.false_eq_true, if_false]

/-- A good record sets its running value (R394). -/
theorem Dev.checkLoad_of_some {v : RunningValue} (hbad : d.badSpans k (k.spans c.domain (fieldAt k.line 16 8) 32) = false)
    (hrec : runningOfRecord (d.loadAll k (k.spans c.domain (fieldAt k.line 16 8) 32)) = some v) (hok : hasFailed k = false) :
    d.checkLoad r = d.setRunning c.num (fieldAt k.line 24 1) v := by
  simp only [Dev.checkLoad, hc, hk, hbad, hrec, hok, Bool.false_eq_true, if_false]

end

end

/-- Settles O50: the seed's place is log 24, a record of zeros log 25, and that a step counts its blocks log 52. -/
theorem checkVerbsComplete : Obligations.CheckVerbsComplete := by
  intro s r c k p e i d l cva len ss blk block value record has checks
  refine ⟨?begins, ?continues, ?running, ?blocked, ?verify, ⟨by rw [Cmd.blockSteps, List.map_map]; rfl, ?silent⟩, ?blocks, ?save, ?load,
    ?loaded⟩
  case begins =>
    rintro ⟨hr, hp, hall⟩ hmode hseed
    exact hr.next fun h => devScanCheckRunning_begins h hp hall hmode fun hcont => hseed hcont.1
  case continues =>
    rintro ⟨hr, hp, -⟩ hmode hseed hpoly
    exact hr.next fun h => devScanCheckRunning_refused h hp hmode hseed hpoly
  case running =>
    rintro ⟨hc, hk, hp⟩ hseed hok hbad reg
    exact Dev.scanRunning_of_sound hc hk hp hseed hok hbad
  case blocked =>
    rintro ⟨hr, hp, hall⟩ hmode
    exact hr.next fun h => devScanCheckBlocked_begins h hp hall hmode
  case verify =>
    rintro ⟨hr, hp, hall⟩ hmode
    exact hr.next fun h => devScanCheckVerify_begins h hp hall hmode
  case silent => exact List.forall_mem_map.2 fun _ _ => ⟨rfl, rfl⟩
  case blocks =>
    rintro ⟨hc, hk, -⟩ hbad
    exact ⟨fun hmode => Dev.scanBlock_writes hc hk hbad hmode,
      fun hmode hslot hmatch => (Dev.scanBlock_verifies hc hk hbad hmode hslot).trans (if_pos hmatch),
      fun hmode hslot hdiffers => (Dev.scanBlock_verifies hc hk hbad hmode hslot).trans (if_neg hdiffers)⟩
  case save => exact fun hr hall => hr.next fun h => devCheckSave_begins h hall
  case load => exact fun hr hall => hr.next fun h => devCheckLoad_begins h hall
  case loaded =>
    intro hc hk hbad
    exact ⟨fun hrec => Dev.checkLoad_of_none hc hk hbad hrec, fun v hrec hok => Dev.checkLoad_of_some hc hk hbad hrec hok⟩

end Sys2Proof.Machine
end

section
/-! PROOF. The ladder's first rung for a sector on flash (R397): its reads are counted by the die's read-retry table, not by REREADS. -/

namespace Sys2Proof.Machine

/-- A failing sector of this member that is under no repair enters the ladder at rung 1 (R397, R404). -/
theorem devPatrolRead_of_failing {d : Dev} {sector : Nat} (hlocal : d.isLocal (sector * 32) = true)
    (hnew : (d.repairs.any fun y => y.sector == sector) = false) :
    devPatrolRead sector false d =
      { d with repairs := d.repairs ++ [{ sector := sector, rung := 1, tries := d.rereads sector, waiters := [.patrol] }] } := by
  simp [devPatrolRead, hlocal, Dev.startRepair, hnew]

/-- A live device outside a collection whose granule 0 lies on flash alone, with a value of REREADS in RAS_CTRL (R418). -/
def flashDevice (rereads : Nat) : Dev :=
  { Dev.reset with
    acc := { Accession.reset with resetLow := false }
    granules := [{ number := 0, domain := 0, residency := .flash, channel := 0, block := 0, lastRead := 0, dropping := false }]
    regs := [(0x8100, BitVec.ofNat 64 (rereads * 16))] }

/-- Refutes O59: on flash rung 1 reads once for each entry of the die's read-retry table (log 42), whatever REREADS says; the clause of
PATROL_READ would have that count be REREADS of 1 and of 2 alike. -/
theorem not_ladderCommandsComplete : ¬ Obligations.LadderCommandsComplete := by
  intro h
  have hreads : ∀ n, (flashDevice n).field 0x8100 7 4 = max 1 (Config.retryEntries 0) := by
    intro n
    have hclause := (h { pending := [], dev := flashDevice n } { sector := 0, rung := 1, tries := 1, waiters := [] } .device
      (Dev.reset.newRecord .device 0 none 0 0 0 0 0 0 0) 0 0 0 false .clear []).1 rfl
    have hrow : exec (.patrolRead 0 false) { pending := [], dev := flashDevice n } = _ :=
      whenLive_of_eq rfl (devPatrolRead_of_failing (d := flashDevice n) (sector := 0) rfl rfl)
    have heq := Host.Outcome.next.inj (hrow.symm.trans (hclause.2 rfl rfl))
    have hrepairs := congrArg (fun t : State => t.dev.repairs.map (·.tries)) heq
    exact (List.singleton_inj.1 hrepairs).symm
  exact absurd ((hreads 1).trans (hreads 2).symm) (by decide)

end Sys2Proof.Machine
end

section
/-! PROOF. The collection (R351 to R360, R410): heartbeats and loss, the change of master, and formation: what each row does in the case
that it finds. -/

namespace Sys2Proof.Machine

/-! ### A formed collection -/

/-- A device taken back leaves the rest of what is known of the collection (R352). -/
theorem Dev.rejoins_keeps (d : Dev) (i : Nat) :
    (d.rejoins i).isMaster = d.isMaster ∧ (d.rejoins i).coll.members = d.coll.members ∧ (d.rejoins i).coll.epoch = d.coll.epoch := by
  unfold Dev.rejoins
  split <;> exact ⟨rfl, rfl, rfl⟩

section
variable {d : Dev} {m : MemberMsg} {sender member t : Nat} {epoch : W16} (hformed : d.coll.state = .formed)
include hformed

/-- A heartbeat of a current epoch is noted with its time (R356). -/
theorem devHb_of_current (hlive : d.coll.lost.getLsbD sender = false) (hepoch : newer d.coll.epoch epoch = false) :
    devHb sender epoch t d =
      { d.atTime t with coll := { d.coll with lastHb := insertBy Prod.fst (sender, max d.now t) d.coll.lastHb } } := by
  refine (Dev.fromMember_of_live (d := d.atTime t) _ hlive).trans (if_neg ?_)
  change ¬ (d.coll.state != .formed || newer d.coll.epoch epoch) = true
  simp [hformed, hepoch]

/-- The master sends a heartbeat to every other live member (R356). -/
theorem devHbTimer_of_master (hmaster : d.isMaster = true) :
    devHbTimer t d = d.others.foldl (fun d m => d.sendFab 0x13 (d.fidOf m) 0xFFFF 0 0 0 0 (BitVec.ofNat 64 d.coll.epoch.toNat) [] none)
      (d.atTime t) := by
  have hf : ((d.atTime t).coll.state != .formed) = false := by simp [hformed]
  have hm : (d.atTime t).isMaster = true := hmaster
  simp only [devHbTimer, hf, hm, Bool.false_eq_true, if_false, if_true]
  rfl

/-- A member that has heard no master for 200 µs(L) is ISOLATED (R360). -/
theorem devIsolationTimeout_of_silent (hmaster : d.isMaster = false) (hdue : 200000 + d.heard d.coll.master ≤ max d.now t) :
    devIsolationTimeout t d = (d.atTime t).cutOff .isolated := by
  refine if_pos ?_
  change (d.coll.state == .formed && !d.isMaster && decide (200000 + d.heard d.coll.master ≤ max d.now t)) = true
  simp [hformed, hmaster, hdue]

/-- MASTER_CHANGE of a newer epoch installs its sender (R358). -/
theorem devMasterChange_of_newer (hlive : d.coll.lost.getLsbD m.sender = false) (hepoch : newer m.epoch d.coll.epoch = true) :
    devMasterChange m d = { d with coll := { d.coll with
      master := m.sender, epoch := m.epoch, deputyValid := false, lastHb := insertBy Prod.fst (m.sender, d.now) d.coll.lastHb } } := by
  refine (Dev.fromMember_of_live _ hlive).trans (if_pos ?_)
  simp [hformed, hepoch]

/-- MEMBER_LOST of the master names one member that is gone; a lost deputy's mirror holds no more (R356, R359). -/
theorem devMemberLost_of_master (hlive : d.coll.lost.getLsbD m.sender = false) (hmaster : m.sender = d.coll.master)
    (hone : bitmapList m.bitmap = [member]) (hother : member ≠ d.coll.geoId) :
    devMemberLost m d = if (d.memberGone member).coll.deputy = member then
      { d.memberGone member with coll := { (d.memberGone member).coll with deputyValid := false } } else d.memberGone member := by
  refine (Dev.fromMember_of_live _ hlive).trans ((if_pos (by simp [hformed, hmaster])).trans ?_)
  have hfilter : (bitmapList m.bitmap).filter (· != d.coll.geoId) = [member] := by simp [hone, hother]
  rw [hfilter]
  simp only [List.foldl_cons, List.foldl_nil, beq_iff_eq, Dev.modColl]

/-- FENCED makes a member ISOLATED, and the master declare its sender lost (R356, R360). -/
theorem devFenced_of_formed : devFenced m d = if d.isMaster then d.declareLost m.sender else d.cutOff .isolated :=
  if_pos (by simp [hformed])

/-- DEPUTY of the master names the deputy, whose mirror is then copied (R359). -/
theorem devDeputy_of_master (hlive : d.coll.lost.getLsbD m.sender = false) (hmaster : m.sender = d.coll.master)
    (hone : bitmapList m.bitmap = [member]) (hepoch : newer d.coll.epoch m.epoch = false) :
    devDeputy m d = { d with coll := { d.coll with deputy := member, deputyValid := false, mirrorCopying := true } } := by
  refine (Dev.fromMember_of_live _ hlive).trans ?_
  simp [hone, hformed, hmaster, hepoch, Dev.modColl]

/-- A repeated FORMED of the master is acknowledged again (R351). -/
theorem devFormed_of_repeated (hmaster : m.sender = d.coll.master) (hother : m.sender ≠ d.coll.geoId) (hepoch : m.epoch = d.coll.epoch)
    (hlost : d.coll.lost = 0) (hmine : m.bitmap.getLsbD d.coll.geoId = true) :
    devFormed m d = (d.sendMember 0x03 (d.fidOf m.sender) 0 0 []).formedNow m.bitmap m.sender m.epoch := by
  have hagain : d.formsAgain m = true := by
    simp [Dev.formsAgain, hformed, hmaster ▸ hother, hepoch, hlost, hmine, hmaster]
  have hnot : (d.coll.state == .forming) = false := by simp [hformed]
  simp [devFormed, hnot, hagain]

/-- The records of REPL apply (R355). -/
theorem devRepl_of_live {f : FabMsg} (hlive : d.coll.lost.getLsbD (f.src % 16) = false) :
    devRepl f d = ((chunks 64 f.payload).foldl Dev.applyRecord d).settle :=
  (Dev.fromMember_of_live _ hlive).trans (if_pos (by simp [hformed]))

/-- The master takes a lost member that joins again back, and answers FORMED (R352, R410). -/
theorem devJoin_of_lost (hrole : d.coll.role = 1) (hmaster : d.isMaster = true) (hother : m.sender ≠ d.coll.geoId)
    (hmember : d.coll.members.getLsbD m.sender = true) (hlost : d.coll.lost.getLsbD m.sender = true) :
    devJoin m d = (d.rejoins m.sender).sendMember 0x02 m.srcFid d.coll.members d.coll.epoch [] := by
  obtain ⟨hm, hmembers, hepoch⟩ := d.rejoins_keeps m.sender
  simp [devJoin, hrole, hother, hformed, hmember, hlost, hm, hmaster, hmembers, hepoch]

end

section
variable {d : Dev} {member t : Nat}

/-- The master declares lost a member that was silent for 20 µs(L) (R356). -/
theorem devHbTimeout_of_silent (hmaster : d.isMaster = true) (hdue : 20000 + d.heard member ≤ max d.now t) :
    devHbTimeout member t d = (d.atTime t).declareLost member := by
  refine if_pos ?_
  change (d.isMaster && (decide (20000 + d.heard member ≤ max d.now t) || d.linksDownTo member)) = true
  simp [hmaster, hdue]

/-- The deputy acts on a master that was silent for 20 µs(L) (R358). -/
theorem devMasterHbTimeout_of_silent (hdeputy : d.isDeputy = true) (hdue : 20000 + d.heard d.coll.master ≤ max d.now t) :
    devMasterHbTimeout t d = (d.atTime t).masterGone := by
  refine if_pos ?_
  change (d.isDeputy && decide (20000 + d.heard d.coll.master ≤ max d.now t)) = true
  simp [hdeputy, hdue]

/-- The deputy acts on the loss of the direct links to its master (R358). -/
theorem devMasterLinksDown_of_down (hdeputy : d.isDeputy = true) (hdown : d.linksDownTo d.coll.master = true) :
    devMasterLinksDown t d = (d.atTime t).masterGone :=
  if_pos (Bool.and_eq_true_iff.2 ⟨hdeputy, hdown⟩)

/-- A mirror that is copied is valid (R359). -/
theorem devMirrorCopyDone_of_copying (h : d.coll.mirrorCopying = true) :
    devMirrorCopyDone d = { d with coll := { d.coll with mirrorCopying := false, deputyValid := true } } :=
  if_pos h

end

/-! ### Formation (R351 to R354) -/

/-- The JOINs heard once one more has come; a sender's last one counts (R351). -/
def Dev.withJoin (d : Dev) (m : MemberMsg) : Dev :=
  { d with coll := { d.coll with joins := d.coll.joins.filter (fun x => x.geo != m.sender) ++
      [{ geo := m.sender, serial := m.serial, fwVersion := m.fwVersion, variant := m.variant }] } }

/-- The acknowledgements heard once one more has come (R351). -/
def Dev.withAck (d : Dev) (m : MemberMsg) : Dev :=
  { d with coll := { d.coll with acks := d.coll.acks.filter (· != m.sender) ++ [m.sender] } }

/-- One more round of formation has ended (R351). -/
def Dev.roundEnded (d : Dev) : Dev := { d with coll := { d.coll with rounds := d.coll.rounds + 1 } }

section
variable {d : Dev} {m : MemberMsg} {t : Nat} (hforming : d.coll.state = .forming)
include hforming

/-- A JOIN is noted, and where no round is out yet the expected number starts one (R351). -/
theorem devJoin_of_forming (hrole : d.coll.role = 1) (hother : m.sender ≠ d.coll.geoId) :
    devJoin m d = if d.coll.members = 0 ∧ d.field 0x7000 12 8 ≤ (d.withJoin m).coll.joins.length + 1 then (d.withJoin m).formRound
      else d.withJoin m := by
  have hnot : (d.coll.state == .formed) = false := by simp [hforming]
  have hyes : (d.coll.state == .forming) = true := by simp [hforming]
  simp only [devJoin, hrole, hother, hnot, hyes, bne_self_eq_false, Bool.false_eq_true, if_false, if_true, Bool.and_eq_true,
    decide_eq_true_eq]
  rfl

/-- FORMED of the lowest GEO_ID heard is acknowledged, and the member is FORMED under it (R351). -/
theorem devFormed_of_lowest (hjoins : d.coll.joins ≠ []) (hlow : (d.coll.joins.map (·.geo)).foldl min d.coll.geoId = m.sender)
    (hmine : m.bitmap.getLsbD d.coll.geoId = true) :
    devFormed m d = (d.sendMember 0x03 (d.fidOf m.sender) 0 0 []).formedNow m.bitmap m.sender m.epoch := by
  have hlate : d.coll.joins.isEmpty = false := by simpa using hjoins
  simp [devFormed, hforming, hlate, hlow, hmine]

/-- A device that has heard no JOIN comes late, and rejoins as a rebuild target (R352). -/
theorem devFormed_of_late (hjoins : d.coll.joins = []) (hmine : m.bitmap.getLsbD d.coll.geoId = true) :
    let e := (d.sendMember 0x03 (d.fidOf m.sender) 0 0 []).formedNow m.bitmap m.sender m.epoch
    devFormed m d = e.rejoins e.coll.geoId := by
  simp [devFormed, hforming, hjoins, hmine]

/-- An acknowledgement is noted, and the last one forms the collection (R351). -/
theorem devFormedAck_of_member (hmember : d.coll.members.getLsbD m.sender = true) :
    devFormedAck m d = if ∀ i ∈ bitmapList d.coll.members, i = d.coll.geoId ∨ i ∈ (d.withAck m).coll.acks then
      (d.withAck m).formedNow d.coll.members d.coll.geoId 1 else d.withAck m := by
  have hgo : (d.coll.state != .forming || !d.coll.members.getLsbD m.sender) = false := by simp [hforming, hmember]
  simp only [devFormedAck, hgo, Bool.false_eq_true, if_false, List.all_eq_true, Bool.or_eq_true, beq_iff_eq, List.contains_iff_mem]
  rfl

/-- A window that passes at the lowest GEO_ID heard starts the round (R351). -/
theorem devFormWindowExpiry_of_lowest (hmembers : d.coll.members = 0)
    (hlow : (d.coll.joins.map (·.geo)).foldl min d.coll.geoId = d.coll.geoId)
    (hdue : 1000000 * d.field 0x7000 47 32 + d.coll.formStart ≤ max d.now t) :
    devFormWindowExpiry t d = (d.atTime t).formRound := by
  have hdue' : 1000000 * (d.atTime t).field 0x7000 47 32 + d.coll.formStart ≤ max d.now t := hdue
  have hgo : ((d.atTime t).coll.state != .forming) = false := by simp [hforming]
  exact (if_neg (by rw [hgo]; exact Bool.false_ne_true)).trans ((if_pos hmembers).trans ((if_pos hdue').trans (if_pos hlow)))

/-- A round without every acknowledgement counts, and the third is the last (R351). -/
theorem devFormWindowExpiry_of_round (hmembers : d.coll.members ≠ 0) (hdue : 10000000 + d.coll.formStart ≤ max d.now t) :
    devFormWindowExpiry t d = if 3 ≤ d.coll.rounds + 1 then (d.atTime t).roundEnded.formFail else (d.atTime t).roundEnded.formAgain := by
  have hgo : ((d.atTime t).coll.state != .forming) = false := by simp [hforming]
  have hm : ¬ (d.atTime t).coll.members = 0 := hmembers
  have hd : 10000000 + (d.atTime t).coll.formStart ≤ (d.atTime t).now := hdue
  simp only [devFormWindowExpiry, hgo, hm, hd, Bool.false_eq_true, if_false, if_true]
  rfl

end

/-- Settles O41: the late device taken in is log 74, the time of MASTER_LINKS_DOWN log 92, when EXPECT is tested log 99, a repeated round
log 125, and REPL's records log 18. -/
theorem collectionCommandsComplete : Obligations.CollectionCommandsComplete := by
  refine ⟨?formed, ?forming⟩
  case formed =>
    intro s m sender member t epoch hlive d e hformed
    exact ⟨fun hs hep => whenLive_of_eq hlive (devHb_of_current hformed hs hep),
      fun hm => whenLive_of_eq hlive (devHbTimer_of_master hformed hm),
      fun hm hdue => whenLive_of_eq hlive (devHbTimeout_of_silent hm hdue),
      fun hd hdue => whenLive_of_eq hlive (devMasterHbTimeout_of_silent hd hdue),
      fun hd hdown => whenLive_of_eq hlive (devMasterLinksDown_of_down hd hdown),
      fun hm hdue => whenLive_of_eq hlive (devIsolationTimeout_of_silent hformed hm hdue),
      fun hs hep => whenLive_of_eq hlive (devMasterChange_of_newer hformed hs hep),
      fun hs hm hone hother => whenLive_of_eq hlive (devMemberLost_of_master hformed hs hm hone hother),
      whenLive_of_eq hlive (devFenced_of_formed hformed),
      fun hs hm hone hep => whenLive_of_eq hlive (devDeputy_of_master hformed hs hm hone hep),
      fun hcopy => whenLive_of_eq hlive (devMirrorCopyDone_of_copying hcopy),
      fun hrole hm hother hmem hlost => whenLive_of_eq hlive (devJoin_of_lost hformed hrole hm hother hmem hlost),
      fun hm hother hep hlost hmine => whenLive_of_eq hlive (devFormed_of_repeated hformed hm hother hep hlost hmine),
      fun f hf => whenLive_of_eq hlive (devRepl_of_live hformed hf)⟩
  case forming =>
    intro s m t hlive hforming d joins acks low
    have hjoin := fun hrole hother => devJoin_of_forming (m := m) hforming hrole hother
    refine ⟨fun hrole hother hfew => whenLive_of_eq hlive ((hjoin hrole hother).trans (if_neg fun h => ?few)),
      fun hrole hother hround => whenLive_of_eq hlive ((hjoin hrole hother).trans (if_neg fun h => hround h.1)),
      fun hrole hother hnone hmany => whenLive_of_eq hlive ((hjoin hrole hother).trans (if_pos ⟨hnone, hmany⟩)),
      fun hj hl hmine => whenLive_of_eq hlive (devFormed_of_lowest hforming hj hl hmine),
      fun hj hmine => whenLive_of_eq hlive (devFormed_of_late hforming hj hmine),
      fun hmem hall => whenLive_of_eq hlive ((devFormedAck_of_member hforming hmem).trans (if_pos hall)),
      fun hmem hsome => whenLive_of_eq hlive ((devFormedAck_of_member hforming hmem).trans (if_neg fun hall => ?someone)),
      fun hnone hl hdue => whenLive_of_eq hlive (devFormWindowExpiry_of_lowest hforming hnone hl hdue),
      fun hround hdue hthird => whenLive_of_eq hlive ((devFormWindowExpiry_of_round hforming hround hdue).trans (if_pos hthird)),
      fun hround hdue hthird => whenLive_of_eq hlive ((devFormWindowExpiry_of_round hforming hround hdue).trans
        (if_neg (Nat.not_le.2 hthird)))⟩
    case few => exact absurd h.2 (Nat.not_le.2 hfew)
    case someone =>
      obtain ⟨i, hi, hme, hack⟩ := hsome
      exact (hall i hi).elim hme hack

end Sys2Proof.Machine
end

section
/-! PROOF. Fabric requests at their home (R364, R369, R371, R372, R377, R378): a request that nothing holds passes the gate and is
served from this member's store. -/

namespace Sys2Proof.Machine

/-- A row serves a request that is new here (R367). -/
theorem whenLive_request {s : State} {type : Nat} {m : FabMsg} {fails : List Nat} {e : Dev} (hasks : s.asks type m)
    (h : (s.dev.asked m).serveReq type m fails [] = e) :
    whenLive (fun d => d.request type m fails) s = .next { s with dev := e } :=
  whenLive_of_eq hasks.1 ((request_of_asks hasks).trans h)

/-! ### The gate -/

section
variable {d : Dev} {m : FabMsg} {dom : Nat} {exp : Option Nat} {ss : List Span} {fails : List Nat}

/-- A request on this member's spans that no repair, no host's line and no granule on flash holds passes the gate (R257, R337, R399). -/
theorem Dev.gate_of_free {type : Nat} (f : Dev → Dev) (hrepairs : d.repairsIn ss = []) (hcold : d.coldOf ss [] = [])
    (hlocal : ∀ x ∈ ss, d.isLocal x.sa = true) (hhold : d.mustHold ss (type != 0x01) = false)
    (hchecks : ∀ sec ∈ fails, (sectorIn sec ss && (!(type != 0x01) || partly ss sec)) = false) :
    d.gate type m dom exp ss fails [] f = f d := by
  have hhere : ss.filter (fun x => d.isLocal x.sa) = ss := List.filter_eq_self.2 hlocal
  have hbad : fails.filter (fun sec => sectorIn sec ss && (!(type != 0x01) || partly ss sec)) = [] :=
    List.filter_eq_nil_iff.2 fun sec hsec => by simp [hchecks sec hsec]
  simp only [Dev.gate, hhere, hbad, hrepairs, hcold, hhold, List.append_nil, List.eraseDups_nil, List.isEmpty_nil, Bool.not_true,
    Bool.false_eq_true, if_false]

/-- Nothing of spans that are all this member's is read elsewhere (R369). -/
theorem Dev.filter_far_of_local (hlocal : ∀ x ∈ ss, d.isLocal x.sa = true) : ss.filter (fun x => !d.isLocal x.sa) = [] :=
  List.filter_eq_nil_iff.2 fun x hx => by simp [hlocal x hx]

/-- A fold that appends each element's bytes and keeps what it carries beside them. -/
theorem foldl_appends {α β : Type} {xs : List α} {got : β} {g : α → List Byte} {f : List Byte × β → α → List Byte × β}
    (hf : ∀ x ∈ xs, ∀ acc, f (acc, got) x = (acc ++ g x, got)) (acc : List Byte) :
    xs.foldl f (acc, got) = (acc ++ xs.flatMap g, got) := by
  induction xs generalizing acc with
  | nil => simp
  | cons x xs ih =>
    rw [List.foldl_cons, hf x List.mem_cons_self, ih fun y hy => hf y (List.mem_cons_of_mem x hy)]
    simp

/-- The bytes of spans that are all this member's come from its store (R369). -/
theorem Dev.gather_of_local (hlocal : ∀ x ∈ ss, d.isLocal x.sa = true) (got : List (Nat × List Byte)) :
    d.gather ss got = ss.flatMap fun x => memRead d.mem x.sa x.len := by
  rw [Dev.gather, foldl_appends (g := fun x => memRead d.mem x.sa x.len) fun x hx acc => if_pos (hlocal x hx)]
  simp

/-! ### RD and WR -/

/-- RD answers with the bytes of its spans (R369). -/
theorem Dev.serveRd_of_free (hpos : 0 < m.rdLen) (hmax : m.rdLen ≤ 65536) (htarget : d.target m m.rdLen false = .spans dom ss exp)
    (hrepairs : d.repairsIn ss = []) (hcold : d.coldOf ss [] = []) (hlocal : ∀ x ∈ ss, d.isLocal x.sa = true)
    (hchecks : ∀ sec ∈ fails, sectorIn sec ss = false) (hhold : d.mustHold ss false = false) (hpoison : d.poisonedAny ss = false) :
    d.serveRd m fails [] =
      (d.touch (ss.flatMap granulesOf)).respond 0x01 m dom exp [] .ok 0 0 (ss.flatMap fun x => memRead d.mem x.sa x.len) := by
  have hlen : ¬ (m.rdLen = 0 ∨ 65536 < m.rdLen) := by omega
  have hhere : ss.filter (fun x => d.isLocal x.sa) = ss := List.filter_eq_self.2 hlocal
  have hgate := Dev.gate_of_free (type := 0x01) (m := m) (dom := dom) (exp := exp) (fails := fails)
    (fun e => if e.poisonedAny ss then e.respond 0x01 m dom exp [] .poisoned 0 0 []
      else (e.touch (ss.flatMap granulesOf)).respond 0x01 m dom exp [] .ok 0 0 (e.gather ss []))
    hrepairs hcold hlocal hhold fun sec hsec => by simp [hchecks sec hsec]
  simp only [Dev.serveRd, if_neg hlen, htarget, hhere, Dev.filter_far_of_local hlocal, List.isEmpty_nil, Bool.not_true, Bool.false_and,
    List.filter_nil, List.append_nil, lostIn, List.any_nil, Bool.false_eq_true, if_false]
  rw [hgate, if_neg (by simp [hpoison]), Dev.gather_of_local hlocal]

/-- WR writes its bytes over its spans and answers (R369, R372). -/
theorem Dev.serveWr_of_free (hplain : m.plainWr = true) (htarget : d.target m m.payload.length true = .spans dom ss exp)
    (hrepairs : d.repairsIn ss = []) (hcold : d.coldOf ss [] = []) (hlocal : ∀ x ∈ ss, d.isLocal x.sa = true)
    (hchecks : ∀ sec ∈ fails, partly ss sec = false) (hhold : d.mustHold ss true = false) :
    let e := (if m.host? then d.peDropSpans ss else d).putSpans dom m.ctx ss m.payload
    d.serveWr m fails [] = e.1.respond 0x02 m dom exp e.2 .ok 0 0 [] := by
  have hfar : ¬ (ss.any fun x => !d.isLocal x.sa && (!d.reaches (d.homeOf x.sa) || (!d.homeServes x.sa x.len && !d.canDecode x.sa x.len))) = true := by
    simp only [List.any_eq_true, not_exists, not_and]
    intro x hx
    simp [hlocal x hx]
  simp only [Dev.serveWr, hplain, Bool.not_true, Bool.false_and, Bool.false_eq_true, if_false, if_true, htarget, if_neg hfar]
  rw [Dev.gate_of_free (type := 0x02) _ hrepairs hcold hlocal hhold fun sec hsec => by simp [hchecks sec hsec]]
  simp only [Dev.takeWr, hplain, if_true, lostIn, List.any_nil, Bool.false_eq_true, if_false]

end

/-! ### ATOM and PUB -/

section
variable {d : Dev} {m : FabMsg} {dom sa w : Nat} {fails : List Nat}

/-- An atomic or a PUB acts on a word of this member that nothing holds and that reads good (R369, R377). -/
theorem Dev.onWord_of_free {type : Nat} (f : Dev → Nat → Nat → Dev) (htype : (type != 0x01) = true) (hword : d.wordTarget m w = .ok (dom, sa))
    (hrepairs : d.repairsIn [⟨sa, w⟩] = []) (hcold : d.coldOf [⟨sa, w⟩] [] = []) (hlocal : ∀ x ∈ [(⟨sa, w⟩ : Span)], d.isLocal x.sa = true)
    (hchecks : ∀ sec ∈ fails, partly [⟨sa, w⟩] sec = false) (hhold : d.mustHold [⟨sa, w⟩] true = false) (hpoison : d.poisonedIn ⟨sa, w⟩ = false) :
    d.onWord type m w fails [] f = f d dom sa := by
  simp only [Dev.onWord, hword]
  rw [Dev.gate_of_free _ hrepairs hcold hlocal (htype ▸ hhold) fun sec hsec => by simp [htype, hchecks sec hsec]]
  simp only [lostIn, List.any_nil, Bool.false_eq_true, if_false, hpoison]

/-- A write to the store of a member that is not coded awaits nothing (R408). -/
theorem putNoted_of_uncoded {ctx a : Nat} {bs : List Byte} (hcoded : d.coded = false) : putNoted dom ctx d a bs = (d.write a bs, []) := by
  have hw : (d.write a bs).coded = false := hcoded
  simp only [putNoted, Dev.parityAfter, hw, Bool.not_false, if_true]

/-- A host's write drops PE lines and leaves the plan and the store (R113). -/
theorem Dev.peDropSpans_keeps (ss : List Span) :
    (if m.host? then d.peDropSpans ss else d).coded = d.coded ∧ (if m.host? then d.peDropSpans ss else d).mem = d.mem := by
  split <;> exact ⟨rfl, rfl⟩

/-- ATOM does its operation and answers with what it found (R105, R369). -/
theorem Dev.serveAtom_of_free (hlength : m.payload.length = 32) (hop : atomicOk (fieldAt m.payload 24 1) (fieldAt m.payload 25 1) = true)
    (hw : fieldAt m.payload 25 1 = w) (hword : d.wordTarget m w = .ok (dom, sa))
    (hrepairs : d.repairsIn [⟨sa, w⟩] = []) (hcold : d.coldOf [⟨sa, w⟩] [] = []) (hlocal : ∀ x ∈ [(⟨sa, w⟩ : Span)], d.isLocal x.sa = true)
    (hchecks : ∀ sec ∈ fails, partly [⟨sa, w⟩] sec = false) (hhold : d.mustHold [⟨sa, w⟩] true = false) (hpoison : d.poisonedIn ⟨sa, w⟩ = false)
    (hlocked : d.rowLocked m.src sa w = false) (hcoded : d.coded = false) :
    let op := fieldAt m.payload 24 1
    let e := if m.host? then d.peDropSpans [⟨sa, w⟩] else d
    let cur := leNat (memRead d.mem sa w)
    let a := atomicResult op w cur (fieldAt m.payload 8 8 % 2 ^ (8 * w)) (fieldAt m.payload 16 8 % 2 ^ (8 * w))
    d.serveAtom m fails [] = (((if a.2 then e.write sa (natLe a.1 w) else e).countNan dom op cur (fieldAt m.payload 8 8)).respond 0x03 m dom none [] .ok
      (if op = 0x0D ∧ a.2 then 1 else 0) (BitVec.ofNat 64 cur) []) := by
  subst hw
  have hgood : (m.payload.length != 32 || !atomicOk (fieldAt m.payload 24 1) (fieldAt m.payload 25 1)) = false := by simp [hlength, hop]
  obtain ⟨hecoded, hemem⟩ := Dev.peDropSpans_keeps (d := d) (m := m) [⟨sa, fieldAt m.payload 25 1⟩]
  simp only [Dev.serveAtom, hgood, Bool.false_eq_true, if_false]
  rw [Dev.onWord_of_free _ (by decide) hword hrepairs hcold hlocal hchecks hhold hpoison]
  simp only [hlocked, Bool.false_eq_true, if_false, hemem, putNoted_of_uncoded (hecoded.trans hcoded)]
  split
  · next hwrote => simp only [hwrote]
  · next hwrote => simp only [hwrote]

/-- PUB of the expected version writes the record and answers with the new version; any other version is a CONFLICT (R377). -/
theorem Dev.servePub_of_free (hlength : m.payload.length = 32) (hword : d.wordTarget m 16 = .ok (dom, sa))
    (hrepairs : d.repairsIn [⟨sa, 16⟩] = []) (hcold : d.coldOf [⟨sa, 16⟩] [] = []) (hlocal : ∀ x ∈ [(⟨sa, 16⟩ : Span)], d.isLocal x.sa = true)
    (hchecks : ∀ sec ∈ fails, partly [⟨sa, 16⟩] sec = false) (hhold : d.mustHold [⟨sa, 16⟩] true = false) (hpoison : d.poisonedIn ⟨sa, 16⟩ = false)
    (hcoded : d.coded = false) :
    let e := if m.host? then d.peDropSpans [⟨sa, 16⟩] else d
    let ver := leNat (memRead d.mem sa 8)
    let val := leNat (memRead d.mem (sa + 8) 8)
    (ver = fieldAt m.payload 0 8 → d.servePub m fails [] =
      (e.write sa (natLe ((ver + 1) % 2 ^ 64) 8 ++ natLe (fieldAt m.payload 8 8) 8)).respond 0x04 m dom none [] .ok
        (BitVec.ofNat 64 ((ver + 1) % 2 ^ 64)) (BitVec.ofNat 64 val) []) ∧
    (ver ≠ fieldAt m.payload 0 8 → d.servePub m fails [] =
      e.respond 0x04 m dom none [] .conflict (BitVec.ofNat 64 ver) (BitVec.ofNat 64 val) []) := by
  have hgood : (m.payload.length != 32) = false := by simp [hlength]
  obtain ⟨hecoded, hemem⟩ := Dev.peDropSpans_keeps (d := d) (m := m) [⟨sa, 16⟩]
  simp only [Dev.servePub, hgood, Bool.false_eq_true, if_false]
  rw [Dev.onWord_of_free _ (by decide) hword hrepairs hcold hlocal hchecks hhold hpoison]
  simp only [hemem, publishResult]
  constructor
  · intro hver
    simp only [if_pos hver, Option.elim, putNoted_of_uncoded (hecoded.trans hcoded)]
  · intro hver
    simp only [if_neg hver, Option.elim]

end

/-! ### STEP -/

section
variable {d : Dev} {m : FabMsg} (hgroup : d.fromGroup m = true)
include hgroup

/-- A command forwarded for a session that this member does not own is told NOT_OWNER (R167). -/
theorem Dev.serveStep_run_notOwned (hkind : m.stepKind = some .run) (hfork : Verb.ofCode (lineVerb (slice m.payload 24 64)) ≠ some .fork)
    (howner : ∀ x, d.session? (d.ctxNum (m.src % 16) m.ctx) = some x → d.owns x = false) :
    d.serveStep m = d.sendLedger (m.src % 16) 6 m.domain m.ctx d.coll.geoId (m.src % 16) (m.src % 16) 0 := by
  have hf : (Verb.ofCode (lineVerb (slice m.payload 24 64)) == some .fork) = false := by simpa using hfork
  simp only [Dev.serveStep, hgroup, Bool.not_true, Bool.false_eq_true, if_false, hkind, Dev.serveRun, hf]
  cases hx : (d.ctx? (d.ctxNum (m.src % 16) m.ctx)).bind fun c => c.session.map fun s => (c, s) with
  | none => rfl
  | some cs =>
    obtain ⟨c, hc, hsession⟩ := Option.bind_eq_some_iff.1 hx
    obtain ⟨s, hs, rfl⟩ := Option.map_eq_some_iff.1 hsession
    have hno : d.owns s = false := howner s (by simp [Dev.session?, hc, hs])
    simp only [hno, Bool.and_false, Bool.not_false, if_true]

/-- A row's lock is granted where none is held (R220). -/
theorem Dev.serveStep_lock_free (hkind : m.stepKind = some .lock) (hlocks : d.rowLocks = []) :
    d.serveStep m = Dev.stepAnswer { d with rowLocks := [{ fid := m.src, sa := m.stepArg 0, len := m.stepArg 1 }] } m .ok [] := by
  simp only [Dev.serveStep, hgroup, Bool.not_true, Bool.false_eq_true, if_false, hkind, hlocks, List.any_nil, List.nil_append]

end

/-- A STEP that is new here is served, and what it let go on is tried again (R364). -/
theorem exec_step_of_asks {s : State} {m : FabMsg} {e : Dev} (hasks : s.asks 0x06 m) (h : (s.dev.asked m).serveStep m = e) :
    exec (.step m) s = .next { s with dev := e.serveWaiting } :=
  whenLive_of_eq hasks.1 (congrArg Dev.serveWaiting ((request_of_asks hasks).trans h))

/-- Settles O43: RD, WR, ATOM, PUB, INV and STEP are each served at their home where nothing holds them. Rests on log 11 (the kinds of a STEP
and their arguments), log 36 (INV drops the lines of both caches) and log 129 (a host's write drops PE lines). -/
theorem fabricRequestsServed : Obligations.FabricRequestsServed := by
  unfold Obligations.FabricRequestsServed
  intro s m fails dom sa ss exp d op w word cell free
  refine ⟨?rd, ?wr, ?atom, ?pub, ?inv, ?step, ?run, ?lock⟩
  case rd =>
    rintro hasks hpos hmax htarget ⟨hrepairs, hcold, hlocal⟩ hchecks hhold hpoison
    exact whenLive_request hasks (Dev.serveRd_of_free hpos hmax htarget hrepairs hcold hlocal hchecks hhold hpoison)
  case wr =>
    rintro hasks hplain htarget ⟨hrepairs, hcold, hlocal⟩ hchecks hhold
    exact whenLive_request hasks (Dev.serveWr_of_free hplain htarget hrepairs hcold hlocal hchecks hhold)
  case atom =>
    rintro hasks hlength hop hword ⟨hrepairs, hcold, hlocal⟩ hchecks hhold hpoison hlocked hcoded
    exact whenLive_request hasks
      (Dev.serveAtom_of_free hlength hop rfl hword hrepairs hcold hlocal hchecks hhold hpoison hlocked hcoded)
  case pub =>
    rintro hasks hlength hword ⟨hrepairs, hcold, hlocal⟩ hchecks hhold hpoison hcoded
    obtain ⟨hpublish, hconflict⟩ := Dev.servePub_of_free hlength hword hrepairs hcold hlocal hchecks hhold hpoison hcoded
    exact ⟨fun hver => whenLive_request hasks (hpublish hver), fun hver => whenLive_request hasks (hconflict hver)⟩
  case inv => exact fun hasks => whenLive_request (fails := []) hasks rfl
  case step => exact fun hasks => exec_step_of_asks hasks rfl
  case run => exact fun hasks hgroup hkind hfork howner => exec_step_of_asks hasks (Dev.serveStep_run_notOwned hgroup hkind hfork howner)
  case lock => exact fun hasks hgroup hkind hlocks => exec_step_of_asks hasks (Dev.serveStep_lock_free hgroup hkind hlocks)

end Sys2Proof.Machine
end

section
/-! PROOF. Responses to the access of a command, HOLD, the timeout of an access, credits and events (R365, R367, R369, R371, R372, R377). -/

namespace Sys2Proof.Machine

/-! ### Responses -/

section
variable {d : Dev} {m : FabMsg} {r : SlotRef} {k : Cmd} {a : RemoteAccess}
  (haccess : (d.ackSome m.link).accessOf m = some (r, k, a))
include haccess

/-- RD_DATA answers the read that waits for it (R369). -/
theorem devRdData_of_read (hbrings : d.brings 0x81 m = true) (hread : a.isWrite = false) :
    devRdData m d = (d.ackSome m.link).readBack m r k a := by
  rw [devRdData, Dev.arrive_of_brings _ hbrings]
  simp only [haccess, hread, Bool.false_eq_true, if_false]

/-- WR_ACK of any status but DATA_LOST answers the write that waits for it (R372). -/
theorem devWrAck_of_write (hbrings : d.brings 0x82 m = true) (hwrite : a.isWrite = true) (hstatus : m.status ≠ .dataLost) :
    devWrAck m d = (d.ackSome m.link).writeBack m.status r a id := by
  have hkept : (m.status != .dataLost) = true := by simpa using hstatus
  rw [devWrAck, Dev.arrive_of_brings _ hbrings]
  simp only [haccess, hwrite, hkept, Bool.not_true, Bool.false_eq_true, if_false, if_true]

/-- WR_ACK with DATA_LOST ends the command with the words of the sector lost (R387, R402). -/
theorem devWrAck_of_lost (hbrings : d.brings 0x82 m = true) (hwrite : a.isWrite = true) (hstatus : m.status = .dataLost) :
    let e := d.ackSome m.link
    let w := e.lostWords r k (min 32 a.len) (a.sa / 32)
    devWrAck m d = (((({ e with draws := e.draws + 3 } : Dev).answered r a).modCmd r fun k => { k with lost := some w }).conclude r).settle := by
  rw [devWrAck, Dev.arrive_of_brings _ hbrings]
  simp only [haccess, hwrite, hstatus, bne_self_eq_false, Bool.not_true, Bool.false_eq_true, if_false]

/-- ATOM_RSP goes to the atomic that waits for it (R369). -/
theorem devAtomRsp_of_write (hbrings : d.brings 0x83 m = true) (hwrite : a.isWrite = true) :
    devAtomRsp m d = (d.ackSome m.link).atomBack r k a m.status m.arg (m.address.getLsbD 0) := by
  rw [devAtomRsp, Dev.arrive_of_brings _ hbrings]
  simp only [haccess, hwrite, Bool.not_true, Bool.false_eq_true, if_false]

/-- PUB_RSP goes to the PUBLISH that waits for it (R377). -/
theorem devPubRsp_of_publish (hbrings : d.brings 0x84 m = true) (hverb : cmdVerb k = some .publish) :
    devPubRsp m d = (d.ackSome m.link).pubBack r a m.status m.address m.arg := by
  rw [devPubRsp, Dev.arrive_of_brings _ hbrings]
  simp only [haccess, hverb, beq_self_eq_true, if_true]

/-- INV_ACK goes to the INVALIDATE that waits for it (R378). -/
theorem devInvAck_of_invalidate (hbrings : d.brings 0x85 m = true) (hverb : cmdVerb k = some .invalidate) :
    devInvAck m d = (d.ackSome m.link).writeBack m.status r a id := by
  rw [devInvAck, Dev.arrive_of_brings _ hbrings]
  simp only [haccess, hverb, beq_self_eq_true, if_true]

/-- STEP_RSP goes to the access of a command's STEP message: its answer by the message's kind (R364). -/
theorem devStepRsp_of_step {c : Context} (hbrings : d.brings 0x86 m = true) (hstep : isStep a = true)
    (hctx : ((d.ackSome m.link).answered r a).ctx? r.ctx = some c) :
    let e := (d.ackSome m.link).answered r a
    (StepKind.ofCode a.index = some .run → devStepRsp m d = e.runBack m r c) ∧
    (StepKind.ofCode a.index = some .stage → devStepRsp m d = e.stageBack m r k a) ∧
    (StepKind.ofCode a.index = some .move → devStepRsp m d = e.moveBack m r k a) ∧
    (StepKind.ofCode a.index = some .log → devStepRsp m d = e.logBack m r c k) ∧
    (StepKind.ofCode a.index = some .lock → devStepRsp m d = e.lockBack m r k a) ∧
    (StepKind.ofCode a.index = some .bind → devStepRsp m d = e.bindBack m r k) ∧
    (StepKind.ofCode a.index = some .enter → devStepRsp m d = e.enterBack m r k) := by
  rw [devStepRsp, Dev.arrive_of_brings _ hbrings]
  simp only [haccess, hstep, Bool.not_true, Bool.false_eq_true, if_false, hctx]
  refine ⟨?_, ?_, ?_, ?_, ?_, ?_, ?_⟩ <;> intro hkind <;> simp only [hkind]

end

section
variable {d : Dev} {r : SlotRef} {k : Cmd} {a : RemoteAccess} {old : W64} {wrote : Bool}

/-- An ATOMIC's answer gives its result words and completes its access (R106, R369). -/
theorem Dev.atomBack_of_atomic (hverb : cmdVerb k = some .atomic) :
    d.atomBack r k a .ok old wrote = (d.fabAtomic a old.toNat).writeBack .ok r a fun e => e.modCmd r fun j =>
      { j with w0 := if lineFlags k.line == 1 then old else 0, w1 := if wrote then 1 else 0 } := by
  have hbatch : (cmdVerb k == some .atomicBatch) = false := by rw [hverb]; decide
  have hrelease : (cmdVerb k == some .release) = false := by rw [hverb]; decide
  have hmine : (cmdVerb k == some .atomic) = true := by rw [hverb]; decide
  simp only [Dev.atomBack, beq_self_eq_true, if_true, hbatch, hrelease, hmine, Bool.false_or, Bool.false_eq_true, if_false]

/-- An entry of ATOMIC_BATCH is done with its answer (R107, R369). -/
theorem Dev.atomBack_of_atomicBatch (hverb : cmdVerb k = some .atomicBatch) :
    d.atomBack r k a .ok old wrote = ((((d.fabAtomic a old.toNat).answered r a).entryDone r old.toNat a.fetch).conclude r).settle := by
  have hbatch : (cmdVerb k == some .atomicBatch) = true := by rw [hverb]; decide
  simp only [Dev.atomBack, beq_self_eq_true, if_true, hbatch]

end

/-! ### HOLD and its timer (R371) -/

section
variable {d : Dev} {m : FabMsg} {t : Nat}

/-- HOLD keeps the access it names waiting: its timeout starts again (R371). -/
theorem devHold_of_access {r : SlotRef} {k : Cmd} {a : RemoteAccess} (hbrings : (d.atTime t).brings 0x8F m = true)
    (haccess : ((d.atTime t).ackSome m.link).accessOf m = some (r, k, a)) :
    devHold m t d = ((d.atTime t).ackSome m.link).modCmd r fun k =>
      { k with remote := replaceFirst (· == a) { a with since := max d.now t } k.remote } := by
  obtain ⟨_, _, _, _, hnow, _⟩ := (d.atTime t).ackSome_frame m.link
  rw [devHold, Dev.arrive_of_brings _ hbrings]
  simp only [haccess, hnow, Dev.atTime_now]

/-- Nothing waits to be tried again where every request kept here awaits another member. -/
theorem Dev.serveWaiting_of_awaiting (h : ∀ x ∈ d.serving, x.await ≠ []) : d.serveWaiting = d := by
  have hready : (d.serving.filter fun x => x.req.isSome && x.await.isEmpty && x.answer.isNone && decide (x.home < 16)) = [] :=
    List.filter_eq_nil_iff.2 fun x hx => by simp [h x hx]
  rw [Dev.serveWaiting, hready]
  rfl

/-- With nothing kept here no HOLD is due. -/
theorem devHoldTimer_of_none (hnone : d.serving = []) : devHoldTimer t d = d.atTime t := by
  have hserving : (d.atTime t).serving = [] := hnone
  have hwaiting : (d.atTime t).serveWaiting = d.atTime t := Dev.serveWaiting_of_awaiting (by simp [hnone])
  simp only [devHoldTimer, hwaiting, hserving, List.filter_nil, List.map_nil, List.foldl_nil]
  rw [← hserving]

/-- A HOLD is sent for what has waited 100 µs(L) for another member (R371). -/
theorem devHoldTimer_of_due {x : FabService} {type : Nat} {q : FabMsg} (hone : d.serving = [x]) (hsource : x.src ≠ hostSource) (hhome : x.home < 16)
    (hreq : x.req = some (type, q)) (hawait : x.await ≠ []) (hdue : 100000 + x.lastHold ≤ max d.now t) :
    devHoldTimer t d = ({ d.atTime t with serving := [{ x with lastHold := max d.now t }] } : Dev).sendFab 0x8F x.src q.domain q.ctx x.tag 0 0 0 [] none := by
  have hserving : (d.atTime t).serving = [x] := hone
  have hwaiting : (d.atTime t).serveWaiting = d.atTime t := Dev.serveWaiting_of_awaiting (by simpa [hone] using hawait)
  have hdue' : (x.src != hostSource && decide (x.home < 16) && (x.req.isSome || !x.await.isEmpty) &&
      decide (100000 + x.lastHold ≤ (d.atTime t).now)) = true := by
    simp [hsource, hhome, hreq, hdue]
  simp only [devHoldTimer, hwaiting, hserving, List.filter_cons, hdue', if_true, List.filter_nil, List.map_cons, List.map_nil,
    List.foldl_cons, List.foldl_nil]
  simp only [hreq, Dev.atTime_now]

end

/-- Settles O45: each response to the access of a command, HOLD and its timer, the timeout of an access, EVENT and CREDIT. Rests on log 11 (the
kinds of a STEP and their answers), log 44 (the words of DATA_LOST) and log 53 (an EVENT changes nothing). -/
theorem fabricResponsesComplete : Obligations.FabricResponsesComplete := by
  unfold Obligations.FabricResponsesComplete
  intro s m r k c a t tag link returns hlive d
  refine ⟨?rdData, ?wrAck, ?wrAckLost, ?atomic, ?atomicBatch, ?publish, ?invalidate, ?step, ?hold, ?noHold, ?holdDue, ?timeout, ?event, ?credit⟩
  case rdData => exact fun hbrings haccess hread => whenLive_of_eq hlive (devRdData_of_read haccess hbrings hread)
  case wrAck => exact fun hbrings haccess hwrite hstatus => whenLive_of_eq hlive (devWrAck_of_write haccess hbrings hwrite hstatus)
  case wrAckLost => exact fun hbrings haccess hwrite hstatus => whenLive_of_eq hlive (devWrAck_of_lost haccess hbrings hwrite hstatus)
  case atomic =>
    intro hbrings haccess hwrite hverb hstatus
    refine whenLive_of_eq hlive ((devAtomRsp_of_write haccess hbrings hwrite).trans ?_)
    rw [hstatus, Dev.atomBack_of_atomic hverb]
  case atomicBatch =>
    intro hbrings haccess hwrite hverb hstatus
    refine whenLive_of_eq hlive ((devAtomRsp_of_write haccess hbrings hwrite).trans ?_)
    rw [hstatus, Dev.atomBack_of_atomicBatch hverb]
  case publish => exact fun hbrings haccess hverb => whenLive_of_eq hlive (devPubRsp_of_publish haccess hbrings hverb)
  case invalidate => exact fun hbrings haccess hverb => whenLive_of_eq hlive (devInvAck_of_invalidate haccess hbrings hverb)
  case step =>
    intro hbrings haccess hstep e hctx
    obtain ⟨hrun, hstage, hmove, hlog, hlock, hbind, henter⟩ := devStepRsp_of_step haccess hbrings hstep hctx
    exact ⟨fun h => whenLive_of_eq hlive (hrun h), fun h => whenLive_of_eq hlive (hstage h), fun h => whenLive_of_eq hlive (hmove h),
      fun h => whenLive_of_eq hlive (hlog h), fun h => whenLive_of_eq hlive (hlock h), fun h => whenLive_of_eq hlive (hbind h),
      fun h => whenLive_of_eq hlive (henter h)⟩
  case hold => exact fun hbrings haccess => whenLive_of_eq hlive (devHold_of_access hbrings haccess)
  case noHold => exact fun hnone => whenLive_of_eq hlive (devHoldTimer_of_none hnone)
  case holdDue =>
    exact fun x type q hone hsource hhome hreq hawait hdue =>
      whenLive_of_eq hlive (devHoldTimer_of_due hone hsource hhome hreq hawait hdue)
  case timeout => exact whenLive_of_eq hlive rfl
  case event => exact fun hbrings => whenLive_of_eq hlive (Dev.arrive_of_brings id hbrings)
  case credit =>
    intro hup
    refine whenLive_of_eq hlive (if_neg ?_)
    simp [hup]

end Sys2Proof.Machine
end

section
/-! PROOF. How a command begins and what is issued next (R19, R21, R26, R33, R72, R84, R451). -/

namespace Sys2Proof.Machine

/-! ### A command begins -/

/-- A command with steps left, neither cut short nor short of data, is not concluded. -/
theorem Dev.conclude_of_planned {d : Dev} {r : SlotRef} {k : Cmd} (hk : d.cmd? r = some k) (hcut : k.cut = none) (hlost : k.lost = none)
    (hplan : k.plan ≠ []) : d.conclude r = d := by
  simp [Dev.conclude, hk, hcut, hlost, hplan]

/-! ### The steps that could be issued (R33, R72) -/

/-- No more than eight steps of a command are in flight (R33). -/
theorem Cmd.window_le_eight (k : Cmd) : k.window ≤ 8 := by
  have hmin : min maxIssued k.plan.length ≤ 8 := Nat.min_le_left 8 _
  unfold Cmd.window
  split
  · exact hmin
  · exact (List.length_filter_le _ _).trans (List.length_range.trans_le hmin)

/-- A step issued anew is the first one not issued, and among the command's first eight (R33). -/
theorem Cmd.nextPlace_of_new {k : Cmd} {i : Nat} (h : k.nextPlace = some i) (hnew : k.issued ≤ i) : i < 8 ∧ i = k.issued := by
  unfold Cmd.nextPlace at h
  split at h
  · next j hj =>
    obtain rfl : j = i := Option.some.inj h
    exact absurd hnew (Nat.not_le.2 (List.mem_range.1 (List.mem_of_find?_eq_some hj)))
  · obtain ⟨hroom, hi⟩ := Option.ite_none_right_eq_some.1 h
    obtain rfl : k.issued = i := Option.some.inj hi
    simp only [Bool.and_eq_true, decide_eq_true_eq] at hroom
    exact ⟨hroom.2.trans_le k.window_le_eight, rfl⟩

/-- A step that could be issued is the next of a started command's plan. -/
theorem Dev.ready_of_mem {d : Dev} {x : Ready} (h : x ∈ d.readySteps) :
    x.k.started = true ∧ x.k.plan[x.at_]? = some x.step ∧ x.k.nextPlace = some x.at_ := by
  simp only [Dev.readySteps, List.mem_flatMap, List.mem_filterMap] at h
  obtain ⟨c, -, e, -, h⟩ := h
  obtain ⟨hrun, h⟩ := Option.ite_none_right_eq_some.1 h
  obtain ⟨i, hi, h⟩ := Option.bind_eq_some_iff.1 h
  obtain ⟨st, hst, rfl⟩ := Option.map_eq_some_iff.1 h
  exact ⟨(Bool.and_eq_true_iff.1 hrun).2, hst, hi⟩

/-- Inserting adds its element. -/
theorem insertOrd_perm {α : Type} (lt : α → α → Bool) (y : α) (xs : List α) : (insertOrd lt y xs).Perm (y :: xs) := by
  induction xs with
  | nil => exact .refl _
  | cons x xs ih =>
    unfold insertOrd
    split
    · exact .refl _
    · exact (ih.cons x).trans (.swap y x xs)

/-- Sorting keeps the elements. -/
theorem sortOrd_perm {α : Type} (lt : α → α → Bool) (xs : List α) : (sortOrd lt xs).Perm xs := by
  suffices h : ∀ ys : List α, (xs.foldl (fun acc x => insertOrd lt x acc) ys).Perm (ys ++ xs) from h []
  induction xs with
  | nil => exact fun ys => by simp
  | cons x xs ih =>
    exact fun ys => (ih _).trans (((insertOrd_perm lt x ys).append_right xs).trans List.perm_middle.symm)

/-- The step that goes first is one of those that could. -/
theorem mem_of_firstReady {xs : List Ready} {x : Ready} (h : firstReady xs = some x) : x ∈ xs :=
  (sortOrd_perm _ xs).subset (List.mem_of_head? h)

/-! ### The engine of the step issued next (R19, R21, R26) -/

/-- An engine for a step: one of its kind that works and that no step in flight occupies. -/
def Dev.FreeEngine (d : Dev) (x : Ready) (u : Option Nat) : Prop :=
  ∃ i, u = some i ∧ d.unitWorks x.step.kind i = true ∧ ∀ y ∈ d.inFlight, y.occupies x.step.kind i = false

section
variable {d e : Dev} {xs : List Ready} {kind : EngineKind} {x : Ready} {u : Option Nat}

/-- A mover or scanner that takes a step is free for it. -/
theorem Dev.freeEngine_of_pickUnit {n : Nat} (h : d.pickUnit xs kind n = some (x, u, e)) : x ∈ xs ∧ d.FreeEngine x u := by
  unfold Dev.pickUnit at h
  obtain ⟨-, h⟩ := Option.ite_none_left_eq_some.1 h
  obtain ⟨i, -, h⟩ := List.exists_of_findSome?_eq_some h
  obtain ⟨hfree, h⟩ := Option.ite_none_left_eq_some.1 h
  obtain ⟨t, -, h⟩ := Option.bind_eq_some_iff.1 h
  obtain ⟨y, hy, h⟩ := Option.map_eq_some_iff.1 h
  obtain ⟨rfl, rfl, -⟩ : y = x ∧ some i = u ∧ d.setArbiter t.2 = e := by simpa using h
  have hmem := (List.mem_filter.1 (List.mem_filter.1 (mem_of_firstReady hy)).1)
  have hkind : y.step.kind = kind := by
    simpa using (Bool.and_eq_true_iff.1 hmem.2).1
  simp only [Bool.or_eq_true, not_or, Bool.not_eq_true, Bool.not_eq_false', List.any_eq_false] at hfree
  exact ⟨hmem.1, i, rfl, hkind ▸ hfree.1.2, hkind ▸ hfree.2⟩

/-- A PE or gallery that takes a step is free for it. -/
theorem Dev.freeEngine_of_pickGallery (h : d.pickGallery xs kind = some (x, u, e)) : x ∈ xs ∧ d.FreeEngine x u := by
  obtain ⟨y, hy, h⟩ := Option.map_eq_some_iff.1 h
  simp only [Prod.mk.injEq] at h
  obtain ⟨rfl, rfl, -⟩ := h
  obtain ⟨hmem, hfound⟩ := List.mem_filter.1 (mem_of_firstReady hy)
  obtain ⟨hkind, hsome⟩ := Bool.and_eq_true_iff.1 hfound
  obtain ⟨i, hi⟩ := Option.isSome_iff_exists.1 hsome
  have hfree := List.find?_some hi
  simp only [Bool.and_eq_true, Bool.not_eq_true', List.any_eq_false, Bool.not_eq_true] at hfree
  rw [← beq_iff_eq.1 hkind] at hfree
  exact ⟨hmem, i, hi, hfree⟩

/-- The step issued next could be issued, and needs no engine or takes a free one. -/
theorem Dev.issuable_of_nextIssue (h : d.nextIssue = some (x, u, e)) :
    x ∈ d.readySteps ∧ ((x.step.kind.shared = true ∧ u = none) ∨ d.FreeEngine x u) := by
  unfold Dev.nextIssue at h
  split at h
  · cases h
  next xs hne =>
  split at h
  next y hy =>
    obtain ⟨rfl, rfl, -⟩ : y = x ∧ none = u ∧ d = e := by simpa using h
    obtain ⟨hmem, hshared⟩ := List.mem_filter.1 (mem_of_firstReady hy)
    exact ⟨hmem, .inl ⟨hshared, rfl⟩⟩
  split at h
  next y hy => exact (Dev.freeEngine_of_pickUnit (hy.trans h)).imp_right .inr
  split at h
  next y hy => exact (Dev.freeEngine_of_pickUnit (hy.trans h)).imp_right .inr
  split at h
  next y hy => exact (Dev.freeEngine_of_pickGallery (hy.trans h)).imp_right .inr
  · exact (Dev.freeEngine_of_pickGallery h).imp_right .inr

end

/-! ### The gallery of an engine (R451) -/

section
variable {d : Dev} {kind : EngineKind} {i g : Nat}

/-- Taking an engine of a gallery changes free draws and galleries alone. -/
theorem Dev.engage_of_gallery (h : engineGallery kind (some i) = some g) :
    d.engage kind (some i) = { d with
      draws := d.draws + 2
      galleries := d.galleries.map fun (x : Gallery) =>
        if x.logical == some g && x.power != .off then { x with power := .on, lastStep := d.now }.fill (x.unitOf kind i) d.draws else x } := by
  simp only [Dev.engage, h]

/-- The gallery of an engine that takes a step is not in RETAIN (R451). -/
theorem Dev.power_of_engage (h : engineGallery kind (some i) = some g) {y : Gallery} (hy : y ∈ (d.engage kind (some i)).galleries)
    (hg : y.logical = some g) : y.power = .on ∨ y.power = .off := by
  rw [Dev.engage_of_gallery h] at hy
  obtain ⟨x, -, rfl⟩ := List.mem_map.1 hy
  split at hg
  next hon => exact .inl (by rw [if_pos hon]; rfl)
  next hoff =>
    rw [if_neg hoff]
    exact .inr (by simpa [hg] using hoff)

end

/-- Settles O27: a plan with steps is not concluded, what is issued next is one of the ready steps, and the galleries change as the
engine is taken. -/
theorem begunCommandIssuesSteps : Obligations.BegunCommandIssuesSteps := by
  refine ⟨fun d r k plan w0 w1 w2 hk hcut hlost hplan => ?begins, fun d e x u h => ?issues, fun d kind i g h => ?engages⟩
  case begins =>
    have hbegun := (Dev.cmd?_modCmd d r fun k => { k with started := true, plan := plan, issued := 0, w0 := w0, w1 := w1, w2 := w2 }).trans
      (congrArg _ hk)
    exact congrArg Dev.settle (Dev.conclude_of_planned hbegun hcut hlost hplan)
  case issues =>
    obtain ⟨hmem, hengine⟩ := Dev.issuable_of_nextIssue h
    obtain ⟨hstarted, hstep, hplace⟩ := Dev.ready_of_mem hmem
    exact ⟨hmem, hstarted, hstep, Cmd.nextPlace_of_new hplace, hengine⟩
  case engages => exact ⟨fun y hy hg => Dev.power_of_engage h hy hg, _, _, Dev.engage_of_gallery h⟩

end Sys2Proof.Machine
end

section
/-! PROOF. The phases of entry and exit, the west wing, and the power of single units (R37, R268, R451 to R453, R457 to R462): what each
row does in the case that its clause names. -/

namespace Sys2Proof.Machine

section
variable {d : Dev} {w : RegWrite}

/-! ### Entry and exit (R457, R458, R460, R461) -/

/-- With nothing in flight on the media and no command running, the drain is over (R457). -/
theorem devSleepDrainDone_of_drained (hphase : d.power.phase = .drain) (hmedia : ∀ m ∈ d.media, m.onMedia = false)
    (hrunning : d.slotsWhere (fun _ x => x.state == .running) = []) :
    devSleepDrainDone d = { d with power := { d.power with phase := .park } } := by
  have hidle : d.media.all (!·.onMedia) = true := List.all_eq_true.2 fun m hm => by rw [hmedia m hm]; rfl
  exact if_pos (by simp [hphase, hidle, hrunning])

/-- The links that an entry parks leave the store and the contexts. -/
theorem Dev.mem_ctxs_of_parked (f : Link → Link) (ls : List Nat) (d : Dev) :
    (ls.foldl (fun (d : Dev) l => (d.emit (.control l 7 0)).modLink l f) d).mem = d.mem ∧
      (ls.foldl (fun (d : Dev) l => (d.emit (.control l 7 0)).modLink l f) d).ctxs = d.ctxs :=
  ⟨foldl_leaves (g := Dev.mem) (f := fun (d : Dev) l => (d.emit (.control l 7 0)).modLink l f) (fun _ _ => rfl) ls d,
    foldl_leaves (g := Dev.ctxs) (f := fun (d : Dev) l => (d.emit (.control l 7 0)).modLink l f) (fun _ _ => rfl) ls d⟩

/-- A gallery that retains where it was on is not on. -/
theorem Gallery.not_on_of_retained (g : Gallery) : (if g.power == GalPower.on then { g with power := .retain } else g).power ≠ .on := by
  split
  · exact GalPower.noConfusion
  · next h => simpa using h

/-- Parking ends with the core at 0.60 V, no gallery on, and the stores as they were (R457, R458, R473). -/
theorem devSleepParkDone_of_park (hphase : d.power.phase = .park) :
    (devSleepParkDone d).power.phase = .commit ∧ (devSleepParkDone d).power.vddMv = 600 ∧ (devSleepParkDone d).power.vid = 0 ∧
      (∀ g ∈ (devSleepParkDone d).galleries, g.power ≠ .on) ∧ (devSleepParkDone d).mem = d.mem ∧ (devSleepParkDone d).ctxs = d.ctxs := by
  have hpark : (d.power.phase != .park) = false := by simp [hphase]
  rw [devSleepParkDone, if_neg (by simp [hpark])]
  refine ⟨rfl, rfl, rfl, fun g hg => ?_, (Dev.mem_ctxs_of_parked _ _ d).1, (Dev.mem_ctxs_of_parked _ _ d).2⟩
  obtain ⟨x, -, rfl⟩ := List.mem_map.1 hg
  exact x.not_on_of_retained

/-- The commit of a SLEEP (R458). -/
theorem devEntryCommitDone_of_sleep (hphase : d.power.phase = .commit) (hreq : d.power.request = 1) :
    devEntryCommitDone d = { d with power := { d.power with
      device := .sleep, phase := .none, request := 0, exiting := d.power.heldWake.isSome, heldWake := none } } := by
  rw [devEntryCommitDone, if_neg (by simp [hphase]), if_pos (show d.power.request = reqSleep from hreq), Dev.modPower]

/-- The commit of an entry into OFF_READY (R458). -/
theorem devEntryCommitDone_of_offReady (hphase : d.power.phase = .commit) (hreq : d.power.request ≠ 1) :
    devEntryCommitDone d = { d with
      power := { d.power with device := .offReady, phase := .none, request := 0, heldWake := none, waiting := [] }
      pins := { d.pins with liveOut := false } } := by
  rw [devEntryCommitDone, if_neg (by simp [hphase]), if_neg (show ¬ d.power.request = reqSleep from hreq)]

/-- The armed timer of a sleeping device begins its exit (R460). -/
theorem devWakeTimer_of_due {t : Nat} (hsleep : d.power.device = .sleep) (harmed : 0 < d.power.wakeTime)
    (hdue : d.power.wakeTime ≤ max d.now t) :
    devWakeTimer t d = { d.atTime t with power := { d.power with exiting := true } } := by
  rw [devWakeTimer, if_pos (by simp [hsleep, hdue, Nat.ne_of_gt harmed])]
  exact Dev.wakeBy_of_sleep 4 hsleep

/-- The exit from SLEEP serves what waited in the order it came (R461). -/
theorem devWakeExitDone_of_exiting (hsleep : d.power.device = .sleep) (hexit : d.power.exiting = true) :
    devWakeExitDone d = d.power.waiting.foldl (fun (d : Dev) i => serveWaiting i d) d.exitSleep :=
  if_pos (by simp [hsleep, hexit])

/-! ### The west wing (R453) -/

/-- The gated wing's galleries and channels are off. -/
theorem devGateWestDone_of_gating (hwest : d.power.west = .gating) :
    devGateWestDone d = { d with
      power := { d.power with west := .gated }
      galleries := d.galleries.map fun (g : Gallery) =>
        if g.logical.any fun n => decide (westGallery d.acc.reported ≤ n) then g.turnOff else g
      channels := d.channels.map fun (c : OnfiChannel) => if 16 ≤ c.index then { c with off := true, mpe := false, draining := false } else c } :=
  if_neg (by simp [hwest])

/-- The wing on again: its pairs have their home roles, its channels the media power that PWR_UNIT leaves them. -/
def Dev.wingOn (d : Dev) : Dev :=
  { d with
    power := { d.power with west := .on }
    pairs := d.pairs.map fun (p : Pair) => { p with roles := [p.index] }
    channels := d.channels.map fun (c : OnfiChannel) =>
      if 16 ≤ c.index && c.unit != .disabled then { c with mpe := !bit (d.field 0xA040 31 0) c.index } else c }

/-- The roles of the pairs that have halted pass on. -/
def Dev.dropHalted (d : Dev) : Dev := ((d.pairs.filter (!·.works)).map (·.index)).foldl (fun (d : Dev) p => d.dropPair p) d

/-- The wing's links that work train. -/
def Dev.trainWest (d : Dev) : Dev := ([4, 5, 6, 7].filter fun l => d.linkWorks l).foldl (fun (d : Dev) l => d.train l) d

/-- An ungating ends with the wing on, its halted pairs dropped and its links in training. -/
theorem devUngateDone_of_ungating (hwest : d.power.west = .ungating) :
    devUngateDone d = ((d.wingOn.dropHalted.trainWest).powerGalleries).checkFull.settle :=
  if_neg (by simp [hwest])

/-- With every pair at work no roles pass on. -/
theorem Dev.dropHalted_of_works (h : ∀ p ∈ d.pairs, p.works = true) : d.dropHalted = d := by
  have hnone : d.pairs.filter (!·.works) = [] := List.filter_eq_nil_iff.2 fun p hp => by simp [h p hp]
  rw [Dev.dropHalted, hnone, List.map_nil, List.foldl_nil]

/-- With no west link that works none trains. -/
theorem Dev.trainWest_of_none (h : ∀ l ∈ [4, 5, 6, 7], d.linkWorks l = false) : d.trainWest = d := by
  have hnone : [4, 5, 6, 7].filter (fun l => d.linkWorks l) = [] := List.filter_eq_nil_iff.2 fun l hl => by simp [h l hl]
  rw [Dev.trainWest, hnone, List.foldl_nil]

/-- The pairs of the ungated wing work as they did. -/
theorem Dev.wingOn_works (h : ∀ p ∈ d.pairs, p.works = true) : ∀ p ∈ d.wingOn.pairs, p.works = true := by
  intro p hp
  obtain ⟨x, hx, rfl⟩ := List.mem_map.1 hp
  exact h x hx

/-! ### Single units (R37, R268, R451, R452, R462) -/

/-- A port in L1 of an awake device is in L0 again, and nothing else happens. -/
theorem devL1Exit_of_awake {port : Nat} (hawake : d.awake = true)
    (hport : (d.ports.any fun p => p.index == port && p.perstReleased && p.link == .l1) = true) : devL1Exit port d = d.toL0 port := by
  rw [devL1Exit, if_pos hport, Dev.wakeBy_of_awake (d := d.toL0 port) 1 hawake]

/-- A channel with nothing queued on its media goes off once drained (R268). -/
theorem devOnfiOffDrained_of_idle {channel : Nat} (hdraining : (d.channels.any fun c => c.index == channel && c.draining) = true)
    (hidle : ∀ m ∈ d.media, m.channel ≠ channel) :
    devOnfiOffDrained channel d = d.modChannel channel fun c => { c with draining := false, off := true, mpe := false } := by
  have hnone : ∀ p : MediaOp → Bool, (d.media.any fun m => m.channel == channel && p m) = false := fun p =>
    List.any_eq_false.2 fun m hm => by simp [hidle m hm]
  rw [devOnfiOffDrained, if_neg (by simp only [hdraining, hnone (·.onMedia)]; decide)]
  exact if_neg (by rw [Dev.modChannel_media, hnone (·.kind == .read)]; decide)

/-- A gallery of a domain with AUTO_RETAIN and no step ready retains once its time is over (R451). -/
theorem devGalleryRetain_of_idle {gallery dom t : Nat} (hdom : d.galleryDomain gallery = some dom)
    (hauto : d.field (pageOff dom 0x240) 0 0 = 1) (hready : d.stepReady dom gallery = false) :
    devGalleryRetain gallery t d = { d.atTime t with
      galleries := d.galleries.map fun (g : Gallery) =>
        if g.logical == some gallery && g.power == .on && decide (g.lastStep + d.field (pageOff dom 0x240) 31 16 * 1000 ≤ max d.now t)
        then { g with power := .retain } else g } := by
  have hdom' : (d.atTime t).galleryDomain gallery = some dom := hdom
  have hauto' : (d.atTime t).field (pageOff dom 0x240) 0 0 = 1 := hauto
  have hready' : (d.atTime t).stepReady dom gallery = false := hready
  simp only [devGalleryRetain, hdom']
  rw [if_neg (by simp [hauto', hready'])]
  rfl

/-- The pace of a device that was not throttled: the voltage moves towards what the power manager picks, and no throttled time is
counted (R37, R462). -/
theorem devPaceUpdate_of_unthrottled {t pace tj watts : Nat} (hactive : d.power.device = .active) (hfull : d.acc.state = .availableFull)
    (hcool : d.power.throttled = false) {cur want : Nat} {holds : Bool}
    (hcur : (if d.power.vddMv < 600 then 750 else d.power.vddMv) = cur)
    (hholds : (decide (watts ≤ d.field 0xA010 11 0) && decide (tj ≤ 105)) = holds) (hwant : (d.atTime t).pickVdd cur holds = want) :
    devPaceUpdate t pace tj watts d =
      ((d.atTime t).setVdd (if want < cur then max want (cur - 100) else min want (cur + 100))).modPower fun p =>
        { p with pacePs := pace % 2 ^ 14, tjC := tj % 256, throttled := !holds && cur == 700, throttleStart := max d.now t } := by
  subst hcur hholds hwant
  rw [devPaceUpdate, if_neg (by simp [hactive, hfull])]
  simp only [Dev.atTime_power, hcool, Bool.false_eq_true, if_false, if_true]
  rfl

/-- A link that is up goes QUIET, and DOWN is sent, on a device of no collection (R452). -/
theorem Dev.quietLink_of_up {l : Nat} (halone : d.coll.state = .standalone) (hup : (d.link? l).any (fun x => x.state == .up) = true) :
    d.quietLink l = (d.emit (.control l 7 0)).modLink l fun x => { x with state := .quiet, ts1 := 0, ts2 := 0 } := by
  obtain ⟨x, hx, hstate⟩ := Option.any_eq_true .. |>.1 hup
  simp only [Dev.quietLink, hx, halone]
  rw [if_neg (by simp), if_pos (by simp [hstate])]

end

/-- Settles O12: a step of 100 mV at each PACE_UPDATE is log 85, the voltage that is picked log 7, the drain that waits for running
commands log 89, the wake dropped at OFF_READY log 59, the order of the waiting traffic log 93, and PWR_UNIT's bits log 83. -/
theorem powerCommandsComplete : Obligations.PowerCommandsComplete := by
  refine ⟨fun s t hlive => ⟨?drain, ?park, ?sleep, ?offReady, ?timer, ?exit, ?gated, ?ungated⟩,
    fun s w port channel gallery dom t pace tj watts => ⟨?l1Entry, ?l1Exit, ?drained, ?retain, ?pace, ?unit⟩⟩
  case drain => exact fun hphase hmedia hrunning => whenLive_of_eq hlive (devSleepDrainDone_of_drained hphase hmedia hrunning)
  case park => exact fun hphase => ⟨_, whenLive_of_eq hlive rfl, devSleepParkDone_of_park hphase⟩
  case sleep => exact fun hphase hreq => whenLive_of_eq hlive (devEntryCommitDone_of_sleep hphase hreq)
  case offReady => exact fun hphase hreq => whenLive_of_eq hlive (devEntryCommitDone_of_offReady hphase hreq)
  case timer => exact fun hsleep harmed hdue => whenLive_of_eq hlive (devWakeTimer_of_due hsleep harmed hdue)
  case exit => exact fun hsleep hexit => whenLive_of_eq hlive (devWakeExitDone_of_exiting hsleep hexit)
  case gated => exact fun hwest => whenLive_of_eq hlive (devGateWestDone_of_gating hwest)
  case ungated =>
    intro hwest hpairs hlinks
    refine whenLive_of_eq hlive ((devUngateDone_of_ungating hwest).trans ?_)
    rw [Dev.dropHalted_of_works (Dev.wingOn_works hpairs), Dev.trainWest_of_none (d := s.dev.wingOn) hlinks]
    rfl
  case l1Entry => exact fun hlive => whenLive_of_eq hlive rfl
  case l1Exit => exact fun hlive hawake hport => whenLive_of_eq hlive (devL1Exit_of_awake hawake hport)
  case drained => exact fun hlive hdraining hidle => whenLive_of_eq hlive (devOnfiOffDrained_of_idle hdraining hidle)
  case retain => exact fun hlive hdom hauto hready => whenLive_of_eq hlive (devGalleryRetain_of_idle hdom hauto hready)
  case pace =>
    exact fun hlive hactive hfull hcool => whenLive_of_eq hlive (devPaceUpdate_of_unthrottled hactive hfull hcool rfl rfl rfl)
  case unit =>
    intro hw hreg d
    exact ⟨fun h => whenLive_onRegister (i := .linkQuiet w) (kind := fun d => d.unitBits w 39 32 true) hw rfl h,
      fun h => whenLive_onRegister (i := .onfiChannelOff w) (kind := fun d => d.unitBits w 31 0 true) hw rfl h,
      fun h => whenLive_onRegister (i := .onfiChannelOn w) (kind := fun d => d.unitBits w 31 0 false) hw rfl h,
      fun l _ halone hup => Dev.quietLink_of_up halone hup, fun _ => rfl⟩

end Sys2Proof.Machine
end

section
/-! PROOF. The units that join and the pair that halts (R22, R23, R433, R435, R440 to R442), and the firmware's staging and one-time
commits (R428, R429, R436 to R438, R448): what each row does in the case that its clause names. -/

namespace Sys2Proof.Machine

section
variable {d : Dev} {w : RegWrite}

/-! ### Units that join (R433, R435, R440 to R442) -/

/-- The next increment of the store joins (R440). -/
theorem devDramIncrementJoined_of_pass (hphase : 5 ≤ d.acc.phase) (hroom : d.acc.increments < 128) (hon : d.acc.dramStopped = false) :
    devDramIncrementJoined true d = ({ d with
      draws := d.draws + 8, acc := { d.acc with increments := d.acc.increments + 1 }
      stackUnits := d.stackUnits.map fun (y : Stack) => y.marched (Config.freeNat (d.draws + y.physical)) } : Dev).checkFull.settle := by
  rw [devDramIncrementJoined, if_neg (by simp [hon, Nat.not_lt.2 hphase, Nat.not_le.2 hroom])]
  exact if_neg (by decide)

/-- An increment that fails beyond repair stops the joining (R433). -/
theorem devDramIncrementJoined_of_fail (hphase : 5 ≤ d.acc.phase) (hroom : d.acc.increments < 128) (hon : d.acc.dramStopped = false) :
    devDramIncrementJoined false d = ((d.stopDram).degrade).checkFull.settle := by
  rw [devDramIncrementJoined, if_neg (by simp [hon, Nat.not_lt.2 hphase, Nat.not_le.2 hroom])]
  exact if_pos (by decide)

/-- A gallery whose test finds no new failure, and no more than two in all, joins (R433, R441). -/
theorem devGalleryTestDone_of_sound {gallery fails : Nat} {g : Gallery} (hg : d.galleries.find? (·.physical == gallery) = some g)
    (hlogical : g.logical.isSome = true) (hpending : g.state = .pending) (htested : d.acc.enginesTested = true)
    (hfew : popCount (Nat.lor g.failed fails % 2 ^ 34) 34 ≤ 2) (hsame : Nat.lor g.failed fails % 2 ^ 34 = g.failed) :
    devGalleryTestDone gallery fails d =
      (({ d with
          galleries := modifyAll (fun (y : Gallery) => y.physical == gallery)
            (fun y => { y with failed := g.failed, state := .joined, niMap := workingPes g.failed }) d.galleries } : Dev).notePass
        (.gallery gallery)).powerGalleries.checkFull.settle := by
  rw [hsame] at hfew
  have hnamed : g.logical.isNone = false := by simp [hlogical]
  simp only [devGalleryTestDone, hg, hsame]
  rw [if_neg (by simp [hnamed, hpending, htested])]
  simp [hfew]

/-- No bit of a word is outside the word. -/
theorem land_xor_self_eq_zero {a n : Nat} (h : a < 2 ^ n) : Nat.land a (Nat.xor (2 ^ n - 1) a) = 0 := by
  refine Nat.eq_of_testBit_eq fun i => ?_
  show (a &&& ((2 ^ n - 1) ^^^ a)).testBit i = _
  rw [Nat.testBit_and, Nat.testBit_xor, Nat.testBit_two_pow_sub_one]
  by_cases hi : i < n
  · simp [hi]
  · have hbit : a.testBit i = false := Nat.testBit_lt_two_pow (h.trans_le (Nat.pow_le_pow_right (by decide) (Nat.not_lt.1 hi)))
    simp [hbit]

/-- Engines that fail no more than the fuses say are tested, and the device is not degraded (R433, R441). -/
theorem devEngineTestDone_of_fused {movers scanners : Nat} (hphase : d.acc.phase = 7) (hnew : d.acc.enginesTested = false)
    (hmovers : movers % 2 ^ 32 = d.fuses.badMovers % 2 ^ 32) (hscanners : scanners % 2 ^ 8 = d.fuses.badScanners % 2 ^ 8) :
    devEngineTestDone movers scanners d = ({ d with
      acc := { d.acc with enginesTested := true, failedMovers := movers % 2 ^ 32, failedScanners := scanners % 2 ^ 8 } } : Dev).checkFull.settle := by
  have hm : Nat.land (movers % 2 ^ 32) (Nat.xor (2 ^ 32 - 1) (d.fuses.badMovers % 2 ^ 32)) = 0 :=
    hmovers ▸ land_xor_self_eq_zero (Nat.mod_lt _ (by decide))
  have hs : Nat.land (scanners % 2 ^ 8) (Nat.xor 255 (d.fuses.badScanners % 256)) = 0 :=
    hscanners ▸ land_xor_self_eq_zero (n := 8) (Nat.mod_lt _ (by decide))
  rw [devEngineTestDone, if_neg (by simp [hphase, hnew])]
  simp only [hm, hs, ne_eq, not_true_eq_false, decide_false, Bool.or_false, Bool.false_eq_true, if_false]

/-- The lanes of a port are qualified from phase 5 on (R435). -/
theorem devLaneQualified_cxl {port lanes : Nat} {far : Bool} (hphase : 5 ≤ d.acc.phase) :
    devLaneQualified (.cxl port) far lanes d = (d.cxlLanes port far lanes).checkFull.settle :=
  if_neg (Nat.not_lt.2 hphase)

/-- The lanes of a link are qualified from phase 7 on (R435). -/
theorem devLaneQualified_zherek {link lanes : Nat} {far : Bool} (hphase : 7 ≤ d.acc.phase) :
    devLaneQualified (.zherek link) far lanes d = (d.zkLanes link far lanes).checkFull.settle := by
  rw [devLaneQualified, if_neg (by omega)]
  simp only [if_neg (Nat.not_lt.2 hphase)]

/-- A working port trains at a width that its lanes allow (R424, R477). -/
theorem devCxlPortTrained_of_lanes {port width : Nat} {x : Port} (hx : d.ports.find? (·.index == port) = some x) (hjoined : x.state = .joined)
    (hwing : d.power.west = .on ∨ port < 2) (hperst : x.perstReleased = true) (hdown : x.link = .down)
    (hwidth : width = 4 ∨ width = 8 ∨ width = 16) (hlanes : width ≤ popCount x.nearLanes 16) :
    devCxlPortTrained port width d =
      (d.modPort port fun y => { y with link := .l0, width := width }).setRate { kind := .cxl, index := port } (7500 * width) := by
  have hgated : (d.power.west != .on && decide (2 ≤ port)) = false := by
    rcases hwing with h | h
    · simp [h]
    · simp [Nat.not_le.2 h]
  have hfits : cxlWidth width = width ∧ width ≠ 0 := by
    rcases hwidth with rfl | rfl | rfl <;> decide
  simp only [devCxlPortTrained, hx]
  rw [if_neg (by simp [hjoined, hgated, hperst, hdown, hfits, Nat.not_lt.2 hlanes])]
  rfl

/-- A pending channel trains at 2,400 MT/s or more (R435). -/
theorem devOnfiChannelTrained_of_fast {channel rate : Nat} {ch : OnfiChannel} (hch : d.channels.find? (·.index == channel) = some ch)
    (hphase : d.acc.phase = 7) (hpending : ch.unit = .pending) (hrate : 2400 ≤ rate) :
    devOnfiChannelTrained channel rate d =
      ((((d.modChannel channel fun y => { y with unit := .joined, usable := true, rate := rate, off := false, draining := false, mpe := true }).setRate
        { kind := .onfi, index := channel } rate).runMedia).checkFull).settle := by
  simp only [devOnfiChannelTrained, hch]
  rw [if_neg (by simp [hphase, hpending]), if_neg (Nat.not_lt.2 hrate)]

/-- With every channel's media usable the Conservator's tier serves at once (R265, R442). -/
theorem devConservatorReady_of_usable {res : ConservatorResult} {t : Nat} (hphase : d.acc.phase = 7) (hnew : d.acc.conservator = false)
    (hall : res.unusable = 0) :
    devConservatorReady res t d =
      (({ ({ d.atTime t with channels := d.channels.map fun (y : OnfiChannel) => { y with dies := at! res.dies y.index 0 } } : Dev).setReg 0x4020
            (BitVec.ofNat 64 (res.usableGiB % 2 ^ 32 * 2 ^ 32 + res.wearPct % 256 * 2 ^ 24 + res.reservePct % 256 * 2 ^ 16)) with
          acc := { d.acc with conservator := true } } : Dev).checkFull).runMedia.settle := by
  have hnone : ∀ xs : List OnfiChannel, (xs.filter fun x => x.unit != UnitState.disabled && x.unit != .failed && bit res.unusable x.index) = [] :=
    fun xs => List.filter_eq_nil_iff.2 fun x _ => by simp [hall, bit]
  rw [devConservatorReady, if_neg (by simp [hphase, hnew])]
  simp only [hnone, List.map_nil, List.foldl_nil]
  rfl

/-- A serving pair that halts (R22, R23). -/
theorem devPairHalt_of_serves {pair : Nat} (h : d.pairServes pair = true) :
    devPairHalt pair d =
      (((((d.dropPair pair).noteFault (.pair pair)).fault .device 0x0A none 0xFFFF 0xFFFF 0 0xFFFF 1 pair 0).checkFull).starve).settle :=
  if_neg (by simp [h])

/-! ### The one-time commits (R428, R429, R447) -/

/-- A plain write leaves accession, fuses and firmware. -/
theorem Dev.plainWrite_keeps (d : Dev) (w : RegWrite) :
    (d.plainWrite w).acc = d.acc ∧ (d.plainWrite w).fuses = d.fuses ∧ (d.plainWrite w).fw = d.fw := by
  unfold Dev.plainWrite
  split <;> exact ⟨rfl, rfl, rfl⟩

/-- ENDORSE with a record that passes fuses the owner key's hash (R429). -/
theorem Dev.accCtrl_of_endorse {rec : List Byte} (hhours : bits (d.after w).toNat 47 32 ≤ 168) (hendorse : w.sets 1 = true)
    (honly : w.sets 0 = false) (hfull : d.acc.state = .availableFull) (hrec : (d.plainWrite w).endorsement = some rec)
    (hfirst : d.fuses.ownerHash = none) :
    d.accCtrl w = ({ d.plainWrite w with
      fuses := { d.fuses with ownerHash := some (sha3_512 (slice rec 72 2592)) } } : Dev).setField 0x1008 15 8 1 := by
  obtain ⟨hacc, hfuses, -⟩ := d.plainWrite_keeps w
  simp only [Dev.accCtrl, if_neg (Nat.not_lt.2 hhours), hendorse, honly, Bool.false_eq_true, if_true, if_false]
  simp only [Dev.endorse, hacc, hfull, hrec, hfuses, hfirst]
  rfl

/-- ROLLBACK_COMMIT raises the counter to the running level (R428). -/
theorem Dev.accCtrl_of_rollback (hhours : bits (d.after w).toNat 47 32 ≤ 168) (hroll : w.sets 0 = true)
    (honly : w.sets 1 = false) (hfull : d.acc.state = .availableFull) (habove : d.fuses.rollback < d.fw.rollback) :
    d.accCtrl w = ({ d.plainWrite w with fuses := { d.fuses with rollback := d.fw.rollback } } : Dev).setField 0x1008 15 8 1 := by
  obtain ⟨hacc, hfuses, hfw⟩ := d.plainWrite_keeps w
  simp only [Dev.accCtrl, if_neg (Nat.not_lt.2 hhours), hroll, honly, Bool.false_eq_true, if_true, if_false]
  simp only [Dev.rollbackCommit, hacc, hfull, hfuses, hfw, if_neg (Nat.not_le.2 habove)]
  rfl

/-! ### Staging (R436 to R438, R448) -/

/-- A retrain leaves the firmware. -/
theorem Dev.retrainLink_fw (d : Dev) (l : Nat) : (d.retrainLink l).fw = d.fw := by
  have hcount : (d.count (linkOff l 0x628) 1).fw = d.fw := by rw [(d.reports_count (linkOff l 0x628) 1).1]
  rw [Dev.retrainLink, Dev.train]
  split <;> exact hcount

/-- Finding the link that a message takes leaves the firmware. -/
theorem Dev.route_fw (d : Dev) (fid : Nat) : (d.route fid).2.fw = d.fw := by
  unfold Dev.route
  split
  · rfl
  · dsimp only
    split
    · exact Dev.retrainLink_fw _ _
    · rfl

/-- A fabric message leaves the firmware. -/
theorem Dev.sendFab_fw (d : Dev) (type dst dom ctx tag : Nat) (flags : W16) (address arg : W64) (payload : List Byte)
    (r : Option SlotRef) : (d.sendFab type dst dom ctx tag flags address arg payload r).fw = d.fw := by
  have hroute := d.route_fw dst
  unfold Dev.sendFab Dev.sendFabFrom
  split
  · rfl
  · next l e he =>
    rw [he] at hroute
    exact (apply_ite Dev.fw _ _ _).trans ((ite_self _).trans hroute)

/-- The chunks and end markers that the source sends. -/
def Dev.sendImage (d : Dev) (cs : List (Nat × List Byte)) : Dev :=
  d.others.foldl (fun d m => (cs.foldl (fun (d : Dev) (c : Nat × List Byte) => d.sendFw (d.fidOf m) c.1 c.2) d).sendFw (d.fidOf m) endMarker []) d

/-- Sending an image leaves the firmware. -/
theorem Dev.sendImage_fw (d : Dev) (cs : List (Nat × List Byte)) : (d.sendImage cs).fw = d.fw := by
  refine foldl_leaves (g := Dev.fw) (fun d m => ?_) _ _
  refine (Dev.sendFab_fw _ _ _ _ _ _ _ _ _ _ _).trans ?_
  exact foldl_leaves (g := Dev.fw) (fun d c => Dev.sendFab_fw d _ _ _ _ _ _ _ _ _ _) cs d

/-- A GO while staging runs is refused (R438). -/
theorem Dev.fwCtrl_of_busy {image : List Byte} {ok : Bool} (hgo : w.sets 0 = true) (hbusy : d.fw.phase ≠ 0) :
    d.fwCtrl w ok image = d.setField 0x1020 1 1 1 := by
  rw [Dev.fwCtrl, if_neg (by simp [hgo]), if_pos (by simpa using hbusy)]

/-- The source waits for the others' repair requests, or goes on to its own slot where there are none. -/
def Dev.staged (d : Dev) : Dev := d.modFw fun f => { f with phase := if d.others.isEmpty then 3 else 2 }

/-- A GO over a port with an image that passes sends it to every other member, as its source (R438, R448). -/
theorem Dev.fwCtrl_of_image {image : List Byte} {port host n : Nat} (hgo : w.sets 0 = true) (hidle : d.fw.phase = 0)
    (hsrc : w.src = .bar port host) (hplain : (d.plainWrite w).field 0x1010 39 16 = n) (hpos : 0 < n) (hmost : n ≤ 131190)
    (haligned : (((d.plainWrite w).setField 0x1020 63 32 0).reg 0x1018).toNat % 64 = 0) (hcheck : fwCheck d.fuses (image.take (64 * n)) = none) :
    ∃ (e : Dev) (cs : List (Nat × List Byte)), e.fw.source = true ∧ d.fwCtrl w true image = (e.sendImage cs).staged := by
  obtain ⟨-, hfuses, -⟩ := d.plainWrite_keeps w
  rw [Dev.fwCtrl, if_neg (by simp [hgo]), if_neg (by simp [hidle])]
  have hfuses' : ((((d.plainWrite w).setField 0x1020 63 32 0).toPort port 256 true 0 none
    (.fetch port (((d.plainWrite w).setField 0x1020 63 32 0).reg 0x1018).toNat (64 * n)))).fuses = d.fuses := hfuses
  simp only [hsrc, hplain]
  rw [if_neg (by omega), if_neg (by simp [haligned])]
  simp only [hfuses', hcheck]
  exact ⟨_, _, rfl, rfl⟩

/-- A device that has sent an image as its source is its source, and waits while there are other members. -/
theorem Dev.staged_sendImage {e : Dev} {cs : List (Nat × List Byte)} (hsource : e.fw.source = true) :
    (e.sendImage cs).staged.fw.source = true ∧
      (e.sendImage cs).staged.fw.phase = if (e.sendImage cs).staged.others.isEmpty then 3 else 2 :=
  ⟨by rw [Dev.staged, Dev.modFw_fw, Dev.sendImage_fw, hsource], rfl⟩

/-- A chunk in its place, of the image being received, is kept (R436, R437). -/
theorem devFw_of_chunk {c : FwChunk} (hsize : c.data.length ≤ 4096)
    (hcheck : c.check.toNat = chunkCheck (chunkHeader c.tag c.index.toNat c.count c.data.length) c.data c.tag c.index.toNat)
    (hreceiver : d.fw.source = false) (hbegun : d.fw.phase ≠ 0) (hopen : d.fw.phase ≠ 3) (htag : d.fw.tag = c.tag)
    (hplace : c.index.toNat < c.count) (hindex : c.index.toNat < repairRequest) (hmore : d.fw.phase ≠ 2) :
    devFw c d = { d with fw := { d.fw with chunks := insertBy Prod.fst (c.index.toNat, c.data) d.fw.chunks } } := by
  have hrequest : (c.index.toNat == repairRequest) = false := beq_eq_false_iff_ne.2 hindex.ne
  have hmarker : (c.index.toNat == endMarker) = false := beq_eq_false_iff_ne.2 (hindex.trans (by decide)).ne
  have hphase2 : (d.fw.phase == 2) = false := beq_eq_false_iff_ne.2 hmore
  have hphase3 : (d.fw.phase == 3) = false := beq_eq_false_iff_ne.2 hopen
  rw [devFw, if_neg (by simp [hcheck, hsize]), if_neg (by simp [hreceiver]), if_neg (by simp [hrequest, hphase3])]
  simp [htag, hbegun, hmarker, Nat.not_le.2 hplace, hphase2, Dev.modFw]

/-- After a round of repair the source counts it, or goes on to its own slot (R437). -/
theorem devFwRepairTimer_of_source {t : Nat} (hphase : d.fw.phase = 2) (hsource : d.fw.source = true) :
    devFwRepairTimer t d = { d.atTime t with
      fw := if 3 ≤ d.fw.rounds + 1 then { d.fw with phase := 3 } else { d.fw with rounds := d.fw.rounds + 1 } } := by
  rw [devFwRepairTimer, if_neg (by simp [hphase]), if_pos (show (d.atTime t).fw.source = true from hsource), Dev.atTime_fw]
  split <;> rfl

/-- The slot that is not running holds the image, and the directory prefers it (R438, R487). -/
theorem devFwSlotWriteDone_of_dir {dir : List Byte} (hphase : d.fw.phase = 3) (hdir : d.bootDir = some dir) :
    let slot := 1 - d.fw.runningSlot
    let b := preferSlot dir slot
    devFwSlotWriteDone true d =
      ((({ d with bootFlash := memWrite (memWrite (memWrite d.bootFlash (fieldAt dir (8 + 8 * slot) 8) d.assembled) 0x1000 b) 0 b } : Dev).modFw
        fun f => { f with preferred := slot }).setField 0x1020 (32 + d.coll.geoId) (32 + d.coll.geoId) 1).endStaging := by
  simp only [devFwSlotWriteDone, hphase, hdir]
  rfl

end

/-- Settles O10: the repairs that a march takes are log 90, the near end where ports and links join log 78, the engines log 79,
FW_STATUS log 75, the signatures log 9. -/
theorem unitAndFirmwareCommandsComplete : Obligations.UnitAndFirmwareCommandsComplete := by
  refine ⟨fun s gallery fails movers scanners lanes port link width channel rate pair t far res x g ch hlive =>
      ⟨?dram, ?gallery, ?engines, ?cxl, ?zherek, ?port, ?channel, ?conservator, ?halt⟩,
    fun s w c t image dir rec => ⟨?commits, ?go, ?chunk, ?timer, ?slot⟩⟩
  case dram =>
    exact fun hphase hroom hon => ⟨whenLive_of_eq hlive (devDramIncrementJoined_of_pass hphase hroom hon),
      whenLive_of_eq hlive (devDramIncrementJoined_of_fail hphase hroom hon), rfl⟩
  case gallery =>
    exact fun hg hlogical hpending htested hfew hsame =>
      whenLive_of_eq hlive (devGalleryTestDone_of_sound hg hlogical hpending htested hfew hsame)
  case engines => exact fun hphase hnew hmovers hscanners => whenLive_of_eq hlive (devEngineTestDone_of_fused hphase hnew hmovers hscanners)
  case cxl => exact fun hphase => whenLive_of_eq hlive (devLaneQualified_cxl hphase)
  case zherek => exact fun hphase => whenLive_of_eq hlive (devLaneQualified_zherek hphase)
  case port =>
    exact fun hx hjoined hwing hperst hdown hwidth hlanes =>
      whenLive_of_eq hlive (devCxlPortTrained_of_lanes hx hjoined hwing hperst hdown hwidth hlanes)
  case channel => exact fun hch hphase hpending hrate => whenLive_of_eq hlive (devOnfiChannelTrained_of_fast hch hphase hpending hrate)
  case conservator => exact fun hphase hnew hall => whenLive_of_eq hlive (devConservatorReady_of_usable hphase hnew hall)
  case halt => exact fun h => whenLive_of_eq hlive (devPairHalt_of_serves h)
  case commits =>
    intro hw hreg d hhours
    refine ⟨fun hendorse honly hfull hrec hfirst => ?endorse, fun hroll honly hfull habove => ?rollback⟩
    case endorse =>
      exact (whenLive_onRegister (i := .endorse w) (f := fun d => d.accCtrl w) hw rfl (by simp [hreg, hendorse])).trans
        (by rw [Dev.accCtrl_of_endorse hhours hendorse honly hfull hrec hfirst])
    case rollback =>
      exact (whenLive_onRegister (i := .rollbackCommit w) (f := fun d => d.accCtrl w) hw rfl (by simp [hreg, hroll])).trans
        (by rw [Dev.accCtrl_of_rollback hhours hroll honly hfull habove])
  case go =>
    intro hw hreg hgo d
    have hrow : ∀ ok, exec (.fwStageGo w ok image) s = .next { s with dev := d.fwCtrl w ok image } := fun ok =>
      whenLive_onRegister (i := .fwStageGo w ok image) (f := fun d => d.fwCtrl w ok image) hw rfl (by simp [hreg, hgo])
    refine ⟨fun hbusy ok => (hrow ok).trans (by rw [Dev.fwCtrl_of_busy hgo hbusy]), fun port host hidle hsrc _ hpos hmost haligned hcheck => ?_⟩
    obtain ⟨e, cs, hsource, he⟩ := Dev.fwCtrl_of_image hgo hidle hsrc rfl hpos hmost haligned hcheck
    exact ⟨_, (hrow true).trans (by rw [he]), Dev.staged_sendImage hsource⟩
  case chunk =>
    exact fun hlive hsize hcheck hreceiver hbegun hopen htag hplace hindex hmore =>
      whenLive_of_eq hlive (devFw_of_chunk hsize hcheck hreceiver hbegun hopen htag hplace hindex hmore)
  case timer => exact fun hlive hphase hsource => whenLive_of_eq hlive (devFwRepairTimer_of_source hphase hsource)
  case slot => exact fun hlive hphase hdir => whenLive_of_eq hlive (devFwSlotWriteDone_of_dir hphase hdir)

end Sys2Proof.Machine
end

section
/-! PROOF. A step leaves where store addresses are homed (R353, R354): its effects are many, so each operation that one can come to has
a lemma here, in the order of the model, that it leaves the collection and COLL_CFG. -/

namespace Sys2Proof.Machine

/-- What decides where store addresses are homed (R353, R354): the collection, and what COLL_CFG holds. -/
def Dev.homing (d : Dev) : Collection × Option (Nat × W64) := (d.coll, d.regs.find? (·.1 == 0x7000))

/-- With the same homing an address is homed here or elsewhere as before. -/
theorem Dev.isLocal_of_homing {d e : Dev} (h : e.homing = d.homing) (sa : Nat) : e.isLocal sa = d.isLocal sa := by
  obtain ⟨hcoll, hcfg⟩ := Prod.mk.inj h
  have hreset : resetValue e 0x7000 = resetValue d 0x7000 := rfl
  have hreg : e.reg 0x7000 = d.reg 0x7000 := by simp only [Dev.reg, hcfg, hreset]
  simp only [Dev.isLocal, Dev.joined, Dev.homeOf, Dev.groupWidth, Dev.field, hcoll, hreg]

/-- Both branches of a choice decide its homing. -/
@[simp] theorem Dev.homing_ite (p : Prop) [Decidable p] (d e : Dev) : (if p then d else e).homing = if p then d.homing else e.homing :=
  apply_ite _ _ _ _

/-- What each turn of a loop leaves, the loop leaves. -/
@[simp] theorem homing_foldl {α : Type} {f : Dev → α → Dev} (h : ∀ d x, (f d x).homing = d.homing) (xs : List α) (d : Dev) :
    (xs.foldl f d).homing = d.homing := foldl_leaves (g := Dev.homing) h xs d

/-- See `homing_foldl`: a loop that carries more than the device. -/
@[simp] theorem homing_foldl_fst {α β : Type} {f : Dev × β → α → Dev × β} (h : ∀ s x, (f s x).1.homing = s.1.homing)
    (xs : List α) (s : Dev × β) :
    (xs.foldl f s).1.homing = s.1.homing := foldl_leaves (g := fun s : Dev × β => s.1.homing) h xs s

/-- See `homing_foldl_fst`. -/
@[simp] theorem homing_foldl_snd {α β : Type} {f : β × Dev → α → β × Dev} (h : ∀ s x, (f s x).2.homing = s.2.homing)
    (xs : List α) (s : β × Dev) :
    (xs.foldl f s).2.homing = s.2.homing := foldl_leaves (g := fun s : β × Dev => s.2.homing) h xs s

/-- What an operation leaves, it leaves where it is optional. -/
@[simp] theorem homing_elim {α : Type} {f : α → Dev} {d : Dev} (h : ∀ x, (f x).homing = d.homing) (o : Option α) :
    (o.elim d f).homing = d.homing := by
  cases o with
  | none => rfl
  | some x => exact h x

/-! ### Fields other than the collection and the registers -/

@[simp] theorem Dev.homing_serving (d : Dev) (xs : List FabService) : ({ d with serving := xs } : Dev).homing = d.homing :=
  Prod.ext rfl rfl
@[simp] theorem Dev.homing_media (d : Dev) (xs : List MediaOp) : ({ d with media := xs } : Dev).homing = d.homing := Prod.ext rfl rfl
@[simp] theorem Dev.homing_newBlock (d : Dev) (n : Nat) (xs : List Block) : ({ d with nextBlock := n, blocks := xs } : Dev).homing = d.homing :=
  Prod.ext rfl rfl
@[simp] theorem Dev.homing_rowLocks (d : Dev) (xs : List RowLock) : ({ d with rowLocks := xs } : Dev).homing = d.homing :=
  Prod.ext rfl rfl
@[simp] theorem Dev.homing_fabCache (d : Dev) (xs : List CacheLine) : ({ d with fabCache := xs } : Dev).homing = d.homing :=
  Prod.ext rfl rfl
@[simp] theorem Dev.homing_points (d : Dev) (xs : List EgPoint) : ({ d with points := xs } : Dev).homing = d.homing := Prod.ext rfl rfl
@[simp] theorem Dev.homing_repairs (d : Dev) (xs : List Repair) : ({ d with repairs := xs } : Dev).homing = d.homing := Prod.ext rfl rfl
@[simp] theorem Dev.homing_indexes (d : Dev) (xs : List Index) : ({ d with indexes := xs } : Dev).homing = d.homing := Prod.ext rfl rfl
@[simp] theorem Dev.homing_channels (d : Dev) (xs : List OnfiChannel) : ({ d with channels := xs } : Dev).homing = d.homing :=
  Prod.ext rfl rfl
@[simp] theorem Dev.homing_lastChannel (d : Dev) (xs : List (Nat × Nat)) : ({ d with lastChannel := xs } : Dev).homing = d.homing :=
  Prod.ext rfl rfl
@[simp] theorem Dev.homing_draws (d : Dev) (n : Nat) : ({ d with draws := n } : Dev).homing = d.homing := Prod.ext rfl rfl

/-! ### Registers other than COLL_CFG -/

/-- A write of another register than COLL_CFG leaves the homing. -/
@[simp] theorem Dev.homing_setReg (d : Dev) {off : Nat} (v : W64) (h : off ≠ 0x7000) : (d.setReg off v).homing = d.homing :=
  Prod.ext rfl (find?_insertBy_other (fun (e : Nat × W64) => e.1) (off, v) h d.regs)

/-- See `Dev.homing_setReg`. -/
@[simp] theorem Dev.homing_setField (d : Dev) {off : Nat} (hi lo x : Nat) (h : off ≠ 0x7000) :
    (d.setField off hi lo x).homing = d.homing :=
  d.homing_setReg _ h

/-- The fault areas lie above COLL_CFG. -/
theorem areaBase_ge (a : FaultArea) : 0x8000 ≤ areaBase a := by
  cases a with
  | domain dom => simp only [areaBase, pageOff]; omega
  | device => exact le_rfl

@[simp] theorem areaBase_add_ne (a : FaultArea) (n : Nat) : areaBase a + n ≠ 0x7000 := by
  have := areaBase_ge a
  omega

@[simp] theorem areaBase_add_add_ne (a : FaultArea) (n m : Nat) : areaBase a + n + m ≠ 0x7000 := by
  have := areaBase_ge a
  omega

@[simp] theorem lt_areaBase_add (a : FaultArea) (n : Nat) : 0x7000 < areaBase a + n := by
  have := areaBase_ge a
  omega

@[simp] theorem pageOff_ne (dom off : Nat) : pageOff dom off ≠ 0x7000 := by
  simp only [pageOff]
  omega

@[simp] theorem linkOff_ne (l off : Nat) : linkOff l off ≠ 0x7000 := by
  simp only [linkOff, Block29.base]
  omega

section
variable (d : Dev) (r : SlotRef)

/-! ### The store, the contexts, the queues -/

@[simp] theorem Dev.homing_poisonSector (sec : Nat) : (d.poisonSector sec).homing = d.homing := Prod.ext rfl rfl

@[simp] theorem Dev.homing_write (a : Nat) (bs : List Byte) : (d.write a bs).homing = d.homing := Prod.ext rfl rfl

@[simp] theorem Dev.homing_zeroRange (a n : Nat) : (d.zeroRange a n).homing = d.homing := Prod.ext rfl rfl

@[simp] theorem Dev.homing_modCtx (c : Nat) (f : Context → Context) : (d.modCtx c f).homing = d.homing := Prod.ext rfl rfl

@[simp] theorem Dev.homing_modSlot (f : Slot → Slot) : (d.modSlot r f).homing = d.homing := Prod.ext rfl rfl

@[simp] theorem Dev.homing_modCmd (f : Cmd → Cmd) : (d.modCmd r f).homing = d.homing := Prod.ext rfl rfl

/-! ### Counts, fault records, interrupts -/

@[simp] theorem Dev.homing_enqueue (p : Point) (dom : Nat) (gs : List EgGranule) : (d.enqueue p dom gs).homing = d.homing :=
  Prod.ext rfl rfl

@[simp] theorem Dev.homing_popQueue (p : Point) (dom : Nat) : (d.popQueue p dom).homing = d.homing := Prod.ext rfl rfl

@[simp] theorem Dev.homing_toPort (port dom : Nat) (lane : Bool) (bytes : Nat) (r : Option SlotRef) (m : OutMsg) :
    (d.toPort port dom lane bytes r m).homing = d.homing := Prod.ext rfl rfl

@[simp] theorem Dev.homing_emit (m : OutMsg) : (d.emit m).homing = d.homing := Prod.ext rfl rfl

@[simp] theorem Dev.homing_setArea (x : FaultAreaState) : (d.setArea x).homing = d.homing := Prod.ext rfl rfl

@[simp] theorem Dev.homing_copyLost (off : Nat) (bytes : List Byte) (h : 0x7000 < off) : (d.copyLost off bytes).homing = d.homing := by
  rw [Dev.copyLost, Dev.homing_setReg _ _ (by omega), Dev.homing_setReg _ _ (by omega), Dev.homing_setReg _ _ (by omega)]

@[simp] theorem Dev.homing_lose (f : FaultRecord) : (d.lose f).homing = d.homing := by
  simp [Dev.lose]

@[simp] theorem Dev.homing_askOwned (f : FaultRecord) : (d.askOwned f).homing = d.homing := Prod.ext rfl rfl

@[simp] theorem Dev.homing_faultRecord (a : FaultArea) (cls : Nat) (st : Option Status) (dom ctx : Nat) (seq : W32) (host d0 d1 d2 : Nat) :
    (d.faultRecord a cls st dom ctx seq host d0 d1 d2).homing = d.homing := by
  simp [Dev.faultRecord]

@[simp] theorem Dev.homing_saturated (off : Nat) : (d.saturated off).homing = d.homing := by
  simp [Dev.saturated]

@[simp] theorem Dev.homing_count (off n : Nat) (h : off ≠ 0x7000) : (d.count off n).homing = d.homing := by
  simp [Dev.count, h]

@[simp] theorem Dev.homing_fault (a : FaultArea) (cls : Nat) (st : Option Status) (dom ctx : Nat) (seq : W32) (host d0 d1 d2 : Nat) :
    (d.fault a cls st dom ctx seq host d0 d1 d2).homing = d.homing := by
  simp [Dev.fault]

@[simp] theorem Dev.homing_countPage (dom off n : Nat) : (d.countPage dom off n).homing = d.homing := by
  simp [Dev.countPage]

/-! ### Messages, and the end of a command -/

@[simp] theorem Dev.homing_train (l : Nat) : (d.train l).homing = d.homing := by
  unfold Dev.train
  split <;> rfl

@[simp] theorem Dev.homing_retrainLink (l : Nat) : (d.retrainLink l).homing = d.homing := by
  simp [Dev.retrainLink]

@[simp] theorem Dev.homing_route (fid : Nat) : (d.route fid).2.homing = d.homing := by
  unfold Dev.route
  dsimp only
  repeat' split
  all_goals simp

@[simp] theorem Dev.homing_sendFabFrom (src type dst dom ctx tag : Nat) (flags : W16) (address arg : W64) (payload : List Byte) (r : Option SlotRef) :
    (d.sendFabFrom src type dst dom ctx tag flags address arg payload r).homing = d.homing := by
  have hroute := d.homing_route dst
  unfold Dev.sendFabFrom
  split
  · rfl
  next l e he =>
    rw [he] at hroute
    exact (Dev.homing_ite _ _ _).trans ((ite_self _).trans hroute)

@[simp] theorem Dev.homing_sendFab (type dst dom ctx tag : Nat) (flags : W16) (address arg : W64) (payload : List Byte) (r : Option SlotRef) :
    (d.sendFab type dst dom ctx tag flags address arg payload r).homing = d.homing := by
  simp [Dev.sendFab]

@[simp] theorem Dev.homing_fabTouch (k : Cmd) (ss : List Span) : (d.fabTouch k ss).homing = d.homing := by
  simp [Dev.fabTouch]

@[simp] theorem Dev.homing_freshTag : (d.freshTag).2.homing = d.homing := Prod.ext rfl rfl

@[simp] theorem Dev.homing_submitFault (c : Context) (slot : Nat) (line : List Byte) (st : Status) :
    (d.submitFault c slot line st).homing = d.homing := by
  simp [Dev.submitFault]

@[simp] theorem Dev.homing_raiseVector (port dom vector : Nat) (r : Option SlotRef) :
    (d.raiseVector port dom vector r).homing = d.homing := by
  unfold Dev.raiseVector
  dsimp only
  repeat' split
  all_goals rfl

@[simp] theorem Dev.homing_postRecord (c : Context) (addr verb : Nat) (notify own : Bool) (rc : Record) :
    (d.postRecord c addr verb notify own rc r).homing = d.homing := by
  simp [Dev.postRecord]

@[simp] theorem Dev.homing_dropHolds : (d.dropHolds r).homing = d.homing := Prod.ext rfl rfl

@[simp] theorem Dev.homing_deliver (c : Context) (line : List Byte) (rc : Record) : (d.deliver r c line rc).homing = d.homing := by
  simp [Dev.deliver]

@[simp] theorem Dev.homing_finishDup (rc : Record) : (d.finishDup r rc).homing = d.homing := by
  unfold Dev.finishDup
  split <;> simp

@[simp] theorem Dev.homing_purge (rs : List SlotRef) : (d.purge rs).homing = d.homing := by
  simp [Dev.purge]

@[simp] theorem Dev.homing_tellStep (kind : StepKind) (home dom ctx : Nat) (args : List Nat) :
    (d.tellStep kind home dom ctx args).homing = d.homing := by
  simp [Dev.tellStep]

@[simp] theorem Dev.homing_askStep (kind : StepKind) (home ctx : Nat) (payload : List Byte) :
    (d.askStep r kind home ctx payload).homing = d.homing := by
  simp [Dev.askStep]

@[simp] theorem Dev.homing_dropGuest (num : Nat) : (d.dropGuest num).homing = d.homing := Prod.ext rfl rfl

@[simp] theorem Dev.homing_endChild (c : Context) (k : Cmd) (st : Status) : (d.endChild c k st).homing = d.homing := by
  unfold Dev.endChild
  dsimp only
  repeat' split
  all_goals rfl

@[simp] theorem Dev.homing_answerStep (k : Cmd) (fid tag : Nat) (st : Status) (w0 w1 w2 : W64) :
    (d.answerStep r k fid tag st w0 w1 w2).homing = d.homing := by
  simp [Dev.answerStep]

@[simp] theorem Dev.homing_unbind (k : Cmd) : (d.unbind r k).homing = d.homing := by
  unfold Dev.unbind
  dsimp only
  repeat' split
  all_goals simp

@[simp] theorem Dev.homing_finish (st : Status) (w0 w1 w2 : W64) : (d.finish r st w0 w1 w2).homing = d.homing := by
  unfold Dev.finish
  split
  · split <;> simp
  · rfl

@[simp] theorem Dev.homing_finish0 (st : Status) : (d.finish0 r st).homing = d.homing := by
  simp [Dev.finish0]

@[simp] theorem Dev.homing_finishHolder (st : Status) (w0 : W64) : (d.finishHolder r st w0).homing = d.homing := by
  unfold Dev.finishHolder
  split <;> simp

@[simp] theorem Dev.homing_complete (st : Status) (w0 w1 w2 : W64) : (d.complete r st w0 w1 w2).homing = d.homing := by
  unfold Dev.complete
  split <;> simp

@[simp] theorem Dev.homing_setXc (west : Bool) (xs : List XcEntry) : (d.setXc west xs).homing = d.homing := by
  unfold Dev.setXc
  split <;> rfl

@[simp] theorem Dev.homing_xcTouch (west : Bool) (e : XcEntry) : (d.xcTouch west e).homing = d.homing := by
  unfold Dev.xcTouch
  dsimp only
  repeat' split
  all_goals simp

@[simp] theorem Dev.homing_xcFill (west : Bool) (dom : Nat) (ns : List Need) : (d.xcFill west dom ns).homing = d.homing := by
  refine homing_foldl (fun d n => ?_) ns d
  split <;> simp

@[simp] theorem Dev.homing_leave (dom : Nat) (ss : List Span) : (d.leave dom ss).homing = d.homing := Prod.ext rfl rfl

@[simp] theorem Dev.homing_answerWaiting (x : FabService) (m : FabMsg) (st : Status) (words : List Nat) :
    (d.answerWaiting x m st words).homing = d.homing := by
  simp [Dev.answerWaiting]

@[simp] theorem Dev.homing_channelOn (c : Nat) : (d.channelOn c).homing = d.homing := by
  simp [Dev.channelOn]

@[simp] theorem Dev.homing_queueMedia (m : MediaOp) : (d.queueMedia m).homing = d.homing := by
  simp [Dev.queueMedia]

@[simp] theorem Dev.homing_conclude : (d.conclude r).homing = d.homing := by
  unfold Dev.conclude
  repeat' split
  all_goals simp

/-! ### Parity -/

@[simp] theorem Dev.homing_addParity (off : Nat) (delta : List Byte) : (d.addParity off delta).homing = d.homing := Prod.ext rfl rfl

@[simp] theorem Dev.homing_sendDeltas (member o dom ctx : Nat) (delta : List Byte) (r : Option SlotRef) :
    (d.sendDeltas member o dom ctx delta r).1.homing = d.homing := by
  refine homing_foldl_fst (fun acc h => ?_) _ _
  dsimp only
  split
  · rfl
  · split <;> simp

@[simp] theorem Dev.homing_deltasFor (member o dom ctx : Nat) (delta : List Byte) (r : Option SlotRef) :
    (d.deltasFor member o dom ctx delta r).1.homing = d.homing := by
  simp [Dev.deltasFor]

@[simp] theorem Dev.homing_parityAfter (old : List Host.Cell) (sa len dom ctx : Nat) (r : Option SlotRef) :
    (d.parityAfter old sa len dom ctx r).1.homing = d.homing := by
  unfold Dev.parityAfter
  split <;> simp

@[simp] theorem Dev.homing_awaitParity (sa : Nat) (ts : List (Nat × Nat)) : (d.awaitParity r sa ts).homing = d.homing := by
  simp [Dev.awaitParity]

@[simp] theorem Dev.homing_storeWrite (sa : Nat) (bs : List Byte) : (d.storeWrite r sa bs).homing = d.homing := by
  simp [Dev.storeWrite]

/-! ### Media and tiers -/

@[simp] theorem Dev.homing_placeIn (p : Placement) (n : Nat) : (d.placeIn p n).2.homing = d.homing := by
  unfold Dev.placeIn
  dsimp only
  repeat' split
  all_goals rfl

@[simp] theorem Dev.homing_place (n : Nat) : (d.place n).2.homing = d.homing := by
  simp [Dev.place]

@[simp] theorem Dev.homing_setGranule (x : Granule) : (d.setGranule x).homing = d.homing := Prod.ext rfl rfl

@[simp] theorem Dev.homing_dropMedia (m : MediaOp) : (d.dropMedia m).homing = d.homing := by
  simp [Dev.dropMedia]

@[simp] theorem Dev.homing_leaveMedia (gone : SlotRef → Nat → Bool) : (d.leaveMedia gone).homing = d.homing := by
  simp [Dev.leaveMedia]

@[simp] theorem Dev.homing_demote (g dom : Nat) (rs : List SlotRef) : (d.demote g dom rs).homing = d.homing := by
  unfold Dev.demote
  dsimp only
  repeat' split
  all_goals simp

@[simp] theorem Dev.homing_promote (g : Nat) : (d.promote g).homing = d.homing := by
  unfold Dev.promote
  split <;> simp

/-! ### Reads and writes of a step -/

@[simp] theorem Dev.homing_atomicAt (sa w op x cmp : Nat) (put : Dev → Nat → List Byte → Dev) (hput : ∀ d a b, (put d a b).homing = d.homing) :
    (d.atomicAt sa w op x cmp put).1.homing = d.homing := by
  unfold Dev.atomicAt
  split <;> simp [hput]

@[simp] theorem Dev.homing_countNan (dom op cur x : Nat) : (d.countNan dom op cur x).homing = d.homing := by
  simp [Dev.countNan]

@[simp] theorem Dev.homing_raise (st : Status) : (d.raise r st).homing = d.homing := Prod.ext rfl rfl

@[simp] theorem Dev.homing_writeRemote (sa : Nat) (bs : List Byte) : (d.writeRemote r sa bs).homing = d.homing := by
  simp [Dev.writeRemote]

@[simp] theorem Dev.homing_atomicRemote (sa w op x cmp index : Nat) (fetch : Option Nat) :
    (d.atomicRemote r sa w op x cmp index fetch).homing = d.homing := by
  simp [Dev.atomicRemote]

@[simp] theorem Dev.homing_sendLedger (dest sub dom ctx src dst front : Nat) (e : W32) :
    (d.sendLedger dest sub dom ctx src dst front e).homing = d.homing := by
  simp [Dev.sendLedger]

@[simp] theorem Dev.homing_peWrote (pe : Option Nat) (w : MemWrite) : (d.peWrote pe w).homing = d.homing := by
  unfold Dev.peWrote
  split <;> rfl

@[simp] theorem Dev.homing_stepWrite (pe : Option Nat) (w : MemWrite) : (d.stepWrite r pe w).homing = d.homing := by
  simp [Dev.stepWrite]

@[simp] theorem Dev.homing_readerOf (kind : EngineKind) (e : Option Nat) : (d.readerOf kind e).2.homing = d.homing := by
  unfold Dev.readerOf
  split <;> simp

@[simp] theorem Dev.homing_peFill (l : CacheLine) : (d.peFill l).homing = d.homing := by
  unfold Dev.peFill
  dsimp only
  repeat' split
  all_goals rfl

@[simp] theorem Dev.homing_peLine (pe : Option Nat) (dom addr : Nat) (cur : List Byte) : (d.peLine pe dom addr cur).2.homing = d.homing := by
  unfold Dev.peLine
  split
  · rfl
  · split
    · rfl
    · split
      · dsimp only
        split <;> simp
      · simp

@[simp] theorem Dev.homing_peRead (pe : Option Nat) (dom : Nat) (k : Cmd) (s : Span) : (d.peRead pe dom k s).2.homing = d.homing := by
  unfold Dev.peRead
  split
  · rfl
  · refine homing_foldl_snd (fun acc i => ?_) _ _
    dsimp only
    split <;> simp

@[simp] theorem Dev.homing_peReadAll (pe : Option Nat) (dom : Nat) (k : Cmd) (ss : List Span) :
    (d.peReadAll pe dom k ss).2.homing = d.homing := by
  simp [Dev.peReadAll]

@[simp] theorem Dev.homing_exportPut (fid no off : Nat) (src : List Span) : (d.exportPut r fid no off src).homing = d.homing := by
  unfold Dev.exportPut
  split <;> simp

@[simp] theorem Dev.homing_exportTake (off len cva : Nat) : (d.exportTake r off len cva).homing = d.homing := by
  unfold Dev.exportTake
  split <;> simp

@[simp] theorem Dev.homing_publishStore (sa expected new : Nat) (put : Dev → Nat → List Byte → Dev) (hput : ∀ d a b, (put d a b).homing = d.homing) :
    (d.publishStore sa expected new put).1.homing = d.homing := by
  unfold Dev.publishStore
  split
  · rfl
  · simp [hput]

@[simp] theorem Dev.homing_publishAt (sa : Nat) (expected new : W64) : (d.publishAt r sa expected new).homing = d.homing := by
  simp [Dev.publishAt]

/-! ### Effects of the memory verbs -/

@[simp] theorem Dev.homing_poisonAt (sec : Nat) : (d.poisonAt r sec).homing = d.homing := by
  simp [Dev.poisonAt]

@[simp] theorem Dev.homing_copyBytes (src dst len : Nat) : (d.copyBytes r src dst len).homing = d.homing := by
  unfold Dev.copyBytes
  split <;> simp

@[simp] theorem Dev.homing_compareAt (lo n : Nat) : (d.compareAt r lo n).homing = d.homing := by
  unfold Dev.compareAt
  dsimp only
  repeat' split
  all_goals simp

@[simp] theorem Dev.homing_countEvents (dom : Nat) (ev : NumEvents) : (d.countEvents dom ev).homing = d.homing := by
  simp [Dev.countEvents]

@[simp] theorem Dev.homing_reduceRow (pe : Option Nat) (k : Cmd) (dom : Nat) (o : ReduceOps) (j lo n : Nat) :
    (d.reduceRow pe k dom o j lo n).2.homing = d.homing := by
  unfold Dev.reduceRow
  dsimp only
  repeat' split
  all_goals simp

@[simp] theorem Dev.homing_reduceRows (pe : Option Nat) (k : Cmd) (dom : Nat) (o : ReduceOps) (lo n : Nat) :
    (d.reduceRows pe k dom o lo n).2.homing = d.homing := by
  simp [Dev.reduceRows]

@[simp] theorem Dev.homing_reduceAt (pe : Option Nat) (lo n : Nat) : (d.reduceAt r pe lo n).homing = d.homing := by
  unfold Dev.reduceAt
  split <;> simp

@[simp] theorem Dev.homing_reduceAll (pe : Option Nat) : (d.reduceAll r pe).homing = d.homing := by
  unfold Dev.reduceAll
  split <;> simp

@[simp] theorem Dev.homing_putFetched (v : Nat) (fetch : Option Nat) : (d.putFetched r v fetch).homing = d.homing := by
  unfold Dev.putFetched
  split <;> simp

@[simp] theorem Dev.homing_entryFailed (i : Nat) (st : Status) (fetch : Option Nat) : (d.entryFailed r i st fetch).homing = d.homing := by
  simp [Dev.entryFailed]

@[simp] theorem Dev.homing_entryDone (v : Nat) (fetch : Option Nat) : (d.entryDone r v fetch).homing = d.homing := by
  simp [Dev.entryDone]

@[simp] theorem Dev.homing_applyEntry (i : Nat) : (d.applyEntry r i).homing = d.homing := by
  unfold Dev.applyEntry
  dsimp only
  repeat' split
  all_goals simp

/-! ### Effects of the session verbs -/

@[simp] theorem Dev.homing_modSession (ctx : Nat) (f : Session → Session) : (d.modSession ctx f).homing = d.homing := Prod.ext rfl rfl

@[simp] theorem Dev.homing_modBlock (id : Nat) (f : Block → Block) : (d.modBlock id f).homing = d.homing := Prod.ext rfl rfl

@[simp] theorem Dev.homing_refBlock (id : Nat) (up : Bool) : (d.refBlock id up).homing = d.homing := by
  unfold Dev.refBlock
  split <;> simp

@[simp] theorem Dev.homing_appendRows (lo n : Nat) : (d.appendRows r lo n).homing = d.homing := by
  unfold Dev.appendRows
  split <;> simp

@[simp] theorem Dev.homing_encodeHead (id h : Nat) : (d.encodeHead r id h).homing = d.homing := by
  unfold Dev.encodeHead
  split <;> simp

@[simp] theorem Dev.homing_summarize (id h q : Nat) : (d.summarize r id h q).homing = d.homing := by
  unfold Dev.summarize
  split <;> simp

@[simp] theorem Dev.homing_enterBlock (ctx l id : Nat) : (d.enterBlock r ctx l id).homing = d.homing := by
  unfold Dev.enterBlock
  split <;> simp

@[simp] theorem Dev.homing_sealBlock (id : Nat) : (d.sealBlock r id).homing = d.homing := by
  simp [Dev.sealBlock]

@[simp] theorem Dev.homing_demoteHead (id nid h : Nat) : (d.demoteHead r id nid h).homing = d.homing := by
  unfold Dev.demoteHead
  split <;> simp

@[simp] theorem Dev.homing_demotedBlock (id nid : Nat) : (d.demotedBlock r id nid).homing = d.homing := by
  unfold Dev.demotedBlock
  split <;> simp

@[simp] theorem Dev.homing_shareBlock (ctx l id : Nat) : (d.shareBlock r ctx l id).homing = d.homing := by
  unfold Dev.shareBlock
  split <;> simp

@[simp] theorem Dev.homing_releaseBlock (ctx l id : Nat) : (d.releaseBlock r ctx l id).homing = d.homing := by
  unfold Dev.releaseBlock
  dsimp only
  repeat' split
  all_goals simp

@[simp] theorem Dev.homing_straddle (ctx l p : Nat) : (d.straddle r ctx l p).homing = d.homing := by
  unfold Dev.straddle
  split
  · split
    · rfl
    · dsimp only
      split <;> simp
  · rfl

@[simp] theorem Dev.homing_truncateSession (ctx p : Nat) : (d.truncateSession ctx p).homing = d.homing := by
  unfold Dev.truncateSession
  split <;> simp

@[simp] theorem Dev.homing_closeSession (ctx : Nat) : (d.closeSession ctx).homing = d.homing := by
  unfold Dev.closeSession
  split <;> simp

@[simp] theorem Dev.homing_fetchOut (lo n : Nat) : (d.fetchOut r lo n).homing = d.homing := by
  unfold Dev.fetchOut
  split <;> simp

@[simp] theorem Dev.homing_fetchLog (off lo n : Nat) : (d.fetchLog r off lo n).homing = d.homing := by
  unfold Dev.fetchLog
  split <;> simp

@[simp] theorem Dev.homing_loseSession (ctx first : Nat) : (d.loseSession ctx first).homing = d.homing := by
  unfold Dev.loseSession
  split <;> simp

/-! ### Sessions that move -/

@[simp] theorem Dev.homing_stageBytes (src dst len : Nat) : (d.stageBytes r src dst len).homing = d.homing := by
  unfold Dev.stageBytes
  split <;> simp

@[simp] theorem Dev.homing_stageHost (src : Span) (addr : Nat) : (d.stageHost r src addr).homing = d.homing := by
  unfold Dev.stageHost
  split <;> simp

@[simp] theorem Dev.homing_sendRun (owner base : Nat) : (d.sendRun r owner base).homing = d.homing := by
  unfold Dev.sendRun
  split <;> simp

@[simp] theorem Dev.homing_forwardNow : (d.forwardNow r).homing = d.homing := by
  unfold Dev.forwardNow
  split <;> simp

@[simp] theorem Dev.homing_appendLog (n : Nat) : (d.appendLog r n).homing = d.homing := by
  unfold Dev.appendLog
  split <;> simp

@[simp] theorem Dev.homing_offerNow (ctx target : Nat) : (d.offerNow r ctx target).homing = d.homing := by
  unfold Dev.offerNow
  split <;> simp

@[simp] theorem Dev.homing_handOver : (d.handOver r).homing = d.homing := by
  unfold Dev.handOver
  split <;> simp

/-! ### Attention -/

@[simp] theorem Dev.homing_attendStage (stage : Nat) : (d.attendStage r stage).homing = d.homing := by
  unfold Dev.attendStage
  split
  · split
    · rfl
    · extract_lets dom a framed total n flash counted noted rows begun ends keep kept ends4 onlyFlash choose chosen next
      have hnoted : noted.homing = d.homing := by simp [noted, counted]
      have hnext : next.homing = d.homing := by simp [next, begun]
      split
      · rfl
      · split
        · simp [hnoted]
        · split
          · simp
          · split
            · simp
            · split <;> simp [hnext]
  · rfl

/-! ### Checks -/

@[simp] theorem Dev.homing_setRunning (ctx n : Nat) (v : RunningValue) : (d.setRunning ctx n v).homing = d.homing := Prod.ext rfl rfl

@[simp] theorem Dev.homing_scanRunning : (d.scanRunning r).homing = d.homing := by
  unfold Dev.scanRunning
  dsimp only
  repeat' split
  all_goals simp

@[simp] theorem Dev.homing_scanBlock (p : CrcPoly) (i : Nat) : (d.scanBlock r p i).homing = d.homing := by
  unfold Dev.scanBlock
  split <;> simp

@[simp] theorem Dev.homing_scanBlocks (lo n : Nat) : (d.scanBlocks r lo n).homing = d.homing := by
  unfold Dev.scanBlocks
  split <;> simp

@[simp] theorem Dev.homing_checkLoad : (d.checkLoad r).homing = d.homing := by
  unfold Dev.checkLoad
  dsimp only
  repeat' split
  all_goals simp

/-! ### Indexes -/

@[simp] theorem Dev.homing_modIndex (dom id : Nat) (f : Index → Index) : (d.modIndex dom id f).homing = d.homing := Prod.ext rfl rfl

@[simp] theorem Dev.homing_note (f : Cmd → Cmd) : (d.note r f).homing = d.homing := Prod.ext rfl rfl

@[simp] theorem Dev.homing_deleteItem (dom id : Nat) (item : W64) : (d.deleteItem r dom id item).homing = d.homing := by
  unfold Dev.deleteItem
  split <;> simp

@[simp] theorem Dev.homing_deleteRows (dom id lo n : Nat) : (d.deleteRows r dom id lo n).homing = d.homing := by
  refine homing_foldl (fun d i => ?_) _ d
  split
  · rfl
  · split <;> simp

@[simp] theorem Dev.homing_capStop : (d.capStop r).homing = d.homing := Prod.ext rfl rfl

theorem Dev.homing_takeStore (dom n : Nat) {p : Nat × Dev} (h : d.takeStore dom n = some p) : p.2.homing = d.homing := by
  unfold Dev.takeStore at h
  split at h
  · cases h
  · have hplace := d.homing_place n
    split at h
    · next sa e he =>
      obtain rfl := Option.some.inj h
      rw [he] at hplace
      exact (e.homing_zeroRange sa n).trans hplace
    · cases h

theorem Dev.homing_newSegment (dom id set : Nat) {e : Dev} (h : d.newSegment dom id set = some e) : e.homing = d.homing := by
  obtain ⟨x, -, hx⟩ := Option.bind_eq_some_iff.1 h
  obtain ⟨p, hp, rfl⟩ := Option.map_eq_some_iff.1 hx
  exact d.homing_takeStore dom _ hp

theorem Dev.homing_addRecord (dom id set : Nat) (v : VecRecord) {p : Nat × Dev} (h : d.addRecord dom id set v = some p) :
    p.2.homing = d.homing := by
  unfold Dev.addRecord at h
  extract_lets put at h
  have hput : ∀ d p, put d = some p → p.2.homing = d.homing := by
    intro d p hp
    obtain ⟨x, -, hx⟩ := Option.bind_eq_some_iff.1 hp
    obtain ⟨g, -, hg⟩ := Option.bind_eq_some_iff.1 hx
    dsimp only at hg
    split at hg
    · cases hg
    · obtain rfl := Option.some.inj hg
      rfl
  obtain ⟨x, -, hx⟩ := Option.bind_eq_some_iff.1 h
  split at hx
  · exact hput _ _ hx
  · split at hx
    · cases hx
    · obtain ⟨e, he, hp⟩ := Option.bind_eq_some_iff.1 hx
      exact (hput _ _ hp).trans (d.homing_newSegment dom id set he)

theorem Dev.homing_entryRoom (dom id n : Nat) {e : Dev} (h : d.entryRoom dom id n = some e) : e.homing = d.homing := by
  obtain ⟨x, -, hx⟩ := Option.bind_eq_some_iff.1 h
  dsimp only at hx
  split at hx
  · rw [Option.some.inj hx]
  · obtain ⟨p, hp, rfl⟩ := Option.map_eq_some_iff.1 hx
    exact d.homing_takeStore dom _ hp

@[simp] theorem Dev.homing_insertItem (dom id : Nat) (n : NewItem) : (d.insertItem r dom id n).homing = d.homing := by
  unfold Dev.insertItem
  split
  · rfl
  · extract_lets old
    split
    · rfl
    · split
      · rfl
      · split
        · rfl
        · split
          · rfl
          · next e he =>
            have hroom := d.homing_entryRoom dom id _ he
            split
            · exact hroom
            · next loc f hf =>
              have hrec := (e.homing_addRecord dom id _ _ hf).trans hroom
              cases old with
              | none => exact hrec
              | some m => exact hrec

@[simp] theorem Dev.homing_insertRows (dom id lo n : Nat) : (d.insertRows r dom id lo n).homing = d.homing := by
  refine homing_foldl (fun d i => ?_) _ d
  dsimp only
  split
  · split <;> simp
  · rfl

@[simp] theorem Dev.homing_enterIndex (x : Index) : (d.enterIndex r x).homing = d.homing := by
  unfold Dev.enterIndex
  split <;> simp

@[simp] theorem Dev.homing_readQueries (lo n : Nat) : (d.readQueries r lo n).homing = d.homing := by
  unfold Dev.readQueries
  dsimp only
  repeat' split
  all_goals simp

theorem Dev.homing_moveRecord (dom id from_ into : Nat) (e : Entry) {p : Nat × Dev} (h : d.moveRecord dom id from_ into e = some p) :
    p.2.homing = d.homing := by
  unfold Dev.moveRecord at h
  split at h
  · obtain ⟨q, hq, rfl⟩ := Option.map_eq_some_iff.1 h
    have hadd := d.homing_addRecord dom id into _ hq
    dsimp only
    split
    · rw [homing_foldl (fun d x => d.homing_poisonSector x), hadd]
    · exact hadd
  · rw [← Option.some.inj h]

theorem Dev.homing_takeChunks {n dom : Nat} {d : Dev} {p : List Nat × Dev} (h : Dev.takeChunks n d dom = some p) :
    p.2.homing = d.homing := by
  induction n generalizing d p with
  | zero => rw [← Option.some.inj h]
  | succ n ih =>
    obtain ⟨q, hq, hx⟩ := Option.bind_eq_some_iff.1 h
    obtain ⟨x, hrest, rfl⟩ := Option.map_eq_some_iff.1 hx
    exact (ih hrest).trans (d.homing_takeStore dom _ hq)

@[simp] theorem Dev.homing_lockList (dom id n : Nat) : (d.lockList r dom id n).homing = d.homing := Prod.ext rfl rfl

@[simp] theorem Dev.homing_rewriteList (dom id n : Nat) (full : Bool) : (d.rewriteList r dom id n full).homing = d.homing := by
  unfold Dev.rewriteList
  extract_lets free
  have hfree : ∀ d, (free d).homing = d.homing := fun _ => rfl
  split
  · exact hfree d
  · split
    · rfl
    · split
      · rfl
      · split
        · exact hfree d
        · next x _ _ l _ _ =>
          extract_lets live moved
          have hmoved : ∀ a, moved = some a → a.2.homing = d.homing := by
            intro a ha
            dsimp only [moved] at ha
            split at ha
            · refine List.foldlRecOn (motive := fun (b : Option (List Entry × Dev)) => ∀ a, b = some a → a.2.homing = d.homing) live _ ?_ ?_ a ha
              · intro a ha
                rw [← Option.some.inj ha]
              · intro acc hacc e _ a ha
                obtain ⟨b, hb, hp⟩ := Option.bind_eq_some_iff.1 ha
                obtain ⟨q, hq, rfl⟩ := Option.map_eq_some_iff.1 hp
                exact (b.2.homing_moveRecord dom id _ _ _ hq).trans (hacc b hb)
            · rw [← Option.some.inj ha]
          split
          · simp [hfree]
          · next es chunks e he =>
            obtain ⟨a, ha, hp⟩ := Option.bind_eq_some_iff.1 he
            obtain ⟨q, hq, heq⟩ := Option.map_eq_some_iff.1 hp
            cases heq
            simp [Dev.homing_takeChunks hq, hmoved a ha]

@[simp] theorem Dev.homing_retireSets (dom id : Nat) : (d.retireSets r dom id).homing = d.homing := by
  unfold Dev.retireSets
  split <;> simp

@[simp] theorem Dev.homing_sealSegment (dom id : Nat) (full : Bool) : (d.sealSegment r dom id full).homing = d.homing := by
  unfold Dev.sealSegment
  split
  · rfl
  · split
    · rfl
    · split
      · next h => exact d.homing_newSegment dom id _ h
      · simp

/-! ### Tables -/

@[simp] theorem Dev.homing_setTable (t : Table) : (d.setTable t).homing = d.homing := Prod.ext rfl rfl

@[simp] theorem Dev.homing_admitVersion (dom id : Nat) (v : Version) (pub : Bool) (expected : W32) :
    (d.admitVersion dom id v pub expected).1.homing = d.homing := by
  unfold Dev.admitVersion
  dsimp only
  repeat' split
  all_goals simp

@[simp] theorem Dev.homing_versionEntered (st : Status) (n old : W32) (bytes pruned : Nat) :
    (d.versionEntered r st n old bytes pruned).homing = d.homing := by
  simp [Dev.versionEntered]

@[simp] theorem Dev.homing_readRow (pe : Option Nat) (dom : Nat) (k : Cmd) (v : Version) (row : Nat) :
    (d.readRow pe dom k v row).2.2.homing = d.homing := by
  unfold Dev.readRow
  dsimp only
  repeat' split
  all_goals simp

@[simp] theorem Dev.homing_poolPiece (pe : Option Nat) (dom : Nat) (k : Cmd) (v : Version) (old : Option Pool) (p : BagPiece) :
    (d.poolPiece pe dom k v old p).2.homing = d.homing := by
  unfold Dev.poolPiece
  extract_lets w
  split
  next terms bad e he =>
    have hterms : e.homing = d.homing := by
      rw [show e = (terms, bad, e).2.2 from rfl, ← he]
      refine foldl_leaves (g := fun acc : List (W32 × List W32) × Bool × Dev => acc.2.2.homing) (fun acc t => ?_) _ _
      split <;> simp
    dsimp only
    split <;> exact hterms

@[simp] theorem Dev.homing_putBag (pe : Option Nat) (c : Context) (k : Cmd) (v : Version) (bag : Nat) (bs : List Byte) :
    (d.putBag r pe c k v bag bs).homing = d.homing := by
  simp [Dev.putBag]

@[simp] theorem Dev.homing_addCount (sa : Nat) : (d.addCount sa).homing = d.homing := by
  simp [Dev.addCount]

@[simp] theorem Dev.homing_countIndex (dom : Nat) (v : Version) (row : Nat) : (d.countIndex dom v row).homing = d.homing := by
  unfold Dev.countIndex
  split <;> simp

@[simp] theorem Dev.homing_gatherStep (pe : Option Nat) (ps : List BagPiece) : (d.gatherStep r pe ps).homing = d.homing := by
  unfold Dev.gatherStep
  split
  · split
    · rfl
    · refine homing_foldl (fun d p => ?_) ps d
      dsimp only
      repeat' split
      all_goals simp
  · rfl

@[simp] theorem Dev.homing_combineRows (pe : Option Nat) (rows : List (Nat × Nat)) : (d.combineRows r pe rows).homing = d.homing := by
  unfold Dev.combineRows
  dsimp only
  repeat' split
  all_goals simp

@[simp] theorem Dev.homing_rowApplied (dom : Nat) : (d.rowApplied r dom).homing = d.homing := by
  simp [Dev.rowApplied]

@[simp] theorem Dev.homing_faddRow (dom : Nat) (k : Cmd) (v : Version) (row : Nat) (g : List W32) :
    (d.faddRow r dom k v row g).homing = d.homing := by
  unfold Dev.faddRow
  extract_lets u base one ps e
  have hone : ∀ d cva op x, (one d cva op x).homing = d.homing := by
    intro d cva op x
    dsimp only [one]
    split
    · rfl
    · split
      · split <;> simp
      · simp
  have hrow : e.homing = d.homing := (homing_foldl (fun d i => hone d _ _ _) _ _).trans (d.homing_countEvents dom _)
  rw [Dev.homing_rowApplied, hone, hrow]

@[simp] theorem Dev.homing_wholeRow (pe : Option Nat) (dom : Nat) (k : Cmd) (v : Version) (row : Nat) (g : List W32) :
    (d.wholeRow r pe dom k v row g).homing = d.homing := by
  simp [Dev.wholeRow]

@[simp] theorem Dev.homing_applyRow (pe : Option Nat) (row : Nat) : (d.applyRow r pe row).homing = d.homing := by
  unfold Dev.applyRow
  repeat' split
  all_goals simp

@[simp] theorem Dev.homing_grantLocks : (d.grantLocks).homing = d.homing := by
  refine homing_foldl (fun d x => ?_) _ d
  split
  · dsimp only
    split <;> simp
  · rfl

@[simp] theorem Dev.homing_unlockRow (dom sa : Nat) : (d.unlockRow dom sa).homing = d.homing := by
  simp [Dev.unlockRow]

@[simp] theorem Dev.homing_unlockStep (st : Step) : (d.unlockStep r st).homing = d.homing := by
  unfold Dev.unlockStep
  split
  · rfl
  · split
    · rfl
    · refine homing_foldl (fun d f => ?_) _ d
      split
      · split
        · split <;> simp
        · rfl
      · rfl

@[simp] theorem Dev.homing_putRemap (pe : Option Nat) (v : Version) (row cls slot : Nat) :
    (d.putRemap r pe v row cls slot).homing = d.homing := by
  simp [Dev.putRemap]

@[simp] theorem Dev.homing_rankStep (pe : Option Nat) (lo n : Nat) (last : Bool) : (d.rankStep r pe lo n last).homing = d.homing := by
  unfold Dev.rankStep
  dsimp only
  repeat' split
  all_goals simp

@[simp] theorem Dev.homing_encodeStep (pe : Option Nat) (cls lo n : Nat) : (d.encodeStep r pe cls lo n).homing = d.homing := by
  unfold Dev.encodeStep
  dsimp only
  repeat' split
  all_goals simp

@[simp] theorem Dev.homing_enterVersion (dom id : Nat) (v : Version) (pub : Bool) (expected : W32) (bytes pruned : Nat) :
    (d.enterVersion r dom id v pub expected bytes pruned).homing = d.homing := by
  simp [Dev.enterVersion]

/-! ### A step as it retires -/

@[simp] theorem Dev.homing_dropSteps (p : Step → Bool) : (d.dropSteps r p).homing = d.homing := by
  unfold Dev.dropSteps
  split <;> simp

@[simp] theorem Dev.homing_replan (gone : Nat → Bool) (new : List Step) : (d.replan r gone new).homing = d.homing := by
  simp [Dev.replan]

@[simp] theorem Dev.homing_serveShadow (i : Nat) (failed : Bool) : (d.serveShadow r i failed).homing = d.homing := by
  unfold Dev.serveShadow
  dsimp only
  repeat' split
  all_goals simp

@[simp] theorem Dev.homing_missLayer (i : Nat) (failed : Bool) : (d.missLayer r i failed).homing = d.homing := by
  unfold Dev.missLayer
  split <;> simp

@[simp] theorem Dev.homing_lateLayer (i : Nat) (failed : Bool) : (d.lateLayer r i failed).homing = d.homing := by
  unfold Dev.lateLayer
  split <;> simp

@[simp] theorem Dev.homing_sourceFailed (i : Nat) (st : Status) : (d.sourceFailed r i st).homing = d.homing := by
  unfold Dev.sourceFailed
  split <;> simp

@[simp] theorem Dev.homing_streamMove (i : Nat) (src : Span) (dst : Nat) (host shadow : Bool) :
    (d.streamMove r i src dst host shadow).homing = d.homing := by
  unfold Dev.streamMove
  split <;> simp

@[simp] theorem Dev.homing_streamStatus (ls : List Nat) (copied : Bool) : (d.streamStatus r ls copied).homing = d.homing := by
  unfold Dev.streamStatus
  split
  · refine (homing_foldl (fun d j => ?_) _ _).trans (Dev.homing_modCmd _ _ _)
    dsimp only
    split
    · rfl
    · split
      · rfl
      · split
        · split <;> simp
        · simp
  · rfl

@[simp] theorem Dev.homing_shadowPart (pe : Option Nat) (i lo n : Nat) : (d.shadowPart r pe i lo n).homing = d.homing := by
  unfold Dev.shadowPart
  split <;> simp

@[simp] theorem Dev.homing_applyEffect (pe : Option Nat) (f : Effect) : (d.applyEffect r pe f).homing = d.homing := by
  unfold Dev.applyEffect
  dsimp only
  repeat' split
  all_goals simp

@[simp] theorem Dev.homing_applyStep (c : Context) (st : Step) : (d.applyStep r c st).homing = d.homing := by
  have hreader := d.homing_readerOf st.kind st.engine
  unfold Dev.applyStep
  split
  next pe e he =>
    rw [he] at hreader
    dsimp only at hreader ⊢
    split <;> simp [hreader]

theorem Dev.homing_atomicTurn (dom : Nat) (st : Step) {e : Dev} (h : d.atomicTurn dom st = some e) : e.homing = d.homing := by
  unfold Dev.atomicTurn at h
  split at h
  · cases h; rfl
  · dsimp only at h
    split at h
    · cases h; rfl
    · split at h
      · cases h; rfl
      · cases h

end

end Sys2Proof.Machine
end
section
/-! PROOF. A step that nothing holds retires (R33, R84, R110). -/

namespace Sys2Proof.Machine

section
variable {d : Dev} {r : SlotRef} {c : Context} {k : Cmd} {st : Step} {found : Found} {reads writes : List Span}

/-- A step with sound reads that are all here, in its command's order and its unit's turn, is not held. -/
theorem Dev.stepHold_of_free (hfound : d.found r k st = found) (hreads : st.reads ++ found.reads = reads)
    (hwrites : st.written ++ found.writes = writes) (hbad : d.badEntries k st = []) (hrepairs : d.repairsIn (reads ++ writes) = [])
    (hcold : st.cold = []) (hgranules : d.coldGranules { st with reads := reads } = [])
    (hneeds : d.needFault c.domain found.needs = none) (hoffer : d.offerHold r k st = none)
    (hstream : d.streamHold r k st = none) (hrank : rankHold d k st = none) (hhere : d.missing k reads = [])
    (hexport : st.exportRead? = none) (hwords : d.badWords st = false) (hrows : d.rowHold r k st = none)
    (hlines : d.vitConflicts reads (writes) = []) (hlist : d.listHeld r k st = false)
    (hrelease : d.releaseHeld st = false) (hroom : d.hasRoom c k st = true) (hflash : st.flash = [])
    (hturn : (d.atomicTurn c.domain st).isSome = true) : d.stepHold r c k st [] = none := by
  subst hfound hreads hwrites
  unfold Dev.stepHold
  extract_lets found reads writes bad held cold miss lines
  have hsound : bad = [] := hbad
  have hwhole : held = [] := hrepairs
  have hwarm : cold = [] := hgranules
  have hmiss : miss = [] := hhere
  have hclear : lines = [] := hlines
  have hready : (d.listHeld r k st || d.releaseHeld st || !d.hasRoom c k st ||
      !(st.flash.all fun g => (d.granule? g).any fun x => x.residency == .flash) || (d.atomicTurn c.domain st).isNone) = false := by
    obtain ⟨e, he⟩ := Option.isSome_iff_exists.1 hturn
    rw [hlist, hrelease, hroom, hflash, he]
    rfl
  rw [hsound, hwhole, hwarm, hmiss, hclear, hcold, hready, hexport, hwords, hrows, hoffer, hstream, hrank]
  rw [show d.needFault c.domain found.needs = none from hneeds]
  rfl

/-- A step that may retire and is not held retires, and its command is concluded where that was its last (R33, R84). -/
theorem Dev.retireStep_of_free {i : Nat} {fails : List Nat} (hc : d.ctx? r.ctx = some c) (hk : d.cmd? r = some k)
    (hst : k.plan[i]? = some st) (hmay : k.mayRetire i st = true) (hfree : d.stepHold r c k st fails = none) :
    d.retireStep r i fails = (((d.retire r c i st).conclude r).dropReady).settle := by
  simp only [Dev.retireStep, hc, hk, hst, hmay, hfree, Bool.not_true, Bool.false_eq_true, if_false]

/-- A step's effects, applied at its unit's turn, leave where addresses are homed. -/
theorem Dev.homing_applied {e : Dev} {west : Bool} {needs : List Need} {reads : List Span} {f : Cmd → Cmd}
    (hturn : ((d.xcFill west c.domain needs).fabTouch k reads).atomicTurn c.domain st = some e) :
    ((e.applyStep r c st).modCmd r f).homing = d.homing := by
  rw [Dev.homing_modCmd, Dev.homing_applyStep, Dev.homing_atomicTurn _ _ _ hturn, Dev.homing_fabTouch, Dev.homing_xcFill]

/-- At its unit's turn a step's effects are applied, it leaves the plan and is counted, and what it read here was used (R84, R110). -/
theorem Dev.retire_of_turn {i : Nat} {e : Dev} (hk : d.cmd? r = some k) (hfound : d.found r k st = found)
    (hreads : st.reads ++ found.reads = reads)
    (hturn : ((d.xcFill (westPort k.port) c.domain found.needs).fabTouch k reads).atomicTurn c.domain st = some e) :
    d.retire r c i st =
      ((((e.applyStep r c st).modCmd r fun k => { k.without i found.reads with
          retired := if st.extra then k.retired else k.retired + 1, w0 := k.w0 + BitVec.ofNat 64 st.w0
          w1 := k.w1 + BitVec.ofNat 64 st.w1, w2 := k.w2 + BitVec.ofNat 64 st.w2 }).touch
        ((reads.filter fun x => d.isLocal x.sa).flatMap granulesOf)).unbindIdle r st) := by
  subst hfound hreads
  have hlocal : ∀ f : Cmd → Cmd, ((e.applyStep r c st).modCmd r f).isLocal = d.isLocal := by
    intro f
    have hhoming : ((e.applyStep r c st).modCmd r f).homing = d.homing := Dev.homing_applied hturn
    exact funext (Dev.isLocal_of_homing hhoming)
  simp only [Dev.retire, hk, hturn, Option.getD_some, hlocal]

/-- A step of a command that is no SEARCH retires as any step does. -/
theorem devStepRetire_of_noSearch {i : Nat} {fails : List Nat} (hk : d.cmd? r = some k) (hsearch : k.search = none) :
    devStepRetire r i fails d = d.retireStep r i fails :=
  if_neg (by simp [hk, hsearch])

/-- The oldest step of a command, issued, on its engine and not parked, may retire (R85). -/
theorem Cmd.mayRetire_oldest (hissued : 0 < k.issued) (hengine : st.kind.shared = true ∨ st.engine.isSome = true)
    (hparked : st.parked = false) : k.mayRetire 0 st = true := by
  simp [Cmd.mayRetire, hissued, hengine, hparked]

end

/-- Settles O25: a step's whole effect at its retirement is log 17, the turns of the atomic units log 105. -/
theorem stepRetireCompletes : Obligations.StepRetireCompletes := by
  refine ⟨fun s r c k st i hlive hc hk hst hmay => ?retires, fun _ _ => Cmd.mayRetire_oldest⟩
  intro d found reads writes hbad hrepairs hcold hgranules hneeds hoffer hstream hrank hhere hexport hwords hrows hlines hlist hrelease
    hroom hflash hsearch e hturn hunit
  have hfree : d.stepHold r c k st [] = none :=
    Dev.stepHold_of_free rfl rfl rfl hbad hrepairs hcold hgranules hneeds hoffer hstream hrank hhere hexport hwords hrows hlines hlist hrelease
      hroom hflash hunit
  refine whenLive_of_eq hlive ?_
  rw [devStepRetire_of_noSearch hk hsearch, Dev.retireStep_of_free hc hk hst hmay hfree, Dev.retire_of_turn hk rfl rfl hturn]

end Sys2Proof.Machine
end
